-- ==== Sys2Proof/Word.lean ====
section
/-! DEFINITION. Words, bytes, saturating and wrapping counts, and the sparse tables in which the state keeps its many like records. -/

namespace Sys2Proof

/-- A byte, as it crosses a pin or a bus (R4). -/
abbrev Byte := BitVec 8
/-- A 32-bit word. -/
abbrev Word := BitVec 32
/-- A plot number, 0–511 (R26). -/
abbrev PlotIx := Fin 512
/-- A hand of a plot, or the engine thread that goes with it, 0–7 (R9). -/
abbrev HandIx := Fin 8
/-- A seat, 0–7; seat 0 is the dealer. -/
abbrev Seat := Fin 8
/-- A link port, 0–511 (R398). -/
abbrev PortIx := Fin 512
/-- A register number of an engine thread, 0–31 (R270). -/
abbrev RegIx := Fin 32

/-- A count that stays at its largest value `m`. -/
def satTo (m n : Nat) : Nat := if n ≤ m then n else m
/-- A 32-bit saturating count. -/
def sat32 (n : Nat) : Nat := satTo 4294967295 n
/-- A 16-bit saturating count. -/
def sat16 (n : Nat) : Nat := satTo 65535 n
/-- A 48-bit wrapping count. -/
def wrap48 (n : Nat) : Nat := n % 281474976710656
/-- A 32-bit wrapping count. -/
def wrap32 (n : Nat) : Nat := n % 4294967296

/-- Look up key `k` in a sparse table; an unlisted key holds the default `d`. -/
def tget {α : Type} (d : α) : List (Nat × α) → Nat → α
  | [], _ => d
  | e :: t, k => if e.1 = k then e.2 else tget d t k

/-- Remove key `k` from a sparse table. -/
def tdel {α : Type} : List (Nat × α) → Nat → List (Nat × α)
  | [], _ => []
  | e :: t, k => if e.1 = k then tdel t k else e :: tdel t k

/-- Insert an entry in front of the first larger key. -/
def tins {α : Type} : List (Nat × α) → Nat → α → List (Nat × α)
  | [], k, v => [(k, v)]
  | e :: t, k, v => if k < e.1 then (k, v) :: e :: t else e :: tins t k v

/-- Write a sparse table; writing the default removes the entry, so that equal tables are equal lists. -/
def tput {α : Type} [DecidableEq α] (d : α) (t : List (Nat × α)) (k : Nat) (v : α) : List (Nat × α) :=
  if v = d then tdel t k else tins (tdel t k) k v

/-- The canonical form: keys strictly rising and no entry equal to the default. -/
def twf {α : Type} [DecidableEq α] (d : α) : List (Nat × α) → Bool
  | [] => true
  | [e] => decide (e.2 ≠ d)
  | e :: f :: t => decide (e.2 ≠ d) && decide (e.1 < f.1) && twf d (f :: t)

/-- Little-endian value of a list of bytes (R4). -/
def leNat : List Byte → Nat
  | [] => 0
  | b :: t => b.toNat + 256 * leNat t

/-- The `n` little-endian bytes of a number (R4). -/
def leBytes : Nat → Nat → List Byte
  | 0, _ => []
  | n + 1, v => BitVec.ofNat 8 v :: leBytes n (v / 256)

/-- Byte `i` of a list, 0 past its end. -/
def byteAt (l : List Byte) (i : Nat) : Byte := l.getD i 0
/-- The little-endian field of `n` bytes at `i`. -/
def leField (l : List Byte) (i n : Nat) : Nat := leNat ((l.drop i).take n)

/-- Bits `[hi:lo]` of a word as a number. -/
def bits {w : Nat} (x : BitVec w) (hi lo : Nat) : Nat := (x.toNat >>> lo) % 2 ^ (hi + 1 - lo)
/-- Replace bits `[hi:lo]` of a word. -/
def setBits {w : Nat} (x : BitVec w) (hi lo v : Nat) : BitVec w :=
  let m : BitVec w := BitVec.ofNat w ((2 ^ (hi + 1 - lo) - 1) <<< lo)
  (x &&& ~~~m) ||| (BitVec.ofNat w (v <<< lo) &&& m)
/-- Bit `i` of a word. -/
def bit {w : Nat} (x : BitVec w) (i : Nat) : Bool := x.getLsbD i

/-- The number of 1 bits among the low `n` bits of a number. -/
def popNat : Nat → Nat → Nat
  | 0, _ => 0
  | n + 1, x => x % 2 + popNat n (x / 2)

end Sys2Proof
end

