-- ==== Sys2Proof/Syntax.lean ====
section
/-! DEFINITION. The commands of the CX512: one constructor for each row of the table of operations and events, with the operands the row's rules name, and the operand structures. -/

namespace Sys2Proof

/-- What step 1 of start-up meets: the straps (R692), and a known-answer or health test that fails twice (R395, R397). -/
structure BootEnv where
  node : BitVec 5
  autorise : Bool
  /-- the code of R397 of a test that failed and failed again; 0 when all tests pass -/
  testFail : BitVec 16
deriving DecidableEq, Repr

/-- A fault that a lane or bond check finds (R557, R342, R149, R39). -/
inductive Finding where
  | riserLane (p : PlotIx) (lane : Fin 98)
  | cfgBond (p : PlotIx) (group : Fin 11520)
  | feedLane (column : Fin 256) (lane : Fin 68)
deriving DecidableEq, Repr

/-- What a rise of the stack meets: AES cores that fail their test (R396) and the findings of step 5 (R557). -/
structure RiseEnv where
  coreFail : List PlotIx
  quadFail : List (Fin 128)
  findings : List Finding
deriving DecidableEq, Repr

/-- One PLL of the device (R521). -/
inductive Pll where
  | fabric (k : Fin 8) | engine (k : Fin 4) | quad (k : Fin 128) | system | mc | bist
deriving DecidableEq, Repr

/-- The readings of one housekeeping round, beside the temperatures of its frame (R585). -/
structure RoundEnv where
  /-- monitors 1–14 in mV; `none` when failed -/
  monitors : List (Option Int)
  /-- states of monitors 12–14, each the reading that lies furthest from its own supply's range: 0 in range, 1 low, 2 high (R604) -/
  farthest : List (Fin 3)
  /-- the feed switches 0–6 whose output lies outside its source's range, behind monitor 12 (R604) -/
  feedOut : List (Fin 7)
  /-- phase currents 0–95 in units of 10 mA -/
  phases : List Nat
  /-- the measured mV and mA of VF0, VF1, VC, VM and VB -/
  rails : List (Nat × Nat)
  /-- running PLLs found off frequency or out of lock (R587) -/
  clockFaults : List Pll
  /-- lanes and bonds of this round's share that fail their check -/
  findings : List Finding
  /-- each bank's supply in mV (R700) -/
  banks : List Nat
  /-- BIST clock in kHz as measured (R657) -/
  bistKhz : Nat
deriving DecidableEq, Repr

/-- A request frame of a seat with its tag (R445, R448). -/
structure Req where
  prio : BitVec 3
  seat : Seat
  node : BitVec 5
  seq : BitVec 8
  index : BitVec 16
  sub : BitVec 8
  len : BitVec 8
  /-- data and padding bytes; the data field holds twelve more -/
  data : List Byte
  /-- the data field is shorter than 12 bytes (R449) -/
  short : Bool
  /-- the last eight bytes, the first of them in bits [63:56] -/
  tag : BitVec 64
deriving DecidableEq, Repr

/-- One part of a session opening (R452). -/
structure OpenPart where
  seat : Seat
  node : BitVec 5
  prio : BitVec 3
  seq : BitVec 8
  part : BitVec 8
  data : List Byte
deriving DecidableEq, Repr

/-- Why a bus frame is ignored without reply (R442, R446). -/
inductive IgnoreReason where
  | classical | id11 | noBitRateSwitch | otherNode | classReply | class3 | sessionFunc
deriving DecidableEq, Repr

/-- Where a seed image comes from (R568). -/
inductive SeedSource where
  | flash | segWrite | bulk
deriving DecidableEq, Repr

/-- A seed image section table entry (R560). -/
structure SectEntry where
  typ : Nat
  plot : Nat
  target : Nat
  length : Nat
  digest : BitVec 384 := 0
deriving DecidableEq, Repr

/-- A seed image header with its section table (R559), and the outcome of its signature (R561). -/
structure ImageHdr where
  magic : Nat
  version : Nat
  final : Bool
  flagsReserved : Nat
  seat : Nat
  nsect : Nat
  ivBase : Nat
  serial : BitVec 128
  total : Nat
  reservedZero : Bool
  table : List SectEntry
  sigOk : Bool
deriving DecidableEq, Repr

/-- A plot at one of its fabric edges: when its hard blocks took the inputs of the live hand (R67). -/
structure PlotEdge where
  plot : PlotIx
  edge : Nat
deriving DecidableEq, Repr

/-- A queue and one of its producers (R191). -/
structure QueueProd where
  queue : BitVec 16
  prod : Fin 8
deriving DecidableEq, Repr

/-- A block-memory write by one port (R159). -/
structure BmW where
  addr : Nat
  data : BitVec 72
  be : BitVec 8
deriving DecidableEq, Repr

/-- Who issues a scratchpad request (R174). -/
inductive Requester where
  | hand (p : PlotIx) (h : HandIx) (qp : Fin 8)
  | thread (p : PlotIx) (h : HandIx)
deriving DecidableEq, Repr

/-- An access of the other scratchpad port to the same word in the same cycle (R182); `write` names its lanes. -/
inductive Coll where
  | alone | read | write (lanes : BitVec 16)
deriving DecidableEq, Repr

/-- Where a request to a channel engine comes from (R304, R381). -/
inductive MemSrc where
  | fabric (h : HandIx)
  | engine (h : HandIx)
  | mc (s : Seat)
  | dma (n : Fin 64)
  | jtag
  | testPort
deriving DecidableEq, Repr

/-- What a command word of a riser asks for (R300, R322): a line for a source, a patrol read, or a line of a copy or a re-key pass. -/
inductive CmdSrc where
  | request (src : MemSrc) (line : BitVec 19)
  | patrol
  | copy
deriving DecidableEq, Repr

/-- A command word of a plot's riser (R300). -/
structure CmdWord where
  plot : PlotIx
  what : CmdSrc
deriving DecidableEq, Repr

/-- What a life-cycle token that has passed its checks changes: the fields of its KIND (R640, R642). -/
structure Token where
  tamperEn : BitVec 2
  fwFloor : BitVec 32
  holdPulls : BitVec 64
  seat0X : BitVec 384
  seat0Y : BitVec 384
  /-- SHA-384 of OWNER_KEY (R635) -/
  ownerRoot : BitVec 384
deriving DecidableEq, Repr

/-- A received packet's end (R409, R410). -/
structure RxEnd where
  /-- the bytes between the packet's delimiters after those that the lookup saw, the FCS included; on a sealed port, all bytes of the frame -/
  rest : List Byte
  /-- a 128B130B start block gave a length of 0 or more than 16,416 bytes -/
  badLength : Bool
  codeViolation : Bool
  fecCorrected : Nat
  fecUncorrectable : Nat
  lockLost : Bool
deriving DecidableEq, Repr

/-- A fail log entry as the BIST engine sends it (R653). -/
structure FailEntry where
  addr : BitVec 24
  bitNo : BitVec 10
  expected : Bool
  observed : Bool
  element : BitVec 3
  op : BitVec 3
  opnum : BitVec 32
deriving DecidableEq, Repr

/-- Which limits a test start finds outside their ranges (R657). -/
structure TestLimits where
  clockKhz : Nat
  vmMilli : Nat
deriving DecidableEq, Repr

/-! ## Engine instructions (R270–R272) -/

/-- The OPR operations with three registers. -/
inductive Alu3 where
  | add | sub | and | or | xor | slt | sltu | sll | srl | sra | mul | mulh | mulhu
deriving DecidableEq, Repr
/-- The forms with rd or rs, ra and imm16. -/
inductive ImmOp where
  | addi | andi | ori | xori | ldL | stL | ldM | stM | krd | kwr
deriving DecidableEq, Repr
/-- The four forms of SHI. -/
inductive ShiftOp where
  | slli | srli | srai | rori
deriving DecidableEq, Repr
/-- The four compare and branch instructions. -/
inductive BranchOp where
  | beq | bne | blt | bge
deriving DecidableEq, Repr

/-- One engine instruction with its operand fields. `len` of a bit-field instruction is the field LEN − 1; `n` of CRC is n − 1. -/
inductive EngInsn where
  | alu (f : Alu3) (rd ra rb : RegIx)
  | clz (rd ra : RegIx)
  | popc (rd ra : RegIx)
  | crc (n : Fin 4) (rd ra rb : RegIx)
  | hash (rd ra : RegIx)
  | shift (f : ShiftOp) (rd ra : RegIx) (sh : BitVec 5)
  | imm (f : ImmOp) (rd ra : RegIx) (v : BitVec 16)
  | lui (rd : RegIx) (v : BitVec 16)
  | bf (insert : Bool) (rd ra : RegIx) (pos len : BitVec 5)
  | qpush (rd rq ra : RegIx)
  | qcommit (rq ra : RegIx)
  | qabort (rq : RegIx)
  | qpop (rd rq ra : RegIx)
  | qpeek (rd rq ra : RegIx)
  | qdrop (rq : RegIx)
  | qlevel (rd rq : RegIx) (sel : Byte)
  | callh (ra : RegIx) (v : BitVec 16)
  | rdpmc (rd : RegIx) (sel : BitVec 16)
  | wait (rd ra : RegIx) (mask : BitVec 16)
  | fence (what : BitVec 3)
  | trap (code : BitVec 16)
  | j (off : BitVec 26)
  | jal (off : BitVec 26)
  | jr (ra : RegIx)
  | branch (f : BranchOp) (ra rb : RegIx) (off : BitVec 16)
deriving DecidableEq, Repr

/-- The commands: one constructor for each row of the table of operations and events. -/
inductive Instr where
  | powerOn (env : BootEnv)
  | resetN (lowNs : Nat) (env : BootEnv)
  | powerLoss
  | tamper (source : Fin 7)
  | trstN
  | autoriseRise (env : RiseEnv)
  | softStartFail (rail : Fin 5)
  | sowingEnd
  | sowingFinalTimeout
  | trainingSlotEnd
  | bindingTick
  | bootFlashRead (addr : BitVec 32) (len : Nat)
  | narrowWordPush (q : Fin 3) (data : Word) (last : Option (Fin 4))
  | sspiStatus
  | sspiErase (frame : List Byte)
  | sspiWrite (frame : List Byte)
  | sspiVerify (frame : List Byte)
  | sspiRestart (frame : List Byte) (env : BootEnv)
  | sspiReservedCommand (frame : List Byte)
  | housekeepingRound (env : RoundEnv)
  | bondSpared (p : PlotIx) (group : Fin 11520)
  | wearLedgerSave
  | limpAutoEntry
  | ioNominalVoltageFix (b : Fin 32)
  | tempFrame (counts : List Nat)
  | currentLimitSkip (rail : Fin 5) (milliamps : Nat)
  | feedDomainReset (d : Fin 7)
  | feedRetrainDone (d : Fin 7)
  | dieReset (d : Fin 2)
  | dieResetRelease (d : Fin 2)
  | slotBoundary (p : PlotIx)
  | handCall (p : PlotIx) (slot : BitVec 6) (edge : Nat)
  | contention (p : PlotIx) (h : HandIx) (kind : Fin 3) (rowcol pos : Fin 16) (track : Fin 32) (drivers : BitVec 5) (edge : Nat)
  | configPatrol (upsets : List (PlotIx × BitVec 72))
  | handSection (s : Seat) (bytes : List Byte)
  | handSowingStart (p : PlotIx) (h : HandIx)
  | handSowingEnd (p : PlotIx) (h : HandIx) (head body tag : List Byte)
  | bmSection (s : Seat) (head body tag : List Byte)
  | engineSection (s : Seat) (head body tag : List Byte)
  | stagingSection (s : Seat) (head body tag : List Byte)
  | seedImageHeader (s : Seat) (src : SeedSource) (hdr : ImageHdr)
  | handWipeDone (p : PlotIx) (h : HandIx)
  | bmClearDone (p : PlotIx) (k : Fin 64)
  | bmRead (a : PlotEdge) (k : Fin 64) (portB : Bool) (addr : Nat) (other : Option BmW) (upset : BitVec 72)
  | bmWrite (a : PlotEdge) (k : Fin 64) (portB : Bool) (w : BmW) (other : Option BmW)
  | kittyWrite (a : PlotEdge) (reg : BitVec 11) (data : Word) (be : BitVec 4)
  | kittyRead (a : PlotEdge) (reg : BitVec 11)
  | qoPush (a : PlotEdge) (qp : Fin 8) (sel : Fin 4) (data : BitVec 256) (rank : BitVec 3)
  | qoLast (a : PlotEdge) (qp : Fin 8) (sel : Fin 4) (data : BitVec 256) (rank : BitVec 3) (vb : BitVec 5)
  | qoAbort (a : PlotEdge) (qp : Fin 8) (sel : Fin 4)
  | qiPop (a : PlotEdge) (qp : Fin 8) (sel : Fin 4)
  | qiDrop (a : PlotEdge) (qp : Fin 8) (sel : Fin 4)
  | qiWmclr (a : PlotEdge) (qp : Fin 8) (sel : Fin 4) (sameEdgeSet : Bool)
  | packetVisible (x : QueueProd)
  | rewindArrival (x : QueueProd)
  | creditReturn (x : QueueProd)
  | queueBindDone (q : BitVec 16)
  | scratchRead (r : Requester) (coll : Coll) (upset : BitVec 144)
  | scratchWrite (r : Requester) (coll : Coll) (upset : BitVec 144)
  | scratchBlockFillDone (k : Fin 992)
  | securePartitionFillDone
  | memPortRequest (a : PlotEdge) (we : Bool) (line : BitVec 19) (be : BitVec 64) (data : BitVec 512) (tag : Byte)
  | msPop (a : PlotEdge)
  | lineRead (p : PlotIx) (src : MemSrc) (line : BitVec 19) (upset : BitVec 640)
  | fullLineWrite (p : PlotIx) (src : MemSrc) (line : BitVec 19) (data : BitVec 512)
  | partialLineWrite (p : PlotIx) (src : MemSrc) (line : BitVec 19) (be : BitVec 64) (data : BitVec 512)
  | writeCombineTimeout (p : PlotIx) (line : BitVec 19) (upset : BitVec 640)
  | commandRetry (x : CmdWord) (crcOk : Bool)
  | riserLaneCheck (p : PlotIx) (failed : List (Fin 98))
  | memRefresh (die : Fin 5)
  | memPatrolRead (p : PlotIx) (upset : BitVec 640)
  | regionWipeDone (p : PlotIx) (r : Fin 32)
  | tileCopyDone (p : PlotIx)
  | dieMapDone (d : Fin 4)
  | nextEntry (r : Req)
  | smsWrite (r : Req)
  | keySlotLoad (p : PlotIx) (r : Fin 32)
  | rekeyFlip (p : PlotIx) (r : Fin 32)
  | rekeyPassEnd (p : PlotIx) (r : Fin 32)
  | holdTimeout (p : PlotIx) (r : Fin 32)
  | sealFrameRx (n : PortIx) (tag : List Byte)
  | linkUp (n : PortIx)
  | lockLoss (n : PortIx)
  | linkReacquire (n : PortIx)
  | portWakeDone (n : PortIx)
  | steeringLookup (n : PortIx) (bytes : List Byte)
  | packetRxEnd (n : PortIx) (e : RxEnd)
  | streamRxPacket (n : PortIx) (bytes : List Byte)
  | packetTxStart (n : PortIx)
  | packetTxEnd (n : PortIx)
  | bulkWrite (c : Fin 64)
  | bulkReadReq (c : Fin 64)
  | bulkBadRequest (c : Fin 64)
  | canFrameIgnored (why : IgnoreReason)
  | read (r : Req)
  | write (r : Req)
  | stage (r : Req)
  | check (r : Req)
  | turn (r : Req)
  | discard (r : Req)
  | segRead (r : Req)
  | segWrite (r : Req)
  | segData (r : Req) (sigOk pointsOk : Bool)
  | segAck (r : Req)
  | segTransferTimeout (s : Seat)
  | winRead (r : Req)
  | winWrite (r : Req)
  | sessionOpenQh (o : OpenPart) (pointOk : Bool)
  | sessionOpenSigh (o : OpenPart) (sigOk : Bool)
  | sessionOpenTimeout (s : Seat)
  | sessionClose (r : Req)
  | ping (r : Req)
  | attnAck (r : Req)
  | reservedFunc (r : Req) (func : Byte)
  | turnApply
  | mcDictionaryRequest (s : Seat) (j : Fin 16)
  | userAttention (s : Seat)
  | go (p : PlotIx) (h : HandIx)
  | park (p : PlotIx) (h : HandIx)
  | handRestart (p : PlotIx) (h : HandIx)
  | threadStart (p : PlotIx) (h : HandIx)
  | threadStop (p : PlotIx) (h : HandIx)
  | threadContinue (p : PlotIx) (h : HandIx)
  | rkreq (p : PlotIx) (r : Fin 32)
  | kchg (n : PortIx)
  | step
  | offset
  | requestFallow
  | requestField
  | requestRetention
  | retentionEntryDone
  | retentionExitDone
  | requestLimp
  | requestTest
  | rise (env : RiseEnv)
  | restart (env : RiseEnv)
  | dieResetRequest
  | pllLock (pll : Pll)
  | pllGroupStop (g : Fin 8)
  | epllStop (k : Fin 4)
  | epllTimerStart (p : PlotIx) (h : HandIx)
  | add (p : PlotIx) (h : HandIx) (rd ra rb : RegIx)
  | sub (p : PlotIx) (h : HandIx) (rd ra rb : RegIx)
  | and (p : PlotIx) (h : HandIx) (rd ra rb : RegIx)
  | or (p : PlotIx) (h : HandIx) (rd ra rb : RegIx)
  | xor (p : PlotIx) (h : HandIx) (rd ra rb : RegIx)
  | slt (p : PlotIx) (h : HandIx) (rd ra rb : RegIx)
  | sltu (p : PlotIx) (h : HandIx) (rd ra rb : RegIx)
  | sll (p : PlotIx) (h : HandIx) (rd ra rb : RegIx)
  | srl (p : PlotIx) (h : HandIx) (rd ra rb : RegIx)
  | sra (p : PlotIx) (h : HandIx) (rd ra rb : RegIx)
  | mul (p : PlotIx) (h : HandIx) (rd ra rb : RegIx)
  | mulh (p : PlotIx) (h : HandIx) (rd ra rb : RegIx)
  | mulhu (p : PlotIx) (h : HandIx) (rd ra rb : RegIx)
  | clz (p : PlotIx) (h : HandIx) (rd ra : RegIx)
  | popc (p : PlotIx) (h : HandIx) (rd ra : RegIx)
  | crc (p : PlotIx) (h : HandIx) (rd ra rb : RegIx) (n : Fin 4)
  | hash (p : PlotIx) (h : HandIx) (rd ra : RegIx)
  | slli (p : PlotIx) (h : HandIx) (rd ra : RegIx) (sh : BitVec 5)
  | srli (p : PlotIx) (h : HandIx) (rd ra : RegIx) (sh : BitVec 5)
  | srai (p : PlotIx) (h : HandIx) (rd ra : RegIx) (sh : BitVec 5)
  | rori (p : PlotIx) (h : HandIx) (rd ra : RegIx) (sh : BitVec 5)
  | addi (p : PlotIx) (h : HandIx) (rd ra : RegIx) (imm : BitVec 16)
  | andi (p : PlotIx) (h : HandIx) (rd ra : RegIx) (imm : BitVec 16)
  | ori (p : PlotIx) (h : HandIx) (rd ra : RegIx) (imm : BitVec 16)
  | xori (p : PlotIx) (h : HandIx) (rd ra : RegIx) (imm : BitVec 16)
  | lui (p : PlotIx) (h : HandIx) (rd : RegIx) (imm : BitVec 16)
  | bfx (p : PlotIx) (h : HandIx) (rd ra : RegIx) (pos len : BitVec 5)
  | bfi (p : PlotIx) (h : HandIx) (rd ra : RegIx) (pos len : BitVec 5)
  | ldL (p : PlotIx) (h : HandIx) (rd ra : RegIx) (imm : BitVec 16) (upset : BitVec 39)
  | timeNsRead (p : PlotIx) (h : HandIx) (rd ra : RegIx) (imm : BitVec 16)
  | stL (p : PlotIx) (h : HandIx) (rs ra : RegIx) (imm : BitVec 16)
  | ldM (p : PlotIx) (h : HandIx) (rd ra : RegIx) (imm : BitVec 16)
  | stM (p : PlotIx) (h : HandIx) (rs ra : RegIx) (imm : BitVec 16)
  | ldmMissResponse (p : PlotIx) (h : HandIx) (upset : BitVec 640)
  | stmFillResponse (p : PlotIx) (h : HandIx) (upset : BitVec 640)
  | cacheWriteback (p : PlotIx) (set : Fin 64) (way : Fin 4)
  | qpush (p : PlotIx) (h : HandIx) (rd rq ra : RegIx)
  | qcommit (p : PlotIx) (h : HandIx) (rq ra : RegIx)
  | qabort (p : PlotIx) (h : HandIx) (rq : RegIx)
  | qpop (p : PlotIx) (h : HandIx) (rd rq ra : RegIx)
  | qpeek (p : PlotIx) (h : HandIx) (rd rq ra : RegIx)
  | qdrop (p : PlotIx) (h : HandIx) (rq : RegIx)
  | qlevel (p : PlotIx) (h : HandIx) (rd rq : RegIx) (sel : Byte) (sameEdgeSet : Bool)
  | krd (p : PlotIx) (h : HandIx) (rd ra : RegIx) (imm : BitVec 16)
  | kwr (p : PlotIx) (h : HandIx) (rs ra : RegIx) (imm : BitVec 16)
  | callh (p : PlotIx) (h : HandIx) (ra : RegIx) (imm : BitVec 16)
  | rdpmc (p : PlotIx) (h : HandIx) (rd : RegIx) (sel : BitVec 16)
  | wait (p : PlotIx) (h : HandIx) (rd ra : RegIx) (mask : BitVec 16)
  | waitWake (p : PlotIx) (h : HandIx) (sameEdgeSet : Bool)
  | fence (p : PlotIx) (h : HandIx) (what : BitVec 3)
  | trap (p : PlotIx) (h : HandIx) (code : BitVec 16)
  | illegal (p : PlotIx) (h : HandIx) (word : Word) (upset : BitVec 39)
  | j (p : PlotIx) (h : HandIx) (off : BitVec 26)
  | jal (p : PlotIx) (h : HandIx) (off : BitVec 26)
  | jr (p : PlotIx) (h : HandIx) (ra : RegIx)
  | beq (p : PlotIx) (h : HandIx) (ra rb : RegIx) (off : BitVec 16)
  | bne (p : PlotIx) (h : HandIx) (ra rb : RegIx) (off : BitVec 16)
  | blt (p : PlotIx) (h : HandIx) (ra rb : RegIx) (off : BitVec 16)
  | bge (p : PlotIx) (h : HandIx) (ra rb : RegIx) (off : BitVec 16)
  | imbLdbFillDone (p : PlotIx) (ldb : Bool) (k : Fin 16)
  | snap (s : Seat)
  | snapshot
  | snapshotImageWritten (s : Seat)
  | pmcClear (s : Seat) (k : Fin 8)
  | pmcOvfclr (s : Seat) (k : Fin 8) (sameEdgeSet : Bool)
  | provision
  | enterService
  | leaveService
  | decommission
  | selfTestStart (lim : TestLimits)
  | selfTestAbort
  | bistFailLog (e : FailEntry)
  | selfTestEnd (opsDone : Nat) (elemsDone : Nat) (signature : Word)
  | selfTestRestoreDone
  | reclaim (findings : List Finding) (marchOk : Bool)
  | idcode
  | samplePreload (cells : List Bool)
  | extest
  | highz
  | clamp
  | extestPulse
  | extestTrain
  | memacc (we : Bool) (p : PlotIx) (line : BitVec 19) (data : BitVec 512) (upset : BitVec 640)
  | debug (addr : Nat) (we : Bool) (value : Word)
  | bypass
  | continuousTestFail (code : Fin 3)
  | turnWindowStart
  | popActsAtStore (q : BitVec 16)
  | rekeyPassLine (p : PlotIx) (r : Fin 32) (upset : BitVec 640)
  | tileCopyLine (p : PlotIx) (upset : BitVec 640)
deriving DecidableEq, Repr

end Sys2Proof
end

