-- ==== Sys2Proof/Decode.lean ====
section
/-! DEFINITION. From bits to commands and engine instructions: the table of operations gives its rows no bits; the words of engine instructions are encoded and decoded under R270–R272. -/

namespace Sys2Proof

/-- The command that a word spells by the table's bits: the table gives none of its rows any bits. -/
def decodeTableWord (_nbits _w : Nat) : Option Instr := none

/-! ## Engine instruction words -/

/-- Lay out a word: opcode, three register fields and FUNC (R270 format R). -/
def wordR (op a b c f : Nat) : Word := BitVec.ofNat 32 (op * 67108864 + a * 2097152 + b * 65536 + c * 2048 + f)
/-- Lay out a word: opcode, two register fields and imm16 (formats I and B). -/
def wordI (op a b v : Nat) : Word := BitVec.ofNat 32 (op * 67108864 + a * 2097152 + b * 65536 + v)
/-- Lay out a word: opcode and offset26 (format J). -/
def wordJ (op v : Nat) : Word := BitVec.ofNat 32 (op * 67108864 + v)

/-- FUNC of the three-register operations (R272). -/
def funcOf : Alu3 → Nat
  | .add => 0x000 | .sub => 0x001 | .and => 0x002 | .or => 0x003 | .xor => 0x004 | .slt => 0x005 | .sltu => 0x006
  | .sll => 0x008 | .srl => 0x009 | .sra => 0x00A | .mul => 0x010 | .mulh => 0x011 | .mulhu => 0x012
/-- The three-register operation of a FUNC. -/
def aluOf (f : Nat) : Option Alu3 :=
  if f = 0x000 then some .add else if f = 0x001 then some .sub else if f = 0x002 then some .and else if f = 0x003 then some .or
  else if f = 0x004 then some .xor else if f = 0x005 then some .slt else if f = 0x006 then some .sltu else if f = 0x008 then some .sll
  else if f = 0x009 then some .srl else if f = 0x00A then some .sra else if f = 0x010 then some .mul else if f = 0x011 then some .mulh
  else if f = 0x012 then some .mulhu else none
/-- Major opcode of the immediate forms (R271). -/
def opOf : ImmOp → Nat
  | .addi => 0x03 | .andi => 0x04 | .ori => 0x05 | .xori => 0x06 | .ldL => 0x09 | .stL => 0x0A | .ldM => 0x0B | .stM => 0x0C
  | .krd => 0x0E | .kwr => 0x0F
def immOf (op : Nat) : Option ImmOp :=
  if op = 0x03 then some .addi else if op = 0x04 then some .andi else if op = 0x05 then some .ori else if op = 0x06 then some .xori
  else if op = 0x09 then some .ldL else if op = 0x0A then some .stL else if op = 0x0B then some .ldM else if op = 0x0C then some .stM
  else if op = 0x0E then some .krd else if op = 0x0F then some .kwr else none
def shiftCode : ShiftOp → Nat
  | .slli => 0 | .srli => 1 | .srai => 2 | .rori => 3
def shiftOf (n : Nat) : ShiftOp := if n = 0 then .slli else if n = 1 then .srli else if n = 2 then .srai else .rori
def branchOp : BranchOp → Nat
  | .beq => 0x18 | .bne => 0x19 | .blt => 0x1A | .bge => 0x1B

/-- The word of an engine instruction (R270–R272, R276). -/
def encodeEng : EngInsn → Word
  | .alu f rd ra rb => wordR 0x01 rd.val ra.val rb.val (funcOf f)
  | .clz rd ra => wordR 0x01 rd.val ra.val 0 0x018
  | .popc rd ra => wordR 0x01 rd.val ra.val 0 0x019
  | .crc n rd ra rb => wordR 0x01 rd.val ra.val rb.val (0x020 + 0x200 * n.val)
  | .hash rd ra => wordR 0x01 rd.val ra.val 0 0x021
  | .shift f rd ra sh => wordI 0x02 rd.val ra.val (32 * shiftCode f + sh.toNat)
  | .imm f rd ra v => wordI (opOf f) rd.val ra.val v.toNat
  | .lui rd v => wordI 0x07 rd.val 0 v.toNat
  | .bf k rd ra pos len => wordR 0x08 rd.val ra.val pos.toNat (64 * len.toNat + if k then 32 else 0)
  | .qpush rd rq ra => wordR 0x0D rd.val rq.val ra.val 0x000
  | .qcommit rq ra => wordR 0x0D 0 rq.val ra.val 0x100
  | .qabort rq => wordR 0x0D 0 rq.val 0 0x200
  | .qpop rd rq ra => wordR 0x0D rd.val rq.val ra.val 0x300
  | .qpeek rd rq ra => wordR 0x0D rd.val rq.val ra.val 0x400
  | .qdrop rq => wordR 0x0D 0 rq.val 0 0x500
  | .qlevel rd rq sel => wordR 0x0D rd.val rq.val 0 (0x600 + sel.toNat)
  | .callh ra v => wordI 0x10 0 ra.val v.toNat
  | .rdpmc rd sel => wordI 0x11 rd.val 0 sel.toNat
  | .wait rd ra mask => wordI 0x12 rd.val ra.val mask.toNat
  | .fence w => wordI 0x13 0 0 w.toNat
  | .trap c => wordI 0x14 0 0 c.toNat
  | .j o => wordJ 0x15 o.toNat
  | .jal o => wordJ 0x16 o.toNat
  | .jr ra => wordI 0x17 0 ra.val 0
  | .branch f ra rb o => wordI (branchOp f) ra.val rb.val o.toNat

/-- A value that the spec reserves makes an instruction ILLEGAL (R271, R272, R274, R279, R285, R286): an odd rd of HASH, a selector, a WAIT mask, INV without WB. -/
def legalEng : EngInsn → Bool
  | .hash rd _ => rd.val % 2 == 0
  | .qlevel _ _ sel => decide (sel.toNat ≤ 6)
  | .rdpmc _ sel => decide (sel.toNat ≤ 0x19)
  | .wait _ _ m => m != 0 && decide (m.toNat < 64)
  | .fence w => !(w.getLsbD 2 && !w.getLsbD 1)
  | _ => true

/-- Register field at a bit of a word. -/
def regAt (w : Word) (lo : Nat) : RegIx := ⟨w.toNat / 2 ^ lo % 32, Nat.mod_lt _ (by decide)⟩

/-- Decode format R words with opcode OPR. -/
def decodeOpr (w : Word) : Option EngInsn :=
  let f := w.toNat % 2048
  let rd := regAt w 21
  let ra := regAt w 16
  let rb := regAt w 11
  if f = 0x018 then (if rb = 0 then some (.clz rd ra) else none)
  else if f = 0x019 then (if rb = 0 then some (.popc rd ra) else none)
  else if f = 0x021 then (if rb = 0 then some (.hash rd ra) else none)
  else if f % 512 = 0x020 then some (.crc ⟨f / 512 % 4, Nat.mod_lt _ (by decide)⟩ rd ra rb)
  else (aluOf f).map fun g => .alu g rd ra rb

/-- Decode words with opcode QOP. -/
def decodeQop (w : Word) : Option EngInsn :=
  let m := w.toNat / 256 % 8
  let v := w.toNat % 256
  let rd := regAt w 21
  let rq := regAt w 16
  let ra := regAt w 11
  if m = 0 then (if v = 0 then some (.qpush rd rq ra) else none)
  else if m = 1 then (if v = 0 && rd = 0 then some (.qcommit rq ra) else none)
  else if m = 2 then (if v = 0 && rd = 0 && ra = 0 then some (.qabort rq) else none)
  else if m = 3 then (if v = 0 then some (.qpop rd rq ra) else none)
  else if m = 4 then (if v = 0 then some (.qpeek rd rq ra) else none)
  else if m = 5 then (if v = 0 && rd = 0 && ra = 0 then some (.qdrop rq) else none)
  else if m = 6 then (if ra = 0 then some (.qlevel rd rq (BitVec.ofNat 8 v)) else none)
  else none

/-- The form a word has, before the reserved operand values are ruled out. -/
def decodeForm (w : Word) : Option EngInsn :=
  let op := w.toNat / 67108864
  let v := w.toNat % 65536
  let imm : BitVec 16 := BitVec.ofNat 16 v
  let off : BitVec 26 := BitVec.ofNat 26 w.toNat
  let rd := regAt w 21
  let ra := regAt w 16
  if op = 0x01 then decodeOpr w
  else if op = 0x02 then (if v < 128 then some (.shift (shiftOf (v / 32)) rd ra (BitVec.ofNat 5 v)) else none)
  else if op = 0x07 then (if ra = 0 then some (.lui rd imm) else none)
  else if op = 0x08 then
    (if v % 32 = 0 then some (.bf (v / 32 % 2 == 1) rd ra (BitVec.ofNat 5 (v / 2048)) (BitVec.ofNat 5 (v / 64))) else none)
  else if op = 0x0D then decodeQop w
  else if op = 0x10 then (if rd = 0 then some (.callh ra imm) else none)
  else if op = 0x11 then (if ra = 0 then some (.rdpmc rd imm) else none)
  else if op = 0x12 then some (.wait rd ra imm)
  else if op = 0x13 then (if rd = 0 && ra = 0 && decide (v < 8) then some (.fence (BitVec.ofNat 3 v)) else none)
  else if op = 0x14 then (if rd = 0 && ra = 0 then some (.trap imm) else none)
  else if op = 0x15 then some (.j off)
  else if op = 0x16 then some (.jal off)
  else if op = 0x17 then (if rd = 0 && v = 0 then some (.jr ra) else none)
  else if op = 0x18 then some (.branch .beq rd ra imm)
  else if op = 0x19 then some (.branch .bne rd ra imm)
  else if op = 0x1A then some (.branch .blt rd ra imm)
  else if op = 0x1B then some (.branch .bge rd ra imm)
  else (immOf op).map fun f => .imm f rd ra imm

/-- The engine instruction of a word; none for a word that traps with ILLEGAL (R271). -/
def decodeEng (w : Word) : Option EngInsn :=
  match decodeForm w with
  | some i => if legalEng i then some i else none
  | none => none

end Sys2Proof
end

