-- ==== Sys2Proof/Config.lean ====
section
/-! DEFINITION. What the spec leaves to the implementation or leaves open: free values without bodies, and the standards it cites as uninterpreted functions. -/

namespace Sys2Proof

/-! ## Free values -/

/-- A bit vector that the spec leaves undefined, drawn under the counter of State. (DESIGN CHOICE, log 8) -/
opaque Config.freeBits (w : Nat) : Nat → BitVec w
/-- A number that the spec leaves open (a count of cycles or of edges passed), drawn under the counter of State. (DESIGN CHOICE, log 8) -/
opaque Config.freeNat : Nat → Nat

/-! ## The fabric (R61–R69) -/

/-- The outputs of the hard blocks and of the border links, which are sources of routing multiplexers (R65, R67): the signals of the kitty ports (R142), the queue ports (R229), the memory port (R306), the block memory beside a bed (R159, R163, R169), the I/O cells (R698) and the inbound links (R80). -/
inductive HardOut where
  | kitty (bit : Nat)
  | qoSpace (qp sel : Nat) | qoRw (qp sel : Nat)
  | qiV (qp : Nat) | qiData (qp bit : Nat) | qiSide (qp bit : Nat) | qiAvail (qp sel : Nat) | qiWm (qp sel : Nat)
  | mqSpace | msV | msData (bit : Nat) | msResp (bit : Nat) | msTag (bit : Nat)
  | bmDout (portB : Bool) (bit : Nat) | bmSbe | bmDbe | bmBusy (portB : Bool)
  | ball (bank k : Nat) (fall : Bool)
  | inbound (dir link : Nat)
deriving DecidableEq, Repr, Inhabited

/-- A source of a routing multiplexer (R65): the O_A or O_B output of a cell of its bed, a segmented wire that ends at its switch box, by the bed where it starts and its number there, the receiver of an L48 or a V tap of its bed, or an output of a hard block. -/
inductive Src where
  | none
  | cell (k : Nat) (ob : Bool)
  | wire (bed i : Nat)
  | l48 (dir track tap : Nat)
  | v (track : Nat)
  | hard (o : HardOut)
deriving DecidableEq, Repr, Inhabited

/-- A point of a plot's logic that has one value: a segmented wire by its first bed and number, a local or control line of a bed, the O_A or O_B output or the carry output of a cell, the receiver of an L48 or a V tap of a bed. -/
inductive Node where
  | seg (bed i : Nat)
  | loc (bed i : Nat)
  | ctl (bed i : Nat)
  | out (bed k : Nat) (ob : Bool)
  | carry (bed k : Nat)
  | l48 (bed dir track tap : Nat)
  | v (bed track : Nat)
deriving DecidableEq, Repr

/-- Source k of multiplexer m of a bed, the multiplexers numbered in the order of R100: Speri's device description holds every pattern, the spec none (R65). (DESIGN CHOICE, log 9) -/
opaque Config.pattern : Nat → Nat → Nat → Src
/-- The cell and output (true: O_B) that value `sel` of the source select of a tap names, by bed and tap (L48 taps 0–95, V taps from 96 on): the two fixed cells are in the device description (R62). (DESIGN CHOICE, log 9) -/
opaque Config.tapSource : Nat → Nat → Nat → Nat × Bool
/-- The fixed cell that drives an input of a hard block, an I/O cell or an outbound link: which of the beds it attaches to, the cell, and its output (true: O_B) (R67). (DESIGN CHOICE, log 9) -/
opaque Config.fixedCell : Nat → Nat × Nat × Bool
/-- A value within a combinational loop (R68): draw, plot, edge, place. (DESIGN CHOICE, log 9) -/
opaque Config.loopBit : Nat → Nat → Nat → Node → Bool
/-- A value received from a wire driven to opposing levels (R76, R78): draw, plot, edge, receiver. (DESIGN CHOICE, log 11) -/
opaque Config.wireBit : Nat → Nat → Nat → Node → Bool
/-- The carry input of the southernmost bed of a bed column, which the spec does not state (R58): draw, plot, edge, column. (DESIGN CHOICE, log 10) -/
opaque Config.southCarry : Nat → Nat → Nat → Nat → Bool
/-- A data output of a queue port or of the memory port while its valid signal is 0, or a side field with a scratchpad reply (R229, R306): draw, plot, edge, output. (DESIGN CHOICE, log 9) -/
opaque Config.portIdle : Nat → Nat → Nat → HardOut → Bool
/-- What the balls of a bank carry at a fabric edge, from outside the device (R698): draw, plot, edge, bank, falling edge. -/
opaque Config.ioInput : Nat → Nat → Nat → Nat → Bool → BitVec 24
/-- A hand's configuration launches on the border links of edge d (north, east, south, west) (R85): every link is always driven by its fixed cell, and what counts as launching is in the device description. (DESIGN CHOICE, log 9) -/
opaque Config.launches : List (Nat × BitVec 64) → Nat → Bool
/-- What SEC-DED makes of a word with three or more bits in error: none when it reads as a double error, else the error that is left after a false correction. (DESIGN CHOICE, log 13) -/
opaque Config.secDed : Nat → Option Nat

/-! ## Codes whose matrices the spec does not give -/

/-- The check bits of an extended Hamming (72,64) code (R162); the spec gives no generator. (DESIGN CHOICE, log 13) -/
opaque Config.hamming : BitVec 64 → BitVec 8
/-- The data that a SEC-DED decoder delivers for a word with three or more bits in error that it takes for one. (DESIGN CHOICE, log 13) -/
opaque Config.miscorrected : Nat → BitVec 64

/-! ## Cryptographic standards that the spec cites by name (R394) -/

/-- One AES-256 block (FIPS 197): key and block, byte 0 in the most significant bits. (DESIGN CHOICE, log 12) -/
opaque Config.aes256 : BitVec 256 → BitVec 128 → BitVec 128
/-- GHASH (SP 800-38D) of a list of blocks under a subkey. (DESIGN CHOICE, log 12) -/
opaque Config.ghash : BitVec 128 → List (BitVec 128) → BitVec 128
/-- HMAC-SHA-384 (FIPS 198-1) of a byte string, byte 0 first; the leftmost byte in the most significant bits. (DESIGN CHOICE, log 12) -/
opaque Config.hmac384 : List Byte → List Byte → BitVec 384
/-- AES-256-CMAC (SP 800-38B). (DESIGN CHOICE, log 12) -/
opaque Config.cmac : BitVec 256 → List Byte → BitVec 128
/-- SHA-384 (FIPS 180-4). (DESIGN CHOICE, log 12) -/
opaque Config.sha384 : List Byte → BitVec 384
/-- The P-384 public key of a private key: x and y (SP 800-56A). (DESIGN CHOICE, log 12) -/
opaque Config.publicKey : BitVec 384 → BitVec 384 × BitVec 384
/-- ECDH on P-384 (SP 800-56A): a private key and the other side's x and y; the x-coordinate of the shared point. (DESIGN CHOICE, log 12) -/
opaque Config.ecdh : BitVec 384 → BitVec 384 → BitVec 384 → BitVec 384
/-- ECDSA P-384 with SHA-384 (FIPS 186-5), r then s: the key pair's public x and y, the draw of the signer's secret number, and the message. (DESIGN CHOICE, log 12) -/
opaque Config.ecdsaSign : BitVec 384 → BitVec 384 → Nat → List Byte → BitVec 768

/-! ## Engine timing (R239, R259–R266, R613, R630) -/

/-- Counts that depend on the pipeline's timing, under a draw and an index: cycles, slots of each class, events of kind M, the instructions fetched and discarded, the fields of a sample record. (DESIGN CHOICE, log 8) (DESIGN CHOICE, log 20) -/
opaque Config.timing : Nat → Nat → Nat

/-! ## Firmware (R549, R551) -/

/-- The version of the MC ROM, which the spec does not give. (DEDUCED, log 27) -/
opaque Config.romVersion : Word
/-- ECDSA P-384 with SHA-384 under the firmware key of a hash: the header's first 64 bytes and its signature. (DESIGN CHOICE, log 12) -/
opaque Config.firmwareSig : BitVec 384 → List Byte → List Byte → Bool

end Sys2Proof
end

