-- ==== Sys2Proof/Machine/State.lean ====
section
/-! DEFINITION. The state of the CX512: every register, queue, memory and mode its rules name, as plain data; the state right after power-on; the closed lists of faults and refusals. -/

namespace Sys2Proof.Machine

/-! ## Modes, hand states, thread states -/

/-- The operating mode (R517). -/
inductive Mode where
  | fallow | sowing | field | retention | limp | test | recovery | zeroised
deriving DecidableEq, Repr

/-- The state of a (plot, hand) pair (R102). (DEDUCED, log 42) -/
inductive HState where
  | empty | sowing | sown | live | parked | frozen | fallowed
deriving DecidableEq, Repr

/-- The state of an engine thread (R241). -/
inductive TState where
  | unowned | stopped | running | waiting | trapped | held
deriving DecidableEq, Repr

/-- The link state of a port (R416). -/
inductive LinkState where
  | off | idle | waking | acquiring | up | lost
deriving DecidableEq, Repr

/-- The life-cycle state (R634). -/
inductive Life where
  | blank | manufacture | owned | service | decommissioned
deriving DecidableEq, Repr

/-! ## The AON domain, OTP and MRAM -/

/-- The always-on domain: mode, straps, time base (R431, R517, R533). -/
structure Aon where
  /-- VDD_AON is valid -/
  powered : Bool := false
  /-- the mode; none before step 1 ends (R517) -/
  mode : Option Mode := none
  /-- step 7, 8 or 9 of start-up while in Sowing; 0 otherwise (R545) -/
  step : Nat := 0
  /-- a transition into or out of Retention runs (R535, R537) -/
  moving : Bool := false
  node : BitVec 5 := 0
  autorise : Bool := false
  /-- the time base in ns (R431) -/
  now : Nat := 0
  /-- the remainder of FREQ_ADJ carried from tick to tick, in 2^-40 ns (R432) -/
  rem : Nat := 0
  freqAdj : BitVec 32 := 0
  timeOwner : Nat := 0
  /-- 0x1000.08 (R397) -/
  failedTest : BitVec 16 := 0
  /-- the state of R533 after a thermal shutdown -/
  thermalLatch : Bool := false
  /-- 0x1000.0C: 0 slot A, 1 slot B, 2 ROM -/
  fwSlot : Nat := 0
  fwVersion : BitVec 32 := 0
  /-- group 0–15 whose training slot runs in step 8 (R575) -/
  trainGroup : Nat := 0
  /-- 10 s have passed since the dealer's FINAL image (R574) -/
  finalTimeout : Bool := false
  /-- images of the seed directory whose headers have been read in this step 7 (R568) -/
  seedRead : Nat := 0
  /-- AUTORISE is to raise the stack: Fallow has been reached from boot and the rise has neither come nor failed (R553) -/
  autoDue : Bool := false
  /-- the counter from which free values are drawn: the model's own field -/
  free : Nat := 0
deriving DecidableEq, Repr

/-- One riser's entry in the fallow map (R338, R343–R347). -/
structure RiserMap where
  failed : List Nat := []
  /-- lane replaced by spare lane 92 + k -/
  laneMap : List (Option Nat) := [none, none, none, none, none, none]
  /-- 0 full; 1 lower half; 2 upper half; 3 down -/
  rstate : Nat := 0
  /-- 0 none; 1 lower tile on M4; 2 upper tile on M4 -/
  tileMap : Nat := 0
deriving DecidableEq, Repr

/-- One interface of the wear ledger (R608–R610); temperatures in units of 1/369008640 K, in which every mean is exact. (DEDUCED, log 88) -/
structure Wear where
  bins : List Nat := [0, 0, 0, 0, 0]
  frac : Nat := 0
  /-- the hysteresis filter's value, its direction, and the rainflow residue, newest first -/
  filt : Option Int := none
  rising : Option Bool := none
  residue : List Int := []
deriving DecidableEq, Repr

/-- The fallow map in MRAM (glossary; R31, R330, R338, R347, R659). -/
structure FallowMap where
  plots : List Nat := []
  risers : List (Nat × RiserMap) := []
  /-- 0 none; 1–4: M0–M3 mapped out to M4 -/
  dieMap : Nat := 0
  /-- per column: 0 full, 1 half width, 2 carried by a neighbour, 3 down (R499) -/
  feed : List (Nat × Nat) := []
  /-- failed feed lanes per column -/
  feedLanes : List (Nat × List Nat) := []
  /-- used spare bonds per plot, by group (R149) -/
  bonds : List (Nat × List Nat) := []
  /-- failed physical tiles, 256 × die + column (R659) -/
  failedTiles : List Nat := []
  /-- retirement slot 64p + k (R330) -/
  retire : List (Nat × BitVec 32) := []
deriving DecidableEq, Repr

/-- OTP and MRAM, and the boot flash beside them: what a power loss leaves (R635, R666). (DESIGN CHOICE, log 3) -/
structure Nv where
  lcMfg : Bool := true
  lcOwn : Bool := false
  lcDecom : Bool := false
  /-- bits of SVC_COUNT set, 0–64 -/
  svcCount : Nat := 0
  provHash : BitVec 384 := 0
  ownerRoot : BitVec 384 := 0
  fwFloor : BitVec 32 := 0
  holdPulls : BitVec 64 := 0
  tamperEn : BitVec 2 := 0
  /-- device-unique key (R350) -/
  duk : BitVec 256 := 0
  serial : BitVec 128 := 0
  idkeyX : BitVec 384 := 0
  idkeyY : BitVec 384 := 0
  /-- ordering code CX512-3E-F85 (else -2E) (R1, R710) -/
  grade3 : Bool := true
  certificate : List Byte := []
  /-- SHA-384 of the Nizia firmware key (R549) -/
  fwKeyHash : BitVec 384 := 0
  cred0X : BitVec 384 := 0
  cred0Y : BitVec 384 := 0
  /-- N25 and N110 of a temperature sensor (R590) -/
  fuses : List (Nat × (Nat × Nat)) := []
  nominalRate : Nat := 0
  dataRate : Nat := 0
  /-- the sealed MRAM copies of SMS_s (R532, R556) -/
  smsCopy : List (Nat × Option (BitVec 256)) := []
  lcPending : Bool := false
  tamperCount : Nat := 0
  tamperLastCode : Nat := 0
  tamperLastTime : Nat := 0
  map : FallowMap := {}
  /-- the wear ledger as last saved (R611) -/
  wearSaved : List (Nat × Wear) := []
  /-- the boot flash: bytes that do not read 0xFF -/
  flash : List Host.Cell := []
deriving DecidableEq, Repr

/-! ## Seats: sessions, staging, attention -/

/-- One reply frame (R445, R448); a session step-2 part also uses it. -/
structure Reply where
  seat : Nat := 0
  prio : BitVec 3 := 0
  seq : BitVec 8 := 0
  func : Byte := 0
  status : Byte := 0
  error : Byte := 0
  aux : BitVec 16 := 0
  data : List Byte := []
  /-- the tag; 0 in unauthenticated replies and session frames -/
  tag : BitVec 64 := 0
deriving DecidableEq, Repr

/-- One staged item: an object write, or a window entry when `win` (R463, R464). -/
structure Item where
  index : Nat
  sub : Nat
  win : Bool := false
  entry : Nat := 0
  data : List Byte
deriving DecidableEq, Repr

/-- A segmented transfer (R466–R470). -/
structure Seg where
  isWrite : Bool
  index : Nat
  total : Nat
  block : Nat := 0
  frame : Nat := 0
  seq : BitVec 8 := 0
  got : List Byte := []
  blockOk : Bool := true
  /-- the stack power-down ended it; the next frame gets STATE (R470) -/
  ended : Bool := false
deriving DecidableEq, Repr

/-- A seat's pending turn (R481–R484). -/
structure Turn where
  items : List Item
  /-- the instant of a scheduled turn; none for an immediate one -/
  at? : Option Nat
  /-- SOURCE of its re-check report (R480) -/
  source : Nat
  /-- a staging section performs it: it raises attention and has no reply (R567) -/
  quiet : Bool := false
  req : Option Reply := none
  /-- the MC queue request that waits for it: reply queue and rank (R511) -/
  via : Option (Nat × Nat) := none
deriving DecidableEq, Repr

/-- The latest event of an attention class (R474). -/
structure AttnEvent where
  seq : Nat := 0
  time : Nat := 0
  code : Nat := 0
  index : Nat := 0
  a : Nat := 0
  b : Nat := 0
deriving DecidableEq, Repr

/-- The check report (R480). -/
structure Report where
  result : Nat := 0
  source : Nat := 0
  index : Nat := 0
  sub : Nat := 0
  reason : Nat := 0
  detail : Nat := 0
  time : Nat := 0
  items : Nat := 0
deriving DecidableEq, Repr

/-- A seed image being received (R559–R565). (DESIGN CHOICE, log 44) -/
structure Stream where
  src : SeedSource
  hdr : Option ImageHdr := none
  next : Nat := 0
  /-- the next byte expected (R569) -/
  offset : Nat := 0
  refused : Bool := false
  firstRep : Option Report := none
  turned : Bool := false
  /-- the accepted hand section whose words stream in: plot, hand, TIMED_KHZ -/
  sect : Option (Nat × Nat × Nat) := none
deriving DecidableEq, Repr

/-- An opening in progress (R452): the step and part expected next. -/
structure Opening where
  step : Nat
  part : Nat
  seq : BitVec 8 := 0
  qh : List Byte := []
  sigh : List Byte := []
  th : BitVec 384 := 0
  /-- the shared point's x-coordinate -/
  z : BitVec 384 := 0
deriving DecidableEq, Repr

/-- A seat: its session, staging set, turn, attention, allocations, secrets and streams. -/
structure SeatRec where
  isOpen : Bool := false
  kreq : BitVec 256 := 0
  krep : BitVec 256 := 0
  reqCtr : Nat := 0
  repCtr : Nat := 0
  rejected : Nat := 0
  openedAt : Nat := 0
  opening : Option Opening := none
  /-- the instant of the last opening that failed with AUTH (R454) -/
  authFail : Option Nat := none
  /-- the last completed transaction of the session (R459) -/
  last : Option Reply := none
  /-- the immediate TURN whose reply is still due, or other running transaction -/
  running : Option (BitVec 8) := none
  /-- the same for the seat's dictionary service queues, a stream of their own (R511) -/
  mcLast : Option Reply := none
  mcRunning : Option (BitVec 8) := none
  seg : Option Seg := none
  staged : List Item := []
  turn : Option Turn := none
  deferred : List Item := []
  report : Report := {}
  pend : BitVec 8 := 0
  attnSeq : Nat := 0
  events : List (Nat × AttnEvent) := []
  counts : List (Nat × Nat) := []
  /-- (class, resource) pairs already raised in this round, for the once-in-a-round rules -/
  raised : List (Nat × Nat) := []
  credX : BitVec 384 := 0
  credY : BitVec 384 := 0
  powerMw : Nat := 0
  rotpowMw : Nat := 0
  steerQuota : Nat := 0
  odma : Byte := 0xFF
  bulkbuf : BitVec 16 := 0xFFFF
  cursor : Nat := 0
  stream : Option Stream := none
  /-- an image with FINAL = 1 is complete in this step 7 (R574) -/
  finalDone : Bool := false
  loaded : Bool := false
  firstTurn : Bool := false
  sms : Option (BitVec 256) := none
  smr : Option (BitVec 256) := none
deriving DecidableEq, Repr

/-- A command that a committed turn has ordered and whose own row carries it out (R105, R242, R358, R389, R432, R498, R618, R626, R642, R661). -/
inductive Order where
  | hand (p h cmd : Nat)
  | thread (p h cmd pc : Nat)
  | rekey (p r : Nat)
  | keyChange (n : Nat)
  | step (t : Nat)
  | offset (d : Int)
  | request (m : Nat)
  | rise
  | restart
  | dieReset (d : Nat)
  | snap (s : Nat)
  | pmcClear (s k : Nat)
  | pmcOvfClr (s k : Nat)
  | testStart
  | testAbort
  | reclaim (p : Nat)
  | life (kind : Nat) (tok : Token)
deriving DecidableEq, Repr

/-! ## Fabric -/

/-- An accepted call (R118): its target, the edge of acceptance and the plot whose port raised it. -/
structure Call where
  slot : Nat
  edge : Nat
  port : Nat
deriving DecidableEq, Repr

/-- A write of the kitty's fabric port (R142). -/
structure KittyWrite where
  reg : Nat
  old : BitVec 32
  data : BitVec 32
  be : BitVec 4
deriving DecidableEq, Repr

/-- The rotation sequencer and the counters of a plot. -/
structure Plot where
  len : Nat := 64
  yoke : Bool := false
  clksel : Nat := 0
  /-- the slot that runs, its word as read at its start, and the edge at which it started (R114) -/
  cur : Nat := 0
  word : BitVec 32 := 0x00808000
  start : Nat := 0
  /-- the hand that runs in this slot, settled at the slot's start (R113) -/
  live : Option Nat := none
  /-- what is left of the running slot runs idle (R77, R107) -/
  idleRest : Bool := false
  /-- fabric edges of the running slot that have passed (R112) -/
  now : Nat := 0
  /-- values on their way over the border links: edges until they arrive, hand, the 4 × 512 values (R82) -/
  transit : List (Nat × Nat × BitVec 2048) := []
  /-- an accepted call (R118) -/
  call : Option Call := none
  /-- calls of engine threads that are not yet raised: fabric edges until they are, hand, slot (R120) -/
  engCalls : List (Nat × Nat × Nat) := []
  /-- what the inputs of the plot's hard blocks captured at the last edge, if a hand was live at it and they have not acted since (R67); the layout is that of `inputBeds` -/
  captured : BitVec 24576 := 0
  /-- QI_SEL of QP_k in bits [2k+1:2k], as captured at the last live edge, and as captured at the one before (R231) -/
  qiSel : BitVec 16 := 0
  qiWas : BitVec 16 := 0
  /-- the slot ended by Retention; the next slot follows it (R535) -/
  halted : Bool := false
  /-- the fabric clock is gated (R94) -/
  gated : Bool := true
  /-- hand whose configuration the bonds keep; none before any has run (R135) -/
  lastHand : Option Nat := none
  /-- wires whose drivers a contention sensor has disabled until the slot ends (R76) -/
  disabled : List Nat := []
  /-- wires that stand between levels: a sensor is about to fire on them (R76, R78) -/
  between : List Nat := []
  refusedCalls : Nat := 0
  lostCalls : Nat := 0
  kittyRefusals : Nat := 0
  cfgCorrected : Nat := 0
  memportRefusals : Nat := 0
  bmSbe : Nat := 0
  bmDbe : Nat := 0
  /-- bond groups awaiting a spare at the next slot boundary, with the hands live between their last two checks (R149) -/
  bondsDue : List (Nat × BitVec 8) := []
  /-- bit 64h + k: hand h has been live since the bond groups of share k were last checked (R149) -/
  liveSince : BitVec 512 := 0
  /-- kitty read port: what it presents in this cycle, and what it presents in the next one (R142) -/
  kittyOut : BitVec 32 := 0
  kittyNext : BitVec 32 := 0
  /-- the fabric's write at the last edge: register, its value before, the data and the byte enables (R142, R144) -/
  kittyLast : Option KittyWrite := none
deriving DecidableEq, Repr

/-- A request that a hand has issued on its memory port (R306–R308). -/
structure MemReq where
  /-- the hand's seat when it issued the request, whose rights the request carries -/
  seat : Option Nat
  we : Bool
  line : Nat
  be : BitVec 64
  data : BitVec 512
  tag : Byte
  /-- its place in the order of issue of its plot's requests, which are of one source (R305) -/
  seq : Nat := 0
  /-- the channel engine has taken it into the write-combining buffer or holds it -/
  taken : Bool := false
  /-- its hand was wiped: it completes without a reply (R308) -/
  orphan : Bool := false
  /-- response and data, once it has completed and waits behind older requests of its hand -/
  done : Option (Nat × BitVec 512) := none
deriving DecidableEq, Repr

/-- A (plot, hand) pair. -/
structure Hand where
  own : Byte := 0
  state : HState := .empty
  hspb : Byte := 0
  ess : Bool := false
  timed : Nat := 0
  /-- the flip-flop bank, FF_A of cell c at bit 2c and FF_B at 2c + 1 (R103) -/
  ff : BitVec 32768 := 0
  /-- arrival registers, 512 for each of N, E, S, W (R81) -/
  arrival : BitVec 2048 := 0
  /-- a wipe runs (R126) -/
  wiping : Bool := false
  /-- accepted memory-port requests not yet answered, oldest first (R307) -/
  memReq : List MemReq := []
  /-- replies: data, response, tag (R306) -/
  memRep : List (BitVec 512 × Nat × Byte) := []
  /-- QO_RW events: 4 × QP + select (R229) -/
  qoRw : List Nat := []
deriving DecidableEq, Repr

/-- A block memory (R152–R169). -/
structure Bm where
  /-- [31:24] owner word, [15:0] setup (R502) -/
  word : BitVec 32 := 0x0000002D
  bits : BitVec 36864 := 0
  /-- bits flipped since they were written, for SEC-DED (R163) -/
  err : BitVec 36864 := 0
  doutA : BitVec 72 := 0
  doutB : BitVec 72 := 0
  /-- data on its way through an output register (R159) -/
  pipeA : BitVec 72 := 0
  pipeB : BitVec 72 := 0
  sbe : Bool := false
  dbe : Bool := false
  pipeSbe : Bool := false
  pipeDbe : Bool := false
  clearing : Bool := false
  /-- TBUSY (R169) -/
  tbusy : Bool := false
deriving DecidableEq, Repr

/-- A fabric PLL (R89–R91). -/
structure Fpll where
  fa : Nat := 400000
  fb : Nat := 400000
  group : Nat := 0
  running : Bool := false
  locked : Bool := false
deriving DecidableEq, Repr

/-- An engine PLL (R239). -/
structure Epll where
  khz : Nat := 800000
  running : Bool := false
  locked : Bool := false
deriving DecidableEq, Repr

/-- A user I/O bank (R506, R580, R697–R700). -/
structure Bank where
  own : Byte := 0
  nominal : Nat := 0
  /-- standard code of ball k in bits [4k+3:4k] -/
  std : BitVec 96 := 0
  out : BitVec 24 := 0
  oe : BitVec 24 := 0
  inp : BitVec 24 := 0
  /-- the second value of a fabric cycle, launched and captured at the falling edge in a pair at double rate (R698) -/
  outFall : BitVec 24 := 0
  inpFall : BitVec 24 := 0
  /-- consecutive rounds within ±5 % of a nominal value, and that value; rounds outside -/
  cand : Nat := 0
  candRounds : Nat := 0
  outRounds : Nat := 0
  /-- the owner has had its first turn (R580) -/
  released : Bool := false
deriving DecidableEq, Repr

/-- The fabric: plots, hands, their stores, kitty and block memories. -/
structure Fabric where
  plots : List (Nat × Plot) := []
  hands : List (Nat × Hand) := []
  slots : List (Nat × BitVec 32) := []
  /-- hand store word 46,080 × (8p + h) + w (R98) -/
  cfg : List (Nat × BitVec 64) := []
  /-- flipped bits of a hand store word, check bits in [71:64] -/
  cfgErr : List (Nat × BitVec 72) := []
  diff : List (Nat × Nat) := []
  rbits : List (Nat × Nat) := []
  rbitsLast : List (Nat × Nat) := []
  kitty : List (Nat × BitVec 32) := []
  kown : List (Nat × Byte) := []
  kwatch : List (Nat × BitVec 64) := []
  /-- the place of the next memory-port request (R305) -/
  memSeq : Nat := 0
  /-- the word of every plot that the configuration patrol reads next (R146) -/
  patrol : Nat := 0
  bms : List (Nat × Bm) := []
  fplls : List (Nat × Fpll) := []
  banks : List (Nat × Bank) := []
deriving DecidableEq, Repr

/-! ## Queues -/

/-- One queue word with its side field (R201). -/
structure QWord where
  data : BitVec 256
  side : BitVec 16
deriving DecidableEq, Repr

/-- A packet: its producer number, rank and words. -/
structure Pkt where
  prod : Nat
  rank : Nat
  words : List QWord
  /-- words the consumer has popped already (R204) -/
  popped : Nat := 0
deriving DecidableEq, Repr

/-- What a producer has sent towards the store, behind its words (R210, R214, R227). -/
inductive Sent where
  | commit (p : Pkt)
  | rewind (prod words : Nat)
deriving DecidableEq, Repr

/-- One producer of a queue (R205, R215). -/
structure Prod where
  /-- the credit count; the tail debit of a commit may carry it below zero while freed credits are on their way (R205) -/
  credits : Int := 0
  openRank : Nat := 0
  /-- words of the open packet, in order -/
  openWords : List (BitVec 256) := []
  /-- words after an OVERLENGTH are discarded to the next last word or abort (R215) -/
  discarding : Bool := false
deriving DecidableEq, Repr

/-- An act of the consumer on its way to the store (R231, R278). -/
inductive Act where
  | pop (prod freed : Nat)
  | drop (prod words freed : Nat)
  | clear
deriving DecidableEq, Repr

/-- A queue (R188–R236). -/
structure Queue where
  dir : BitVec 256 := 0
  /-- pages allocated and initial credits sent (R197) -/
  bound : Bool := false
  prods : List (Nat × Prod) := []
  /-- commits and rewinds on their way to the store; those of one producer arrive in this order (R210, R214, R227) -/
  flight : List Sent := []
  /-- credits on their way back: producer and count (R206) -/
  returns : List (Nat × Nat) := []
  /-- visible packets the consumer has not begun, oldest first (R218) -/
  visible : List Pkt := []
  /-- the packet being read, with the words left -/
  reading : Option Pkt := none
  acts : List Act := []
  level : Nat := 0
  event : Bool := false
  pktsDelivered : Nat := 0
  wordsDelivered : Nat := 0
  /-- rewinds by cause 0–5 (R212) -/
  rw : List (Nat × Nat) := []
  /-- by producer endpoint: a rewind other than ABORT since it was last read, and the cause of the latest (R279) -/
  seen : List (Nat × (Bool × Nat)) := []
  dropped : Nat := 0
  lost : Nat := 0
  crossings : Nat := 0
deriving DecidableEq, Repr

/-- A request on a scratchpad channel (R172, R178). -/
structure ScrReq where
  word : BitVec 256
  /-- its place in the order of issue of its plot's requests on port B (R172) -/
  seq : Nat := 0
  /-- the reply, once it has been served and waits behind older requests of its channel -/
  done : Option (BitVec 256) := none
deriving DecidableEq, Repr

/-- The scratchpad channel of a hand's headland port or of a thread (R232, R281). (DEDUCED, log 61) -/
structure Chan where
  reqs : List ScrReq := []
  reps : List (BitVec 256) := []
  /-- oldest requests whose replies are to be discarded (R242, R244) -/
  skip : Nat := 0
deriving DecidableEq, Repr

/-- The shared scratchpad (R170–R187). -/
structure Scratch where
  cells : List Host.Cell := []
  /-- flipped bits of a word: its data in [127:0], the check bits of its lower half in [135:128] and of its upper half in [143:136] (R170) -/
  err : List (Nat × BitVec 144) := []
  own : List (Nat × Byte) := []
  filling : List Nat := []
  secFilling : Bool := false
  corrected : Nat := 0
  uncorr : Nat := 0
deriving DecidableEq, Repr

/-- Queues, channels and the scratchpad. -/
structure Net where
  queues : List (Nat × Queue) := []
  /-- hand channel 64p + 8h + QP -/
  handChan : List (Nat × Chan) := []
  /-- the place of the next request that a hand issues -/
  scrSeq : Nat := 0
  /-- thread channel 8p + h -/
  threadChan : List (Nat × Chan) := []
  scr : Scratch := {}
  /-- narrow words gathered for the open packet of packing queue k (R233) -/
  narrow : List (Nat × List Word) := []
  /-- feed domains in reset or retraining (R37, R38) -/
  feedDown : List Nat := []
  /-- dies F0 and F1 held in reset -/
  dieDown : List Nat := []
deriving DecidableEq, Repr

/-! ## Tiller engines -/

/-- A WAIT that has issued (R286, R287). -/
structure WaitRec where
  rd : Nat
  queue : BitVec 32
  mask : Nat
  /-- the named queue has been unbound meanwhile -/
  unbound : Bool := false
deriving DecidableEq, Repr

/-- A LD.M or ST.M that waits for the riser (R253, R263). -/
structure MissRec where
  line : Nat
  store : Bool
  /-- the response, once the riser has given it -/
  resp : Option Nat := none
deriving DecidableEq, Repr

/-- One thread of an engine (R238–R249, R289). -/
structure Thread where
  state : TState := .unowned
  regs : List (Nat × Word) := []
  pc : Word := 0
  timeSl : Word := 0
  timeSh : Word := 0
  tcmpNs : Word := 0
  tcmpSl : Word := 0
  tcmpSh : Word := 0
  kevent : Bool := false
  watch : List (Nat × Word) := []
  trapCause : Byte := 0
  trapInfo : BitVec 16 := 0
  trapPc : BitVec 17 := 0
  trapAddr : Word := 0
  ess : Bool := false
  /-- the state held at entry to Limp (R539) -/
  heldState : TState := .stopped
  waitRec : Option WaitRec := none
  miss : Option MissRec := none
  /-- counter bits latched by a low-half read: selector → high half (R285) -/
  latch : List (Nat × Word) := []
  /-- a FENCE with WB waits for write-backs; response and line of the first line lost meanwhile (R274) -/
  fencing : Bool := false
  fenceLost : Option (Nat × Nat) := none
deriving DecidableEq, Repr

/-- The slot counters of a thread or of an engine (R612–R614). -/
structure SlotCnt where
  retired : Nat := 0
  wasted : Nat := 0
  front : Nat := 0
  back : Nat := 0
  inflight : Nat := 0
deriving DecidableEq, Repr

/-- A line of the riser cache (R251). -/
structure CLine where
  line : Nat
  dirty : Bool
  data : BitVec 512
  /-- a write-back has been answered once with PATH_RESET or HOLD_TIMEOUT (R254) -/
  retried : Bool := false
  /-- a store has hit the line since its write-back left (R256, R274) -/
  newer : Bool := false
deriving DecidableEq, Repr

/-- A target buffer entry (R264). -/
structure TbEntry where
  pc : Nat
  seat : Nat
  target : Nat
deriving DecidableEq, Repr

/-- One engine (R246–R264, R612, R617, R630). -/
structure Engine where
  imbOwn : List (Nat × Byte) := []
  ldbOwn : List (Nat × Byte) := []
  imbFill : List Nat := []
  ldbFill : List Nat := []
  wayMask : List (Nat × Byte) := []
  pmcUser : List (Nat × Bool) := []
  pmcOwn : List (Nat × Byte) := []
  memCorr : Nat := 0
  lostLines : Nat := 0
  cycles : Nat := 0
  totals : SlotCnt := {}
  /-- line in way w of set e, at 4e + w (R251) -/
  cache : List (Nat × CLine) := []
  bimodal : List (Nat × Nat) := []
  targets : List TbEntry := []
  pmc : List (Nat × Nat) := []
  ovf : List Nat := []
  lfsr : List (Nat × BitVec 20) := []
  samplesTagged : Nat := 0
  samplesLost : Nat := 0
  /-- the engine clock is gated (R288) -/
  gated : Bool := true
deriving DecidableEq, Repr

/-- All engines, their threads and memories. -/
structure Engines where
  engines : List (Nat × Engine) := []
  threads : List (Nat × Thread) := []
  slots : List (Nat × SlotCnt) := []
  /-- instruction memory byte 131,072 p + a -/
  imem : List Host.Cell := []
  /-- local data memory byte 65,536 p + a -/
  dmem : List Host.Cell := []
  /-- flipped bits of a 32-bit word with its seven check bits in [38:32], by word address of imem and dmem -/
  imErr : List (Nat × BitVec 39) := []
  dmErr : List (Nat × BitVec 39) := []
  eplls : List (Nat × Epll) := []
deriving DecidableEq, Repr

/-! ## Risers and stacked memory -/

/-- Bytes of one line on their way to memory: a write-combining entry (R368) or a write held past the counter limit (R377), with the sources that wait for its response (R370). -/
structure WcEntry where
  line : Nat
  be : BitVec 64
  data : BitVec 512
  waiters : List MemSrc := []
deriving DecidableEq, Repr

/-- A region of a plot with its part of the key store (R295, R353, R356). -/
structure Region where
  own : Byte := 0
  isSealed : Bool := false
  dbgOk : Bool := false
  mcRight : Nat := 0
  odmaRight : Nat := 0
  epoch : Bool := false
  key0 : Option (BitVec 256) := none
  key1 : Option (BitVec 256) := none
  gen0 : Nat := 0
  gen1 : Nat := 0
  /-- the generation of the last key loaded into either slot (R352) -/
  gen : Nat := 0
  counter : Nat := 0
  /-- RKSTATE: 0 STEADY, 1 WAITING, 2 PASS -/
  rk : Nat := 0
  progress : Nat := 0
  marks : List Nat := []
  /-- a re-key became due during PASS, or an RKREQ is kept (R358, R372) -/
  noted : Bool := false
  wiping : Bool := false
  /-- order in which the waiting regions of the riser became due (R373) -/
  dueOrder : Nat := 0
  /-- writes held past the counter limit, oldest first (R377) -/
  heldWrites : List WcEntry := []
deriving DecidableEq, Repr

/-- A request from B that a channel engine holds: a read, or a write of the bytes that `be` names (R300, R305, R336). -/
structure HeldAcc where
  src : MemSrc
  line : Nat
  we : Bool
  be : BitVec 64 := 0
  data : BitVec 512 := 0
deriving DecidableEq, Repr

/-- A riser's channel engine (R304–R347). -/
structure Riser where
  corrEvents : Nat := 0
  uncorrEvents : Nat := 0
  crcEvents : Nat := 0
  integrityEvents : Nat := 0
  cmdRetries : Nat := 0
  retiredHits : Nat := 0
  rekeys : Nat := 0
  holdTimeouts : Nat := 0
  wc : List WcEntry := []
  patrol : Nat := 0
  /-- the last CORRECTED entries of this round: line and positions (R323) -/
  recent : List (Nat × Nat × Nat) := []
  /-- byte positions corrected on the last 8 line reads (R342) -/
  history : List (List Nat) := []
  /-- a lane check is due: lanes (R300, R342) -/
  checkDue : List Nat := []
  /-- command words sent again and not yet received, once for each failure (R300) -/
  cmdFails : List CmdSrc := []
  /-- what waits for the check of the command lanes (R300) -/
  cmdWait : List CmdSrc := []
  /-- requests from B that wait, oldest first -/
  waiting : List HeldAcc := []
  /-- a tile copy: tile 1 lower or 2 upper, lines copied, whether of a die map (R339) -/
  copy : Option (Nat × Nat × Bool) := none
  /-- distinct corrected lines per page within the patrol period (R326) -/
  pageCorr : List (Nat × List Nat) := []
  dueCount : Nat := 0
  /-- the AES core failed its test (R396) -/
  katFail : Bool := false
deriving DecidableEq, Repr

/-- A memory error log entry (R321). -/
structure LogEntry where
  time : Nat
  seq : Nat
  plot : Nat
  die : Nat
  addr : Nat
  region : Nat
  isSealed : Bool
  owner : Byte
  kind : Nat
  source : Nat
  nsym : Nat
  sym1 : Nat
  sym0 : Nat
deriving DecidableEq, Repr

/-- Risers, regions, stacked memory, the error log. -/
structure Stack where
  risers : List (Nat × Riser) := []
  /-- region 32p + r -/
  regions : List (Nat × Region) := []
  /-- the 80 stored bytes of a line, byte i in bits [8i+7:8i], under its line identifier 2^19 × p + address [24:6] (R310) wherever the fallow map has put it, and under 2^19 × (512 + c) + L for a line of tile c of M4 that is mapped to no plot; an unlisted line holds the fill of R335 -/
  lines : List (Nat × BitVec 640) := []
  log : List LogEntry := []
  logSeq : Nat := 0
  retireThresh : Nat := 4
  patrolH : Nat := 24
  bootNonce : BitVec 256 := 0
  /-- the working die that a die map is moving to M4 (R341) -/
  dieMapping : Option Nat := none
  /-- refresh interval of each memory die in ms (R303) -/
  refresh : List (Nat × Nat) := []
  /-- the last reply of a channel engine to a request from B: response and data -/
  reply : Nat × BitVec 512 := (0, 0)
deriving DecidableEq, Repr

/-! ## Links, steering, bulk DMA -/

/-- A packet being received (R420). -/
structure RxPkt where
  queue : Nat
  rank : Nat
  /-- the producer number in the queue -/
  prod : Nat
  bytes : List Byte
  /-- OVERLENGTH or NOCREDIT has rewound it; the rest is discarded -/
  dead : Bool := false
  stamp : Nat := 0
deriving DecidableEq, Repr

/-- A packet being sent (R412). -/
structure TxPkt where
  eq : Nat
  queue : Nat
  bytes : List Byte
  /-- bytes on the line, header, ciphertext, tag and FCS included -/
  line : List Byte
  /-- the bytes between the packet's delimiters -/
  between : List Byte := []
  stamp : Nat
  keyChange : Bool := false
deriving DecidableEq, Repr

/-- A link port (R398–R435, R384–R392). -/
structure Port where
  setup : BitVec 32 := 0x000C0000
  eq : BitVec 32 := 0x80022280
  keyx : BitVec 32 := 0
  own : Byte := 0
  link : LinkState := .off
  defq : BitVec 16 := 0xFFFF
  /-- SEAL and KCHG_EXP -/
  sealOn : Bool := false
  kchgExp : Nat := 40
  lk0 : Option (BitVec 256) := none
  /-- none until loaded: KEYSET needs both (R384) -/
  txsalt : Option Word := none
  rxsalt : Option Word := none
  txKey : BitVec 256 := 0
  rxKey : BitVec 256 := 0
  txKeyN : Nat := 0
  rxKeyN : Nat := 0
  txCtr : Nat := 0
  rxLast : Option Nat := none
  kchgDue : Bool := false
  pktsRx : Nat := 0
  bytesRx : Nat := 0
  pktsTx : Nat := 0
  bytesTx : Nat := 0
  /-- CRC_ERR, FEC_CORR, FEC_UNCORR, LOCK_LOSS, MISS, MISS_DROP, SEAL_DROP, TAG_FAIL, REPLAY, BAD_HEADER, KEYCHG_TX, KEYCHG_RX, STEER_DROP: sub-entries 0x14–0x20 -/
  cnt : List (Nat × Nat) := []
  rx : Option RxPkt := none
  tx : Option TxPkt := none
  /-- the egress queue index served last (R412) -/
  rr : Nat := 7
  rxSeq : Nat := 0
  txSeq : Nat := 0
  /-- a seal frame that has passed the line checks and awaits its tag (R391) -/
  frame : Option (List Byte) := none
  /-- under loopback, the packets sent that the receiver has still to meet, oldest first (R404) -/
  loop : List (List Byte) := []
  /-- the last packet sent, as the line carried it -/
  lastLine : List Byte := []
  /-- the PMA may power (R573, R575, R576) -/
  released : Bool := false
deriving DecidableEq, Repr

/-- A quad (R401, R402, R396). -/
structure Quad where
  family : Nat := 0
  reffreq : Nat := 0
  kat : Nat := 0
  pllRunning : Bool := false
  pllLocked : Bool := false
deriving DecidableEq, Repr

/-- A bulk SEED write that waits for the bytes before it (R569): offset, length, the request's header bytes and rank. -/
structure HeldSeed where
  off : Nat
  len : Nat
  hdr : List Byte
  rank : Nat
deriving DecidableEq, Repr

/-- A bulk DMA channel (R436–R440). -/
structure Bdma where
  bind : Byte := 0
  port : BitVec 16 := 0
  rq : BitVec 16 := 0
  tq : BitVec 16 := 0
  requests : Nat := 0
  naks : Nat := 0
  /-- SEQ of the last 16 performed WRITEs (R440) -/
  seqs : List Nat := []
  /-- SEED writes held until a gap closes (R569) -/
  held : List HeldSeed := []
  /-- the WRITE that has been performed in part: its header, and its bytes done (R377) -/
  part : Option (List Byte × Nat) := none
  /-- its line that is held past the counter limit: plot, line, and the response once it has one (R377) -/
  wait : Option (Nat × Nat × Option Nat) := none
deriving DecidableEq, Repr

/-- A steering entry with the slot that holds it (R422, R425). -/
structure Steer where
  port : Nat
  key : Nat
  owner : Nat
  needSeal : Bool
  rank : Nat
  queue : Nat
  /-- slot 0–131,071, or 131,072 + stash slot -/
  slot : Nat
deriving DecidableEq, Repr

/-- Ports, quads, bulk channels and the steering table. -/
structure Links where
  ports : List (Nat × Port) := []
  quads : List (Nat × Quad) := []
  bdmas : List (Nat × Bdma) := []
  steer : List Steer := []
  steerSeed : BitVec 64 := 0
  /-- user object map entry by user index − 0x8000 (R512) -/
  umap : List (Nat × BitVec 64) := []
deriving DecidableEq, Repr

/-! ## Housekeeping, self-test, snapshot, service port, boundary scan -/

/-- One IVR output (R596–R605). -/
structure Rail where
  /-- set voltage in mV -/
  setMv : Nat := 0
  mv : Nat := 0
  ma : Nat := 0
  /-- 0 OFF, 1 SOFT_START, 2 REGULATING, 3 RETENTION, 4 LIMITING, 5 FAULT -/
  state : Nat := 0
  step : Nat := 0
  calm : Nat := 0
  /-- edges skipped of 16, and microseconds at j = 15 above the limit (R600) -/
  skip : Nat := 0
  overUs : Nat := 0
  /-- (start time in ns, highest reading) of the last rounds, newest first -/
  hist : List (Nat × Int) := []
  at15 : Nat := 0
deriving DecidableEq, Repr

/-- The housekeeping sequencer (R584–R611). -/
structure Hk where
  period : Nat := 4
  rounds : Nat := 0
  horizon : Nat := 64
  /-- readings in Q8.8; none shows 0x8000 -/
  temps : List (Nat × Option Int) := []
  frameTemps : List (Nat × Option Int) := []
  hottest : Option Int := none
  monitors : List (Nat × Option Int × Nat) := []
  monOut : List (Nat × Nat) := []
  phases : List (Nat × Nat) := []
  rails : List (Nat × Rail) := []
  /-- the rail records as the last round published them (R586, R605) -/
  railRec : List (Nat × Rail) := []
  roundTime : Nat := 0
  clockFaults : Nat := 0
  failedRail : Nat := 0
  /-- FAILED_RAIL as the last round published it (R586, R605) -/
  failedRec : Nat := 0
  wear : List (Nat × Wear) := []
  limpArmed : Bool := false
  ledgerDue : Bool := false
deriving DecidableEq, Repr

/-- The BIST engine (R647–R661). -/
structure Bist where
  target : BitVec 32 := 0
  alg : Byte := 0x02
  bclk : Nat := 800000
  /-- 0 IDLE, 1 RUNNING, 2 FILLING, 3 DONE -/
  state : Nat := 0
  /-- target and algorithm of the running or last test -/
  runTarget : BitVec 32 := 0
  runAlg : Byte := 0
  /-- failing bits of the running or last test -/
  fails : Nat := 0
  /-- the completion record of the last test that has ended (R655) -/
  record : List Byte := List.replicate 32 0
  cause : Nat := 0
  aborting : Bool := false
  log : List (BitVec 128) := []
  lost : Nat := 0
  started : Nat := 0
  ended : Nat := 0
  qgrant : List (Nat × BitVec 32) := []
  reclaimResult : Nat := 0
deriving DecidableEq, Repr

/-- The snapshot object's entries of one seat (R626–R633). -/
structure Snap where
  accept : Byte := 0
  buf : BitVec 32 := 0
  seqNo : Nat := 0
  lastInstant : Nat := 0
  lastStatus : Nat := 0
  skipped : Nat := 0
  ktrig : BitVec 32 := 0
  sample : BitVec 16 := 0
  ctl : List (Nat × BitVec 32) := []
  /-- the shadow records of the accepted snapshot being written, and its instant and triggers -/
  shadow : List Byte := []
  shadowRecords : Nat := 0
  instant : Nat := 0
  trigger : Byte := 0
  writing : Bool := false
deriving DecidableEq, Repr

/-- A snapshot triggered and not yet taken (R626). -/
structure SnapDue where
  instant : Nat
  seat : Nat
deriving DecidableEq, Repr

/-- The service SPI port (R550–R552). -/
structure Sspi where
  result : Byte := 0
  next : BitVec 32 := 0
  verified : Bool := false
  /-- the last 16 bytes shifted out -/
  out : List Byte := []
deriving DecidableEq, Repr

/-- The JTAG TAP (R662–R664). -/
structure Jtag where
  ir : Byte := 0x01
  dr : Nat := 0x1C512153
  /-- the update stage of the boundary register, cell by cell -/
  boundary : List Bool := []
  /-- the last reply of MEMACC or DEBUG: response and data -/
  resp : Nat := 0
  data : BitVec 512 := 0
deriving DecidableEq, Repr

/-- Housekeeping and the other engines of the AON domain, the MC and the BIST. -/
structure Mc where
  hk : Hk := {}
  bist : Bist := {}
  snaps : List (Nat × Snap) := []
  snapDue : List SnapDue := []
  sspi : Sspi := {}
  jtag : Jtag := {}
  orders : List Order := []
  /-- the turns whose re-check has begun (R671, R672) -/
  window : Bool := false
  /-- WRITEs held by the application window (R675) -/
  heldWrites : List Req := []
  /-- requests of a user object or a segmented transfer that wait for the fill of a scratchpad block, oldest first, each with its function code (R175) -/
  heldFill : List (Nat × Req) := []
  /-- reply frames that the last bus frame drew, oldest first -/
  out : List Reply := []
  /-- shadows copied at a turn's tick before its values acted: instant and, for each seat, its records in bytes and their number (R625) -/
  preSnap : List (Nat × List (Nat × List Byte × Nat)) := []
  tokenResult : Nat := 0
deriving DecidableEq, Repr

/-- The device. -/
structure State where
  aon : Aon := {}
  nv : Nv := {}
  seats : List (Nat × SeatRec) := []
  fab : Fabric := {}
  net : Net := {}
  eng : Engines := {}
  stk : Stack := {}
  lnk : Links := {}
  mc : Mc := {}
  /-- the commands that wait, first in, first out -/
  pending : List Instr := []
deriving DecidableEq, Repr

/-- The device before VDD_AON becomes valid for the first time: OTP and MRAM as the log names them, everything else at its reset value. (DESIGN CHOICE, log 3) (DESIGN CHOICE, log 4) -/
def State.reset : State := {}

/-- What stops the machine with a fault. -/
inductive Fault where
  /-- No rule of the spec stops this device with a fault; the constructor keeps the type inhabited and no meaning answers it (safe). -/
  | never
deriving DecidableEq, Repr

/-- Why a command is refused. -/
inductive Refusal where
  /-- An arm of the dispatch that has no meaning yet (safe). -/
  | notModelled (mnemonic : String)
  /-- DEBUG in Test mode reaches MC firmware state, of which the spec gives neither layout nor effect (R664) (safe). -/
  | debugTarget
deriving DecidableEq, Repr

end Sys2Proof.Machine
end

