-- ==== Sys2Proof/Machine/Ops.lean ====
section
/-! DEFINITION. The named operations over the state: one read and one write for each table, ownership, the power and mode tests, the time base, attention, and the drawing of free values. -/

namespace Sys2Proof.Machine

/-- What a command answers. -/
abbrev Out := Host.Outcome State Fault Refusal

/-! ## Tables of the fabric -/

def Fabric.plot (f : Fabric) (p : Nat) : Plot := tget {} f.plots p
def Fabric.setPlot (f : Fabric) (p : Nat) (v : Plot) : Fabric := { f with plots := tput {} f.plots p v }
def Fabric.hand (f : Fabric) (p h : Nat) : Hand := tget {} f.hands (8 * p + h)
def Fabric.setHand (f : Fabric) (p h : Nat) (v : Hand) : Fabric := { f with hands := tput {} f.hands (8 * p + h) v }
/-- The slot word of an unwritten slot: YIDLE and IDLE are 1 (R109). -/
def slotReset : BitVec 32 := 0x00808000
/-- DESIGN CHOICE, log 5. -/
def Fabric.slot (f : Fabric) (p k : Nat) : BitVec 32 := tget slotReset f.slots (64 * p + k)
def Fabric.setSlot (f : Fabric) (p k : Nat) (v : BitVec 32) : Fabric := { f with slots := tput slotReset f.slots (64 * p + k) v }
/-- Words of one hand store (R98). -/
def handWords : Nat := 46080
/-- DESIGN CHOICE, log 5. -/
def Fabric.cfgWord (f : Fabric) (p h w : Nat) : BitVec 64 := tget 0 f.cfg (handWords * (8 * p + h) + w)
def Fabric.setCfgWord (f : Fabric) (p h w : Nat) (v : BitVec 64) : Fabric :=
  { f with cfg := tput 0 f.cfg (handWords * (8 * p + h) + w) v }
def Fabric.cfgErrAt (f : Fabric) (p h w : Nat) : BitVec 72 := tget 0 f.cfgErr (handWords * (8 * p + h) + w)
def Fabric.setCfgErr (f : Fabric) (p h w : Nat) (v : BitVec 72) : Fabric :=
  { f with cfgErr := tput 0 f.cfgErr (handWords * (8 * p + h) + w) v }
/-- The value of a word as its bonds carry it: what was sown with the bits that have flipped since (R146–R148). -/
def Fabric.cfgBits (f : Fabric) (p h w : Nat) : BitVec 64 := f.cfgWord p h w ^^^ (f.cfgErrAt p h w).setWidth 64
def Fabric.kittyReg (f : Fabric) (p k : Nat) : BitVec 32 := tget 0 f.kitty (2048 * p + k)
def Fabric.setKittyReg (f : Fabric) (p k : Nat) (v : BitVec 32) : Fabric := { f with kitty := tput 0 f.kitty (2048 * p + k) v }
def Fabric.kownAt (f : Fabric) (p b : Nat) : Byte := tget 0 f.kown (32 * p + b)
def Fabric.setKown (f : Fabric) (p b : Nat) (v : Byte) : Fabric := { f with kown := tput 0 f.kown (32 * p + b) v }
def Fabric.kwatchAt (f : Fabric) (p b : Nat) : BitVec 64 := tget 0 f.kwatch (32 * p + b)
def Fabric.setKwatch (f : Fabric) (p b : Nat) (v : BitVec 64) : Fabric := { f with kwatch := tput 0 f.kwatch (32 * p + b) v }
def Fabric.bm (f : Fabric) (p k : Nat) : Bm := tget {} f.bms (64 * p + k)
def Fabric.setBm (f : Fabric) (p k : Nat) (v : Bm) : Fabric := { f with bms := tput {} f.bms (64 * p + k) v }
/-- A fabric PLL at its default is in the group of its own number (R498). -/
def fpllReset (k : Nat) : Fpll := { group := k }
def Fabric.fpll (f : Fabric) (k : Nat) : Fpll := tget (fpllReset k) f.fplls k
def Fabric.setFpll (f : Fabric) (k : Nat) (v : Fpll) : Fabric := { f with fplls := tput (fpllReset k) f.fplls k v }
def Fabric.bank (f : Fabric) (b : Nat) : Bank := tget {} f.banks b
def Fabric.setBank (f : Fabric) (b : Nat) (v : Bank) : Fabric := { f with banks := tput {} f.banks b v }
/-- No value in the difference table (R136). -/
def noDiff : Nat := 0xFFFFFFFF
/-- The place of the pair a < b in the difference table (R502). -/
def diffIx (a b : Nat) : Nat := a * (15 - a) / 2 + (b - a - 1)
def Fabric.diffAt (f : Fabric) (p a b : Nat) : Nat := tget noDiff f.diff (28 * p + diffIx (min a b) (max a b))
def Fabric.setDiff (f : Fabric) (p a b v : Nat) : Fabric :=
  { f with diff := tput noDiff f.diff (28 * p + diffIx (min a b) (max a b)) v }
def Fabric.rbitsAt (f : Fabric) (p s : Nat) : Nat := tget 0 f.rbits (8 * p + s)
def Fabric.setRbits (f : Fabric) (p s v : Nat) : Fabric := { f with rbits := tput 0 f.rbits (8 * p + s) v }
def State.onFab (s : State) (g : Fabric → Fabric) : State := { s with fab := g s.fab }

/-! ## Tables of the queue network -/

def Net.queue (n : Net) (q : Nat) : Queue := tget {} n.queues q
def Net.setQueue (n : Net) (q : Nat) (v : Queue) : Net := { n with queues := tput {} n.queues q v }
def Net.handChanAt (n : Net) (k : Nat) : Chan := tget {} n.handChan k
def Net.setHandChan (n : Net) (k : Nat) (v : Chan) : Net := { n with handChan := tput {} n.handChan k v }
def Net.threadChanAt (n : Net) (k : Nat) : Chan := tget {} n.threadChan k
def Net.setThreadChan (n : Net) (k : Nat) (v : Chan) : Net := { n with threadChan := tput {} n.threadChan k v }
def Net.onScr (n : Net) (g : Scratch → Scratch) : Net := { n with scr := g n.scr }
def Scratch.ownAt (c : Scratch) (k : Nat) : Byte := tget 0 c.own k
def Scratch.setOwn (c : Scratch) (k : Nat) (v : Byte) : Scratch := { c with own := tput 0 c.own k v }
/-- DESIGN CHOICE, log 5. -/
def Scratch.byte (c : Scratch) (a : Nat) : Byte := tget 0 c.cells a
def Scratch.setByte (c : Scratch) (a : Nat) (v : Byte) : Scratch := { c with cells := tput 0 c.cells a v }
def Scratch.errAt (c : Scratch) (w : Nat) : BitVec 144 := tget 0 c.err w
def Scratch.setErr (c : Scratch) (w : Nat) (v : BitVec 144) : Scratch := { c with err := tput 0 c.err w v }
def State.onNet (s : State) (g : Net → Net) : State := { s with net := g s.net }

/-- A producer of a queue (R205). -/
def Queue.prod (q : Queue) (i : Nat) : Prod := tget {} q.prods i
def Queue.setProd (q : Queue) (i : Nat) (v : Prod) : Queue := { q with prods := tput {} q.prods i v }

/-! ## Tables of the engines -/

def Engines.engine (e : Engines) (p : Nat) : Engine := tget {} e.engines p
def Engines.setEngine (e : Engines) (p : Nat) (v : Engine) : Engines := { e with engines := tput {} e.engines p v }
def Engines.thread (e : Engines) (p h : Nat) : Thread := tget {} e.threads (8 * p + h)
def Engines.setThread (e : Engines) (p h : Nat) (v : Thread) : Engines := { e with threads := tput {} e.threads (8 * p + h) v }
def Engines.slotCnt (e : Engines) (p h : Nat) : SlotCnt := tget {} e.slots (8 * p + h)
def Engines.setSlotCnt (e : Engines) (p h : Nat) (v : SlotCnt) : Engines := { e with slots := tput {} e.slots (8 * p + h) v }
def Engines.epll (e : Engines) (k : Nat) : Epll := tget {} e.eplls k
def Engines.setEpll (e : Engines) (k : Nat) (v : Epll) : Engines := { e with eplls := tput {} e.eplls k v }
def imemSize : Nat := 131072
def dmemSize : Nat := 65536
/-- DESIGN CHOICE, log 5. -/
def Engines.imByte (e : Engines) (p a : Nat) : Byte := tget 0 e.imem (imemSize * p + a)
def Engines.setImByte (e : Engines) (p a : Nat) (v : Byte) : Engines := { e with imem := tput 0 e.imem (imemSize * p + a) v }
/-- DESIGN CHOICE, log 5. -/
def Engines.dmByte (e : Engines) (p a : Nat) : Byte := tget 0 e.dmem (dmemSize * p + a)
def Engines.setDmByte (e : Engines) (p a : Nat) (v : Byte) : Engines := { e with dmem := tput 0 e.dmem (dmemSize * p + a) v }
/-- The little-endian word at a byte address of instruction memory. -/
def Engines.imWord (e : Engines) (p a : Nat) : Word :=
  BitVec.ofNat 32 (leNat [e.imByte p a, e.imByte p (a + 1), e.imByte p (a + 2), e.imByte p (a + 3)])
/-- The little-endian word at a byte address of local data memory. -/
def Engines.dmWord (e : Engines) (p a : Nat) : Word :=
  BitVec.ofNat 32 (leNat [e.dmByte p a, e.dmByte p (a + 1), e.dmByte p (a + 2), e.dmByte p (a + 3)])
def Engines.setDmWord (e : Engines) (p a : Nat) (v : Word) : Engines :=
  (((e.setDmByte p a (v.setWidth 8)).setDmByte p (a + 1) ((v >>> 8).setWidth 8)).setDmByte p (a + 2)
    ((v >>> 16).setWidth 8)).setDmByte p (a + 3) ((v >>> 24).setWidth 8)
def State.onEng (s : State) (g : Engines → Engines) : State := { s with eng := g s.eng }

/-! ## Tables of the risers -/

def Stack.riser (k : Stack) (p : Nat) : Riser := tget {} k.risers p
def Stack.setRiser (k : Stack) (p : Nat) (v : Riser) : Stack := { k with risers := tput {} k.risers p v }
def Stack.region (k : Stack) (p r : Nat) : Region := tget {} k.regions (32 * p + r)
def Stack.setRegion (k : Stack) (p r : Nat) (v : Region) : Stack := { k with regions := tput {} k.regions (32 * p + r) v }
def State.onStk (s : State) (g : Stack → Stack) : State := { s with stk := g s.stk }

/-! ## Tables of the links -/

def Links.port (l : Links) (n : Nat) : Port := tget {} l.ports n
def Links.setPort (l : Links) (n : Nat) (v : Port) : Links := { l with ports := tput {} l.ports n v }
def Links.quad (l : Links) (k : Nat) : Quad := tget {} l.quads k
def Links.setQuad (l : Links) (k : Nat) (v : Quad) : Links := { l with quads := tput {} l.quads k v }
def Links.bdma (l : Links) (k : Nat) : Bdma := tget {} l.bdmas k
def Links.setBdma (l : Links) (k : Nat) (v : Bdma) : Links := { l with bdmas := tput {} l.bdmas k v }
def Links.umapAt (l : Links) (k : Nat) : BitVec 64 := tget 0 l.umap k
def Links.setUmap (l : Links) (k : Nat) (v : BitVec 64) : Links := { l with umap := tput 0 l.umap k v }
def State.onLnk (s : State) (g : Links → Links) : State := { s with lnk := g s.lnk }

/-! ## Seats and the management engines -/

def State.seat (s : State) (k : Nat) : SeatRec := tget {} s.seats k
def State.setSeat (s : State) (k : Nat) (v : SeatRec) : State := { s with seats := tput {} s.seats k v }
def State.onSeat (s : State) (k : Nat) (g : SeatRec → SeatRec) : State := s.setSeat k (g (s.seat k))
/-- The snapshot entries of a seat at their defaults: it accepts its own snapshots (R633). -/
def snapReset (k : Nat) : Snap := { accept := BitVec.ofNat 8 (2 ^ k) }
def Mc.snap (m : Mc) (k : Nat) : Snap := tget (snapReset k) m.snaps k
def Mc.setSnap (m : Mc) (k : Nat) (v : Snap) : Mc := { m with snaps := tput (snapReset k) m.snaps k v }
def State.onMc (s : State) (g : Mc → Mc) : State := { s with mc := g s.mc }
def State.onHk (s : State) (g : Hk → Hk) : State := { s with mc := { s.mc with hk := g s.mc.hk } }
def State.onAon (s : State) (g : Aon → Aon) : State := { s with aon := g s.aon }
def State.onNv (s : State) (g : Nv → Nv) : State := { s with nv := g s.nv }
def State.onMap (s : State) (g : FallowMap → FallowMap) : State := { s with nv := { s.nv with map := g s.nv.map } }
def FallowMap.riser (m : FallowMap) (p : Nat) : RiserMap := tget {} m.risers p
def FallowMap.setRiser (m : FallowMap) (p : Nat) (v : RiserMap) : FallowMap := { m with risers := tput {} m.risers p v }
/-- Retirement slot k of riser p (R330). -/
def FallowMap.retireSlot (m : FallowMap) (p k : Nat) : BitVec 32 := tget 0 m.retire (64 * p + k)
def Hk.rail (h : Hk) (k : Nat) : Rail := tget {} h.rails k
def Hk.setRail (h : Hk) (k : Nat) (v : Rail) : Hk := { h with rails := tput {} h.rails k v }

/-! ## Ranges -/

/-- A value lies in a range. -/
def inRange (lo hi v : Nat) : Bool := decide (lo ≤ v) && decide (v ≤ hi)

/-! ## Numbers derived from a plot (R23–R32) -/

def columnOf (p : Nat) : Nat := p % 256
/-- 0 for F0, 1 for F1. -/
def dieOf (p : Nat) : Nat := p / 256
def pairOf (p : Nat) : Nat := if p < 256 then p + 256 else p - 256
/-- The plot whose table and sequencer drive plot p (R121). -/
def Fabric.yoked (f : Fabric) (p : Nat) : Bool := (f.plot (columnOf p)).yoke
/-- DEDUCED, log 46. -/
def Fabric.seqPlot (f : Fabric) (p : Nat) : Nat := if f.yoked p then columnOf p else p
/-- The neighbour of plot p to the north, east, south or west (0–3), if it exists (R28). -/
def neighbour (p d : Nat) : Option Nat :=
  let c := columnOf p
  match d with
  | 0 => if c < 16 then none else some (p - 16)
  | 1 => if c % 16 = 15 then none else some (p + 1)
  | 2 => if 240 ≤ c then none else some (p + 16)
  | 3 => if c % 16 = 0 then none else some (p - 1)
  | _ => none
/-- The fabric PLL of a plot (R89). -/
def fpllOf (p : Nat) : Nat :=
  let c := columnOf p
  4 * dieOf p + 2 * (c / 128) + c % 16 / 8

/-! ## Ownership (R493) -/

/-- The seat an owner word names, if its OWNED bit is 1. -/
def ownerOf (w : Byte) : Option Nat := if w.getLsbD 7 then some (w.toNat % 8) else none
/-- The owner word that names a seat. -/
def ownWord (k : Nat) : Byte := BitVec.ofNat 8 (128 + k % 8)
def Fabric.handOwner (f : Fabric) (p h : Nat) : Option Nat := ownerOf (f.hand p h).own
def Fabric.bmOwner (f : Fabric) (p k : Nat) : Option Nat := ownerOf (((f.bm p k).word >>> 24).setWidth 8)
/-- The owner of a slot: the OWNED and OWNER fields of its word (R109). -/
def slotOwner (w : BitVec 32) : Option Nat := if w.getLsbD 31 then some (bits w 30 28) else none
def Stack.regionOwner (k : Stack) (p r : Nat) : Option Nat := ownerOf (k.region p r).own

/-! ## Power and modes -/

/-- The stack and B core carry state and run: every mode in which they are on (R527). -/
def State.stackOn (s : State) : Bool :=
  s.aon.powered && match s.aon.mode with
  | some .sowing => true | some .field => true | some .limp => true | some .test => true | _ => false
/-- The stack and B core hold their values (R519, R536). -/
def State.stackHeld (s : State) : Bool := s.stackOn || (s.aon.powered && s.aon.mode == some .retention)
/-- The clocks of the stack run: it is on and no transition into or out of Retention is under way (R535, R537). -/
def State.clocksOn (s : State) : Bool := s.stackOn && !s.aon.moving
/-- The MC runs firmware and step 1 has ended (R517). -/
def State.mcUp (s : State) : Bool := s.aon.powered && s.aon.mode.isSome
/-- The dictionary answers over the bus: every mode but Recovery (R458). -/
def State.busUp (s : State) : Bool := s.mcUp && s.aon.mode != some .recovery
def State.plotFallowed (s : State) (p : Nat) : Bool := s.nv.map.plots.contains p
/-- The life-cycle state that the OTP bits give (R636). -/
def Nv.life (n : Nv) : Life :=
  if n.lcDecom then .decommissioned
  else if n.lcOwn then (if n.svcCount % 2 = 1 then .service else .owned)
  else if n.lcMfg then .manufacture else .blank

/-! ## Time -/

/-- The nanoseconds and seconds of an instant as the ten bytes of a TIME80 value (R450). -/
def time80 (t : Nat) : List Byte := leBytes 4 (t % 1000000000) ++ leBytes 6 (t / 1000000000)
/-- The instant of a TIME80 value. -/
def ofTime80 (l : List Byte) : Nat := leField l 4 6 * 1000000000 + leField l 0 4
/-- The largest value of the time base, (2^48 − 1) s 999,999,999 ns (R432). -/
def maxTime : Nat := 281474976710656 * 1000000000 - 1
/-- One AON tick of the time base: 250 ns, with FREQ_ADJ applied in units of 2^-40 and the fraction kept; the counter stays at its maximum (R431, R432). -/
def tick (s : State) : State :=
  if s.aon.powered then
    let sum : Int := (s.aon.rem : Int) + 250 * (1099511627776 + s.aon.freqAdj.toInt)
    s.onAon fun a => { a with now := min maxTime (a.now + (sum / 1099511627776).toNat), rem := (sum % 1099511627776).toNat }
  else s

/-! ## Free values -/

/-- Advance the counter from which free values are drawn. (DESIGN CHOICE, log 8) -/
def State.drawn (s : State) : State := s.onAon fun a => { a with free := a.free + 1 }

/-- INDEX of an event that concerns no record of the dictionary, which R474 and R516 leave open. (DESIGN CHOICE, log 24) -/
def State.freeIndex (s : State) : Nat := Config.freeNat s.aon.free % 65536

/-! ## Attention (R473, R516) -/

/-- A seat has a credential: seat 0's is written at provisioning, the others' by the dealer (R451). -/
def hasCred (nv : Nv) (k : Nat) (r : SeatRec) : Bool :=
  if k = 0 then nv.cred0X != 0 || nv.cred0Y != 0 else r.credX != 0 || r.credY != 0

/-- An attention event on its way: seat, code, index and the two detail words. -/
structure Event where
  seat : Nat
  code : Nat
  index : Nat := 0
  a : Nat := 0
  b : Nat := 0
deriving DecidableEq, Repr

/-- Record one event in its seat: the next sequence number, the class pending, the latest event of the class and its count (R473, R474). (DEDUCED, log 23) -/
def SeatRec.note (r : SeatRec) (now : Nat) (e : Event) : SeatRec :=
  let c := e.code / 256
  let n := wrap32 (r.attnSeq + 1)
  { r with
    attnSeq := n
    pend := r.pend ||| BitVec.ofNat 8 (2 ^ c)
    events := tput {} r.events c { seq := n, time := now, code := e.code, index := e.index, a := e.a, b := e.b }
    counts := tput 0 r.counts c (sat16 (tget 0 r.counts c + 1)) }

/-- Raise one event; a seat without a credential gets none (R473). -/
def raiseIn (nv : Nv) (now : Nat) (seats : List (Nat × SeatRec)) (e : Event) : List (Nat × SeatRec) :=
  let r := tget {} seats e.seat
  if hasCred nv e.seat r then tput {} seats e.seat (r.note now e) else seats

def State.raise (s : State) (e : Event) : State := { s with seats := raiseIn s.nv s.aon.now s.seats e }
def State.raiseAll (s : State) (es : List Event) : State :=
  { s with seats := es.foldl (raiseIn s.nv s.aon.now) s.seats }

/-- An event that a rule raises only the first time in a housekeeping round: `key` names the rule's resource (R143, R164, R184, R326). (DEDUCED, log 25) -/
def State.raiseOnce (s : State) (e : Event) (key : Nat) : State :=
  let r := s.seat e.seat
  if r.raised.contains (e.code, key) then s
  else (s.raise e).onSeat e.seat fun r => { r with raised := (e.code, key) :: r.raised }

/-- Events for each of the seats of a list, without repeats. -/
def eventsFor (seats : List Nat) (code index a b : Nat) : List Event :=
  seats.eraseDups.map fun k => { seat := k, code := code, index := index, a := a, b := b }

/-- The eight seats. -/
def allSeats : List Nat := [0, 1, 2, 3, 4, 5, 6, 7]

/-- P of R516: a plot in bits [8:0] and a second field in bits [15:9]. -/
def plotWith (p x : Nat) : Nat := p + 512 * x

/-- Replies of the last command. -/
def State.send (s : State) (r : Reply) : State := s.onMc fun m => { m with out := m.out ++ [r] }

/-- Remove the first order equal to `o`. (DESIGN CHOICE, log 16) -/
def takeOrder (o : Order) : List Order → Option (List Order)
  | [] => none
  | x :: t => if x = o then some t else (takeOrder o t).map (x :: ·)

end Sys2Proof.Machine
end

