-- ==== Sys2Proof/Machine/Flags.lean ====
section
/-! DEFINITION. The codes that replies and responses carry: bus responses and their order, dictionary error codes and their order, the session state and the status byte. -/

namespace Sys2Proof.Machine

/-! ## Bus responses (R318, R319) -/

def respOkay : Nat := 0
def respUncorr : Nat := 1
def respIntegrity : Nat := 2
def respProtected : Nat := 3
def respRetired : Nat := 4
def respTestBusy : Nat := 5
def respRiserDown : Nat := 6
def respPathReset : Nat := 7
def respHoldTimeout : Nat := 8

/-- The order in which the channel engine chooses among responses that apply together (R319). -/
def respOrder : List Nat :=
  [respRiserDown, respPathReset, respProtected, respTestBusy, respRetired, respHoldTimeout, respUncorr, respIntegrity, respOkay]
/-- The one response of a request to which all those of a list apply; OKAY when none does. -/
def firstResp (l : List Nat) : Nat := (respOrder.find? fun r => l.contains r).getD respOkay

/-! ## Dictionary error codes (R476, R477) -/

def errOk : Nat := 0x00
def errNoObject : Nat := 0x01
def errNoSubindex : Nat := 0x02
def errAccess : Nat := 0x03
def errTypeLength : Nat := 0x04
def errRange : Nat := 0x05
def errState : Nat := 0x06
def errBusy : Nat := 0x07
def errBlockInTest : Nat := 0x08
def errCheckFailed : Nat := 0x09
def errStageFull : Nat := 0x0A
def errNotOwner : Nat := 0x0B
def errAuth : Nat := 0x0C
def errLifecycle : Nat := 0x0D
def errSequence : Nat := 0x0E
def errSegment : Nat := 0x0F
def errTurnLate : Nat := 0x10
def errResource : Nat := 0x11
def errFallowed : Nat := 0x12
def errIntegrity : Nat := 0x13
def errUncorrectable : Nat := 0x14
def errPathReset : Nat := 0x15
def errRiserDown : Nat := 0x16
def errThermal : Nat := 0x17

/-- The order of the error codes (R477). (DEDUCED, log 83) -/
def errOrder : List Nat :=
  [errAuth, errSequence, errLifecycle, errNoObject, errNoSubindex, errAccess, errTypeLength, errRange, errNotOwner,
   errState, errBusy, errThermal, errTurnLate, errStageFull, errResource, errFallowed, errBlockInTest, errSegment,
   errCheckFailed, errRiserDown, errPathReset, errUncorrectable, errIntegrity]
/-- The code returned when all those of a list apply; OK when none does. (DEDUCED, log 83) -/
def firstErr (l : List Nat) : Nat := (errOrder.find? fun e => l.contains e).getD errOk
/-- The codes of a list of conditions that hold. -/
def errsOf (l : List (Bool × Nat)) : List Nat := (l.filter fun e => e.1).map fun e => e.2

/-- The error code with which the MC reports a bus response over the dictionary (R318). -/
def errOfResp (r : Nat) : Nat :=
  if r = respOkay then errOk else if r = respUncorr then errUncorrectable else if r = respIntegrity then errIntegrity
  else if r = respProtected then errAccess else if r = respRetired then errResource else if r = respTestBusy then errBlockInTest
  else if r = respRiserDown then errRiserDown else if r = respPathReset then errPathReset else errBusy

/-! ## Check reasons (R480) -/

def whyOwnership : Nat := 1
def whyCapacity : Nat := 2
def whyYoke : Nat := 3
def whyContention : Nat := 4
def whyClock : Nat := 5
def whyPower : Nat := 6
def whyKey : Nat := 7
def whyState : Nat := 8
def whyTableFull : Nat := 9
def whyQuota : Nat := 10
def whyBinding : Nat := 11
def whyCombination : Nat := 12
def whyDigest : Nat := 13
def whyHeader : Nat := 14

/-! ## The status byte (R472) -/

/-- The session state (R472): 0 none, 1 opening, 2 open, 3 renew, once a counter has passed 2^32 − 2^16. -/
def sessionState (r : SeatRec) : Nat :=
  if r.isOpen then (if 4294901760 < r.reqCtr || 4294901760 < r.repCtr then 3 else 2)
  else if r.opening.isSome then 1 else 0

/-- The highest pending attention class, 0 when none is (R472). -/
def attnClass (r : SeatRec) : Nat := ([7, 6, 5, 4, 3, 2, 1].find? fun c => r.pend.getLsbD c).getD 0

/-- The status byte of a seat (R472). -/
def statusByte (r : SeatRec) : Byte :=
  let attn := attnClass r
  let pending := (match r.turn with | some t => t.at?.isSome | none => false) || !r.deferred.isEmpty
  BitVec.ofNat 8 ((if attn = 0 then 0 else 128) + 16 * attn + (if r.staged.isEmpty then 0 else 8) + (if pending then 4 else 0) + sessionState r)

end Sys2Proof.Machine
end

