-- ==== Sys2Proof/Machine/Crypto.lean ====
section
/-! DEFINITION. AES-256-GCM over byte strings, built from the block cipher and GHASH that the spec cites by standard (R387, R394, R562), and the byte order of keys and digests. -/

namespace Sys2Proof.Machine

/-- The `n` bytes of a number, most significant first. -/
def beBytes (n v : Nat) : List Byte := (leBytes n v).reverse
/-- The leftmost 256 bits of an HMAC. -/
def left256 (x : BitVec 384) : BitVec 256 := BitVec.ofNat 256 (x.toNat >>> 128)
/-- The number whose `n` most-significant-first bytes a byte string holds, filled with zeros to n bytes. -/
def beFill (n : Nat) (l : List Byte) : Nat := leNat ((l ++ List.replicate (n - l.length) 0).reverse)
/-- The 16-byte blocks of a byte string, the last one filled with zeros. -/
def gcmBlocks (l : List Byte) : List (BitVec 128) :=
  (List.range ((l.length + 15) / 16)).map fun j => BitVec.ofNat 128 (beFill 16 ((l.drop (16 * j)).take 16))
/-- Counter block j of a 96-bit IV; block 1 masks the tag. -/
def gcmCounter (iv : List Byte) (j : Nat) : BitVec 128 := BitVec.ofNat 128 (beFill 16 (iv ++ beBytes 4 j))
/-- At least `n` keystream bytes, from counter block 2 on. -/
def gcmStream (k : BitVec 256) (iv : List Byte) (n : Nat) : List Byte :=
  (List.range ((n + 15) / 16)).flatMap fun j => beBytes 16 (Config.aes256 k (gcmCounter iv (j + 2))).toNat
/-- Encrypt or decrypt a byte string, or the first bytes of one. -/
def gcmCrypt (k : BitVec 256) (iv l : List Byte) : List Byte := List.zipWith (fun a b => a ^^^ b) l (gcmStream k iv l.length)
/-- The 16 tag bytes of additional data and ciphertext. -/
def gcmTag (k : BitVec 256) (iv aad c : List Byte) : List Byte :=
  let h := Config.aes256 k 0
  let len := BitVec.ofNat 128 (8 * aad.length * 2 ^ 64 + 8 * c.length)
  beBytes 16 (Config.ghash h (gcmBlocks aad ++ gcmBlocks c ++ [len]) ^^^ Config.aes256 k (gcmCounter iv 1)).toNat
/-- Ciphertext and tag of a plaintext. -/
def gcmSeal (k : BitVec 256) (iv aad l : List Byte) : List Byte := let c := gcmCrypt k iv l; c ++ gcmTag k iv aad c
/-- The last 16 bytes are the tag of the bytes before them. -/
def gcmGood (k : BitVec 256) (iv aad l : List Byte) : Bool := l.drop (l.length - 16) == gcmTag k iv aad (l.take (l.length - 16))

end Sys2Proof.Machine
end

