-- ==== Sys2Proof/Machine/Line.lean ====
section
/-! DEFINITION. The stored line: GF(2^8) and the RS(80,76) code, the CRC-64, the line identifier, the fill, and sealing a line (R309–R313, R335, R359–R362). -/

namespace Sys2Proof.Machine

/-! ## GF(2^8) (R312) -/

/-- Multiply by α. -/
def gfDouble (a : Nat) : Nat := if 128 ≤ a then ((2 * a) ^^^ 0x11D) % 256 else 2 * a
/-- Multiply by the low `n` bits of `b`. -/
def gfMulBits (a b : Nat) : Nat → Nat
  | 0 => 0
  | n + 1 => (if b.testBit 0 then a else 0) ^^^ gfMulBits (gfDouble a) (b / 2) n
def gfMul (a b : Nat) : Nat := gfMulBits a b 8
/-- α^n. -/
def gfPow : Nat → Nat
  | 0 => 1
  | n + 1 => gfDouble (gfPow n)

/-! ## RS(80,76) (R312, R313) -/

/-- One message byte enters the division by g(x): the remainder's coefficients of x^3, x^2, x and 1. -/
def rsStep (r : Nat × Nat × Nat × Nat) (b : Nat) : Nat × Nat × Nat × Nat :=
  let f := r.1 ^^^ b
  (r.2.1 ^^^ gfMul f 0x0F, r.2.2.1 ^^^ gfMul f 0x36, r.2.2.2 ^^^ gfMul f 0x78, gfMul f 0x40)
/-- The four parity symbols of bytes 0–75, the coefficient of x^3 first. -/
def rsParity (m : List Nat) : List Nat :=
  let r := m.foldl rsStep (0, 0, 0, 0)
  [r.1, r.2.1, r.2.2.1, r.2.2.2]
/-- Syndrome c(α^j) of the 80 bytes of a line, byte i the coefficient of x^(79 − i). -/
def syndrome (l : List Nat) (j : Nat) : Nat := l.foldl (fun acc b => gfMul acc (gfPow j) ^^^ b) 0

/-- What decoding finds: clean, one or two corrected symbols (byte position and value to add), or an error pattern beyond two symbols. -/
inductive Decoded where
  | clean
  | fixed (l : List (Nat × Nat))
  | fails
deriving DecidableEq, Repr

/-- A single symbol error that explains the syndromes: S_j = v × α^(j × e) at exponent e. -/
def oneError (s0 s1 s2 s3 : Nat) : Option (List (Nat × Nat)) :=
  ((List.range 80).find? fun i =>
    let x := gfPow (79 - i)
    s0 != 0 && gfMul s0 x == s1 && gfMul s1 x == s2 && gfMul s2 x == s3).map fun i => [(i, s0)]
/-- Two symbol errors that explain the syndromes. -/
def twoErrors (s0 s1 s2 s3 : Nat) : Option (List (Nat × Nat)) :=
  (List.range 80).findSome? fun i => (List.range i).findSome? fun k =>
    let x := gfPow (79 - i)
    let y := gfPow (79 - k)
    let a := x ^^^ y
    let b := gfMul x y
    if s2 = gfMul a s1 ^^^ gfMul b s0 && s3 = gfMul a s2 ^^^ gfMul b s1 then
      -- the value at k: (x + y) × w = S_1 + S_0 × x
      ((List.range 256).find? fun w => gfMul a w = s1 ^^^ gfMul s0 x).bind fun w =>
        if w != 0 && w != s0 then some [(k, w), (i, s0 ^^^ w)] else none
    else none
/-- Decode the 80 bytes of a line for up to two symbol errors (R313). -/
def rsDecode (l : List Nat) : Decoded :=
  let s := fun j => syndrome l j
  if s 0 = 0 && s 1 = 0 && s 2 = 0 && s 3 = 0 then .clean
  else match oneError (s 0) (s 1) (s 2) (s 3) with
    | some e => .fixed e
    | none => match twoErrors (s 0) (s 1) (s 2) (s 3) with
      | some e => .fixed e
      | none => .fails

/-! ## CRC-64 (R310) -/

/-- `n` shifts of the register. -/
def crc64Bits (c : Nat) : Nat → Nat
  | 0 => c
  | n + 1 => crc64Bits (if c.testBit 63 then ((2 * c) % 2 ^ 64) ^^^ 0x42F0E1EBA9EA3693 else 2 * c) n
/-- CRC-64 with the ECMA-182 polynomial, initial value 0, no reflection, no final inversion. -/
def crc64 (l : List Nat) : Nat := l.foldl (fun c b => crc64Bits (c ^^^ (b <<< 56)) 8) 0

/-! ## The line and its identifier (R292, R309, R310) -/

/-- Bytes of a vector, byte 0 in its low bits. -/
def bytesOf (x n : Nat) : List Nat := (List.range n).map fun i => (x >>> (8 * i)) % 256
/-- The number that a list of bytes spells, byte 0 in its low bits. -/
def ofBytes : List Nat → Nat
  | [] => 0
  | b :: t => b % 256 + 256 * ofBytes t
/-- Line identifier: p × 2^19 + address [24:6]. -/
def lineId (p a : Nat) : Nat := p * 524288 + a
/-- Region of a line address of a plot: address [24:20] (R292). -/
def lineRegion (a : Nat) : Nat := a / 16384
/-- Page of a line address of a plot: address [24:12]. -/
def linePage (a : Nat) : Nat := a / 64
/-- The CRC of DATA and the identifier. -/
def lineCrc (id : Nat) (data : BitVec 512) : Nat := crc64 (bytesOf data.toNat 64 ++ bytesOf id 8)
/-- The stored line of payload, tag and WCOUNT with valid parity. -/
def encodeLine (data : BitVec 512) (tag : Nat) (wcount : Nat) : BitVec 640 :=
  let m := data.toNat + tag * 2 ^ 512 + wcount * 2 ^ 576
  BitVec.ofNat 640 (m + ofBytes (rsParity (bytesOf m 76)) * 2 ^ 608)
/-- The stored line of an open region (R310, R311). -/
def openLine (id : Nat) (data : BitVec 512) : BitVec 640 := encodeLine data (lineCrc id data) 0
def lineData (l : BitVec 640) : BitVec 512 := l.setWidth 512
def lineTag (l : BitVec 640) : BitVec 64 := BitVec.ofNat 64 (l.toNat >>> 512)
def lineWcount (l : BitVec 640) : BitVec 32 := BitVec.ofNat 32 (l.toNat >>> 576)
def lineEpoch (l : BitVec 640) : Bool := (lineWcount l).getLsbD 31
def lineCount (l : BitVec 640) : Nat := bits (lineWcount l) 30 0
/-- Put the corrected symbols of a decoding into a line. -/
def correctLine (l : BitVec 640) (e : List (Nat × Nat)) : BitVec 640 :=
  e.foldl (fun l x => l ^^^ BitVec.ofNat 640 (x.2 <<< (8 * x.1))) l

/-- What a line holds after the fill of R335: zero data, zero WCOUNT, the open-region CRC and valid parity. A line of M4 tile c that is mapped to no plot (key 2^19 × (512 + c) + L) is filled as if it were the lower tile of plot c. (DESIGN CHOICE, log 5) -/
def lineFill (k : Nat) : BitVec 640 := openLine (if 268435456 ≤ k then lineId (k / 524288 - 512) (k % 524288) else k) 0

/-- A stored line. (DESIGN CHOICE, log 5) -/
def Stack.line (s : Stack) (k : Nat) : BitVec 640 := (s.lines.lookup k).getD (lineFill k)
/-- Write a stored line; the fill's own value removes the entry. -/
def Stack.setLine (s : Stack) (k : Nat) (v : BitVec 640) : Stack :=
  { s with lines := if v = lineFill k then tdel s.lines k else tins (tdel s.lines k) k v }
/-- Fill the lines from key `lo` on, `n` in number, but those whose key `keep` names. -/
def Stack.fillLines (s : Stack) (lo n : Nat) (keep : Nat → Bool) : Stack :=
  { s with lines := s.lines.filter fun e => !(decide (lo ≤ e.1) && decide (e.1 < lo + n)) || keep e.1 }

/-! ## Sealing (R359–R362) -/

/-- A counter block (R359): DOMAIN, plot, line, epoch, count and block. -/
def counterBlock (domain p a : Nat) (epoch : Bool) (count block : Nat) : BitVec 128 :=
  BitVec.ofNat 128 (domain * 2 ^ 120 + p * 2 ^ 111 + a * 2 ^ 92 + (if epoch then 2 ^ 91 else 0) + count * 2 ^ 60 + block)
/-- A 16-byte block of a payload as AES and GHASH order it: byte 0 in the most significant bits. -/
def blockOf (data : BitVec 512) (j : Nat) : BitVec 128 :=
  BitVec.ofNat 128 (ofBytes (((bytesOf data.toNat 64).drop (16 * j)).take 16).reverse)
/-- The 64 keystream bytes of a line. -/
def keystream (p a : Nat) (epoch : Bool) (count : Nat) (k : BitVec 256) : BitVec 512 :=
  BitVec.ofNat 512 (ofBytes ((List.range 4).flatMap fun j => (bytesOf (Config.aes256 k (counterBlock 1 p a epoch count j)).toNat 16).reverse))
/-- The tag of a ciphertext: the leftmost 64 bits of GHASH xor the mask, its leftmost byte first. -/
def sealTag (p a : Nat) (epoch : Bool) (count : Nat) (k : BitVec 256) (c : BitVec 512) : BitVec 64 :=
  let h := Config.aes256 k 0
  let g := Config.ghash h [blockOf c 0, blockOf c 1, blockOf c 2, blockOf c 3, counterBlock 3 p a epoch count 0]
  let t := (g ^^^ Config.aes256 k (counterBlock 2 p a epoch count 0)).toNat >>> 64
  BitVec.ofNat 64 (ofBytes (bytesOf t 8).reverse)
/-- Seal a line (R360, R361). -/
def sealLine (p a : Nat) (epoch : Bool) (count : Nat) (k : BitVec 256) (d : BitVec 512) : BitVec 640 :=
  let c := d ^^^ keystream p a epoch count k
  encodeLine c (sealTag p a epoch count k c).toNat (count + if epoch then 2147483648 else 0)
/-- Open a decoded line with the key of its epoch: the plaintext, when the tag matches (R362). -/
def unsealLine (p a : Nat) (k : BitVec 256) (l : BitVec 640) : Option (BitVec 512) :=
  if sealTag p a (lineEpoch l) (lineCount l) k (lineData l) = lineTag l then
    some (lineData l ^^^ keystream p a (lineEpoch l) (lineCount l) k)
  else none

end Sys2Proof.Machine
end

