-- ==== Sys2Proof/Machine/Cache.lean ====
section
/-! DEFINITION. The riser cache of an engine: lookup, allocation under way masks, words, invalidation, the response of a write-back (R251–R256). -/

namespace Sys2Proof.Machine

/-- Set of a line: address [11:6] (R251). -/
def setOf (line : Nat) : Nat := line % 64
/-- The place of a line in the cache, 4 × set + way, and the line. -/
def Engine.lookup (e : Engine) (line : Nat) : Option (Nat × CLine) :=
  e.cache.find? fun x => x.1 / 4 == setOf line && x.2.line == line
def Engine.putLine (e : Engine) (k : Nat) (v : CLine) : Engine := { e with cache := tins (tdel e.cache k) k v }
/-- The way mask of a seat, 0xF until the dealer sets it (R252). -/
def Engine.maskOf (e : Engine) (seat : Nat) : Byte := tget 0xF e.wayMask seat
/-- A way into which a line fetched for a seat may go: an empty way of its mask, else one of its mask's clean lines, of which the spec does not say which; none while every one is dirty. (DEDUCED, log 55) -/
def Engine.wayFor (e : Engine) (seat draw line : Nat) : Option Nat :=
  let ways := (List.range 4).filter fun w => (e.maskOf seat).getLsbD w
  let at' := fun w => e.cache.lookup (4 * setOf line + w)
  match ways.find? fun w => (at' w).isNone with
  | some w => some w
  | none =>
    let clean := ways.filter fun w => match at' w with | some l => !l.dirty | none => false
    if clean.isEmpty then none else clean[draw % clean.length]?
/-- Allocate a filled line. -/
def Engine.fillLine (e : Engine) (seat draw line : Nat) (data : BitVec 512) : Option Engine :=
  (e.wayFor seat draw line).map fun w => e.putLine (4 * setOf line + w) { line := line, dirty := false, data := data }
/-- The word of a line at a byte address. -/
def lineWord (data : BitVec 512) (addr : Nat) : Word := BitVec.ofNat 32 (data.toNat >>> (8 * (addr % 64)))
/-- A line with one word replaced. -/
def setLineWord (data : BitVec 512) (addr : Nat) (v : Word) : BitVec 512 :=
  setBits data (8 * (addr % 64) + 31) (8 * (addr % 64)) v.toNat
/-- Invalidate, without write-back, every line that a predicate on line addresses names (R255). -/
def Engine.invalidate (e : Engine) (g : Nat → Bool) : Engine := { e with cache := e.cache.filter fun x => !g x.2.line }
/-- A dirty line of one of a seat's regions (R274). -/
def Engine.dirtyFor (e : Engine) (mine : Nat → Bool) : Bool := e.cache.any fun x => x.2.dirty && mine (lineRegion x.2.line)

/-- The response of a write-back (R254): OKAY cleans the line, unless a store has hit it since the write-back left; PATH_RESET or HOLD_TIMEOUT on the first attempt leaves it to be sent once more; anything else loses it, which is counted and shown to each thread whose FENCE with WB waits for that region's owner (R274). (DEDUCED, log 56) -/
def writeBackResp (s : State) (p line resp : Nat) : State :=
  let e := s.eng.engine p
  match e.lookup line with
  | none => s
  | some (k, c) =>
    if resp = respOkay then s.onEng fun x => x.setEngine p (e.putLine k { c with dirty := c.newer, retried := false, newer := false })
    else if (resp = respPathReset || resp = respHoldTimeout) && !c.retried then s.onEng fun x => x.setEngine p (e.putLine k { c with retried := true })
    else
      let owner := s.stk.regionOwner p (lineRegion line)
      let e := { e with cache := tdel e.cache k, lostLines := sat32 (e.lostLines + 1) }
      let s := s.onEng fun x => (List.range 8).foldl (fun x h =>
        let t := x.thread p h
        if t.fencing && t.fenceLost.isNone && owner.isSome && s.fab.handOwner p h == owner
        then x.setThread p h { t with fenceLost := some (resp, line) } else x) (x.setEngine p e)
      match owner with
      | some o => s.raise { seat := o, code := 0x070A, index := 0x3200 + p, a := p, b := line }
      | none => s

end Sys2Proof.Machine
end

