-- ==== Sys2Proof/Machine/Net.lean ====
section
/-! DEFINITION. Queues: the directory entry, credits, open packets, commit and rewind, visibility and rank, the watermark, binding, paths and the packing entries (chapter 5). -/

namespace Sys2Proof.Machine

/-! ## The directory entry (R191, R192) -/

def qdOwner (d : BitVec 256) : Option Nat := if d.getLsbD 251 then some (bits d 250 248) else none
def qdEnable (d : BitVec 256) : Bool := d.getLsbD 247
def qdPack (d : BitVec 256) : Bool := d.getLsbD 246
/-- NPROD: producers minus 1. -/
def qdNprod (d : BitVec 256) : Nat := bits d 245 243
def qdCap (d : BitVec 256) : Nat := bits d 242 234
/-- MAXLEN: the longest packet minus 1, in words. -/
def qdMaxlen (d : BitVec 256) : Nat := bits d 232 224
def qdWm (d : BitVec 256) : Nat := bits d 214 200
def qdConsumer (d : BitVec 256) : Nat := bits d 199 180
def qdProducer (d : BitVec 256) (k : Nat) : Nat := bits d (20 * k + 19) (20 * k)
/-- Words of one producer's share (R195, R197). -/
def qdShare (d : BitVec 256) : Nat := 64 * (qdCap d / (qdNprod d + 1))

def epHand (p h qp sel : Nat) : Nat := 1 * 2 ^ 17 + p * 256 + h * 32 + qp * 4 + sel
def epThread (p h : Nat) : Nat := 2 * 2 ^ 17 + p * 256 + h * 32
def epPortRx (n : Nat) : Nat := 3 * 2 ^ 17 + n
def epPortTx (n : Nat) : Nat := 4 * 2 ^ 17 + n
def epBdma (n : Nat) : Nat := 5 * 2 ^ 17 + n
def epMc : Nat := 6 * 2 ^ 17
def epKind (e : Nat) : Nat := e / 2 ^ 17
def epId (e : Nat) : Nat := e % 2 ^ 17
/-- The plot of a HAND or THREAD endpoint. -/
def epPlot (e : Nat) : Nat := epId e / 256
/-- The hand or thread number of a HAND or THREAD endpoint. -/
def epUnit (e : Nat) : Nat := epId e / 32 % 8

/-- A queue that carries traffic: enabled and bound, its store powered. -/
def Queue.runs (q : Queue) : Bool := qdEnable q.dir && q.bound
/-- The producer number of an endpoint in a queue (R191). -/
def Queue.prodOf (q : Queue) (ep : Nat) : Option Nat :=
  (List.range (qdNprod q.dir + 1)).find? fun k => qdProducer q.dir k = ep

/-- The queue bound as producer to a HAND endpoint (R229), with the producer number. -/
def Net.prodQueue (n : Net) (ep : Nat) : Option (Nat × Nat) :=
  n.queues.findSome? fun e => if qdEnable e.2.dir then (e.2.prodOf ep).map fun i => (e.1, i) else none
/-- The queue bound as consumer to a HAND endpoint (R229). -/
def Net.consQueue (n : Net) (ep : Nat) : Option Nat :=
  n.queues.findSome? fun e => if qdEnable e.2.dir && qdConsumer e.2.dir = ep then some e.1 else none

/-! ## Producer side (R202–R215) -/

/-- Remove the open packet of producer i and count the rewind under its cause; its words' credits come back behind the rewind (R212, R214). -/
def Queue.rewind (q : Queue) (i cause : Nat) : Queue :=
  let x := q.prod i
  let n := x.openWords.length
  let q := q.setProd i { x with openWords := [], openRank := 0 }
  { q with
    rw := tput 0 q.rw cause (sat32 (tget 0 q.rw cause + 1))
    seen := if cause = 0 then q.seen else tput (false, 0) q.seen (qdProducer q.dir i) (true, cause)
    flight := if n = 0 then q.flight else q.flight ++ [.rewind i n] }

/-- Rewind if a packet is open; nothing is counted otherwise (R213). -/
def Queue.rewindOpen (q : Queue) (i cause : Nat) : Queue :=
  if (q.prod i).openWords.isEmpty then q else q.rewind i cause

/-- What a push did. -/
inductive Pushed where
  | taken | discarded | overlength | noCredit
deriving DecidableEq, Repr

/-- Push one word of producer i (R202, R205, R207, R215): a producer that waits for credit is the caller's concern. -/
def Queue.push (q : Queue) (i : Nat) (data : BitVec 256) (rank : Nat) : Queue × Pushed :=
  let x := q.prod i
  if x.discarding then (q, .discarded)
  else if qdMaxlen q.dir + 1 ≤ x.openWords.length then
    let q := q.rewind i 1
    (q.setProd i { q.prod i with discarding := true }, .overlength)
  else if x.credits ≤ 0 then (q.rewind i 4, .noCredit)
  else
    (q.setProd i { x with
      credits := x.credits - 1
      openRank := if x.openWords.isEmpty then rank else x.openRank
      openWords := x.openWords ++ [data] }, .taken)

/-- The words of a packet with their side fields: RANK in every word, FIRST, LAST and VBYTES (R201, R202). -/
def sideWords (rank vb : Nat) : Bool → List (BitVec 256) → List QWord
  | _, [] => []
  | first, w :: t =>
    let last := t.isEmpty
    { data := w, side := BitVec.ofNat 16 (rank * 128 + (if last then 64 else 0) + (if first then 32 else 0) + (if last then vb % 32 else 0)) }
      :: sideWords rank vb false t

/-- Commit the open packet of producer i (R203, R205, R209): its tail is charged, and it is on its way to the store. -/
def Queue.commit (q : Queue) (i vb : Nat) : Queue :=
  let x := q.prod i
  let n := x.openWords.length
  if n = 0 then q
  else
    let q := q.setProd i { x with openWords := [], openRank := 0, credits := x.credits - ((64 - n % 64) % 64 : Nat) }
    { q with flight := q.flight ++ [.commit { prod := i, rank := x.openRank, words := sideWords x.openRank vb true x.openWords }] }

/-- The end of a packet whose rest was discarded (R215). -/
def Queue.endDiscard (q : Queue) (i : Nat) : Queue := q.setProd i { q.prod i with discarding := false }

/-- Push a last word: taken, it commits the packet; the last word of a discarded packet ends the discarding. -/
def Queue.pushLast (q : Queue) (i : Nat) (data : BitVec 256) (rank vb : Nat) : Queue × Pushed :=
  match q.push i data rank with
  | (q', .taken) => (q'.commit i vb, .taken)
  | (q', r) => (q'.endDiscard i, r)

/-! ## Consumer side (R217–R225) -/

/-- Up-crossing of the watermark when the level changes (R221, R222). -/
def Queue.crossing (q : Queue) (old new : Nat) : Queue :=
  let w := qdWm q.dir
  if w != 0 && decide (old < w) && decide (w ≤ new) then { q with crossings := sat16 (q.crossings + 1), event := true } else q

/-- The producer that sent a commit or rewind. -/
def Sent.from : Sent → Nat
  | .commit p => p.prod
  | .rewind i _ => i
/-- The packet of a commit. -/
def Sent.pkt? : Sent → Option Pkt
  | .commit p => some p
  | .rewind _ _ => none
/-- Committed packets on their way. -/
def Queue.flying (q : Queue) : List Pkt := q.flight.filterMap Sent.pkt?
/-- What producer i has sent first, and the rest (R227). -/
def takeSent (i : Nat) : List Sent → Option (Sent × List Sent)
  | [] => none
  | x :: t => if x.from = i then some (x, t) else (takeSent i t).map fun r => (r.1, x :: r.2)

/-- A packet at the store becomes visible and counts towards the level (R210, R221). -/
def Queue.show (q : Queue) (p : Pkt) : Queue :=
  let new := q.level + p.words.length
  ({ q with visible := q.visible ++ [p], level := new }).crossing q.level new
/-- A commit of producer i, with nothing that i sent earlier still on its way, reaches the store (R210, R227). -/
def Queue.arrive (q : Queue) (i : Nat) : Queue :=
  match takeSent i q.flight with
  | some (.commit p, rest) => ({ q with flight := rest }).show p
  | _ => q

/-- The oldest packet of the highest rank (R218). -/
def bestPkt : List Pkt → Option Pkt
  | [] => none
  | p :: t => match bestPkt t with
    | none => some p
    | some b => if p.rank < b.rank then some b else some p
/-- Remove the first packet equal to p. -/
def dropPkt (p : Pkt) : List Pkt → List Pkt
  | [] => []
  | x :: t => if x = p then t else x :: dropPkt p t

/-- The packet that delivers the next word: the one being read, else the choice of R218. -/
def Queue.current (q : Queue) : Option Pkt := match q.reading with | some p => some p | none => bestPkt q.visible
/-- The word presented to the consumer (R231). -/
def Queue.front (q : Queue) : Option QWord := q.current.bind fun p => p.words.head?

/-- Pop the presented word: the word and the queue with the act on its way to the store (R204, R218, R231). (DEDUCED, log 50) -/
def Queue.pop (q : Queue) : Option (QWord × Queue) :=
  match q.current with
  | none => none
  | some p =>
    match p.words with
    | [] => none
    | w :: rest =>
      let k := p.popped + 1
      let freed := if rest.isEmpty || k % 64 = 0 then 64 else 0
      some (w, { q with
        visible := if q.reading.isSome then q.visible else dropPkt p q.visible
        reading := if rest.isEmpty then none else some { p with words := rest, popped := k }
        wordsDelivered := wrap48 (q.wordsDelivered + 1)
        pktsDelivered := if rest.isEmpty then wrap48 (q.pktsDelivered + 1) else q.pktsDelivered
        acts := q.acts ++ [.pop p.prod freed] })

/-- DROP (R219): frees the rest of the packet being read; nothing at a packet boundary. -/
def Queue.drop (q : Queue) : Queue :=
  match q.reading with
  | none => q
  | some p =>
    let n := p.words.length
    let pages := (p.popped + n + 63) / 64 - p.popped / 64
    { q with reading := none, dropped := sat32 (q.dropped + 1), acts := q.acts ++ [.drop p.prod n (64 * pages)] }

/-- The oldest act of the consumer reaches the store (R204, R206, R223, R231). (DEDUCED, log 50) -/
def Queue.act (q : Queue) : Queue :=
  let back := fun (i n : Nat) (l : List (Nat × Nat)) => if n = 0 then l else l ++ [(i, n)]
  match q.acts with
  | [] => q
  | .pop i n :: t => { q with acts := t, level := q.level - 1, returns := back i n q.returns }
  | .drop i k n :: t => { q with acts := t, level := q.level - k, returns := back i n q.returns }
  | .clear :: t => { q with acts := t, event := false }

/-- The first credits on their way to producer i, and the rest. -/
def takeReturn (i : Nat) : List (Nat × Nat) → Option (Nat × List (Nat × Nat))
  | [] => none
  | x :: t => if x.1 = i then some (x.2, t) else (takeReturn i t).map fun r => (r.1, x :: r.2)
/-- Credits on their way reach producer i (R205, R206). -/
def Queue.credit (q : Queue) (i : Nat) : Queue :=
  match takeReturn i q.returns with
  | none => q
  | some (n, t) =>
    let x := q.prod i
    { q.setProd i { x with credits := min (qdShare q.dir : Int) (x.credits + n) } with returns := t }

/-- A rewind of producer i, with nothing that i sent earlier still on its way, reaches the store, and its words' credits start back (R214, R227). -/
def Queue.rewindArrive (q : Queue) (i : Nat) : Queue :=
  match takeSent i q.flight with
  | some (.rewind _ n, t) => { q with flight := t, returns := q.returns ++ [(i, n)] }
  | _ => q

/-! ## Binding (R197–R200) -/

/-- Words of producer i's share that packets in the store still hold, by whole pages (R204). -/
def Queue.heldWords (q : Queue) (i : Nat) : Nat :=
  let pages := fun (p : Pkt) => (p.popped + p.words.length + 63) / 64 - p.popped / 64
  let all := q.flying ++ q.visible ++ q.reading.toList
  64 * ((all.filter fun p => p.prod == i).map pages).sum
/-- Bind: each producer gets its share less what its packets, and an open packet kept over a die reset, still hold (R38, R43, R197). -/
def Queue.bind (q : Queue) : Queue :=
  let q := { q with bound := true, returns := [], flight := q.flight.filter fun x => x.pkt?.isSome }
  (List.range (qdNprod q.dir + 1)).foldl (fun q i => q.setProd i { q.prod i with credits := (qdShare q.dir : Int) - q.heldWords i - (q.prod i).openWords.length }) q
/-- The binding is withdrawn: no producer holds credits until the queue is bound again (R38, R43, R197); freed credits on their way are void. -/
def Queue.withdraw (q : Queue) : Queue :=
  { q with
    bound := false, returns := [], flight := q.flight.filter fun x => x.pkt?.isSome
    prods := (List.range 8).foldl (fun l i => tput {} l i { tget {} l i with credits := 0 }) q.prods }
/-- Every open packet is rewound with cause STOP. -/
def Queue.stopAll (q : Queue) : Queue := (List.range 8).foldl (fun q i => q.rewindOpen i 5) q
/-- Unbind (R198): open packets rewound, committed packets not finished reading lost, credits withdrawn, pages freed. A watermark clear on its way to the store is dropped with the other acts; the spec does not say whether it still acts. (DESIGN CHOICE, log 104) -/
def Queue.unbind (q : Queue) : Queue :=
  let q := q.stopAll
  let lost := q.flying.length + q.visible.length + q.reading.toList.length
  { q with
    bound := false, flight := [], visible := [], reading := none, acts := [], returns := [], level := 0
    lost := sat32 (q.lost + lost)
    prods := (List.range 8).foldl (fun l i => let x := tget {} l i
      tput {} l i { x with credits := 0, openWords := [], openRank := 0, discarding := false }) q.prods }

/-! ## Producers that stop (R212) -/

/-- Every open packet that the hand of a plot holds, on any queue port and select, is rewound with cause STOP (R212). The discarding of the rest of an overlength packet goes on, which the spec leaves open (R215). (DESIGN CHOICE, log 104) -/
def Net.stopHand (n : Net) (p h : Nat) : Net :=
  n.queues.foldl (fun n e => (List.range (qdNprod e.2.dir + 1)).foldl (fun n i =>
    let ep := qdProducer e.2.dir i
    if epKind ep = 1 && epPlot ep = p && epUnit ep = h then n.setQueue e.1 ((n.queue e.1).rewindOpen i 5) else n) n) n
/-- Every open packet of an engine thread is rewound with a cause (R212), and a discarding of its words ends, which the spec leaves open (R215). (DESIGN CHOICE, log 104) -/
def Net.stopThread (n : Net) (p h cause : Nat) : Net :=
  n.queues.foldl (fun n e => match e.2.prodOf (epThread p h) with
    | some i => n.setQueue e.1 (((n.queue e.1).rewindOpen i cause).endDiscard i)
    | none => n) n

/-! ## Paths (R34, R226, R228) -/

/-- Where an endpoint or a store lies: none on B, else a plot. -/
def epPlace (e : Nat) : Option Nat := if epKind e = 1 || epKind e = 2 then some (epPlot e) else none
def storePlace (q : Nat) : Option Nat := if q < 32768 then some (q / 64) else none
/-- A path between two places runs over the feed link of the F1 plot at one of its ends: traffic between F1 and B, and between F0 and F1. (DEDUCED, log 36) -/
def feedPath (a b : Option Nat) : Option Nat :=
  let up := fun (x : Option Nat) => match x with | some p => decide (256 ≤ p) | none => false
  if up a && !up b then a else if up b && !up a then b else none
/-- A feed domain (0 F0, 1 C) that the path crosses. (DEDUCED, log 36) -/
def crossesFeed (a b : Option Nat) (d : Nat) : Bool := decide (d ≤ 1) && (feedPath a b).isSome
/-- Producer i's path of queue q crosses feed domain d. -/
def prodCrosses (q : Nat) (x : Queue) (i d : Nat) : Bool := crossesFeed (epPlace (qdProducer x.dir i)) (storePlace q) d
/-- The path of queue q, from a producer or to its consumer, crosses feed domain d. (DEDUCED, log 36) -/
def queueCrosses (q : Nat) (x : Queue) (d : Nat) : Bool :=
  crossesFeed (storePlace q) (epPlace (qdConsumer x.dir)) d || (List.range (qdNprod x.dir + 1)).any fun i => prodCrosses q x i d

/-! ## Packing mode (R233–R235) -/

def packQueue (k : Nat) : Nat := 40960 + k
/-- The directory entries of the packing queues (R235). -/
def packDir (k : Nat) : BitVec 256 :=
  let cap := if k = 0 then 32 else if k = 1 then 16 else if k = 2 then 128 else 0
  BitVec.ofNat 256 ((if k < 3 then 2 ^ 247 else 0) + 2 ^ 246 + cap * 2 ^ 234 + (if k < 3 then 511 else 0) * 2 ^ 224 + epMc * 2 ^ 180)
/-- Rank of the packets of a packing queue (R235). -/
def packRank (k : Nat) : Nat := if k = 1 then 1 else 0
/-- The device sets the packing entries when the MC island powers up (R235). -/
def Net.setPacking (n : Net) : Net :=
  (List.range 16).foldl (fun n k =>
    let q : Queue := { dir := packDir k, bound := decide (k < 3) }
    n.setQueue (packQueue k) (if k < 3 then q.bind else q)) { n with narrow := [] }

/-! ## Whole packets -/

/-- The queue words of a byte string, the last one zero beyond its bytes. -/
def queueWords (l : List Byte) : List (BitVec 256) :=
  (List.range ((l.length + 31) / 32)).map fun i => BitVec.ofNat 256 (leNat ((l.drop (32 * i)).take 32))

/-- The received packet's words, pushed in order until one is not taken (R207, R215, R410). -/
def pushWords (q : Queue) (i rank : Nat) : List (BitVec 256) → Queue × Bool
  | [] => (q, true)
  | w :: t => match q.push i w rank with
    | (q, .taken) => pushWords q i rank t
    | (q, _) => (q, false)
/-- Take the packet a consumer would begin next, popping its words. (DEDUCED, log 95) -/
def Queue.takePkt (q : Queue) : Option (Pkt × Queue) :=
  match q.reading, bestPkt q.visible with
  | none, some p => some (p, (List.range p.words.length).foldl (fun q _ => match q.pop with | some r => r.2 | none => q) q)
  | _, _ => none
/-- One packet of bytes from the fixed producer of packing queue k (R207, R215, R233): it waits when the store has no room for it, and a packet beyond the declared maximum is rewound. (DEDUCED, log 95) -/
def Queue.packPacket (q : Queue) (k : Nat) (l : List Byte) : Option Queue :=
  let ws := queueWords l
  let rank := packRank k
  let long := decide (qdMaxlen q.dir + 1 < ws.length)
  let x := q.prod 0
  if !q.runs || !x.openWords.isEmpty || x.discarding || decide (x.credits < (min ws.length (qdMaxlen q.dir + 1) : Nat)) then none
  else if long then
    -- the words up to the limit are pushed, the next one rewinds them, and the rest is discarded
    some ((pushWords q 0 rank (ws.take (qdMaxlen q.dir + 2))).1.endDiscard 0)
  else some ((pushWords q 0 rank ws).1.commit 0 (l.length % 32))

end Sys2Proof.Machine
end

