-- ==== Sys2Proof/Machine/Fabric.lean ====
section
/-! DEFINITION. Plots, cells, hands and rotation: the functions of a cell, the run of a slot, slot boundaries, calls, contention, hand commands, the configuration patrol, the fabric PLLs (chapters 2 and 3). -/

namespace Sys2Proof.Machine

/-! ## Reading a hand's configuration (R100) -/

/-- The number whose bit i is `g i`, for i below n. -/
def natOf (g : Nat → Bool) : Nat → Nat
  | 0 => 0
  | n + 1 => (if g n then 2 ^ n else 0) + natOf g n

/-- The words of a hand store as its bonds carry them, word number first. -/
def Fabric.storeOf (f : Fabric) (p h : Nat) : List (Nat × BitVec 64) :=
  let base := handWords * (8 * p + h)
  let inside := fun k => decide (base ≤ k) && decide (k < base + handWords)
  let sown := (f.cfg.filter fun e => inside e.1).map fun e => (e.1 - base, f.cfgBits p h (e.1 - base))
  let only := (f.cfgErr.filter fun e => inside e.1 && !(f.cfg.any fun c => c.1 == e.1)).map fun e => (e.1 - base, e.2.setWidth 64)
  sown ++ only

/-- Bit i of bed b of a configuration (R100). -/
def cfgBit (c : List (Nat × BitVec 64)) (b i : Nat) : Bool := (tget 0 c (180 * b + i / 64)).getLsbD (i % 64)
/-- Bits [hi:lo] of the cell bits of cell k of bed b (R100). -/
def cellField (c : List (Nat × BitVec 64)) (b k hi lo : Nat) : Nat :=
  natOf (fun i => cfgBit c b (129 * k + lo + i)) (hi + 1 - lo)
/-- First tap bit of the L48 taps of a bed, and of its V taps. -/
def l48Base : Nat := 11136
def vBase : Nat := 11424
/-- The driver of an L48 tap is enabled: direction 0 east–west, 1 north–south. -/
def l48Drives (c : List (Nat × BitVec 64)) (b dir track tap : Nat) : Bool :=
  cfgBit c b (l48Base + 3 * (3 * (16 * dir + track) + tap))
/-- The driver of a V tap is enabled. -/
def vDrives (c : List (Nat × BitVec 64)) (b track : Nat) : Bool := cfgBit c b (vBase + 3 * track)
/-- A hand store that holds all zeros, which drives nothing (R101). -/
def allZero (c : List (Nat × BitVec 64)) : Bool := c.all fun e => e.2 == 0
/-- A routing multiplexer of two one-hot levels, n1 bits and then n2 bits from bit `lo` of the bed on, chooses source n2·i + j with bit i of the first level and bit j of the second (R65, R100). -/
def chosen (c : List (Nat × BitVec 64)) (b lo n1 n2 k : Nat) : Bool := cfgBit c b (lo + k / n2) && cfgBit c b (lo + n1 + k % n2)
/-- First bit and level sizes of multiplexer m of a bed: 144 of segmented wires, 32 of local lines, 8 of control lines (R52, R100). -/
def muxPlace (m : Nat) : Nat × Nat × Nat :=
  if m < 144 then (8256 + 16 * m, 12, 4) else if m < 176 then (10560 + 16 * (m - 144), 12, 4) else (11072 + 8 * (m - 176), 4, 4)
/-- Multiplexer m of a bed chooses a source that `g` accepts. -/
def muxUses (c : List (Nat × BitVec 64)) (b m : Nat) (g : Src → Bool) : Bool :=
  let x := muxPlace m
  (List.range (x.2.1 * x.2.2)).any fun k => chosen c b x.1 x.2.1 x.2.2 k && g (Config.pattern b m k)
/-- Some multiplexer of a bed chooses a source that `g` accepts; a store of all zeros chooses none (R66, R101). -/
def bedUses (c : List (Nat × BitVec 64)) (b : Nat) (g : Src → Bool) : Bool := !allZero c && (List.range 184).any fun m => muxUses c b m g
/-- The receiver of a V tap is in use (R71). -/
def readsV (c : List (Nat × BitVec 64)) (b track : Nat) : Bool := bedUses c b fun x => x == .v track
/-- The beds along edge d of a plot: north, east, south, west (R47, R80). -/
def edgeBeds (d : Nat) : List Nat := (List.range 16).map fun i => if d = 0 then i else if d = 1 then 16 * i + 15 else if d = 2 then 240 + i else 16 * i
/-- Edge d's border links are in use: a bed of the edge reads one, or the hand launches on them (R85). -/
def usesBorder (c : List (Nat × BitVec 64)) (d : Nat) : Bool :=
  !allZero c && (((edgeBeds d).any fun b => bedUses c b fun x => match x with | .hard (.inbound e _) => e == d | _ => false) || Config.launches c d)
/-- The hand uses the V segment: its driver or its receiver is enabled (R71). -/
def vUses (c : List (Nat × BitVec 64)) (b track : Nat) : Bool := vDrives c b track || readsV c b track
/-- Enabled drivers of an L48 line (R62, R70): direction, row or column, track. -/
def l48Count (c : List (Nat × BitVec 64)) (dir rowcol track : Nat) : Nat :=
  ((List.range 48).filter fun i =>
    let bed := if dir = 0 then 16 * rowcol + i / 3 else 16 * (i / 3) + rowcol
    l48Drives c bed dir track (i % 3)).length

/-- Number of configuration bits in which two stores differ (R131, R135). -/
def storeDiff (a b : List (Nat × BitVec 64)) : Nat :=
  (a.map fun e => popNat 64 (e.2 ^^^ tget 0 b e.1).toNat).sum +
    ((b.filter fun e => !(a.any fun x => x.1 == e.1)).map fun e => popNat 64 e.2.toNat).sum

/-! ## The cell (R50–R60) -/

/-- What the logic of one cell gives: its two LUT outputs, its sum and its carry output (R53, R59). -/
structure CellLogic where
  upper : Bool
  lower : Bool
  sum : Bool
  carry : Bool
deriving DecidableEq, Repr

/-- Next value of one flip-flop (R53, R54): the control field's fields are D source [1:0], CE use [2], SR use [3], SR value [4]. -/
def ffNext (ctl : Nat) (d0 d1 d2 d3 ce sr old : Bool) : Bool :=
  let dsrc := ctl % 4
  let d := if dsrc = 0 then d0 else if dsrc = 1 then d1 else if dsrc = 2 then d2 else d3
  if (ctl / 8) % 2 = 1 && sr then (ctl / 16) % 2 = 1
  else if (ctl / 4) % 2 = 0 || ce then d else old

/-- The logic of cell k of bed b, from the bed's local lines and its carry input (R50, R53, R59). -/
def cellLogic (c : List (Nat × BitVec 64)) (b k : Nat) (line : Nat → Bool) (cin : Bool) : CellLogic :=
  let input := fun i => line (cellField c b k (69 + 5 * i) (65 + 5 * i))
  let ix5 := natOf input 5
  let truth := cellField c b k 63 0
  let split := cellField c b k 64 64 = 1
  let lut6 := truth.testBit (natOf input 6)
  let upper := if split then truth.testBit (32 + ix5) else lut6
  let lower := if split then truth.testBit ix5 else lut6
  let mode := cellField c b k 112 111
  let ci := if mode = 2 then false else if mode = 3 then true else cin
  { upper := upper
    lower := lower
    sum := mode != 0 && split && (upper != ci)
    carry := if mode = 0 then cin else split && (if upper then ci else lower) }
/-- The outputs O_A and O_B of a cell by their output selects (R55). -/
def outA (sel : Nat) (x : CellLogic) (ffA : Bool) : Bool :=
  if sel = 0 then x.upper else if sel = 1 then ffA else if sel = 2 then x.sum else x.carry
def outB (sel : Nat) (x : CellLogic) (ffB : Bool) : Bool :=
  if sel = 0 then x.lower else if sel = 1 then ffB else if sel = 2 then x.carry else false

/-! ## Routing (R61–R69) -/

/-- What the values in one plot of a column come from: the configuration that its bonds carry and its flip-flops, the hard-block outputs by bed, whether its V taps may drive, the wires whose drivers are disabled and those between levels, and what the free values are drawn under. -/
structure FabIn where
  cfg : List (Nat × BitVec 64) := []
  ff : BitVec 32768 := 0
  hard : Nat → HardOut → Bool := fun _ _ => false
  vOn : Bool := false
  disabled : List Nat := []
  between : List Nat := []
  draw : Nat := 0
  plot : Nat := 0
  edge : Nat := 0

/-- The wire i that starts in a bed: its direction and its length, in the order of R100. -/
def wireDir (i : Nat) : Nat := if i < 64 then i / 16 else if i < 96 then (i - 64) / 8 else if i < 128 then (i - 96) / 8 else (i - 128) / 4
def wireLen (i : Nat) : Nat := if i < 64 then 1 else if i < 96 then 2 else if i < 128 then 4 else 12
/-- The bed at whose switch box wire i of bed b ends: its length away in its direction, or the last bed before the plot edge (R61). -/
def wireEnd (b i : Nat) : Nat :=
  let bx := b % 16
  let by' := b / 16
  let n := wireLen i
  match wireDir i with
  | 0 => 16 * (by' - n) + bx
  | 1 => 16 * by' + min 15 (bx + n)
  | 2 => 16 * min 15 (by' + n) + bx
  | _ => 16 * by' + (bx - n)

/-- A wire of a plot as a number, for the lists of disabled wires and of wires between levels. -/
def wireNo (kind rowcol pos track : Nat) : Nat := ((kind * 16 + rowcol) * 16 + pos) * 32 + track

/-- What a receiver of a bidirectional wire reads: 0 with no driver or with its drivers disabled, the level on which all drivers agree, and an undefined value `loose` between levels (R69, R76, R78). -/
def wireLevel (off held : Bool) (drivers : List Bool) (loose : Bool) : Bool :=
  if off then false else if held then loose
  else match drivers with
    | [] => false
    | x :: t => if t.all (· == x) then x else loose

/-- The cell output that a tap of a bed drives onto its wire (R62, R63): `t` numbers the tap among L48 taps 0–95 and V taps from 96 on, `lo` is its first bit. -/
def tapNode (c : List (Nat × BitVec 64)) (b t lo : Nat) : Node :=
  let x := Config.tapSource b t (natOf (fun i => cfgBit c b (lo + 1 + i)) 2)
  .out b (x.1 % 64) x.2

/-- The value of one place from those of the places it draws on; `w false` is the plot itself and `w true` the paired plot (R50–R69). (DESIGN CHOICE, log 9) -/
def nodeValue (w : Bool → FabIn) (v : Bool → Node → Bool) (s : Bool) (n : Node) : Bool :=
  let x := w s
  let source := fun (b : Nat) (y : Src) => match y with
    | .none => false
    | .cell k ob => v s (.out b (k % 64) ob)
    | .wire a i => decide (wireEnd a i = b) && v s (.seg a i)
    | .l48 d t k => v s (.l48 b d t k)
    | .v t => v s (.v b t)
    | .hard o => x.hard b o
  let mux := fun (b m : Nat) =>
    let y := muxPlace m
    (List.range (y.2.1 * y.2.2)).any fun k => chosen x.cfg b y.1 y.2.1 y.2.2 k && source b (Config.pattern b m k)
  let logic := fun (b k : Nat) =>
    let cin := if 0 < k then v s (.carry b (k - 1)) else if 240 ≤ b then Config.southCarry x.draw x.plot x.edge (b % 16) else v s (.carry (b + 16) 63)
    cellLogic x.cfg b k (fun i => v s (.loc b i)) cin
  match n with
  | .seg b i => mux b i
  | .loc b i => mux b (144 + i)
  | .ctl b i => mux b (176 + i)
  | .out b k ob =>
    let i := 2 * (64 * b + k)
    if ob then outB (cellField x.cfg b k 128 127) (logic b k) (x.ff.getLsbD (i + 1))
    else outA (cellField x.cfg b k 126 125) (logic b k) (x.ff.getLsbD i)
  | .carry b k => (logic b k).carry
  | .l48 b d t k =>
    let rowcol := if d = 0 then b / 16 else b % 16
    let drivers := (List.range 48).filterMap fun i =>
      let a := if d = 0 then 16 * rowcol + i / 3 else 16 * (i / 3) + rowcol
      let tap := 3 * (16 * d + t) + i % 3
      if l48Drives x.cfg a d t (i % 3) then some (v s (tapNode x.cfg a tap (l48Base + 3 * tap))) else none
    let no := wireNo d rowcol 0 t
    wireLevel (x.disabled.contains no) (x.between.contains no) drivers (Config.wireBit x.draw x.plot x.edge (.l48 b d t k))
  | .v b t =>
    let drivers := [false, true].filterMap fun r =>
      let y := w r
      if y.vOn && vDrives y.cfg b t then some (v r (tapNode y.cfg b (96 + t) (vBase + 3 * t))) else none
    let no := wireNo 2 (b / 16) (b % 16) t
    wireLevel (x.disabled.contains no) (x.between.contains no) drivers (Config.wireBit x.draw x.plot x.edge (.v b t))
/-- The value of a place, through as many steps as `n`; a chain longer than there are places runs through a loop, in which values are undefined (R68). -/
def netValue (w : Bool → FabIn) : Nat → Bool → Node → Bool
  | 0, s, n => Config.loopBit (w s).draw (w s).plot (w s).edge n
  | k + 1, s, n => nodeValue w (netValue w k) s n
/-- The value of a place of the plot, in the cycle that ends at the edge: a column has fewer than 2^18 places. -/
def FabIn.value (w : Bool → FabIn) (n : Node) : Bool := netValue w 262144 false n

/-- The carry input, local and control lines of a cell decide its next flip-flop values (R54). -/
def cellNext (w : Bool → FabIn) (i : Nat) : Bool :=
  let x := w false
  let b := i / 128
  let k := i / 2 % 64
  let v := FabIn.value w
  let cin := if 0 < k then v (.carry b (k - 1)) else if 240 ≤ b then Config.southCarry x.draw x.plot x.edge (b % 16) else v (.carry (b + 16) 63)
  let r := cellLogic x.cfg b k (fun i => v (.loc b i)) cin
  let bypass := fun i => v (.loc b (cellField x.cfg b k (99 + 5 * i) (95 + 5 * i)))
  let ce := v (.ctl b (cellField x.cfg b k 107 105))
  let sr := v (.ctl b (cellField x.cfg b k 110 108))
  if i % 2 = 0 then ffNext (cellField x.cfg b k 118 113) r.upper r.sum (bypass 0) r.carry ce sr (x.ff.getLsbD i)
  else ffNext (cellField x.cfg b k 124 119) r.lower r.sum (bypass 1) r.carry ce sr (x.ff.getLsbD i)
/-- The flip-flop bank after one edge at which the hand is live (R54, R103); a store of all zeros captures 0 everywhere (R101). -/
def bankStep (w : Bool → FabIn) : BitVec 32768 :=
  if allZero (w false).cfg then 0 else BitVec.ofNat 32768 (natOf (cellNext w) 32768)

/-- The initial values of a configuration (R56): bit [118] of a cell for FF_A, bit [124] for FF_B. -/
def initBank (c : List (Nat × BitVec 64)) : BitVec 32768 :=
  BitVec.ofNat 32768 (natOf (fun i =>
    let cell := i / 2
    cfgBit c (cell / 64) (129 * (cell % 64) + if i % 2 = 0 then 118 else 124)) 32768)

/-! ## Inputs of the hard blocks (R67) -/

/-- The beds at which input i of a hard block stands. Queue port q: from 512q on QO_V, QO_SEL, QO_DATA, QO_VB, QO_RANK, QO_LAST, QO_ABORT, QI_SEL, QI_POP, QI_DROP, QI_WMCLR (R229). From 4096 on the kitty's read address, write address, data, write enable and byte enables (R142). From 4160 on CALL_SLOT and CALL_V (R117). From 5120 on MQ_V, MQ_WE, MQ_ADDR, MQ_BE, MQ_DATA, MQ_TAG, MS_POP (R306). Port A of block memory k from 8192 + 256k on and port B 128 later: EN, WE, byte enables, address, data (R159). I/O cell of ball j of bank b: from 24576 + 96b + 4j on value, output enable, second value (R698). Outbound link k of edge d: 32768 + 512d + k (R80). Each signal's lowest bit comes first. -/
def inputBeds (i : Nat) : List Nat :=
  if i < 4096 then edgeBeds (i / 1024) else if i < 4160 then edgeBeds 2 else if i < 8192 then edgeBeds 0
  else if i < 24576 then let k := (i - 8192) / 256; [16 * (k % 16) + 4 * (k / 16) + 3]
  else if i < 32768 then edgeBeds ((i - 24576) / 96 / 8) else edgeBeds ((i - 32768) / 512)
/-- The value at input i: that of its one fixed cell's output (R67); the call port takes local lines 24–30 of bed 0 (R117). -/
def inputValue (w : Bool → FabIn) (i : Nat) : Bool :=
  if 4160 ≤ i && i < 4167 then FabIn.value w (.loc 0 (24 + (i - 4160)))
  else
    let x := Config.fixedCell i
    let beds := inputBeds i
    FabIn.value w (.out (beds.getD (x.1 % beds.length) 0) (x.2.1 % 64) x.2.2)
/-- n inputs from input `lo` on; a store of all zeros drives 0 everywhere (R66, R101). -/
def inputValues (w : Bool → FabIn) (lo n : Nat) : Nat := if allZero (w false).cfg then 0 else natOf (fun i => inputValue w (lo + i)) n
/-- A field of what the hard blocks captured at the last edge. -/
def Plot.field (x : Plot) (lo n : Nat) : Nat := bits x.captured (lo + n - 1) lo
/-- The captured signal i has been acted on. -/
def Plot.done (x : Plot) (i : Nat) : Plot := { x with captured := setBits x.captured i i 0 }

/-! ## Outputs of the hard blocks (R67) -/

/-- Block memory of a bed: the one on its east side (R49, R152). -/
def bmOfBed (b : Nat) : Nat := b / 16 + 16 * (b % 16 / 4)
/-- A hard-block output is a source of the multiplexers of bed b (R49, R67, R87, R142, R152, R229, R306, R697). -/
def hardAt (b : Nat) : HardOut → Bool
  | .kitty _ => (edgeBeds 2).contains b
  | .qoSpace qp _ | .qoRw qp _ | .qiV qp | .qiData qp _ | .qiSide qp _ | .qiAvail qp _ | .qiWm qp _ => (edgeBeds (qp / 2)).contains b
  | .mqSpace | .msV | .msData _ | .msResp _ | .msTag _ => (edgeBeds 0).contains b
  | .bmDout _ _ | .bmSbe | .bmDbe | .bmBusy _ => b % 4 = 3
  | .ball k _ _ => (edgeBeds (k / 8)).contains b
  | .inbound d _ => (edgeBeds d).contains b

/-- Plots attached to I/O bank b: balls 0–11 and balls 12–23 (R697). -/
def bankPlots (b : Nat) : Nat × Nat :=
  let k := b % 8
  match b / 8 with
  | 0 => (2 * k, 2 * k + 1)
  | 1 => (32 * k + 15, 32 * k + 31)
  | 2 => (255 - 2 * k, 254 - 2 * k)
  | _ => (240 - 32 * k, 224 - 32 * k)
/-- Banks with a ball on plot p. -/
def banksOf (p : Nat) : List Nat := (List.range 32).filter fun b => (bankPlots b).1 = p || (bankPlots b).2 = p


/-- Balls of bank b attached to plot p (R697). -/
def bankMask (b p : Nat) : BitVec 24 := (if (bankPlots b).1 = p then 0xFFF else 0) ||| (if (bankPlots b).2 = p then 0xFFF000 else 0)
/-- The 512 inbound values of one edge: the arrival register, or 0 from the outer boundary, a fallowed plot, a hand that is not LIVE or another owner's hand (R85, R127). -/
def Fabric.inboundEdge (f : Fabric) (fallowed : List Nat) (p h d : Nat) : Nat :=
  match neighbour p d with
  | none => 0
  | some q =>
    if fallowed.contains q || (f.hand q h).state != .live || f.handOwner q h != f.handOwner p h then 0
    else ((f.hand p h).arrival.toNat >>> (512 * d)) % 2 ^ 512
/-- Select 3 of headland queue port qp goes to scratchpad port B (R232, R502). -/
def Fabric.toScratch (f : Fabric) (p h qp sel : Nat) : Bool := sel = 3 && (f.hand p h).hspb.getLsbD qp
def handChanIx (p h qp : Nat) : Nat := 64 * p + 8 * h + qp
/-- A scratchpad channel takes another request while fewer than 16 are outstanding (R232). -/
def Chan.hasSpace (c : Chan) : Bool := decide (c.reqs.length + c.reps.length - c.skip < 16)
/-- Requests of a hand that are outstanding or whose reply waits (R306, R307). -/
def Hand.outstanding (x : Hand) : Nat := (x.memReq.filter fun q => !q.orphan).length + x.memRep.length

/-- QO_SPACE (R229, R230, R232): the producer select has credit, or its scratchpad channel has room; 0 where nothing is bound. -/
def State.qoSpace (s : State) (p h qp sel : Nat) : Bool :=
  if s.fab.toScratch p h qp sel then (s.net.handChanAt (handChanIx p h qp)).hasSpace
  else match s.net.prodQueue (epHand p h qp sel) with
    | some (q, i) => (s.net.queue q).runs && decide (1 ≤ ((s.net.queue q).prod i).credits)
    | none => false
/-- The queue that a consumer select of hand h reads, when one is bound to it (R229). -/
def State.qiQueue (s : State) (p h qp sel : Nat) : Option Queue :=
  if s.fab.toScratch p h qp sel then none
  else match s.net.consQueue (epHand p h qp sel) with
    | some q => if (s.net.queue q).runs then some (s.net.queue q) else none
    | none => none
/-- The word that queue port qp presents: of the select that QI_SEL named at the last edge, its data and, from a queue, its side field (R231, R232). -/
def State.qiWord (s : State) (p h qp : Nat) : Option (BitVec 256 × Option (BitVec 16)) :=
  let sel := bits (s.fab.plot p).qiSel (2 * qp + 1) (2 * qp)
  if s.fab.toScratch p h qp sel then (s.net.handChanAt (handChanIx p h qp)).reps.head?.map fun w => (w, none)
  else (s.qiQueue p h qp sel).bind fun q => q.front.map fun w => (w.data, some w.side)
/-- What an output of a hard block shows to hand h of plot p in bed b; `free` stands where the spec states no value (R142, R154, R159, R163, R169, R229–R232, R306, R698). -/
def State.hardOut (s : State) (p h b : Nat) (free : Bool) (o : HardOut) : Bool :=
  let f := s.fab
  let own := f.handOwner p h
  let m := f.bm p (bmOfBed b)
  let mem := own.isSome && f.bmOwner p (bmOfBed b) == own && !m.clearing
  let reply := (f.hand p h).memRep.head?
  hardAt b o && match o with
  | .kitty i => (f.plot p).kittyOut.getLsbD i
  | .qoSpace qp sel => s.qoSpace p h qp sel
  | .qoRw qp sel => (f.hand p h).qoRw.contains (4 * qp + sel)
  | .qiV qp => (s.qiWord p h qp).isSome
  | .qiData qp i => match s.qiWord p h qp with | some w => w.1.getLsbD i | none => free
  | .qiSide qp i => match (s.qiWord p h qp).bind (·.2) with | some w => w.getLsbD i | none => free
  | .qiAvail qp sel => match s.qiQueue p h qp sel with | some q => decide (1 ≤ q.level) | none => false
  | .qiWm qp sel => match s.qiQueue p h qp sel with | some q => q.event | none => false
  | .mqSpace => decide ((f.hand p h).outstanding < 16)
  | .msV => reply.isSome
  | .msData i => match reply with | some r => r.1.getLsbD i | none => free
  | .msResp i => match reply with | some r => r.2.1.testBit i | none => free
  | .msTag i => match reply with | some r => r.2.2.getLsbD i | none => free
  | .bmDout portB i => mem && !m.tbusy && (if portB then m.doutB.getLsbD i else m.doutA.getLsbD i)
  | .bmSbe => mem && !m.tbusy && m.sbe
  | .bmDbe => mem && !m.tbusy && m.dbe
  | .bmBusy _ => mem && m.tbusy
  | .ball k j fall => own.isSome && ownerOf (f.bank k).own == own && (bankMask k p).getLsbD j && (if fall then (f.bank k).inpFall.getLsbD j else (f.bank k).inp.getLsbD j)
  | .inbound d k => (f.inboundEdge s.nv.map.plots p h d).testBit k

/-- The hand that runs in plot p at its next edge: the slot's, unless the rest of the slot runs idle (R77, R107, R113). -/
def Fabric.runner (f : Fabric) (p : Nat) : Option Nat :=
  let x := f.plot p
  match x.live with
  | some h => if !x.idleRest && (f.hand p h).state == .live then some h else none
  | none => none
/-- The last fabric edge of plot p that has passed. -/
def Fabric.edgeOf (f : Fabric) (p : Nat) : Nat := (f.plot p).start + (f.plot p).now
/-- What the logic of plot p draws on with hand h's configuration in its bonds. -/
def State.fabIn (s : State) (p h : Nat) : FabIn :=
  let x := s.fab.plot p
  let e := s.fab.edgeOf p + 1
  { cfg := s.fab.storeOf p h
    ff := (s.fab.hand p h).ff
    hard := fun b o => s.hardOut p h b (Config.portIdle s.aon.free p e o) o
    vOn := s.fab.yoked p && !s.nv.map.plots.contains p
    disabled := x.disabled
    between := x.between
    draw := s.aon.free
    plot := p
    edge := e }
/-- The two plots of a column: plot p under hand h, and the paired plot, whose bonds in an idle slot keep the configuration of the hand that ran last (R63, R113, R124). -/
def State.column (s : State) (p h : Nat) (pair : Bool) : FabIn :=
  if !pair then s.fabIn p h
  else
    let q := pairOf p
    let g := match s.fab.runner q with | some g => some g | none => (s.fab.plot q).lastHand
    if s.fab.yoked p && !s.nv.map.plots.contains q then (match g with | some g => s.fabIn q g | none => {}) else {}

/-! ## One edge (R54, R82–R84, R103, R112) -/

/-- The plot's sequencer counts edges: its PLL is locked and no gating or stop holds it. (DEDUCED, log 45) -/
def State.plotEdges (s : State) (q : Nat) : Bool :=
  s.clocksOn && !(s.fab.plot q).halted && (s.fab.fpll (fpllOf q)).running && (s.fab.fpll (fpllOf q)).locked
    && !s.net.dieDown.contains (dieOf q)
/-- The plot's clock runs (R94). (DEDUCED, log 45) -/
def State.plotClocked (s : State) (q : Nat) : Bool := s.plotEdges q && !(s.fab.plot q).gated

/-- Values on the border links come one edge nearer, and those that arrive are in the arrival register of the same hand in each neighbour, whether its hand is live or not (R82–R84). (DEDUCED, log 47) -/
def Fabric.deliver (f : Fabric) (p edges : Nat) : Fabric :=
  let due := (f.plot p).transit.filter fun t => decide (t.1 ≤ edges)
  let f := due.foldl (fun f t => (List.range 4).foldl (fun f d =>
    match neighbour p d with
    | none => f
    | some q =>
      if f.handOwner q t.2.1 = f.handOwner p t.2.1 && (f.handOwner p t.2.1).isSome then
        let back := (d + 2) % 4
        let old := (f.hand q t.2.1).arrival
        f.setHand q t.2.1 { f.hand q t.2.1 with
          arrival := setBits old (512 * back + 511) (512 * back) ((t.2.2.toNat >>> (512 * d)) % 2 ^ 512) }
      else f) f) f
  f.setPlot p { f.plot p with transit := ((f.plot p).transit.filter fun t => !decide (t.1 ≤ edges)).map fun t => (t.1 - edges, t.2) }

/-- Standard code of ball j of a bank (R699). -/
def Bank.code (k : Bank) (j : Nat) : Nat := bits k.std (4 * j + 3) (4 * j)
/-- A pair of balls of a fast bank, IO_b[2m] and IO_b[2m + 1] with b ≤ 15 (R688), that carries a differential standard: its code stands on the even ball, the odd ball's is 0, and the bank's nominal voltage is 1.8 or 2.5 V (R699, R700). -/
def Bank.pair (k : Bank) (b m : Nat) : Bool :=
  decide (b ≤ 15) && inRange 5 7 (k.code (2 * m)) && k.code (2 * m + 1) = 0 && (k.nominal = 3 || k.nominal = 4)
/-- The balls of a bank that capture and launch on both edges of the fabric clock (R698). -/
def Bank.doubleRate (k : Bank) (b : Nat) : BitVec 24 := BitVec.ofNat 24 (natOf (fun j => k.pair b (j / 2)) 24)

/-- The I/O cells attached to plot p at an edge: each ball's input is captured; at an edge at which a hand of the bank's owner is live its registers capture what the hand drives; a pair in LVDS or SLVS-400 carries a second value in the cycle, from a fixed cell of its own (R698). (DESIGN CHOICE, log 109) -/
def Fabric.ioEdge (f : Fabric) (live : Option (Nat × (Bool → FabIn))) (draw p edge : Nat) : Fabric :=
  (banksOf p).foldl (fun f b =>
    let k := f.bank b
    let m := bankMask b p
    let keep := fun (old new : BitVec 24) => (old &&& ~~~m) ||| (new &&& m)
    let twice := k.doubleRate b
    let k := { k with inp := keep k.inp (Config.ioInput draw p edge b false), inpFall := keep k.inpFall (Config.ioInput draw p edge b true &&& twice) }
    let drive := fun (w : Bool → FabIn) (i : Nat) => BitVec.ofNat 24 (natOf (fun j => (inputValues w (24576 + 96 * b + 4 * j + i) 1) % 2 = 1) 24)
    f.setBank b (match live with
      | some (h, w) => if ownerOf k.own = f.handOwner p h && (ownerOf k.own).isSome
        then { k with out := keep k.out (drive w 0), oe := keep k.oe (drive w 1), outFall := keep k.outFall (drive w 2 &&& twice) } else k
      | none => k)) f

/-- Data in the output registers of a plot's block memories appears (R159). -/
def Bm.settle (m : Bm) : Bm := { m with doutA := m.pipeA, doutB := m.pipeB, sbe := m.pipeSbe, dbe := m.pipeDbe }
def Fabric.settleBms (f : Fabric) (p : Nat) : Fabric :=
  { f with bms := f.bms.map fun e => if e.1 / 64 = p then (e.1, e.2.settle) else e }

/-- The QI_SEL fields among captured signals, two bits for each queue port. -/
def qiSelects (c : BitVec 24576) : BitVec 16 := BitVec.ofNat 16 ((List.range 8).map fun q => bits c (512 * q + 270) (512 * q + 269) * 4 ^ q).sum
/-- One fabric edge of plot p, from the state `s` before the edge, onto `t`: flip-flops, launch registers, I/O cells and hard-block inputs capture, and what was presented moves on (R54, R67, R82, R142, R159, R231, R698). Without a live hand the queue ports keep their QI_SEL. (DESIGN CHOICE, log 108) -/
def State.edgeOn (s : State) (t : State) (p : Nat) : State :=
  let e := s.fab.edgeOf p + 1
  let move := fun (f : Fabric) (c : BitVec 24576) (sel : BitVec 16) => f.setPlot p { f.plot p with
    now := (f.plot p).now + 1, captured := c, qiWas := (f.plot p).qiSel, qiSel := sel
    kittyOut := (f.plot p).kittyNext, kittyLast := none
    engCalls := (f.plot p).engCalls.map fun k => (k.1 - 1, k.2) }
  match s.fab.runner p with
  | none => t.onFab fun f => move ((f.ioEdge none s.aon.free p e).settleBms p) 0 (f.plot p).qiSel
  | some h =>
    let w := s.column p h
    let c := BitVec.ofNat 24576 (inputValues w 0 24576)
    t.onFab fun f =>
      let f := (f.ioEdge (some (h, w)) s.aon.free p e).settleBms p
      let f := f.setHand p h { f.hand p h with ff := bankStep w, qoRw := [] }
      let f := f.setPlot p { f.plot p with transit := (f.plot p).transit ++ [(2, h, BitVec.ofNat 2048 (inputValues w 32768 2048))] }
      move f c (qiSelects c)

/-! ## Calls (R117–R120, R123) -/

/-- LEN of the sequencer of plot q. -/
def Fabric.lenOf (f : Fabric) (q : Nat) : Nat := (f.plot q).len
def Fabric.loseCall (f : Fabric) (p : Nat) : Fabric := f.setPlot p { f.plot p with lostCalls := sat32 ((f.plot p).lostCalls + 1) }
/-- A call raised at an edge for hand h of plot p: refused, lost or accepted by the sequencer that drives the plot (R118). Of two calls at one edge of a yoke that of the lower plot comes first (R123). -/
def Fabric.raiseCall (f : Fabric) (p h slot edge : Nat) : Fabric :=
  let q := f.seqPlot p
  let w := f.slot q slot
  if f.lenOf q ≤ slot || slotOwner w = none || slotOwner w != f.handOwner p h then
    f.setPlot p { f.plot p with refusedCalls := sat32 ((f.plot p).refusedCalls + 1) }
  else match (f.plot q).call with
    | none => f.setPlot q { f.plot q with call := some { slot := slot, edge := edge, port := p } }
    | some c =>
      if c.edge = edge && decide (p < c.port) then (f.loseCall c.port).setPlot q { (f.loseCall c.port).plot q with call := some { slot := slot, edge := edge, port := p } }
      else f.loseCall p
/-- Calls of plot p's engine threads whose edge has come are raised, behind the hands' calls of that edge (R120). -/
def Fabric.engineCalls (f : Fabric) (p : Nat) : Fabric :=
  let due := (f.plot p).engCalls.filter fun c => c.1 = 0
  let f := f.setPlot p { f.plot p with engCalls := (f.plot p).engCalls.filter fun c => c.1 != 0 }
  due.foldl (fun f c => f.raiseCall p c.2.1 c.2.2 (f.edgeOf p)) f

/-! ## Passing edges (R86, R95, R112) -/

/-- Dwell of a slot word (R109). -/
def dwellOf (w : BitVec 32) : Nat := bits w 7 0 + 1
/-- The clock of a plot: the clock group of its PLL and the output it takes. Plots of one clock have their edges together (R86, R91, R95). -/
def Fabric.clockOf (f : Fabric) (p : Nat) : Nat × Nat := ((f.fpll (fpllOf p)).group, (f.plot p).clksel)
/-- One edge of a clock: every plot on it whose clock runs passes it, but for one whose slot is at its end, where SLOT_BOUNDARY starts the next. (DESIGN CHOICE, log 105) -/
def State.clockEdge (s : State) (c : Nat × Nat) : State :=
  let on := (s.fab.plots.map (·.1)).filter fun p => s.fab.clockOf p = c
  let run := on.filter fun p => s.plotClocked (s.fab.seqPlot p) && decide ((s.fab.plot p).now < dwellOf (s.fab.plot p).word)
  let s := s.onFab fun f => run.foldl Fabric.engineCalls f
  let near := fun (f : Fabric) => on.foldl (fun f p => if (f.plot p).transit.isEmpty then f else f.deliver p 1) f
  run.foldl (fun t p => s.edgeOn t p) (s.onFab near)
/-- `n` edges of the clock of plot p. -/
def State.passEdges (s : State) (p : Nat) : Nat → State
  | 0 => s
  | n + 1 => (s.clockEdge (s.fab.clockOf p)).passEdges p n
/-- Every edge of plot p up to edge e of the running slot has passed. -/
def State.toEdge (s : State) (p e : Nat) : State :=
  if e ≤ s.fab.edgeOf p then s else (s.passEdges p (e - s.fab.edgeOf p)).drawn
/-- A free number of further edges of the running slot pass, up to its end, before an event whose edge no rule gives. (DESIGN CHOICE, log 11) -/
def State.passSome (s : State) (p : Nat) : State :=
  let x := s.fab.plot p
  if s.plotClocked (s.fab.seqPlot p) && decide (x.now < dwellOf x.word) then
    (s.passEdges p (Config.freeNat s.aon.free % (dwellOf x.word - x.now + 1))).drawn
  else s
/-- The hand that is live in plot p now, if one is: what the plot's hard blocks serve. -/
def State.liveHand (s : State) (p : Nat) : Option Nat := if s.plotClocked (s.fab.seqPlot p) then s.fab.runner p else none
/-- The state at an edge of the running slot, with the hand live at it: none for an edge that has passed or that is not in the slot. -/
def State.atEdge (s : State) (p edge : Nat) : Option (State × Nat) :=
  let x := s.fab.plot p
  match s.liveHand p with
  | some h => if s.fab.edgeOf p ≤ edge && x.start < edge && edge ≤ x.start + dwellOf x.word then some (s.toEdge p edge, h) else none
  | none => none

/-! ## Slots (R108–R115, R121, R122) -/

/-- The hand that a slot word of plot p's sequencer names for plot p, if it does not say idle (R109, R110). -/
def namedHand (yokedPlot : Bool) (w : BitVec 32) : Option Nat :=
  if yokedPlot then (if w.getLsbD 23 then none else some (bits w 22 20))
  else (if w.getLsbD 15 then none else some (bits w 10 8))
/-- The hand that slot word w runs in plot p: the named hand when it is LIVE, belongs to the slot's owner, is not held in Limp, and the plot is not fallowed (R113, R539). -/
def Fabric.slotHand (f : Fabric) (fallowed : List Nat) (limp : Bool) (p : Nat) (w : BitVec 32) : Option Nat :=
  match namedHand (f.yoked p && decide (256 ≤ p)) w with
  | none => none
  | some h =>
    let x := f.hand p h
    if fallowed.contains p || x.state != HState.live || slotOwner w = none || slotOwner w != ownerOf x.own || (limp && !x.ess)
    then none else some h

/-- The bits switched by a boundary of plot p into hand h: the difference to the hand that ran last, or every 1 bit of the first (R135). -/
def Fabric.switchCost (f : Fabric) (p h : Nat) : Nat :=
  match (f.plot p).lastHand with
  | none => storeDiff [] (f.storeOf p h)
  | some g => if g = h then 0 else storeDiff (f.storeOf p g) (f.storeOf p h)

/-- Start a slot in plot p with word w at edge e: the hand that runs, the switched-bit count of its owner, the released drivers (R79, R113, R114, R139). -/
def Fabric.enterSlot (f : Fabric) (fallowed : List Nat) (limp : Bool) (p k : Nat) (w : BitVec 32) (e : Nat) : Fabric :=
  let live := f.slotHand fallowed limp p w
  let f := match live, slotOwner w with
    | some h, some o => f.setRbits p o (wrap48 (f.rbitsAt p o + f.switchCost p h))
    | _, _ => f
  let x := f.plot p
  f.setPlot p { x with
    cur := k, word := w, start := e, now := 0, live := live, idleRest := false, disabled := [], between := [], captured := 0
    lastHand := match live with | some h => some h | none => x.lastHand
    liveSince := match live with | some h => x.liveSince ||| (BitVec.ofNat 512 (2 ^ 64 - 1) <<< (64 * h)) | none => x.liveSince }

/-- Start slot k of the sequencer of plot q, in one plot or in both plots of a yoke. -/
def Fabric.startSlot (f : Fabric) (fallowed : List Nat) (limp : Bool) (q k e : Nat) : Fabric :=
  let w := f.slot q k
  let f := f.enterSlot fallowed limp q k w e
  if f.yoked q && decide (q < 256) then f.enterSlot fallowed limp (q + 256) k w e else f

/-- Some slot below LEN names a live hand in a plot that the sequencer of plot q drives (R94). -/
def Fabric.namesLive (f : Fabric) (q : Nat) : Bool :=
  (List.range (f.lenOf q)).any fun k =>
    let w := f.slot q k
    let hit := fun p y => match namedHand y w with
      | some h => (f.hand p h).state == .live
      | none => false
    hit q false || (f.yoked q && decide (q < 256) && hit (q + 256) true)

/-- While the clock of sequencer q is gated, values that gated plots of its clock had launched have arrived long since (R82). (DEDUCED, log 45) -/
def Fabric.flush (f : Fabric) (q : Nat) : Fabric :=
  if (f.plot q).gated then
    ((f.plots.filter fun e => e.2.gated && !e.2.transit.isEmpty && f.clockOf e.1 = f.clockOf q).map (·.1)).foldl
      (fun f p => f.deliver p ((f.plot p).transit.foldl (fun m t => max m t.1) 0)) f
  else f
/-- Gate or ungate the clock of the sequencer of plot p; an ungated clock starts slot 0 and discards an accepted call (R94, R115). The clock of a fallowed plot stays gated (R150). (DEDUCED, log 45) -/
def Fabric.regate (f : Fabric) (fallowed : List Nat) (limp : Bool) (p : Nat) : Fabric :=
  let q := f.seqPlot p
  let on := f.namesLive q
  let mark := fun f x g => Fabric.setPlot f x { f.plot x with gated := g }
  let both := fun (f : Fabric) g =>
    let f := mark f q g
    if f.yoked q && decide (q < 256) then mark f (q + 256) (g || fallowed.contains (q + 256)) else f
  if on && (f.plot q).gated then
    let f := both (f.flush q) false
    (f.setPlot q { f.plot q with call := none }).startSlot fallowed limp q 0 (f.edgeOf q)
  else if !on && !(f.plot q).gated then both f true
  else f

def State.limp (s : State) : Bool := s.aon.mode == some .limp

/-- The slot after the running one: the called slot when the accepted call is two edges old, else the next in order (R119). (DESIGN CHOICE, log 19) -/
def Fabric.nextSlot (f : Fabric) (q m : Nat) : Nat × Option Call :=
  let x := f.plot q
  match x.call with
  | some c => if c.edge + 2 ≤ m then (c.slot, none) else ((x.cur + 1) % x.len, x.call)
  | none => ((x.cur + 1) % x.len, none)

/-- The signals QO_RW (4 × QP + select) at which the open packets of hand k's producers, those that `sel` names by queue and producer, are rewound (R229). -/
def Net.openSels (n : Net) (sel : Nat × Queue → Nat → Bool) (k : Nat) : List Nat :=
  n.queues.flatMap fun e => (List.range (qdNprod e.2.dir + 1)).filterMap fun i =>
    let ep := qdProducer e.2.dir i
    if epKind ep = 1 && 8 * epPlot ep + epUnit ep = k && sel e i && !(e.2.prod i).openWords.isEmpty then some (epId ep % 32) else none
/-- Rewinds that the device makes show on QO_RW in the next live cycle of the hands that held the packets (R229). (DEDUCED, log 49) -/
def State.showStops (s : State) (sel : Nat × Queue → Nat → Bool) : State :=
  s.onFab fun f => { f with hands := f.hands.map fun e => (e.1, { e.2 with qoRw := e.2.qoRw ++ s.net.openSels sel e.1 }) }
/-- Producer i of a queue is hand h of plot p. -/
def isHand (p h : Nat) (e : Nat × Queue) (i : Nat) : Bool :=
  let ep := qdProducer e.2.dir i
  epKind ep = 1 && epPlot ep = p && epUnit ep = h
/-- SLOT_BOUNDARY (R112–R114, R119, R120, R139): the running slot's edges pass, and the next or the called slot starts. A yoked pair has one boundary, that of its lower plot. -/
def slotBoundary (s : State) (p : Nat) : State :=
  if !s.plotClocked p || (s.fab.yoked p && decide (256 ≤ p)) then s
  else
    let m := (s.fab.plot p).start + dwellOf (s.fab.plot p).word
    let s := s.toEdge p m
    s.onFab fun f =>
      let f := f.engineCalls p
      let f := if f.yoked p then f.engineCalls (pairOf p) else f
      let nx := f.nextSlot p m
      (f.setPlot p { f.plot p with call := nx.2 }).startSlot s.nv.map.plots s.limp p nx.1 m

def execSlotBoundary (p : PlotIx) (s : State) : Out := .next (slotBoundary s p.val)

/-- HAND_CALL (R117, R118): the call port captured CALL_V = 1 with this slot at an edge at which a hand of the plot is live. -/
def execHandCall (p : PlotIx) (slot : BitVec 6) (edge : Nat) (s : State) : Out :=
  match s.atEdge p.val edge with
  | none => .next s
  | some (t, h) =>
    let x := t.fab.plot p.val
    if x.field 4166 1 = 1 && x.field 4160 6 = slot.toNat
    then .next (t.onFab fun f => (f.setPlot p.val (x.done 4166)).raiseCall p.val h slot.toNat edge) else .next t

/-! ## Contention (R75–R79) -/

/-- The contention detail word (R75). -/
def contentionWord (p h kind rowcol pos track drivers : Nat) : Nat :=
  p * 2 ^ 23 + h * 2 ^ 20 + kind * 2 ^ 18 + rowcol * 2 ^ 14 + pos * 2 ^ 10 + track * 2 ^ 5 + min drivers 31

/-- Hand h of plot p has a driver enabled on the wire. -/
def Fabric.drivesWire (f : Fabric) (p h kind rowcol pos track : Nat) : Bool :=
  let c := f.storeOf p h
  if kind = 2 then vDrives c (16 * rowcol + pos) track else decide (0 < l48Count c kind rowcol track)

/-- A hand enters FROZEN with the values it holds, and the rest of a slot that runs it runs idle (R77). -/
def Fabric.freeze (f : Fabric) (p h : Nat) : Fabric :=
  let f := f.setHand p h { f.hand p h with state := .frozen }
  if (f.plot p).live = some h then f.setPlot p { f.plot p with idleRest := true } else f

/-- The wire stands between levels for a free number of edges, as many as 4 ns cover at the most, and reads 0 from the disable on, up to the edge that ends the cycle of the disable (R76–R78). `ps` are the plots that it passes. (DESIGN CHOICE, log 11) -/
def State.wireFight (s : State) (p wire edge khz : Nat) (ps : List Nat) : State :=
  let each := fun (s : State) (g : Plot → Plot) => s.onFab fun f => ps.foldl (fun f x => f.setPlot x (g (f.plot x))) f
  let n := Config.freeNat s.aon.free % ((4 * khz + 999999) / 1000000 + 1)
  let s := each (s.toEdge p (edge - 1 - n)) fun x => { x with between := wire :: x.between }
  let s := each (s.toEdge p (edge - 1)) fun x => { x with between := x.between.filter (· ≠ wire), disabled := wire :: x.disabled }
  s.toEdge p edge

/-- The frequency of a plot's fabric clock in kHz, from the PLL and its clock selection (R90). -/
def Fabric.clockKhz (f : Fabric) (p : Nat) : Nat :=
  let l := f.fpll (fpllOf p)
  if (f.plot p).clksel = 0 then l.fa else l.fb

/-- CONTENTION (R76–R79): a sensor has fired in the cycle that ends at an edge of the running slot of hand h. Every hand that drives the wire freezes, a hand that reads a V segment without driving it does not, the wire stays disabled to the end of the slot, and fault attention goes to the owners, each with the detail word and the record of its own hand. (DEDUCED, log 73) -/
def execContention (p : PlotIx) (h : HandIx) (kind : Fin 3) (rowcol pos : Fin 16) (track : Fin 32) (drivers : BitVec 5) (edge : Nat) (s : State) : Out :=
  let f := s.fab
  let k := kind.val
  let pos' := if k = 2 then pos.val else 0
  let tr := if k = 2 then track.val else track.val % 16
  let q := pairOf p.val
  match s.liveHand p.val with
  | none => .next s
  | some g =>
    if g != h.val || !f.drivesWire p.val h.val k rowcol.val pos' tr
      || decide (edge ≤ f.edgeOf p.val) || decide ((f.plot p.val).start + dwellOf (f.plot p.val).word < edge) then .next s
    else
      let word := fun p' h' => contentionWord p' h' k rowcol.val pos' tr drivers.toNat
      let own := fun p' h' b => match f.handOwner p' h' with
        | some o => [({ seat := o, code := 0x0701, index := 0x3000 + p', a := word p' h', b := b } : Event)] | none => []
      let other := if k = 2 && f.yoked p.val then f.runner q else none
      let drives := match other with | some h2 => f.drivesWire q h2 k rowcol.val pos' tr | none => false
      let reads := match other with | some h2 => readsV (f.storeOf q h2) (16 * rowcol.val + pos') tr | none => false
      let s := s.wireFight p.val (wireNo k rowcol.val pos' tr) edge (f.clockKhz p.val) (if k = 2 && f.yoked p.val then [p.val, q] else [p.val])
      let stop := fun (s : State) p' h' => ((s.showStops (isHand p' h')).onFab fun f => f.freeze p' h').onNet fun n => n.stopHand p' h'
      let s := stop s p.val h.val
      let s := match other with | some h2 => if drives then stop s q h2 else s | none => s
      let s := s.onFab fun f => f.regate s.nv.map.plots s.limp p.val
      .next (s.raiseAll (own p.val h.val 0 ++ match other with
        | some h2 => if drives then own q h2 0 else if reads then own q h2 1 else []
        | none => []))

/-! ## Hand commands (R105–R107) -/

/-- The hand enters LIVE with its initial values and cleared arrival registers (R56, R85, R104). -/
def Fabric.loadHand (f : Fabric) (p h : Nat) : Fabric :=
  f.setHand p h { f.hand p h with state := .live, ff := initBank (f.storeOf p h), arrival := 0 }
/-- The rest of a slot that runs the hand runs idle. -/
def Fabric.idleIf (f : Fabric) (p h : Nat) : Fabric :=
  if (f.plot p).live = some h then f.setPlot p { f.plot p with idleRest := true } else f
/-- The slot that runs in plot p names hand h, whether or not the hand runs in it. -/
def Fabric.slotNames (f : Fabric) (p h : Nat) : Bool := namedHand (f.yoked p && decide (256 ≤ p)) (f.plot p).word == some h
/-- A hand that goes live at the edge at which an idle slot has started runs in it, since that slot starts at or after the turn's first edge (R107, R114). -/
def Fabric.joinSlot (f : Fabric) (fallowed : List Nat) (limp : Bool) (p : Nat) : Fabric :=
  let x := f.plot p
  if x.now = 0 && x.live.isNone && !x.gated then f.enterSlot fallowed limp p x.cur x.word x.start else f

/-- What a hand command makes of the hand: GO 1, PARK 2, RESTART 3; a command that does not match the hand's state does nothing (R105, R107). What is left of the running slot of a hand that is parked, or restarted while it is live, runs idle; for RESTART the spec does not say so. (DESIGN CHOICE, log 98) -/
def Fabric.handCmd (f : Fabric) (p h cmd : Nat) : Fabric :=
  let x := f.hand p h
  match cmd, x.state with
  | 1, .sown => f.loadHand p h
  | 1, .parked => f.setHand p h { x with state := .live }
  | 2, .live => (f.setHand p h { x with state := .parked }).idleIf p h
  | 3, .live => (f.loadHand p h).idleIf p h
  | 3, .parked => f.loadHand p h
  | _, _ => f

/-- Take the turn's order for this hand and carry it out at the plot's first fabric edge (R107): where the clock is gated that is its first edge after the command or another of its turn ungates it, and where no edge comes the order waits. With no such order nothing is commanded. (DESIGN CHOICE, log 16) -/
def handOrder (s : State) (p h cmd : Nat) : State :=
  match takeOrder (.hand p h cmd) s.mc.orders with
  | none => s
  | some rest =>
    let q := s.fab.seqPlot p
    let gated := (s.fab.plot q).gated
    if !s.plotEdges q || (gated && !(s.fab.handCmd p h cmd).namesLive q) then s
    else
      let t := if s.fab.slotNames p h then s.passSome p else s
      let t := t.onMc fun m => { m with orders := rest }
      t.onFab fun f => (((f.flush q).handCmd p h cmd).regate s.nv.map.plots s.limp p).joinSlot s.nv.map.plots s.limp p

def execGo (p : PlotIx) (h : HandIx) (s : State) : Out := .next (handOrder s p.val h.val 1)
def execPark (p : PlotIx) (h : HandIx) (s : State) : Out := .next (handOrder s p.val h.val 2)
def execHandRestart (p : PlotIx) (h : HandIx) (s : State) : Out := .next (handOrder s p.val h.val 3)

/-! ## Wipes and fallowing (R126, R150) -/

/-- The words of a hand store cleared (R101). -/
def Fabric.clearStore (f : Fabric) (p h : Nat) : Fabric :=
  let base := handWords * (8 * p + h)
  let out := fun k => !(decide (base ≤ k) && decide (k < base + handWords))
  { f with cfg := f.cfg.filter fun e => out e.1, cfgErr := f.cfgErr.filter fun e => out e.1 }
/-- The entries of a hand in the difference table removed. -/
def Fabric.clearDiff (f : Fabric) (p h : Nat) : Fabric :=
  (List.range 8).foldl (fun f g => if g = h then f else f.setDiff p g h noDiff) f
/-- The wipe of a change of owner (R126): EMPTY, or FALLOWED in a fallowed plot. (DEDUCED, log 47) -/
def Fabric.wipeHand (f : Fabric) (fallowed : List Nat) (p h : Nat) : Fabric :=
  let f := (f.clearStore p h).clearDiff p h
  let x := f.hand p h
  let f := f.setHand p h { x with
    state := if fallowed.contains p then .fallowed else .empty, ff := 0, arrival := 0, timed := 0, wiping := true, qoRw := []
    -- replies, and replies still due, are discarded; accepted requests complete (R308)
    memReq := (x.memReq.filter fun r => r.done.isNone).map fun r => { r with orphan := true }
    memRep := [] }
  if (f.plot p).live = some h then f.setPlot p { f.plot p with idleRest := true } else f

/-- HAND_WIPE_DONE (R126): the wipe has completed, and the hand may be sown. -/
def execHandWipeDone (p : PlotIx) (h : HandIx) (s : State) : Out :=
  .next (s.onFab fun f => f.setHand p.val h.val { f.hand p.val h.val with wiping := false })

/-- Every hand of a fallowed plot enters FALLOWED with its bank held, and the slot that runs ends (R150). A sowing in progress ends there too (R129). -/
def Fabric.fallowPlot (f : Fabric) (down : List Nat) (limp : Bool) (p : Nat) : Fabric :=
  let f := f.deliver p 2
  let f := (List.range 8).foldl (fun f h => f.setHand p h { f.hand p h with state := .fallowed }) f
  let f := f.setPlot p { f.plot p with idleRest := true, gated := (f.plot p).gated || f.seqPlot p != p || !f.yoked p }
  f.regate down limp p

/-- Insert a number in a rising list. -/
def insertNat (p : Nat) : List Nat → List Nat
  | [] => [p]
  | x :: t => if p < x then p :: x :: t else x :: insertNat p t
/-- PLOT_FALLOWED (R150), as the round or start-up does it: the fallow map records the plot and each owner of a hand of it gets class 7 attention. -/
def fallowPlot (s : State) (p : Nat) : State :=
  if s.plotFallowed p then s
  else
    let owners := (List.range 8).filterMap fun h => s.fab.handOwner p h
    let s := s.passSome p
    let s := s.onMap fun m => { m with plots := insertNat p m.plots }
    let s := s.onNet fun n => (List.range 8).foldl (fun n h => n.stopHand p h) n
    (s.onFab fun f => f.fallowPlot s.nv.map.plots s.limp p).raiseAll
      (eventsFor owners 0x0704 (0x3000 + p) p 0)

/-! ## The configuration patrol and the bonds (R146–R149) -/

/-- Freeze a hand whose configuration cannot be trusted (R77, R148): a hand that is EMPTY, SOWING or FALLOWED has none, and keeps its state. (DESIGN CHOICE, log 96) -/
def freezeHand (s : State) (p h : Nat) : State :=
  match (s.fab.hand p h).state with
  | .sown | .live | .parked =>
    let s := if (s.fab.plot p).live = some h then s.passSome p else s
    s.onFab fun f => (f.freeze p h).regate s.nv.map.plots s.limp p
  | _ => s

/-- The hand stores of a plot are the target of a running self-test, or wait for its restore (R652). -/
def State.storesTested (s : State) (p : Nat) : Bool :=
  (s.mc.bist.state = 1 || s.mc.bist.state = 2) && bits s.mc.bist.runTarget 31 28 = 2 && bits s.mc.bist.runTarget 24 16 = p
/-- One plot's word under patrol: no error, one corrected in place, two freeze the hand; a word of more errors reads as SEC-DED decodes it. The attention for a word that holds two errors is raised at every pass over it, since the spec limits it to no first one. (DESIGN CHOICE, log 13) (DESIGN CHOICE, log 96) -/
def patrolPlot (s : State) (p h w : Nat) (upset : BitVec 72) : State :=
  let f := s.fab
  let x := f.hand p h
  if x.state = .sowing || x.wiping || s.storesTested p then s.onFab fun f => if upset = 0 then f else f.setCfgErr p h w (f.cfgErrAt p h w ^^^ upset)
  else
    let e := f.cfgErrAt p h w ^^^ upset
    let n := popNat 72 e.toNat
    let correct := fun (m : BitVec 72) => s.onFab fun f =>
      (f.setCfgErr p h w m).setPlot p { f.plot p with cfgCorrected := sat32 ((f.plot p).cfgCorrected + 1) }
    let double :=
      let s := freezeHand (s.onFab fun f => f.setCfgErr p h w e) p h
      let s := (s.showStops (isHand p h)).onNet fun n => n.stopHand p h
      match f.handOwner p h with
      | some o => s.raise { seat := o, code := 0x0702, index := 0x3000 + p, a := plotWith p h, b := w }
      | none => s
    if n = 0 then s
    else if n = 1 then correct 0
    else if n = 2 then double
    else match Config.secDed e.toNat with
      | some m => correct (BitVec.ofNat 72 m)
      | none => double

/-- CONFIG_PATROL (R146–R148): at an AON tick every plot's next word is read; the patrol pauses while the clocks are off. (DESIGN CHOICE, log 14) (DEDUCED, log 51) -/
def execConfigPatrol (upsets : List (PlotIx × BitVec 72)) (s : State) : Out :=
  if !s.clocksOn then .next s
  else
    let k := s.fab.patrol
    let up := fun (p : Nat) => (upsets.filter fun u => u.1.val == p).foldl (fun m u => m ^^^ u.2) 0
    let s := (List.range 512).foldl (fun s p => patrolPlot s p (k / handWords) (k % handWords) (up p)) s
    .next (s.onFab fun f => { f with patrol := (k + 1) % (8 * handWords) })

/-- BOND_SPARED (R149): at a slot boundary a spare replaces a failed configuration bond; the owners of every hand live since the group last passed get class 7 attention. -/
def execBondSpared (p : PlotIx) (group : Fin 11520) (s : State) : Out :=
  let x := s.fab.plot p.val
  match x.bondsDue.find? fun b => b.1 = group.val with
  | none => .next s
  | some b =>
    if !s.clocksOn then .next s
    else
      let hands := (List.range 8).filter fun h => b.2.getLsbD h || x.liveSince.getLsbD (64 * h + group.val % 64)
      let owners := hands.filterMap fun h => s.fab.handOwner p.val h
      let s := s.onFab fun f => f.setPlot p.val { x with bondsDue := x.bondsDue.filter fun b => b.1 != group.val }
      let s := s.onMap fun m => { m with bonds := tput [] m.bonds p.val (group.val :: tget [] m.bonds p.val) }
      .next (s.raiseAll (eventsFor owners 0x0703 (0x3000 + p.val) p.val group.val))

/-! ## Fabric PLLs (R89–R94, R522–R524) -/

/-- A fabric PLL that does not run starts; it is not yet locked (R522, R523). -/
def Fabric.startFpll (f : Fabric) (k : Nat) : Fabric :=
  if (f.fpll k).running then f else f.setFpll k { f.fpll k with running := true, locked := false }
/-- The PLLs of a group stop (R522). -/
def Fabric.stopGroup (f : Fabric) (g : Nat) : Fabric :=
  (List.range 8).foldl (fun f k => if (f.fpll k).group = g then f.setFpll k { f.fpll k with running := false, locked := false } else f) f

/-- PLL_LOCK (R94, R521, R524): a running PLL reaches lock, and what it serves receives edges again. -/
def execPllLock (pll : Pll) (s : State) : Out :=
  match pll with
  | .fabric k => if (s.fab.fpll k.val).running && s.stackOn
      then .next (s.onFab fun f => f.setFpll k.val { f.fpll k.val with locked := true }) else .next s
  | .engine k => if (s.eng.epll k.val).running && s.stackOn
      then .next (s.onEng fun e => e.setEpll k.val { e.epll k.val with locked := true }) else .next s
  | .quad k => if (s.lnk.quad k.val).pllRunning && s.stackOn
      then .next (s.onLnk fun l => l.setQuad k.val { l.quad k.val with pllLocked := true }) else .next s
  | .system | .mc | .bist => .next s

/-! ## Rotation power (R135–R137) -/

/-- A slot's hand for the estimate: idle unless the named hand is SOWN, LIVE or PARKED and belongs to the slot's owner (R113, R137). -/
def Fabric.estHand (f : Fabric) (fallowed : List Nat) (p : Nat) (y : Bool) (w : BitVec 32) : Option Nat :=
  match namedHand y w with
  | none => none
  | some h =>
    let x := f.hand p h
    let st := x.state == .sown || x.state == .live || x.state == .parked
    if st && (slotOwner w).isSome && slotOwner w == ownerOf x.own && !fallowed.contains p then some h else none
/-- The difference of two hands as the difference table holds it. -/
def Fabric.tableDiff (f : Fabric) (p a b : Nat) : Nat :=
  if a = b then 0 else if f.diffAt p a b = noDiff then 0 else f.diffAt p a b
/-- Walk the slots: the last hand that ran, and the bits switched into slots of seat o. -/
def Fabric.estWalk (f : Fabric) (fallowed : List Nat) (q p : Nat) (y : Bool) (o : Nat) (acc : Option Nat × Nat) (k : Nat) : Option Nat × Nat :=
  let w := f.slot q k
  match f.estHand fallowed p y w with
  | none => acc
  | some h =>
    let d := match acc.1 with | some g => f.tableDiff p g h | none => 0
    (some h, acc.2 + if slotOwner w = some o then d else 0)
/-- Bits that one period switches into slots of seat o in plot p: a first pass settles the hand that precedes slot 0. -/
def Fabric.periodBits (f : Fabric) (fallowed : List Nat) (q p : Nat) (y : Bool) (o : Nat) : Nat :=
  let slots := List.range (f.lenOf q)
  let last := (slots.foldl (f.estWalk fallowed q p y o) (none, 0)).1
  (slots.foldl (f.estWalk fallowed q p y o) (last, 0)).2
/-- The period T of a table in fabric cycles (R116). -/
def Fabric.period (f : Fabric) (q : Nat) : Nat := ((List.range (f.lenOf q)).map fun k => dwellOf (f.slot q k)).sum
/-- The estimate of seat o in plot p in µW, rounded up (R137): 1.1 fJ per bit. The estimate of a yoke stands in its lower plot. (DEDUCED, log 46) -/
def Fabric.rotPower (f : Fabric) (fallowed : List Nat) (o p : Nat) : Nat :=
  if f.yoked p && decide (256 ≤ p) then 0
  else
    let both := f.periodBits fallowed p p false o +
      (if f.yoked p then f.periodBits fallowed p (p + 256) true o else 0)
    (both * f.clockKhz p * 11 + (f.period p * 10000000 - 1)) / (f.period p * 10000000)
/-- A seat's rotation power in µW over all plots. -/
def Fabric.seatRotPower (f : Fabric) (fallowed : List Nat) (o : Nat) : Nat :=
  ((List.range 512).map (f.rotPower fallowed o)).sum

end Sys2Proof.Machine
end

