-- ==== Sys2Proof/Machine/Riser.lean ====
section
/-! DEFINITION. The channel engine: physical tiles, rights and refusals, the read and its outcomes, the error log and its attention, writes with their counts, the write-combining buffer, wipes, lanes (chapters 7 and 8). -/

namespace Sys2Proof.Machine

/-! ## Where a line lies (R292–R294, R338–R341) -/

/-- Physical die of a line of plot p: M4 when the tile or the die is mapped there, or when a running copy has passed the line. -/
def State.physDie (s : State) (p a : Nat) : Nat :=
  let tsel := a / 262144
  let logical := 2 * dieOf p + tsel
  let copied := match (s.stk.riser p).copy with | some (t, n, _) => t = tsel + 1 && decide (a % 262144 < n) | none => false
  if s.nv.map.dieMap = logical + 1 || (s.nv.map.riser p).tileMap = tsel + 1 || copied then 4 else logical
/-- Tile c of M4 is mapped to no plot and no copy runs into it. -/
def State.spareFree (s : State) (c : Nat) : Bool :=
  s.nv.map.dieMap = 0 && (s.nv.map.riser c).tileMap = 0 && (s.nv.map.riser (c + 256)).tileMap = 0 &&
    (s.stk.riser c).copy.isNone && (s.stk.riser (c + 256)).copy.isNone

/-! ## Refusals (R296, R319, R337, R346, R381) -/

/-- A retirement slot of plot p names the page (R330, R332). -/
def State.retired (s : State) (p page : Nat) : Bool :=
  (List.range 64).any fun k => let w := s.nv.map.retireSlot p k; w.getLsbD 31 && bits w 12 0 == page
/-- A feed domain that the riser of plot p crosses to physical die d is down (R33, R37). (DEDUCED, log 36) -/
def State.riserCut (s : State) (p d : Nat) : Bool :=
  s.net.feedDown.any fun x => (decide (p < 256) && (x = 1 || x = 2)) || (decide (3 ≤ x) && decide (x - 3 < d))
/-- The line's tile is the target of a running test or waits for its fill (R337, R652). -/
def State.tileTested (s : State) (p a : Nat) : Bool :=
  let b := s.mc.bist
  (b.state = 1 || b.state = 2) && bits b.runTarget 31 28 = 1 && bits b.runTarget 27 25 = s.physDie p a && bits b.runTarget 24 16 = columnOf p
/-- A sealed region without any key answers PROTECTED (R380). -/
def Region.keyless (g : Region) : Bool := g.isSealed && g.key0.isNone && g.key1.isNone
/-- A right code of the seal word allows the access: 1 read, 2 read and write (R356). -/
def rightAllows (code : Nat) (write : Bool) : Bool := code = 2 || (code = 1 && !write)
/-- The rights of a master to region r of plot p (R296, R381); `seat` is the seat that a hand's or thread's request carries. -/
def State.masterMay (s : State) (p r : Nat) (src : MemSrc) (seat : Option Nat) (write : Bool) : Bool :=
  let g := s.stk.region p r
  let owner := ownerOf g.own
  match src with
  | .fabric _ | .engine _ => owner.isSome && seat = owner
  | .mc k => owner.isNone || (owner = some k.val && (!g.isSealed || rightAllows g.mcRight write))
  | .dma n =>
    let b := ownerOf (s.lnk.bdma n.val).bind
    owner.isSome && b = owner &&
      (!g.isSealed || ((s.seat (owner.getD 0)).odma.toNat = n.val && rightAllows g.odmaRight write))
  | .jtag => (s.nv.life = .manufacture || s.nv.life = .service) && (owner.isNone || (!g.isSealed && g.dbgOk))
  | .testPort => owner.isNone || (!g.isSealed && g.dbgOk)
/-- The responses that refuse a request before it reaches memory (R319). -/
def State.refusals (s : State) (p a : Nat) (src : MemSrc) (seat : Option Nat) (write : Bool) : List Nat :=
  let d := s.physDie p a
  -- B reaches an F1 plot through the feed domains of F0 and C (R33, R34)
  let fromB := match src with | .fabric _ => false | .engine _ => false | _ => true
  let g := s.stk.region p (lineRegion a)
  (if (s.nv.map.riser p).rstate = 3 then [respRiserDown] else []) ++
  (if s.riserCut p d || (fromB && decide (256 ≤ p) && s.net.feedDown.any fun x => x = 0 || x = 1) then [respPathReset] else []) ++
  (if !s.masterMay p (lineRegion a) src seat write || g.keyless then [respProtected] else []) ++
  (if s.tileTested p a then [respTestBusy] else []) ++
  (if s.retired p (linePage a) then [respRetired] else [])
/-- Count a RETIRED response (R332). -/
def countRetired (s : State) (p resp : Nat) (n : Nat := 1) : State :=
  if resp = respRetired then s.onStk fun k => k.setRiser p { k.riser p with retiredHits := sat32 ((k.riser p).retiredHits + n) } else s

/-! ## The error log and its attention (R320–R326) -/

def kindCorrected : Nat := 0
def kindUncorr : Nat := 1
def kindCrc : Nat := 2
def kindIntegrity : Nat := 3
def kindCommand : Nat := 4
def kindLaneSpared : Nat := 5
def kindHalfWidth : Nat := 6
def kindRiserDown : Nat := 7
def kindTileMapped : Nat := 8
def kindDieMapped : Nat := 9
def srcPatrol : Nat := 0
def srcCopy : Nat := 5
def srcCheck : Nat := 6
/-- SOURCE of a request (R322); the table names no source for debug and test port accesses, which are entered as the MC's. (DEDUCED, log 52) -/
def sourceOf : MemSrc → Nat
  | .engine _ => 1 | .fabric _ => 2 | .mc _ => 3 | .dma _ => 4 | .jtag => 3 | .testPort => 3

/-- Enter one log entry (R320, R321). (DEDUCED, log 23) -/
def Stack.enter (k : Stack) (e : LogEntry) : Stack :=
  let l := k.log ++ [e]
  { k with log := l.drop (l.length - 4096), logSeq := wrap32 (k.logSeq + 1) }
/-- A riser event's entry: its address is 0 (R321). (DEDUCED, log 52) -/
def riserEntry (s : State) (p die kind source nsym sym1 sym0 : Nat) : State :=
  s.onStk fun k => k.enter {
    time := s.aon.now, seq := k.logSeq, plot := p, die := die, addr := 0, region := 0, isSealed := false, owner := 0
    kind := kind, source := source, nsym := nsym, sym1 := sym1, sym0 := sym0 }
/-- The seats that own a region of plot p. -/
def Stack.regionOwners (k : Stack) (p : Nat) : List Nat := ((List.range 32).filterMap fun r => k.regionOwner p r).eraseDups

/-- An error that a line access met. -/
structure LineErr where
  kind : Nat
  syms : List Nat := []
deriving DecidableEq, Repr

/-- Log an error of line a of plot p, count it and raise its attention (R321–R326, R342). A line of the column's free spare tile is entered under the address it is filled for, on M4 and of no region, and concerns the dealer. (DEDUCED, log 52) -/
def logLine (s : State) (p a source : Nat) (e : LineErr) (spare : Bool := false) : State :=
  let r := lineRegion a
  let g := if spare then {} else s.stk.region p r
  let x := s.stk.riser p
  let x := { x with
    corrEvents := if e.kind = kindCorrected then sat32 (x.corrEvents + 1) else x.corrEvents
    uncorrEvents := if e.kind = kindUncorr then sat32 (x.uncorrEvents + 1) else x.uncorrEvents
    crcEvents := if e.kind = kindCrc then sat32 (x.crcEvents + 1) else x.crcEvents
    integrityEvents := if e.kind = kindIntegrity then sat32 (x.integrityEvents + 1) else x.integrityEvents }
  let sym0 := e.syms.getD 0 0xFF
  let sym1 := e.syms.getD 1 0xFF
  let seen := e.kind = kindCorrected && x.recent.contains (a, sym0, sym1)
  let page := linePage a
  let old := tget [] x.pageCorr page
  let newLine := e.kind = kindCorrected && !seen && !spare && !old.contains a
  let x := { x with
    recent := if e.kind = kindCorrected && !seen then (x.recent ++ [(a, sym0, sym1)]).drop (x.recent.length - 15) else x.recent
    pageCorr := if newLine then tput [] x.pageCorr page (a :: old) else x.pageCorr }
  let entry : LogEntry := {
    time := s.aon.now, seq := s.stk.logSeq, plot := p, die := if spare then 4 else s.physDie p a, addr := a, region := r, isSealed := g.isSealed
    owner := g.own, kind := e.kind, source := source, nsym := e.syms.length, sym1 := sym1, sym0 := sym0 }
  let s := s.onStk fun k => let k := k.setRiser p x; if seen then k else k.enter entry
  let seat := (ownerOf g.own).getD 0
  let ev := fun code => ({ seat := seat, code := code, index := 0x3400 + p, a := plotWith p r, b := a } : Event)
  let key := if spare then 16384 + p else 32 * p + r
  let s := if e.kind = kindCorrected then s.raiseOnce (ev 0x0301) key
    else if e.kind = kindIntegrity then s.raiseOnce (ev 0x0501) key else s.raiseOnce (ev 0x070B) key
  let advise := (newLine && decide (s.stk.retireThresh ≤ old.length + 1)) || (e.kind = kindCorrected && !seen && e.syms.length = 2)
    || e.kind = kindUncorr || e.kind = kindCrc
  if advise && !spare then s.raise { seat := seat, code := 0x0401, index := 0x3400 + p, a := p, b := page } else s

/-- The byte positions corrected on the last eight line reads; four of one position make a lane check due (R342). (DEDUCED, log 52) -/
def noteHistory (s : State) (p : Nat) (syms : List Nat) : State :=
  s.onStk fun k =>
    let x := k.riser p
    let h := (syms :: x.history).take 8
    let due := syms.filter fun y => decide (4 ≤ (h.filter fun l => l.contains y).length) && !x.checkDue.contains y
    k.setRiser p { x with history := h, checkDue := x.checkDue ++ due }

/-! ## Reading a line (R313, R314, R328, R361, R362) -/

/-- The key of the slot that an epoch names. -/
def Region.key (g : Region) (epoch : Bool) : Option (BitVec 256) := if epoch then g.key1 else g.key0
def Region.setKey (g : Region) (epoch : Bool) (v : Option (BitVec 256)) : Region := if epoch then { g with key1 := v } else { g with key0 := v }

/-- What a read of a stored line gives: response, payload in the clear, and the error it met. -/
structure LineOut where
  resp : Nat
  data : BitVec 512 := 0
  err : Option LineErr := none
deriving DecidableEq, Repr

/-- Read a stored line (R314): `needTag` is false for a patrol that holds no key of the line's epoch. -/
def readOut (g : Region) (p a : Nat) (l : BitVec 640) (needTag : Bool) : LineOut :=
  let finish := fun (l : BitVec 640) (syms : List Nat) =>
    let err := if syms.isEmpty then none else some { kind := kindCorrected, syms := syms : LineErr }
    if g.isSealed then
      match g.key (lineEpoch l) with
      | some k => match unsealLine p a k l with
        | some d => { resp := respOkay, data := d, err := err : LineOut }
        | none => { resp := respIntegrity, err := some { kind := kindIntegrity, syms := syms } }
      | none => if needTag then { resp := respIntegrity, err := some { kind := kindIntegrity, syms := syms } } else { resp := respOkay, err := err }
    else if lineCrc (lineId p a) (lineData l) = (lineTag l).toNat then { resp := respOkay, data := lineData l, err := err }
    else { resp := respUncorr, err := some { kind := kindCrc, syms := syms } }
  match rsDecode (bytesOf l.toNat 80) with
  | .clean => finish l []
  | .fixed e => finish (correctLine l e) (e.map fun x => x.1)
  | .fails => { resp := respUncorr, err := some { kind := kindUncorr } }

/-- Upsets stay in the stored line. (DESIGN CHOICE, log 14) -/
def upsetLine (s : State) (key : Nat) (upset : BitVec 640) : State :=
  if upset = 0 then s else s.onStk fun k => k.setLine key (k.line key ^^^ upset)

/-- Read line a of plot p for a source: the outcome, with its log, counters and attention. -/
def readLine (s : State) (p a source : Nat) (upset : BitVec 640) (needTag : Bool) : State × LineOut :=
  let s := upsetLine s (lineId p a) upset
  let o := readOut (s.stk.region p (lineRegion a)) p a (s.stk.line (lineId p a)) needTag
  let syms := match o.err with | some e => e.syms | none => []
  let s := noteHistory s p syms
  (match o.err with | some e => logLine s p a source e | none => s, o)
/-- Read line n of the free spare tile of column c, which is filled as the lower tile of plot c (R327, R328, R335). -/
def readSpare (s : State) (c n : Nat) (upset : BitVec 640) : State :=
  let key := 524288 * (512 + c) + n
  let s := upsetLine s key upset
  let o := readOut {} c n (s.stk.line key) false
  let s := noteHistory s c (match o.err with | some e => e.syms | none => [])
  match o.err with | some e => logLine s c n srcPatrol e true | none => s

/-! ## Writing a line (R310, R311, R364, R372–R374) -/

def rekeyThreshold : Nat := 2146435072
/-- A re-key becomes due (R372): WAITING from STEADY, noted in PASS. (DEDUCED, log 53) -/
def Stack.rekeyDue (k : Stack) (p r : Nat) : Stack :=
  let g := k.region p r
  let x := k.riser p
  if g.rk = 0 then (k.setRiser p { x with dueCount := x.dueCount + 1 }).setRegion p r { g with rk := 1, dueOrder := x.dueCount }
  else if g.rk = 2 then k.setRegion p r { g with noted := true } else k
/-- The epoch and count that a write takes, with the region after it; none when the write must be held (R377). -/
def Stack.takeCount (k : Stack) (p r a : Nat) : Option (Bool × Nat × Stack) :=
  let g := k.region p r
  if g.rk = 2 && !g.marks.contains a then some (g.epoch, 0, k.setRegion p r { g with marks := a :: g.marks })
  else if g.counter ≤ 2147483647 then
    let k := k.setRegion p r { g with counter := g.counter + 1 }
    some (g.epoch, g.counter, if rekeyThreshold ≤ g.counter then k.rekeyDue p r else k)
  else none
/-- Write the 64 payload bytes of a line whole (R315, R360, R365); none when a sealed region's write must be held. -/
def Stack.writeLine (k : Stack) (p a : Nat) (data : BitVec 512) : Option Stack :=
  let r := lineRegion a
  let id := lineId p a
  if !(k.region p r).isSealed then some (k.setLine id (openLine id data))
  else match k.takeCount p r a with
    | none => none
    | some (e, n, k) => match (k.region p r).key e with
      | some key => some (k.setLine id (sealLine p a e n key data))
      | none => some k

/-! ## Delivering responses (R305, R307, R308, R370) -/

/-- Move completed requests at the head of a hand's list to its replies, in the order of its requests. -/
def settleReplies : List MemReq → List (BitVec 512 × Nat × Byte) → List MemReq × List (BitVec 512 × Nat × Byte)
  | [], reps => ([], reps)
  | q :: t, reps =>
    match q.done with
    | some (resp, data) => settleReplies t (if q.orphan then reps else reps ++ [(data, resp, q.tag)])
    | none => (q :: t, reps)
def Hand.settle (x : Hand) : Hand := let r := settleReplies x.memReq x.memRep; { x with memReq := r.1, memRep := r.2 }
/-- Complete the first request that a predicate names. -/
def finishReq (g : MemReq → Bool) (resp : Nat) (data : BitVec 512) : List MemReq → List MemReq
  | [] => []
  | q :: t => if q.done.isNone && g q then { q with done := some (resp, data) } :: t else q :: finishReq g resp data t
def Hand.finish (x : Hand) (g : MemReq → Bool) (resp : Nat) (data : BitVec 512) : Hand :=
  { x with memReq := finishReq g resp data x.memReq }.settle

/-- The reply to a request from B; JTAG memory access shows it in its own register (R381). -/
def answerB (s : State) (src : MemSrc) (resp : Nat) (data : BitVec 512) : State :=
  let s := s.onStk fun k => { k with reply := (resp, data) }
  if src = .jtag then s.onMc fun m => { m with jtag := { m.jtag with resp := resp, data := data } } else s
/-- The response of a write reaches a source that waits for it; that of a held line of a bulk WRITE waits for its channel (R377). -/
def answerWrite (s : State) (p line resp : Nat) : MemSrc → State
  | .fabric h => s.onFab fun f => f.setHand p h.val ((f.hand p h.val).finish (fun q => q.taken && q.line == line) resp 0)
  | .engine _ => writeBackResp s p line resp
  | .dma c =>
    let x := s.lnk.bdma c.val
    if x.wait = some (p, line, none) then s.onLnk fun l => l.setBdma c.val { x with wait := some (p, line, some resp) } else answerB s (.dma c) resp 0
  | src => answerB s src resp 0
def answerAll (s : State) (p line resp : Nat) (l : List MemSrc) : State := l.foldl (fun s x => answerWrite s p line resp x) s

/-! ## The write-combining buffer and held writes (R366–R370, R377) -/

def fullBe : BitVec 64 := BitVec.allOnes 64
/-- The bytes that the enables name, from new data, over old data. -/
def mergeLine (old new : BitVec 512) (be : BitVec 64) : BitVec 512 :=
  BitVec.ofNat 512 (ofBytes ((List.range 64).map fun i => if be.getLsbD i then (new.toNat >>> (8 * i)) % 256 else (old.toNat >>> (8 * i)) % 256))
/-- Perform the write of an entry: full lines without reading, others by read, check and merge; every waiting source receives its response; a write without a count is held. -/
def performEntry (s : State) (p : Nat) (e : WcEntry) (upset : BitVec 640) : State :=
  let a := e.line
  let r := lineRegion a
  let hold := fun (s : State) => s.onStk fun k => k.setRegion p r { k.region p r with heldWrites := (k.region p r).heldWrites ++ [e] }
  let d := s.physDie p a
  let early := (if (s.nv.map.riser p).rstate = 3 then [respRiserDown] else []) ++ (if s.riserCut p d then [respPathReset] else []) ++
    (if (s.stk.region p r).keyless then [respProtected] else []) ++ (if s.tileTested p a then [respTestBusy] else []) ++
    (if s.retired p (linePage a) then [respRetired] else [])
  if !early.isEmpty then answerAll (countRetired s p (firstResp early) e.waiters.length) p a (firstResp early) e.waiters
  else if e.be = fullBe then
    match s.stk.writeLine p a e.data with
    | some k => answerAll { s with stk := k } p a respOkay e.waiters
    | none => hold s
  else
    let g := s.stk.region p r
    let canCount := !g.isSealed || (g.rk = 2 && !g.marks.contains a) || decide (g.counter ≤ 2147483647)
    if !canCount then hold s
    else
      let src := match e.waiters.head? with | some x => sourceOf x | none => 3
      let (s, o) := readLine s p a src upset true
      if o.resp != respOkay then answerAll s p a o.resp e.waiters
      else match s.stk.writeLine p a (mergeLine o.data e.data e.be) with
        | some k => answerAll { s with stk := k } p a respOkay e.waiters
        | none => hold s
/-- Write the buffer's entry for a line, if it has one, to memory (R369). -/
def flushLine (s : State) (p a : Nat) (upset : BitVec 640) : State :=
  let x := s.stk.riser p
  match x.wc.find? fun e => e.line == a with
  | none => s
  | some e => performEntry (s.onStk fun k => k.setRiser p { x with wc := x.wc.filter fun y => y.line != a }) p e upset
/-- Write every entry whose line a predicate names. -/
def flushWhere (s : State) (p : Nat) (g : Nat → Bool) : State :=
  (((s.stk.riser p).wc.map fun e => e.line).filter g).foldl (fun s a => flushLine s p a 0) s
/-- A partial write enters the buffer: it merges into its line's entry or opens one, for which a full buffer writes its oldest; an entry that covers the line is written (R368, R369). -/
def enterWc (s : State) (p a : Nat) (be : BitVec 64) (data : BitVec 512) (src : MemSrc) : State :=
  let have? := (s.stk.riser p).wc.find? fun e => e.line == a
  let s := match have?, (s.stk.riser p).wc with
    | none, o :: _ => if 16 ≤ (s.stk.riser p).wc.length then flushLine s p o.line 0 else s
    | _, _ => s
  let x := s.stk.riser p
  match have? with
  | some e =>
    let e' := { e with be := e.be ||| be, data := mergeLine e.data data be, waiters := e.waiters ++ [src] }
    let s := s.onStk fun k => k.setRiser p { x with wc := x.wc.map fun y => if y.line == a then e' else y }
    if e'.be = fullBe then flushLine s p a 0 else s
  | none => s.onStk fun k => k.setRiser p { x with wc := x.wc ++ [{ line := a, be := be, data := mergeLine 0 data be, waiters := [src] }] }

/-! ## Keys and wipes (R351, R352, R336, R379) -/

/-- SMR_s (R351). -/
def smrOf (duk : BitVec 256) (seat : Nat) (nonce sms : BitVec 256) : BitVec 256 :=
  left256 (Config.hmac384 (beBytes 32 duk.toNat) ([1, BitVec.ofNat 8 seat] ++ beBytes 32 nonce.toNat ++ beBytes 32 sms.toNat))
/-- K(p, r, G) (R352). -/
def regionKey (smr : BitVec 256) (p r g : Nat) : BitVec 256 :=
  left256 (Config.hmac384 (beBytes 32 smr.toNat) ([2] ++ beBytes 2 p ++ [BitVec.ofNat 8 r] ++ beBytes 6 g))
/-- Load a key of the next generation into a slot of a region (R352, R354). (DEDUCED, log 53) -/
def Region.load (g : Region) (smr : BitVec 256) (p r : Nat) (slot : Bool) : Region :=
  let n := g.gen + 1
  let g := (g.setKey slot (some (regionKey smr p r n)))
  if slot then { g with gen := n, gen1 := n } else { g with gen := n, gen0 := n }

/-- Keys of the stored lines of a region, ascending. -/
def regionLines (p r : Nat) : List Nat := (List.range 16384).map fun i => lineId p (16384 * r + i)
/-- Replace the stored lines of region r of plot p, but for those of retired pages. -/
def State.fillRegion (s : State) (p r : Nat) (g : Nat → BitVec 640) : State :=
  let lo := lineId p (16384 * r)
  let keep := fun k => s.retired p (linePage (k % 524288))
  let fresh := (((regionLines p r).filter fun k => !keep k).map fun k => (k, g k)).filter fun e => e.2 != lineFill e.1
  let old := s.stk.lines.filter fun e => decide (lo ≤ e.1) && decide (e.1 < lo + 16384) && keep e.1
  s.onStk fun k => { k with lines :=
    (k.lines.filter fun e => decide (e.1 < lo)) ++ (old ++ fresh).mergeSort (fun x y => decide (x.1 ≤ y.1)) ++
      (k.lines.filter fun e => decide (lo + 16384 ≤ e.1)) }
/-- Writes held in a region go back to their sources: a hand's request and one from B are served after the wipe, a write-back and a line of a bulk WRITE happen again. (DEDUCED, log 54) -/
def requeueHeld (s : State) (p r : Nat) : State :=
  let back := fun (s : State) (e : WcEntry) => e.waiters.foldl (fun s x => match x with
    | .fabric h => s.onFab fun f => f.setHand p h.val { f.hand p h.val with
        memReq := (f.hand p h.val).memReq.map fun q => if q.line == e.line && q.done.isNone then { q with taken := false } else q }
    | .engine _ => s
    | src =>
      let chan := match src with | .dma c => if (s.lnk.bdma c.val).wait = some (p, e.line, none) then some c.val else none | _ => none
      match chan with
      | some c => s.onLnk fun l => l.setBdma c { l.bdma c with wait := none }
      | none => s.onStk fun k => k.setRiser p { k.riser p with waiting := (k.riser p).waiting ++ [{ src := src, line := e.line, we := true, be := e.be, data := e.data }] }) s
  let s := (s.stk.region p r).heldWrites.foldl back s
  s.onStk fun k => k.setRegion p r { k.region p r with heldWrites := [] }
/-- The wipe of a region (R336, R379, R380): to open, the fill of R335; sealed, both slots erased, a key of the next generation in KEY_0, and every line zero plaintext with count 0. (DEDUCED, log 54) -/
def wipeRegion (s : State) (p r : Nat) : State :=
  let s := requeueHeld s p r
  let g := s.stk.region p r
  let g := { g with key0 := none, key1 := none, gen0 := 0, gen1 := 0, rk := 0, progress := 0, marks := [], noted := false, wiping := (s.nv.map.riser p).rstate != 3, counter := 0, epoch := false }
  let smr := match ownerOf g.own with | some o => (s.seat o).smr | none => none
  match g.isSealed, smr with
  | true, some m =>
    let g := { g.load m p r false with counter := 1 }
    let key := regionKey m p r g.gen
    (s.onStk fun k => k.setRegion p r g).fillRegion p r fun k => sealLine p (k % 524288) false 0 key 0
  | _, _ => (s.onStk fun k => k.setRegion p r g).fillRegion p r lineFill
/-- Invalidate the lines of a region in its plot's cache (R255). -/
def dropCached (s : State) (p r : Nat) : State :=
  s.onEng fun e => e.setEngine p ((e.engine p).invalidate fun a => lineRegion a == r)

/-! ## Lanes (R343–R347) -/

def lowerHalf (lane : Nat) : Bool := decide (lane < 40) || (decide (80 ≤ lane) && decide (lane < 86))
/-- Failed lanes of a half, with the failed spares, which cover no lane of either half. (DEDUCED, log 52) -/
def laneCount (l : List Nat) (low : Bool) : Nat := (l.filter fun x => decide (92 ≤ x) || lowerHalf x == low).length
/-- Put a failed lane on the lowest free spare that has not failed; the spare's number. (DEDUCED, log 52) -/
def RiserMap.spare (m : RiserMap) (lane : Nat) : RiserMap × Nat :=
  match (List.range 6).find? fun k => (m.laneMap.getD k none).isNone && !m.failed.contains (92 + k) with
  | some k => ({ m with laneMap := m.laneMap.set k (some lane) }, 92 + k)
  | none => (m, 0xFF)
/-- The spares cover exactly the failed lanes of one half. -/
def RiserMap.coverHalf (m : RiserMap) (low : Bool) : RiserMap :=
  let kept := m.laneMap.map fun x => x.bind fun l => if lowerHalf l == low then some l else none
  let m := { m with laneMap := kept }
  (m.failed.filter fun l => decide (l < 92) && lowerHalf l == low && !kept.contains (some l)).foldl (fun m l => (m.spare l).1) m
/-- All requests in flight and waiting at a riser that goes down return RISER_DOWN, and its copies and wipes end (R346). (DEDUCED, log 63) -/
def riserDownTraffic (s : State) (p : Nat) : State :=
  let x := s.stk.riser p
  let s := s.onStk fun k => k.setRiser p { x with wc := [], copy := none, waiting := [], cmdWait := [], cmdFails := [] }
  let s := x.wc.foldl (fun s e => answerAll s p e.line respRiserDown e.waiters) s
  let s := x.waiting.foldl (fun s e => answerB s e.src respRiserDown 0) s
  let s := (List.range 32).foldl (fun s r =>
    let g := s.stk.region p r
    g.heldWrites.foldl (fun s e => answerAll s p e.line respRiserDown e.waiters) (s.onStk fun k => k.setRegion p r { g with heldWrites := [], wiping := false })) s
  s.onFab fun f => (List.range 8).foldl (fun f h =>
    let y := f.hand p h
    f.setHand p h ({ y with memReq := y.memReq.map fun (q : MemReq) => if q.done.isNone then { q with done := some (respRiserDown, 0) } else q }.settle)) f
/-- What a failed lane changes. -/
inductive LaneFate where
  | known | spared (spare lane : Nat) | recorded | half (upper : Bool) | down
deriving DecidableEq, Repr
/-- A lane of a riser has failed (R343–R346). A spare lane that fails gives the lane it carries to another spare, and counts against the six. (DEDUCED, log 52) -/
def RiserMap.laneFails (m : RiserMap) (lane : Nat) : RiserMap × LaneFate :=
  if m.rstate = 3 || m.failed.contains lane then (m, .known)
  else
    let homeless := if 92 ≤ lane then m.laneMap.getD (lane - 92) none else some lane
    let m := { m with failed := m.failed ++ [lane], laneMap := if 92 ≤ lane then m.laneMap.set (lane - 92) none else m.laneMap }
    let low := laneCount m.failed true
    let up := laneCount m.failed false
    let use := fun (upper : Bool) => ({ m with rstate := if upper then 2 else 1 }.coverHalf !upper, LaneFate.half upper)
    let fail := ({ m with rstate := 3 }, LaneFate.down)
    let rehome := match homeless with
      | some l => let r := m.spare l; (r.1, LaneFate.spared r.2 l)
      | none => (m, .recorded)
    if m.rstate = 0 then
      if m.failed.length ≤ 6 then rehome
      else if low ≤ up then (if low ≤ 6 then use false else fail)
      else if up ≤ 6 then use true else fail
    else
      let inLow := m.rstate = 1
      let mine := if inLow then low else up
      let other := if inLow then up else low
      if lane < 92 && lowerHalf lane != inLow then (m, .recorded)
      else if mine ≤ 6 then rehome
      else if other ≤ 6 then use inLow
      else fail
/-- A running test aborts for a cause, of which the first is recorded (R658). -/
def abortTest (s : State) (cause : Nat) : State :=
  if s.mc.bist.state = 1 && !s.mc.bist.aborting then s.onMc fun m => { m with bist := { m.bist with aborting := true, cause := cause } } else s
/-- The riser that carries a march on the physical tile of a target code (R29, R31, R338). -/
def State.tileRiser (s : State) (code : BitVec 32) : Nat :=
  let d := bits code 27 25
  let c := bits code 24 16 % 256
  if d = 4 then (if (s.nv.map.riser (c + 256)).tileMap != 0 || s.nv.map.dieMap = 3 || s.nv.map.dieMap = 4 then c + 256 else c)
  else if d < 2 then c else c + 256
/-- A lane check finds a lane failing: spare, width or riser state change, its log entry and attention. -/
def laneFailed (s : State) (p lane : Nat) : State :=
  let (m, fate) := (s.nv.map.riser p).laneFails lane
  let s := s.onMap fun x => x.setRiser p m
  let owners := s.stk.regionOwners p
  match fate with
  | .known | .recorded => s
  | .spared k l => (riserEntry s p 0 kindLaneSpared srcCheck 0 k l).raiseAll (eventsFor owners 0x0304 (0x3400 + p) p l)
  | .half u => (riserEntry s p 0 kindHalfWidth srcCheck (if u then 1 else 0) 0xFF lane).raiseAll (eventsFor owners 0x070C (0x3400 + p) p lane)
  | .down =>
    let s := if bits s.mc.bist.runTarget 31 28 = 1 && s.tileRiser s.mc.bist.runTarget = p then abortTest s 6 else s
    (riserEntry (riserDownTraffic s p) p 0 kindRiserDown srcCheck 0 0xFF lane).raiseAll (eventsFor owners 0x070D (0x3400 + p) p lane)

end Sys2Proof.Machine
end

