-- ==== Sys2Proof/Machine/Queues.lean ====
section
/-! DEFINITION. Headland queue ports, the events of the queue network and narrow words (chapter 5). -/

namespace Sys2Proof.Machine

/-! ## The hand's queue ports (R229–R232) -/

/-- The port captured a push on the select: this word, rank and, of a last word, valid bytes, and no abort (R229). -/
def Plot.pushes (x : Plot) (qp sel : Nat) (data : BitVec 256) (rank : Nat) (last : Option Nat) : Bool :=
  let b := 512 * qp
  x.field b 1 = 1 && x.field (b + 1) 2 = sel && x.field (b + 3) 256 = data.toNat && x.field (b + 264) 3 = rank && x.field (b + 268) 1 = 0
    && match last with
      | none => x.field (b + 267) 1 = 0
      | some vb => x.field (b + 267) 1 = 1 && x.field (b + 259) 5 = vb
/-- The port captured QO_ABORT for the select. -/
def Plot.aborts (x : Plot) (qp sel : Nat) : Bool := x.field (512 * qp + 268) 1 = 1 && x.field (512 * qp + 1) 2 = sel
/-- The port captured QI_POP, for the word presented in the cycle that ends at the edge: that of the select captured at the edge before (R229, R231). -/
def Plot.pops (x : Plot) (qp sel : Nat) : Bool := x.field (512 * qp + 271) 1 = 1 && bits x.qiWas (2 * qp + 1) (2 * qp) = sel
/-- The port captured QI_DROP for the select that QI_SEL names. -/
def Plot.drops (x : Plot) (qp sel : Nat) : Bool := x.field (512 * qp + 272) 1 = 1 && x.field (512 * qp + 269) 2 = sel
/-- The port captured QI_WMCLR of the select. -/
def Plot.clears (x : Plot) (qp sel : Nat) : Bool := x.field (512 * qp + 273 + sel) 1 = 1

/-- A command at a hard block of a plot: at its edge, with a hand live, and the block's captured inputs asking for it. The edges up to it pass; then `g` acts for the hand with the captured signal `i` taken. An edge that has passed asks nothing, and a request that the inputs did not capture is none. (DESIGN CHOICE, log 105) -/
def atPort (s : State) (p edge : Nat) (asks : Plot → Bool) (i : Nat) (g : State → Nat → State) : Out :=
  match s.atEdge p edge with
  | none => .next s
  | some (t, h) =>
    if asks (t.fab.plot p) then .next (g (t.onFab fun f => f.setPlot p ((f.plot p).done i)) h) else .next t

/-- A rewind the device makes shows on QO_RW in the hand's next live cycle (R229). (DEDUCED, log 49) -/
def showRewind (s : State) (p h qp sel : Nat) : State :=
  s.onFab fun f => f.setHand p h { f.hand p h with qoRw := (f.hand p h).qoRw ++ [4 * qp + sel] }

/-- One word pushed by hand h: `last` carries VBYTES (R202, R207, R209, R215, R230, R232). (DEDUCED, log 49) -/
def handPush (s : State) (p h qp sel : Nat) (data : BitVec 256) (rank : Nat) (last : Option Nat) : State :=
  if s.fab.toScratch p h qp sel then
    let k := handChanIx p h qp
    let c := s.net.handChanAt k
    if last.isSome && c.hasSpace then
      s.onNet fun n => { n.setHandChan k { c with reqs := c.reqs ++ [{ word := data, seq := n.scrSeq }] } with scrSeq := n.scrSeq + 1 }
    else s
  else
    match s.net.prodQueue (epHand p h qp sel) with
    | none => s
    | some (q, i) =>
      let x := s.net.queue q
      let r := match last with
        | some vb => x.pushLast i data rank vb
        | none => x.push i data rank
      let s := s.onNet fun n => n.setQueue q r.1
      if r.2 = .overlength || r.2 = .noCredit then showRewind s p h qp sel else s

/-- QO_PUSH and QO_LAST (R202, R207, R229, R230). -/
def execQoPush (a : PlotEdge) (qp : Fin 8) (sel : Fin 4) (data : BitVec 256) (rank : BitVec 3) (s : State) : Out :=
  atPort s a.plot.val a.edge (fun x => x.pushes qp.val sel.val data rank.toNat none) (512 * qp.val) fun s h =>
    handPush s a.plot.val h qp.val sel.val data rank.toNat none
def execQoLast (a : PlotEdge) (qp : Fin 8) (sel : Fin 4) (data : BitVec 256) (rank : BitVec 3) (vb : BitVec 5) (s : State) : Out :=
  atPort s a.plot.val a.edge (fun x => x.pushes qp.val sel.val data rank.toNat (some vb.toNat)) (512 * qp.val) fun s h =>
    handPush s a.plot.val h qp.val sel.val data rank.toNat (some vb.toNat)

/-- Hand h aborts its open packet (R212, R215): rewind with cause ABORT; an abort also ends a discarded packet. -/
def handAbort (s : State) (p h qp sel : Nat) : State :=
  if s.fab.toScratch p h qp sel then s
  else match s.net.prodQueue (epHand p h qp sel) with
    | none => s
    | some (q, i) => s.onNet fun n => n.setQueue q (((s.net.queue q).rewindOpen i 0).endDiscard i)
/-- QO_ABORT (R212, R215, R229): any word pushed at the same edge is discarded. -/
def execQoAbort (a : PlotEdge) (qp : Fin 8) (sel : Fin 4) (s : State) : Out :=
  atPort s a.plot.val a.edge (fun x => x.aborts qp.val sel.val) (512 * qp.val + 268) fun s h =>
    handAbort (s.onFab fun f => f.setPlot a.plot.val ((f.plot a.plot.val).done (512 * qp.val))) a.plot.val h qp.val sel.val

/-- Act on the queue that hand h consumes at a port and select. -/
def handConsume (s : State) (p h qp sel : Nat) (g : Queue → Queue) : State :=
  match s.net.consQueue (epHand p h qp sel) with
  | none => s
  | some q => if (s.net.queue q).runs then s.onNet fun n => n.setQueue q (g (n.queue q)) else s
/-- Hand h removes the presented word; on a select that goes to the scratchpad, the oldest reply word (R204, R218, R231, R232). -/
def handPop (s : State) (p h qp sel : Nat) : State :=
  if s.fab.toScratch p h qp sel then
    s.onNet fun n => n.setHandChan (handChanIx p h qp) { n.handChanAt (handChanIx p h qp) with reps := (n.handChanAt (handChanIx p h qp)).reps.tail }
  else handConsume s p h qp sel fun q => match q.pop with | some r => r.2 | none => q

/-- QI_POP (R204, R218, R231). -/
def execQiPop (a : PlotEdge) (qp : Fin 8) (sel : Fin 4) (s : State) : Out :=
  atPort s a.plot.val a.edge (fun x => x.pops qp.val sel.val) (512 * qp.val + 271) fun s h => handPop s a.plot.val h qp.val sel.val
/-- QI_DROP (R219). -/
def execQiDrop (a : PlotEdge) (qp : Fin 8) (sel : Fin 4) (s : State) : Out :=
  atPort s a.plot.val a.edge (fun x => x.drops qp.val sel.val) (512 * qp.val + 272) fun s h => handConsume s a.plot.val h qp.val sel.val Queue.drop
/-- QI_WMCLR (R223, R224, R668): the clear goes to the store; a set on the same edge wins. -/
def execQiWmclr (a : PlotEdge) (qp : Fin 8) (sel : Fin 4) (sameEdgeSet : Bool) (s : State) : Out :=
  atPort s a.plot.val a.edge (fun x => x.clears qp.val sel.val) (512 * qp.val + 273 + sel.val) fun s h =>
    handConsume s a.plot.val h qp.val sel.val fun q => if sameEdgeSet then q else { q with acts := q.acts ++ [.clear] }

/-! ## Events of the network -/

/-- The store of queue q is powered and its network runs: the packing store whenever the MC runs, the others while NCLK runs (R189). (DEDUCED, log 95) -/
def State.storeOn (s : State) (q : Nat) : Bool :=
  if decide (40960 ≤ q) && decide (q ≤ 40975) then s.mcUp else s.stackOn

def onQueue (s : State) (q : BitVec 16) (g : Queue → Queue) : State :=
  if s.storeOn q.toNat && (s.net.queue q.toNat).runs then s.onNet fun n => n.setQueue q.toNat (g (n.queue q.toNat)) else s

/-- A packet of producer i becomes visible; the MC takes the packets of the packing queues at once (R235). -/
def Queue.deliver (q : Queue) (n i : Nat) : Queue :=
  let x := q.arrive i
  if decide (40960 ≤ n) && decide (n ≤ 40975) then (match x.takePkt with | some r => r.2 | none => x) else x
/-- PACKET_VISIBLE (R210, R217, R221). (DEDUCED, log 95) -/
def execPacketVisible (x : QueueProd) (s : State) : Out := .next (onQueue s x.queue fun q => q.deliver x.queue.toNat x.prod.val)
/-- REWIND_ARRIVAL (R214). -/
def execRewindArrival (x : QueueProd) (s : State) : Out := .next (onQueue s x.queue fun q => q.rewindArrive x.prod.val)
/-- CREDIT_RETURN (R205, R206). -/
def execCreditReturn (x : QueueProd) (s : State) : Out := .next (onQueue s x.queue fun q => q.credit x.prod.val)
/-- POP_ACTS_AT_STORE (R204, R219, R221, R223, R231). (DEDUCED, log 50) -/
def execPopActsAtStore (q : BitVec 16) (s : State) : Out := .next (onQueue s q Queue.act)

/-- QUEUE_BIND_DONE (R195, R197): pages allocated and initial credits with the producers, unless a feed domain or die on the path is down. -/
def execQueueBindDone (q : BitVec 16) (s : State) : Out :=
  let x := s.net.queue q.toNat
  let feeds := s.net.feedDown.any fun d => queueCrosses q.toNat x d
  let dead := fun (e : Option Nat) => match e with | some p => s.net.dieDown.contains (dieOf p) | none => false
  let dies := dead (storePlace q.toNat) || dead (epPlace (qdConsumer x.dir)) ||
    (List.range (qdNprod x.dir + 1)).any fun i => dead (epPlace (qdProducer x.dir i))
  if s.clocksOn && qdEnable x.dir && !x.bound && !qdPack x.dir && !feeds && !dies then
    .next (s.onNet fun n => n.setQueue q.toNat x.bind)
  else .next s

/-! ## Packing mode (R233–R235) -/

/-- One queue word of up to eight narrow words (R233). -/
def narrowWord (l : List Word) : BitVec 256 := BitVec.ofNat 256 (l.foldr (fun w acc => w.toNat + 4294967296 * acc) 0)

/-- NARROW_WORD_PUSH (R207, R233, R234): a queue word is charged with its first narrow word; the fixed producers wait when they have no credit. The last narrow word carries its valid bytes minus 1. -/
def execNarrowWordPush (q : Fin 3) (data : Word) (last : Option (Fin 4)) (s : State) : Out :=
  let qn := packQueue q.val
  let x := s.net.queue qn
  let part := tget [] s.net.narrow q.val
  let pr := x.prod 0
  if !s.storeOn qn || !x.runs || (q.val == 2 && !s.stackOn) then .next s
  else if part.isEmpty && decide (pr.credits ≤ 0) && !pr.discarding && decide (pr.openWords.length < qdMaxlen x.dir + 1) then .next s
  else
    let full := part ++ [data]
    -- the first narrow word pushes the queue word; later ones fill it
    let x1 := if part.isEmpty then (x.push 0 (narrowWord full) (packRank q.val)).1
      else
        let pr := x.prod 0
        if pr.discarding then x
        else x.setProd 0 { pr with openWords := pr.openWords.dropLast ++ [narrowWord full] }
    let x2 := match last with
      | some v => if (x1.prod 0).discarding then x1.endDiscard 0 else x1.commit 0 (4 * (full.length - 1) + v.val + 1)
      | none => x1
    let part' := if last.isSome || full.length = 8 then [] else full
    .next (s.onNet fun n => { n.setQueue qn x2 with narrow := tput [] n.narrow q.val part' })

end Sys2Proof.Machine
end

