-- ==== Sys2Proof/Machine/BlockMem.lean ====
section
/-! DEFINITION. Block memories: the static setup word, the bit organisation, the ports, SEC-DED mode and clearing (R152–R165, R169). -/

namespace Sys2Proof.Machine

/-! ## The static setup word (R155–R157) -/

def bmWidthA (w : BitVec 32) : Nat := bits w 2 0
def bmWidthB (w : BitVec 32) : Nat := bits w 5 3
def bmRdwA (w : BitVec 32) : Nat := bits w 7 6
def bmRdwB (w : BitVec 32) : Nat := bits w 9 8
def bmEcc (w : BitVec 32) : Bool := w.getLsbD 10
def bmOregA (w : BitVec 32) : Bool := w.getLsbD 11
def bmOregB (w : BitVec 32) : Bool := w.getLsbD 12
/-- Bits of one element by width code (R156). -/
def widthBits (c : Nat) : Nat :=
  match c with | 0 => 1 | 1 => 2 | 2 => 4 | 3 => 9 | 4 => 18 | 5 => 36 | _ => 72
/-- Address bits by width code (R156). -/
def widthAddr (c : Nat) : Nat :=
  match c with | 0 => 15 | 1 => 14 | 2 => 13 | 3 => 12 | 4 => 11 | 5 => 10 | _ => 9
/-- Physical bit of bit j of element a (R158). -/
def physBit (c a j : Nat) : Nat :=
  let w := widthBits c
  let e := a % 2 ^ widthAddr c
  if c ≤ 2 then let d := w * e + j; 9 * (d / 8) + d % 8 else w * e + j

/-- The element of width code c at address a of an array of physical bits. -/
def elem (x : BitVec 36864) (c a : Nat) : BitVec 72 := BitVec.ofNat 72 (natOf (fun j => x.getLsbD (physBit c a j)) (widthBits c))

/-- The stored bits with the upsets since they were written. -/
def Bm.phys (m : Bm) : BitVec 36864 := m.bits ^^^ m.err

/-! ## Writing -/

/-- The bits of an element that a write reaches: a byte enable covers one nine-bit byte in W18, W36 and W72 (R158); a write in ECC mode writes the whole element (R162). -/
def writesBit (c : Nat) (ecc : Bool) (be : BitVec 8) (j : Nat) : Bool := c ≤ 3 || ecc || be.getLsbD (j / 9)
/-- What a write puts into bit j of the element: in ECC mode the data bits stand in the data bits of the nine-bit bytes, and the check bits are the memory's own (R162). -/
def writtenBit (ecc : Bool) (data : BitVec 72) (check : BitVec 8) (j : Nat) : Bool :=
  if ecc then (if j % 9 = 8 then check.getLsbD (j / 9) else data.getLsbD (8 * (j / 9) + j % 9)) else data.getLsbD j
/-- One write changes the memory (R159, R162); written bits hold no upset. -/
def Bm.write (m : Bm) (c : Nat) (w : BmW) : Bm :=
  let ecc := bmEcc m.word
  let check := Config.hamming (w.data.setWidth 64)
  (List.range (widthBits c)).foldl (fun m j =>
    if writesBit c ecc w.be j then
      let i := physBit c w.addr j
      { m with bits := setBits m.bits i i (writtenBit ecc w.data check j).toNat, err := setBits m.err i i 0 }
    else m) m

/-! ## Reading -/

/-- What a read of an element delivers: data, SBE and DBE (R160, R163). -/
def Bm.readElem (m : Bm) (c a : Nat) : BitVec 72 × Bool × Bool :=
  if bmEcc m.word then
    let take := fun (x : BitVec 36864) => BitVec.ofNat 72 (natOf (fun i => x.getLsbD (physBit c a (9 * (i / 8) + i % 8))) 64)
    let e := elem m.err c a
    let n := popNat 72 e.toNat
    if n = 0 then (take m.bits, false, false)
    else if n = 1 then (take m.bits, true, false)
    else if n = 2 then (take m.phys, false, true)
    else match Config.secDed e.toNat with
      | none => (take m.phys, false, true)
      | some _ => (BitVec.setWidth 72 (Config.miscorrected (take m.phys).toNat), true, false)
  else (elem m.phys c a, false, false)

/-- The data a read puts on its way: through the output register when OREG is 1 (R159, R163). -/
def Bm.present (m : Bm) (portB : Bool) (r : BitVec 72 × Bool × Bool) : Bm :=
  if portB then
    if bmOregB m.word then { m with doutB := m.pipeB, sbe := m.pipeSbe, dbe := m.pipeDbe, pipeB := r.1, pipeSbe := r.2.1, pipeDbe := r.2.2 }
    else { m with doutB := r.1, pipeB := r.1, sbe := r.2.1, pipeSbe := r.2.1, dbe := r.2.2, pipeDbe := r.2.2 }
  else if bmOregA m.word then { m with doutA := m.pipeA, pipeA := r.1 } else { m with doutA := r.1, pipeA := r.1 }

def bmWidth (m : Bm) (portB : Bool) : Nat := if portB then bmWidthB m.word else bmWidthA m.word
def bmRdw (m : Bm) (portB : Bool) : Nat := if portB then bmRdwB m.word else bmRdwA m.word
/-- In W72 port A only writes and port B only reads (R156). -/
def portWrites (m : Bm) (portB : Bool) : Bool := !(bmWidth m portB = 6 && portB)
def portReads (m : Bm) (portB : Bool) : Bool := !(bmWidth m portB = 6 && !portB)

/-- The output of a writing port under its read-during-write mode (R157); `before` is the memory before the edge. Under WRITE_FIRST it shows the element as both ports' writes of the edge leave it: what it shows of bytes that are not enabled, and of bits that port B overwrites, the spec does not say. (DESIGN CHOICE, log 101) -/
def Bm.rdw (m : Bm) (portB : Bool) (before : Bm) (a : Nat) : Bm :=
  if !portReads m portB then m
  else match bmRdw m portB with
    | 0 => m.present portB (m.readElem (bmWidth m portB) a)
    | 1 => m.present portB (before.readElem (bmWidth m portB) a)
    | _ => m

/-- Both ports' writes at one edge: port A first, so that port B's value stands in every overlapping bit (R160). -/
def Bm.writes (m : Bm) (wa wb : Option BmW) : Bm :=
  let m1 := match wa with | some w => if portWrites m false then m.write (bmWidth m false) w else m | none => m
  let m2 := match wb with | some w => if portWrites m true then m1.write (bmWidth m true) w else m1 | none => m1
  let m3 := match wa with | some w => if portWrites m false then m2.rdw false m w.addr else m2 | none => m2
  match wb with | some w => if portWrites m true then m3.rdw true m w.addr else m3 | none => m3

/-- A memory whose ports answer: not under a clear or a test (R165, R169). -/
def Bm.serves (m : Bm) : Bool := !m.clearing && !m.tbusy

/-- The memory answers hand h: a hand of its owner (R154). -/
def bmOpen (s : State) (p h k : Nat) : Bool :=
  (s.fab.handOwner p h).isSome && s.fab.handOwner p h == s.fab.bmOwner p k && (s.fab.bm p k).serves
/-- First captured input of a port of block memory k. -/
def bmPort (k : Nat) (portB : Bool) : Nat := 8192 + 256 * k + if portB then 128 else 0
/-- The write that a port captured, if it captured one (R159). -/
def Plot.bmWrites (x : Plot) (k : Nat) (portB : Bool) : Option BmW :=
  let b := bmPort k portB
  if x.field b 2 = 3 then some { addr := x.field (b + 10) 15, data := BitVec.ofNat 72 (x.field (b + 25) 72), be := BitVec.ofNat 8 (x.field (b + 2) 8) } else none
/-- Both ports' enables have been acted on. -/
def Plot.bmDone (x : Plot) (k : Nat) (both portB : Bool) : Plot :=
  let y := x.done (bmPort k portB)
  if both then y.done (bmPort k (!portB)) else y

/-- Counts and attention of a read that met an error (R164). -/
def bmErrors (s : State) (p k a : Nat) (sbe dbe : Bool) : State :=
  let x := s.fab.plot p
  let s := if sbe || dbe then s.onFab fun f => f.setPlot p { x with
      bmSbe := if sbe then sat32 (x.bmSbe + 1) else x.bmSbe, bmDbe := if dbe then sat32 (x.bmDbe + 1) else x.bmDbe } else s
  match s.fab.bmOwner p k with
  | none => s
  | some o =>
    let s := if sbe then s.raiseOnce { seat := o, code := 0x0302, index := 0x3000 + p, a := plotWith p k } p else s
    if dbe then s.raiseOnce { seat := o, code := 0x0707, index := 0x3000 + p, a := plotWith p k, b := a } (64 * p + k) else s

/-- A read of port A or B at an edge, with the other port's write of that edge: it returns the bits held before that write (R160, R163, R164). -/
def bmRead (s : State) (p k : Nat) (portB : Bool) (addr : Nat) (other : Option BmW) (upset : BitVec 72) : State :=
  let m0 := s.fab.bm p k
  let c := bmWidth m0 portB
  let m := (List.range (widthBits c)).foldl (fun (m : Bm) j =>
    if upset.getLsbD j then let i := physBit c addr j; { m with err := setBits m.err i i (!m.err.getLsbD i).toNat } else m) m0
  let m1 := if portB then m.writes other none else m.writes none other
  if portReads m portB then
    let r := m.readElem c addr
    bmErrors (s.onFab fun f => f.setBm p k (m1.present portB r)) p k (addr % 2 ^ widthAddr c) (portB && r.2.1) (portB && r.2.2)
  else s.onFab fun f => f.setBm p k m1
/-- BM_READ (R154, R159, R160, R163, R164): the port captured EN without WE and this address, and the other port this write or none. -/
def execBmRead (a : PlotEdge) (k : Fin 64) (portB : Bool) (addr : Nat) (other : Option BmW) (upset : BitVec 72) (s : State) : Out :=
  match s.atEdge a.plot.val a.edge with
  | none => .next s
  | some (t, h) =>
    let x := t.fab.plot a.plot.val
    let b := bmPort k.val portB
    if bmOpen t a.plot.val h k.val && x.field b 2 = 1 && x.field (b + 10) 15 = addr && x.bmWrites k.val (!portB) == other then
      .next (bmRead (t.onFab fun f => f.setPlot a.plot.val (x.bmDone k.val other.isSome portB)) a.plot.val k.val portB addr other upset)
    else .next t

/-- BM_WRITE (R154, R157–R160, R162): the port captured EN with WE and this write, and the other port this write or none. -/
def execBmWrite (a : PlotEdge) (k : Fin 64) (portB : Bool) (w : BmW) (other : Option BmW) (s : State) : Out :=
  match s.atEdge a.plot.val a.edge with
  | none => .next s
  | some (t, h) =>
    let x := t.fab.plot a.plot.val
    let m := t.fab.bm a.plot.val k.val
    if bmOpen t a.plot.val h k.val && x.bmWrites k.val portB == some w && x.bmWrites k.val (!portB) == other then
      .next (t.onFab fun f => (f.setPlot a.plot.val (x.bmDone k.val other.isSome portB)).setBm a.plot.val k.val
        (if portB then m.writes other (some w) else m.writes (some w) other))
    else .next t

/-! ## Clearing (R165) -/

/-- A clear starts: every bit 0, which is a valid element in ECC mode too; DOUT reads 0. -/
def Bm.clear (m : Bm) : Bm := { word := m.word, clearing := true, tbusy := m.tbusy }

/-- BM_CLEAR_DONE (R153, R165). -/
def execBmClearDone (p : PlotIx) (k : Fin 64) (s : State) : Out :=
  .next (s.onFab fun f => f.setBm p.val k.val { f.bm p.val k.val with clearing := false })

end Sys2Proof.Machine
end

