-- ==== Sys2Proof/Machine/Links.lean ====
section
/-! DEFINITION. Link ports: setup, power and link state, packet reception with steering and seal frames, transmission, the time base changes (chapters 8 and 9). -/

namespace Sys2Proof.Machine

/-! ## CRC-32 (R408, R437) -/

/-- Shift a reflected CRC register n bits under a polynomial. -/
def crcReflBits (poly c : Word) : Nat → Word
  | 0 => c
  | n + 1 => crcReflBits poly (if c.getLsbD 0 then (c >>> 1) ^^^ poly else c >>> 1) n
/-- A reflected CRC-32 of a byte string with initial value and final inversion of all ones. -/
def crcRefl (poly : Word) (l : List Byte) : Word :=
  (l.foldl (fun c b => crcReflBits poly (c ^^^ b.setWidth 32) 8) 0xFFFFFFFF) ^^^ 0xFFFFFFFF
/-- The CRC-32 of IEEE 802.3. -/
def crc32 (l : List Byte) : Word := crcRefl 0xEDB88320 l
/-- CRC-32C. -/
def crc32c (l : List Byte) : Word := crcRefl 0x82F63B78 l

/-! ## The setup word (R404–R406) -/

def Port.rate (x : Port) : Nat := bits x.setup 31 28
def Port.pcs (x : Port) : Nat := bits x.setup 27 25
def Port.streamOn (x : Port) : Bool := bit x.setup 22
def Port.fcs (x : Port) : Bool := bit x.setup 21
def Port.pre (x : Port) : Bool := bit x.setup 20
def Port.pstate (x : Port) : Nat := bits x.setup 19 18
def Port.tsrx (x : Port) : Bool := bit x.setup 17
def Port.lpbk (x : Port) : Bool := bit x.setup 16
def Port.tstx (x : Port) : Nat := bits x.setup 15 8
def Port.defrank (x : Port) : Nat := bits x.setup 7 5

/-- Counters of a port by their sub-entry of the port record (R505). -/
def ctCrcErr : Nat := 0x14
def ctFecCorr : Nat := 0x15
def ctFecUncorr : Nat := 0x16
def ctLockLoss : Nat := 0x17
def ctMiss : Nat := 0x18
def ctMissDrop : Nat := 0x19
def ctSealDrop : Nat := 0x1A
def ctTagFail : Nat := 0x1B
def ctReplay : Nat := 0x1C
def ctBadHeader : Nat := 0x1D
def ctKeychgTx : Nat := 0x1E
def ctKeychgRx : Nat := 0x1F
def ctSteerDrop : Nat := 0x20
def Port.count (x : Port) (k n : Nat) : Port := { x with cnt := tput 0 x.cnt k (sat32 (tget 0 x.cnt k + n)) }
def Links.onPort (l : Links) (n : Nat) (g : Port → Port) : Links := l.setPort n (g (l.port n))
def State.onPort (s : State) (n : Nat) (g : Port → Port) : State := s.onLnk fun l => l.onPort n g
def Links.portOwner (l : Links) (n : Nat) : Option Nat := ownerOf (l.port n).own

/-- An event for a port's owner that a rule raises once in a round. (DEDUCED, log 25) -/
def portEvent (s : State) (n code b : Nat) : State :=
  match s.lnk.portOwner n with
  | some o => s.raiseOnce { seat := o, code := code, index := 0x4000 + n, a := n, b := b } n
  | none => s

/-- LK_0 and both salts are loaded, and the quad's sealing engine has passed its test (R384, R396). -/
def Links.keyset (l : Links) (n : Nat) : Bool :=
  let x := l.port n
  x.lk0.isSome && x.txsalt.isSome && x.rxsalt.isSome && (l.quad (n / 4)).kat = 0

/-! ## Power and link state (R416, R417, R573–R576, R581) -/

/-- The port is named in the PORT field of a bulk DMA channel bound to a seat (R576). -/
def State.bulkPort (s : State) (n : Nat) : Bool :=
  (List.range 64).any fun c => (ownerOf (s.lnk.bdma c).bind).isSome && (s.lnk.bdma c).port.toNat = n
/-- The PMA of a port may power: in step 7 for a port of a bulk channel, from its training slot on, or after its owner's first turn. -/
def State.mayPower (s : State) (n : Nat) : Bool :=
  (s.lnk.port n).released || (s.aon.mode == some .sowing && s.bulkPort n) || match s.lnk.portOwner n with | some o => (s.seat o).firstTurn | none => false
/-- What a port's setup asks for: 0 OFF, 1 an idle state, 2 ACTIVE. -/
def State.portWants (s : State) (n : Nat) : Nat :=
  let x := s.lnk.port n
  if x.pstate = 3 || x.rate = 0 || (s.lnk.quad (n / 4)).family = 0 || !s.mayPower n then 0 else if x.pstate = 0 then 2 else 1
/-- The quad PLL runs while a port of the quad is ACTIVE, in FAST_IDLE or waking, or finishes a packet (R417). -/
def quadPll (s : State) (k : Nat) : State :=
  let need := (List.range 4).any fun i =>
    let n := 4 * k + i
    let x := s.lnk.port n
    s.portWants n = 2 || (s.portWants n = 1 && x.pstate = 1) || x.link == .waking || x.tx.isSome
  s.onLnk fun l =>
    let q := l.quad k
    l.setQuad k (if need then (if q.pllRunning then q else { q with pllRunning := true, pllLocked := false })
      else { q with pllRunning := false, pllLocked := false })
/-- The packet being received is rewound with a cause; what is left of it is discarded on the line. -/
def rxStop (s : State) (n cause : Nat) : State :=
  match (s.lnk.port n).rx with
  | none => s
  | some r =>
    let s := s.onPort n fun x => { x with rx := none }
    if r.dead then s.onNet fun m => m.setQueue r.queue ((m.queue r.queue).endDiscard r.prod)
    else s.onNet fun m =>
      let q := m.queue r.queue
      -- the packet's words are pushed up to its end, so that a packet of less than a word is rewound too
      m.setQueue r.queue ((if r.bytes.isEmpty then q.rewindOpen r.prod cause else q.rewind r.prod cause).endDiscard r.prod)
/-- Bring a port's link state to what its setup asks for; `retrain` after a change of rate or code. (DEDUCED, log 66) -/
def applyPower (s : State) (n : Nat) (retrain : Bool) : State :=
  let want := s.portWants n
  let old := (s.lnk.port n).link
  let new : LinkState :=
    if want = 0 then .off
    else if want = 2 then (match old with
      | .off | .idle => .waking
      | .waking => .waking
      | l => if retrain then .acquiring else l)
    else (match old with | .off | .waking => .waking | _ => .idle)
  let s := if new == old then s else (rxStop s n 5).onPort n fun x => { x with link := new }
  quadPll s (n / 4)

/-- PORT_WAKE_DONE (R417): a waking port reaches ACQUIRING or IDLE, once its quad PLL has locked. -/
def execPortWakeDone (n : PortIx) (s : State) : Out :=
  let x := s.lnk.port n.val
  if s.clocksOn && x.link == .waking && (s.lnk.quad (n.val / 4)).pllLocked then
    .next (quadPll (s.onPort n.val fun x => { x with link := if s.portWants n.val = 2 then .acquiring else .idle }) (n.val / 4))
  else .next s
/-- LINK_UP (R416). -/
def execLinkUp (n : PortIx) (s : State) : Out :=
  if s.clocksOn && (s.lnk.port n.val).link == .acquiring then .next (s.onPort n.val fun x => { x with link := .up }) else .next s
/-- Whether a link supply, monitor 3 or 4, was outside its range in the last round, in Field (R604, R704). -/
def State.linkSupplyOut (s : State) : Bool :=
  s.aon.mode == some .field && [2, 3].any fun k => let m := tget (some 0, 0) s.mc.hk.monitors k; m.1.isSome && (m.2 = 1 || m.2 = 2)
/-- A port that is UP loses its lock (R409, R416): the packet being received is rewound with cause LINK, the loss counts, and the first in a round raises class 2. (DEDUCED, log 66) -/
def lockLost (s : State) (n : Nat) : State :=
  if (s.lnk.port n).link == .up then
    portEvent ((rxStop s n 2).onPort n fun x => { x with link := .lost }.count ctLockLoss 1) n 0x0204 0
  else s
/-- LOCK_LOSS (R409, R416). -/
def execLockLoss (n : PortIx) (s : State) : Out := .next (if s.clocksOn then lockLost s n.val else s)
/-- LINK_REACQUIRE (R416), which waits for a link supply that is outside its range to return (R704). -/
def execLinkReacquire (n : PortIx) (s : State) : Out :=
  if s.clocksOn && !s.linkSupplyOut && (s.lnk.port n.val).link == .lost then .next (s.onPort n.val fun x => { x with link := .acquiring }) else .next s

/-! ## Steering (R419–R427) -/

/-- The four slots of (port, key) (R425). -/
def steerSlots (seed : BitVec 64) (port key : Nat) : List Nat :=
  let s : BitVec 64 := BitVec.ofNat 64 (port * 2 ^ 32 + key)
  let s := (s ^^^ seed) * 0xa3c59ac2f11d4b97
  let s := s ^^^ (s >>> 31)
  (List.range 4).map fun w => 32768 * w + bits s (15 * w + 14) (15 * w)
/-- The key of a packet (R419). -/
def steerKey (keyx : BitVec 32) (bytes : List Byte) : Nat :=
  ((List.range 4).map fun j => if keyx.getLsbD j then (byteAt bytes (bits keyx (13 + 6 * j) (8 + 6 * j))).toNat * 256 ^ j else 0).sum
def Links.lookup (l : Links) (n key : Nat) : Option Steer := l.steer.find? fun e => e.port = n && e.key = key

/-- A port word (R428). (DEDUCED, log 64) -/
def portWord (stamp n kind eq seq : Nat) (head : List Byte) : BitVec 256 :=
  BitVec.ofNat 256 (leNat (time80 stamp ++ leBytes 2 n ++ [BitVec.ofNat 8 kind, BitVec.ofNat 8 eq] ++ leBytes 2 (seq % 65536) ++ head))
/-- The device time at which the first bit of a packet crossed the balls, as the port stamps it: at most `within` ns after the present (R430). (DEDUCED, log 64) -/
def stampOf (s : State) (within : Nat) : Nat := (s.aon.now + within) - Config.freeNat s.aon.free
/-- A port runs an 8B10B rate of 3.125 Gbit/s or below (R430). -/
def Port.stampError (x : Port) : Nat := if x.pcs = 1 && decide (x.rate ≤ 3) then 4 else 2

/-- A packet that is discarded before any word is pushed. -/
def discardRx (s : State) (n : Nat) (bytes : List Byte) : State :=
  s.onPort n fun x => { x with rx := some { queue := 0xFFFF, rank := 0, prod := 0, bytes := bytes, dead := true } }
/-- The port pushes a packet's first words to its queue. -/
def beginRx (s : State) (n q i rank : Nat) (bytes : List Byte) : State :=
  let x := s.lnk.port n
  let stamp := stampOf s x.stampError
  let head := if x.tsrx then [portWord stamp n 0 0 x.rxSeq []] else []
  let r := pushWords (s.net.queue q) i rank (head ++ (queueWords bytes).take (bytes.length / 32))
  (((s.onNet fun m => m.setQueue q r.1).onPort n fun x =>
    { x with rx := some { queue := q, rank := rank, prod := i, bytes := bytes, dead := !r.2, stamp := stamp } })).drawn
/-- A port of a loaded seat before the binding tick delivers nothing, but for a port that a bulk channel names, which delivers to queues with a BULK_DMA endpoint (R576, R577). -/
def State.sowingDrop (s : State) (n q : Nat) : Bool :=
  s.aon.mode == some .sowing &&
    !(s.bulkPort n &&
      (epKind (qdConsumer (s.net.queue q).dir) = 5 || (List.range (qdNprod (s.net.queue q).dir + 1)).any fun i => epKind (qdProducer (s.net.queue q).dir i) = 5))

/-- The rest of a received packet is pushed and the packet commits (R209, R391, R434). -/
def finishRx (s : State) (n : Nat) (r : RxPkt) (bytes : List Byte) : State :=
  let s := s.onPort n fun x => { x with rx := none }
  if r.dead then s.onNet fun m => m.setQueue r.queue ((m.queue r.queue).endDiscard r.prod)
  else
    let done := r.bytes.length / 32
    let p := pushWords (s.net.queue r.queue) r.prod r.rank ((queueWords bytes).drop done)
    if !p.2 then s.onNet fun m => m.setQueue r.queue (p.1.endDiscard r.prod)
    -- a packet without words does nothing (R203)
    else if (p.1.prod r.prod).openWords.isEmpty then s.onNet fun m => m.setQueue r.queue p.1
    else
      (s.onNet fun m => m.setQueue r.queue (p.1.commit r.prod bytes.length)).onPort n fun x =>
        { x with pktsRx := wrap48 (x.pktsRx + 1), bytesRx := wrap48 (x.bytesRx + bytes.length), rxSeq := (x.rxSeq + 1) % 65536 }

/-! ## Seal frames (R386–R392) -/

/-- LK_(n+1) from LK_n (R389). -/
def nextKey (k : BitVec 256) (n : Nat) : BitVec 256 := left256 (Config.hmac384 (beBytes 32 k.toNat) [3, BitVec.ofNat 8 (n + 1)])
/-- The receiver switches to its next key, under which no frame has been accepted (R390). (DESIGN CHOICE, log 65) -/
def Port.switchRx (x : Port) : Port :=
  { x with rxKey := nextKey x.rxKey x.rxKeyN, rxKeyN := x.rxKeyN + 1, rxLast := none }.count ctKeychgRx 1
/-- Big-endian field of a frame header (R386). -/
def beField (l : List Byte) (i n : Nat) : Nat := leNat ((l.drop i).take n).reverse
/-- LEN of a frame. -/
def frameLen (l : List Byte) : Nat := beField l 2 2
/-- The header of a frame is valid (R386). (DESIGN CHOICE, log 65) -/
def sealHeaderOk (l : List Byte) : Bool :=
  decide (16 ≤ l.length) && decide (beField l 4 4 = 0) &&
    ((byteAt l 0 == 1 && inRange 1 16384 (frameLen l)) || (byteAt l 0 == 2 && decide (frameLen l = 0)))
/-- The key that a frame's KEYID names: the receive key, or the one that follows it (R390). -/
def Port.keyFor (x : Port) (l : List Byte) : Option (BitVec 256) :=
  if (byteAt l 1).toNat = x.rxKeyN % 256 then some x.rxKey
  else if (byteAt l 1).toNat = (x.rxKeyN + 1) % 256 then some (nextKey x.rxKey x.rxKeyN) else none
/-- The IV of a received frame: RXSALT and FCTR (R387). -/
def Port.rxIv (x : Port) (l : List Byte) : List Byte := beBytes 4 (x.rxsalt.getD 0).toNat ++ (l.drop 8).take 8
/-- The plaintext of a frame's payload, as far as it has arrived (R391). -/
def Port.openFrame (x : Port) (l : List Byte) : List Byte :=
  gcmCrypt ((x.keyFor l).getD 0) (x.rxIv l) ((l.drop 16).take (frameLen l))
/-- The frame that awaits its tag is accepted, and its packet commits or the receiver steps its key; or it is discarded, counted, and its packet rewound with cause SEAL (R390–R392). A port without its key set accepts none. (DESIGN CHOICE, log 65) -/
def judgeFrame (s : State) (n : Nat) : State :=
  let x := s.lnk.port n
  match x.frame with
  | none => s
  | some l =>
    let s := s.onPort n fun x => { x with frame := none }
    let drop := fun (k b : Nat) => rxStop (portEvent (s.onPort n fun x => x.count k 1) n 0x0502 b) n 3
    let fctr := beField l 8 8
    let isNow := (byteAt l 1).toNat = x.rxKeyN % 256
    if !x.sealOn || !s.lnk.keyset n then rxStop s n 3
    else match x.keyFor l with
    | none => drop ctBadHeader 2
    | some key =>
      if !sealHeaderOk l || l.length != 32 + frameLen l then drop ctBadHeader 2
      else if !gcmGood key (x.rxIv l) (l.take 16) (l.drop 16) then drop ctTagFail 0
      else if isNow && (match x.rxLast with | some c => decide (fctr ≤ c) | none => false) then drop ctReplay 1
      else
        let s := s.onPort n fun x =>
          let x := if isNow then x else x.switchRx
          if byteAt l 0 == 2 then x.switchRx else { x with rxLast := some fctr }
        match x.rx with
        | some r => if byteAt l 0 == 1 then finishRx s n r (x.openFrame l) else s
        | none => s
/-- The tag of a seal frame: its last 16 bytes (R386). -/
def frameTag (l : List Byte) : List Byte := l.drop (l.length - 16)
/-- SEAL_FRAME_RX (R390–R392): the frame that has just ended with this tag is checked, within 60 ns of its last byte. -/
def execSealFrameRx (n : PortIx) (tag : List Byte) (s : State) : Out :=
  if s.clocksOn && (s.lnk.port n.val).frame.any (fun l => frameTag l == tag) then .next (judgeFrame s n.val) else .next s

/-! ## Packets from the line (R404, R408–R410, R419–R428) -/

/-- PRE strips the seven bytes of the start block (R404). -/
def Port.stripLen (x : Port) : Nat := if x.pre && (x.pcs = 2 || x.pcs = 4 || x.pcs = 5) then 7 else 0
/-- Bytes before a packet's payload, which the key does not count: the start block's, and the header of a seal frame (R420). -/
def Port.leadLen (x : Port) : Nat := x.stripLen + if x.sealOn then 16 else 0
/-- Under loopback the receiver meets nothing but what the port has sent (R404). -/
def Port.hears (x : Port) (bytes : List Byte) : Bool :=
  !x.lpbk || match x.loop with | l :: _ => l.take bytes.length == bytes | [] => false

/-- STEERING_LOOKUP (R404, R410, R419–R424, R427, R428, R576, R577): the first 64 bytes of a packet, or the whole packet, without its FCS, give the key, and the key or DEFQ gives the queue; on a sealed port they are the first of the decrypted payload. (DESIGN CHOICE, log 65) -/
def execSteeringLookup (n : PortIx) (bytes : List Byte) (s : State) : Out :=
  if !s.clocksOn then .next s
  else
  -- the frame before has met its tag check
  let s := judgeFrame s n.val
  let x := s.lnk.port n.val
  let line := bytes.drop x.stripLen
  if x.link != .up || x.streamOn || x.rx.isSome || decide (x.leadLen + 64 < bytes.length) || !x.hears bytes then .next s
  else
    let dead := x.sealOn && (!s.lnk.keyset n.val || !sealHeaderOk line || (x.keyFor line).isNone)
    let seen := if x.sealOn then x.openFrame line else line
    let hit := s.lnk.lookup n.val (steerKey x.keyx seen)
    let q := match hit with | some e => e.queue | none => x.defq.toNat
    let rank := match hit with | some e => e.rank | none => x.defrank
    let miss := fun (s : State) => s.onPort n.val fun x => if hit.isNone then x.count ctMiss 1 else x
    let drop := fun (s : State) (k : Nat) => discardRx (s.onPort n.val fun x => x.count k 1) n.val seen
    if x.sealOn && byteAt line 0 == 2 then .next s
    -- a frame that cannot be accepted is discarded before anything of it is pushed
    else if dead then .next (discardRx s n.val [])
    else if s.sowingDrop n.val q then .next (drop s ctMissDrop)
    else if hit.isNone && q = 0xFFFF then .next (drop (miss s) ctMissDrop)
    -- on a sealed port the packet stands in a seal frame, whose acceptance its commit awaits (R391)
    else if (match hit with | some e => e.needSeal && !x.sealOn | none => false) then .next (drop s ctSealDrop)
    else match (if qdEnable (s.net.queue q).dir then (s.net.queue q).prodOf (epPortRx n.val) else none) with
      | none => .next (portEvent (drop (miss s) ctSteerDrop) n.val 0x0206 q)
      | some i => .next (beginRx (miss s) n.val q i rank seen)

/-- PACKET_RX_END (R404, R408–R410, R434, R435): the line checks commit or rewind the packet; on a sealed port a frame that passes them still awaits its tag. -/
def execPacketRxEnd (n : PortIx) (e : RxEnd) (s : State) : Out :=
  if !s.clocksOn then .next s
  else
  let s := judgeFrame s n.val
  let x := s.lnk.port n.val
  let met := x.rx.isSome && !x.sealOn
  let seen := match x.rx with | some r => if met then r.bytes else [] | none => []
  let whole := if met then match x.loop with | l :: _ => l.drop (x.stripLen + seen.length) == e.rest | [] => false
    else x.loop.head? == some e.rest
  if x.link != .up || x.streamOn || (x.lpbk && !whole) then .next s
  else
    let all := seen ++ if met then e.rest else e.rest.drop x.stripLen
    let body := if x.fcs then all.take (all.length - 4) else all
    let fcsOk := !x.fcs || (decide (4 ≤ all.length) && leBytes 4 (crc32 body).toNat == all.drop (all.length - 4))
    -- code violations belong to 8B10B, block lengths to 128B130B, codewords to RS528 and RS544 (R406, R409, R410)
    let fec := decide (4 ≤ x.pcs)
    let lostWords := if fec then e.fecUncorrectable else 0
    let crcBad := !fcsOk || (e.codeViolation && x.pcs = 1) || (e.badLength && x.pcs = 3)
    let bad := crcBad || lostWords != 0 || e.lockLost
    let s := s.onPort n.val fun x =>
      let x := if x.lpbk then { x with loop := x.loop.tail } else x
      ((x.count ctCrcErr (if crcBad then 1 else 0)).count ctFecCorr (if fec then e.fecCorrected else 0)).count ctFecUncorr lostWords
    let s := if lostWords != 0 then portEvent s n.val 0x0305 0 else if crcBad then portEvent s n.val 0x0305 1 else s
    if bad then .next (rxStop s n.val 2)
    else if x.sealOn then .next (s.onPort n.val fun x => { x with frame := some body })
    else match x.rx with
      | some r => .next (finishRx s n.val r body)
      | none => .next s

/-- STREAM_RX_PACKET (R411): 256 received bytes are committed as one packet into the default queue. -/
def execStreamRxPacket (n : PortIx) (bytes : List Byte) (s : State) : Out :=
  let x := s.lnk.port n.val
  let q := x.defq.toNat
  if !s.clocksOn || x.link != .up || !x.streamOn || bytes.length != 256 then .next s
  else if s.sowingDrop n.val q || q = 0xFFFF then .next (s.onPort n.val fun x => x.count ctMissDrop 1)
  else match (if qdEnable (s.net.queue q).dir then (s.net.queue q).prodOf (epPortRx n.val) else none) with
    | none => .next (portEvent (s.onPort n.val fun x => x.count ctSteerDrop 1) n.val 0x0206 q)
    | some i =>
      let s := beginRx s n.val q i x.defrank (bytes.take 0)
      match (s.lnk.port n.val).rx with
      | some r => .next (finishRx s n.val r bytes)
      | none => .next s

/-! ## Key changes (R389) -/

/-- KCHG (R389): the turn's order makes a key-change frame due on a sealed port. -/
def execKchg (n : PortIx) (s : State) : Out :=
  match takeOrder (.keyChange n.val) s.mc.orders with
  | none => .next s
  | some rest =>
    .next ((s.onMc fun m => { m with orders := rest }).onPort n.val fun x => if x.sealOn then { x with kchgDue := true } else x)

/-! ## Transmission (R412, R413, R417, R429) -/

def egressQueue (n i : Nat) : Nat := 32768 + 16 * n + 8 + i
/-- The bytes of a packet (R412). -/
def Pkt.bytes (p : Pkt) : List Byte :=
  let vb := match p.words.getLast? with | some w => w.side.toNat % 32 | none => 0
  let all := p.words.flatMap fun w => leBytes 32 w.data.toNat
  all.take (32 * (p.words.length - 1) + if vb = 0 then 32 else vb)

/-- The egress queue to serve: highest rank, then round robin after the index served last (R412). -/
def State.pickEgress (s : State) (n : Nat) : Option Nat :=
  let best := fun (i : Nat) =>
    let q := s.net.queue (egressQueue n i)
    if q.runs && qdConsumer q.dir = epPortTx n && q.reading.isNone then bestPkt q.visible else none
  let order := (List.range 8).map fun k => ((s.lnk.port n).rr + 1 + k) % 8
  let top := (order.filterMap best).foldl (fun m p => max m p.rank) 0
  order.find? fun i => match best i with | some p => p.rank = top | none => false

/-- The bytes between a packet's delimiters (R404, R408): the preamble in the start block, the bytes, and the FCS. -/
def Port.between (x : Port) (l : List Byte) : List Byte :=
  let l := if x.fcs then l ++ leBytes 4 (crc32 l).toNat else l
  if x.stripLen = 7 then List.replicate 6 0x55 ++ [0xD5] ++ l else l
/-- A packet as the line carries it (R407): the start block and the padding of 128B130B. (DEDUCED, log 67) -/
def Port.lineBytes (x : Port) (l : List Byte) : List Byte :=
  let l := x.between l
  if x.pcs = 3 then
    let l := 0xF5 :: (leBytes 2 l.length ++ l)
    l ++ List.replicate ((16 - l.length % 16) % 16) 0
  else l
/-- A unit of the coded line: a code group of 8B10B, data or control, or a block of the other codes, data or control. -/
inductive LineUnit where
  | group (control : Bool) (b : Byte)
  | block (control : Bool) (bytes : List Byte)
deriving DecidableEq, Repr
/-- Blocks of n bytes, the last as short as it comes. -/
def chunks (n : Nat) (l : List Byte) : List (List Byte) := (List.range ((l.length + n - 1) / n)).map fun i => (l.drop (n * i)).take n
/-- Types of the terminate control blocks by the number of bytes that they carry: the spec gives the range 0x87–0xFF, and the types are those of IEEE 802.3 Clause 49. (PRESUMED, log 110) -/
def terminateTypes : List Byte := [0x87, 0x99, 0xAA, 0xB4, 0xCC, 0xD2, 0xE1, 0xFF]
/-- The bytes between a packet's delimiters, with the delimiters of the port's code (R407); RAW has none. -/
def Port.units (x : Port) (w : List Byte) : List LineUnit :=
  if x.pcs = 1 then
    .group true 0xFB :: (w.map (.group false) ++ (.group true 0xFD :: if w.length % 2 = 1 then [.group true 0xF7] else []))
  else if x.pcs = 3 then
    match chunks 16 (0xF5 :: (leBytes 2 w.length ++ w ++ List.replicate ((16 - (3 + w.length) % 16) % 16) 0)) with
    | [] => []
    | first :: rest => .block true first :: rest.map (.block false)
  else if x.pcs = 0 then w.map (.group false)
  else
    let rest := w.drop 7
    let full := rest.length / 8
    .block true (0x78 :: (w ++ List.replicate 7 0).take 7) ::
      ((chunks 8 (rest.take (8 * full))).map (.block false) ++
        [.block true (terminateTypes.getD (rest.length % 8) 0xFF :: (rest.drop (8 * full) ++ List.replicate (7 - rest.length % 8) 0))])
/-- What the transmitter sends between packets (R407), and in stream carriage while no packet is visible: alternating 1 and 0 bits (R411). -/
def Port.idleUnits (x : Port) : List LineUnit :=
  if x.pcs = 1 then [.group true 0xBC, .group false 0x50]
  else if x.pcs = 3 then [.block true (List.replicate 16 0)]
  else if x.pcs = 0 then [.group false 0x55]
  else [.block true (0x1E :: List.replicate 7 0)]
/-- What the transmitter of a port sends now: the packet being sent or what stands between packets, and nothing at electrical idle (R404, R407, R411, R416). -/
def Port.onLine (x : Port) : List LineUnit :=
  if x.lpbk then [] else match x.tx with
    | some t => x.units (if x.streamOn then t.line else t.between)
    | none => if x.link == .acquiring || x.link == .up || x.link == .lost then x.idleUnits else []
/-- A seal frame under the transmit key (R386, R387). -/
def Port.sealFrame (x : Port) (ftype : Nat) (l : List Byte) : List Byte :=
  let hdr := [BitVec.ofNat 8 ftype, BitVec.ofNat 8 x.txKeyN] ++ beBytes 2 l.length ++ List.replicate 4 0 ++ beBytes 8 x.txCtr
  hdr ++ gcmSeal x.txKey (beBytes 4 (x.txsalt.getD 0).toNat ++ beBytes 8 x.txCtr) hdr l
/-- The counter moves on by the frame, and a key change becomes due at its limit (R387, R389). -/
def Port.frameSent (x : Port) : Port :=
  { x with txCtr := x.txCtr + 1, kchgDue := x.kchgDue || decide (2 ^ x.kchgExp ≤ x.txCtr + 1) }

/-- PACKET_TX_START (R220, R386–R389, R411–R413, R430): an UP port that sends nothing begins a key-change frame that is due, else the packet chosen by rank. (DEDUCED, log 64) (DEDUCED, log 67) -/
def execPacketTxStart (n : PortIx) (s : State) : Out :=
  let x := s.lnk.port n.val
  let stamp := stampOf s (2 * x.stampError)
  if !s.clocksOn || x.link != .up || x.tx.isSome || (x.sealOn && !s.lnk.keyset n.val) then .next s
  else if x.sealOn && x.kchgDue then
    let l := x.sealFrame 2 []
    .next ((s.onPort n.val fun x => { x with
      tx := some { eq := 0, queue := 0, bytes := [], line := x.lineBytes l, between := x.between l, stamp := stamp, keyChange := true }
      txKey := nextKey x.txKey x.txKeyN, txKeyN := x.txKeyN + 1, txCtr := 0, kchgDue := false }.count ctKeychgTx 1).drawn)
  else match s.pickEgress n.val with
    | none => .next s
    | some i =>
      let q := egressQueue n.val i
      match (s.net.queue q).takePkt with
      | none => .next s
      | some (p, q') =>
        let l := if x.sealOn && !x.streamOn then x.sealFrame 1 p.bytes else p.bytes
        .next (((s.onNet fun m => m.setQueue q q').onPort n.val fun x =>
          let x := if x.sealOn then x.frameSent else x
          { x with tx := some { eq := i, queue := q, bytes := p.bytes, line := if x.streamOn then l else x.lineBytes l, between := x.between l, stamp := stamp }, rr := i }).drawn)

/-- A one-word packet of a port into a queue beside any packet it has open there (R201, R205, R207, R429): with no credit for a page of its own it is rewound with cause NOCREDIT. (DEDUCED, log 67) -/
def Queue.pushRecord (q : Queue) (i rank : Nat) (w : BitVec 256) : Queue :=
  let x := q.prod i
  let tail := (64 - x.openWords.length % 64) % 64
  if x.credits ≤ (tail : Int) then { q with rw := tput 0 q.rw 4 (sat32 (tget 0 q.rw 4 + 1)) }
  else { q.setProd i { x with credits := x.credits - 64 } with flight := q.flight ++ [.commit { prod := i, rank := rank, words := sideWords rank 0 true [w] }] }
/-- A sent packet's transmit record goes to the default queue (R429). (DEDUCED, log 67) -/
def txRecord (s : State) (n : Nat) (t : TxPkt) : State :=
  let x := s.lnk.port n
  let q := x.defq.toNat
  if t.keyChange || !x.tstx.testBit t.eq || !qdEnable (s.net.queue q).dir then s
  else match (s.net.queue q).prodOf (epPortRx n) with
    | none => s
    | some i =>
      let head := (t.bytes ++ List.replicate 16 0).take 16
      s.onNet fun m => m.setQueue q ((m.queue q).pushRecord i x.defrank (portWord t.stamp n 1 t.eq x.txSeq head))
/-- PACKET_TX_END (R417, R429, R434): the packet's last byte has left; it counts, and its record is pushed when its queue asks for one. -/
def execPacketTxEnd (n : PortIx) (s : State) : Out :=
  match (s.lnk.port n.val).tx with
  | none => .next s
  | some t =>
    let s := txRecord s n.val t
    .next (quadPll (s.onPort n.val fun x =>
      -- under loopback the line carries electrical idle, and the receiver meets what is sent (R404)
      let x := { x with tx := none, lastLine := if x.lpbk then [] else t.line, loop := if x.lpbk && !x.streamOn then x.loop ++ [t.between] else x.loop }
      if t.keyChange then x
      else { x with pktsTx := wrap48 (x.pktsTx + 1), bytesTx := wrap48 (x.bytesTx + t.bytes.length), txSeq := (x.txSeq + 1) % 65536 }) (n.val / 4))

/-! ## Owner changes and seals (R385, R400) -/

/-- A change of LK_0 or of a salt restarts both directions at KEYID 0 with frame counter 0 (R385). -/
def Port.restartSeal (x : Port) : Port :=
  let k := x.lk0.getD 0
  { x with txKey := k, rxKey := k, txKeyN := 0, rxKeyN := 0, txCtr := 0, rxLast := none, kchgDue := false }
/-- SEAL set to 0 clears the keys (R350). (DEDUCED, log 74) -/
def Port.clearKeys (x : Port) : Port :=
  { x with lk0 := none, txKey := 0, rxKey := 0, txKeyN := 0, rxKeyN := 0, txCtr := 0, rxLast := none, kchgDue := false }
/-- PORT_OWNER_RESET (R400): link OFF, objects at reset, keys and salts erased, counters 0, entries removed; a packet being received is rewound with cause STOP, and one being sent ends on the line and still gets its record (R429). -/
def portReset (s : State) (n : Nat) : State :=
  let s := match (s.lnk.port n).tx with | some t => txRecord s n t | none => s
  let s := rxStop s n 5
  let own := (s.lnk.port n).own
  let s := s.onLnk fun l => { l.setPort n { own := own } with steer := l.steer.filter fun e => e.port != n }
  quadPll s (n / 4)

/-! ## The time base (R432, R433) -/

def clampTime (t : Int) : Nat := if t < 0 then 0 else min maxTime t.toNat
/-- STEP (R432): the counter takes the value given. -/
def execStep (s : State) : Out :=
  match s.mc.orders.findSome? fun o => match o with | .step t => some t | _ => none with
  | none => .next s
  | some t => match takeOrder (.step t) s.mc.orders with
    | none => .next s
    | some rest => .next ((s.onMc fun m => { m with orders := rest }).onAon fun a => { a with now := min maxTime t })
/-- OFFSET (R432): the counter moves by a signed number of ns, held within its range. -/
def execOffset (s : State) : Out :=
  match s.mc.orders.findSome? fun o => match o with | .offset d => some d | _ => none with
  | none => .next s
  | some d => match takeOrder (.offset d) s.mc.orders with
    | none => .next s
    | some rest => .next ((s.onMc fun m => { m with orders := rest }).onAon fun a => { a with now := clampTime (a.now + d) })

end Sys2Proof.Machine
end

