-- ==== Sys2Proof/Machine/RiserPort.lean ====
section
/-! DEFINITION. The memory-port, line, patrol, lane, wipe, copy and re-key commands of a riser (chapters 7 and 8). -/

namespace Sys2Proof.Machine

/-- The channel engine of plot p runs: its clocks are on and its die is not in reset. -/
def State.engineOn (s : State) (p : Nat) : Bool := s.stackOn && !s.net.dieDown.contains (dieOf p)

/-! ## The fabric memory port (R306–R308) -/

/-- The port captured this request (R306). -/
def Plot.asksLine (x : Plot) (we : Bool) (line : BitVec 19) (be : BitVec 64) (data : BitVec 512) (tag : Byte) : Bool :=
  x.field 5120 1 = 1 && x.field 5121 1 = we.toNat && x.field 5122 19 = line.toNat && x.field 5141 64 = be.toNat
    && x.field 5205 512 = data.toNat && x.field 5717 8 = tag.toNat
/-- A request of hand h (R306, R307, R319): with 16 outstanding it is discarded and counted; a request that is refused before it reaches memory is answered at once, unless a wipe of its region holds it (R336); a write without enables is answered OKAY. -/
def portRequest (s : State) (p h : Nat) (we : Bool) (line : BitVec 19) (be : BitVec 64) (data : BitVec 512) (tag : Byte) : State :=
  let x := s.fab.hand p h
  if 16 ≤ x.outstanding then
    s.onFab fun f => f.setPlot p { f.plot p with memportRefusals := sat32 ((f.plot p).memportRefusals + 1) }
  else
    let a := line.toNat
    let seat := s.fab.handOwner p h
    let ref := if (s.stk.region p (lineRegion a)).wiping then [] else s.refusals p a (.fabric (Fin.ofNat 8 h)) seat we
    let done : Option (Nat × BitVec 512) := if we && be = 0 then some (respOkay, 0) else if ref.isEmpty then none else some (firstResp ref, 0)
    let s := match done with | some d => countRetired s p d.1 | none => s
    s.onFab fun f => { f.setHand p h
      (Hand.settle { x with memReq := x.memReq ++ [{ seat := seat, we := we, line := a, be := be, data := data, tag := tag, seq := f.memSeq, done := done }] }) with memSeq := f.memSeq + 1 }
/-- MEM_PORT_REQUEST (R306, R307). -/
def execMemPortRequest (a : PlotEdge) (we : Bool) (line : BitVec 19) (be : BitVec 64) (data : BitVec 512) (tag : Byte) (s : State) : Out :=
  atPort s a.plot.val a.edge (fun x => x.asksLine we line be data tag) 5120 fun s h => portRequest s a.plot.val h we line be data tag
/-- MS_POP (R306): the presented reply is removed. -/
def execMsPop (a : PlotEdge) (s : State) : Out :=
  atPort s a.plot.val a.edge (fun x => x.field 5725 1 = 1) 5725 fun s h =>
    s.onFab fun f => f.setHand a.plot.val h { f.hand a.plot.val h with memRep := (f.hand a.plot.val h).memRep.tail }

/-! ## Line requests (R304, R305, R314–R319, R365–R370) -/

/-- Every hand of a plot uses its one memory port and every thread its engine's one cache: each is one source to the channel engine (R305, R306). -/
def sameSource : MemSrc → MemSrc → Bool
  | .fabric _, .fabric _ => true
  | .engine _, .engine _ => true
  | a, b => a == b
/-- A write of the source to the line is held past the counter limit: a later read of it waits (R305, R377). -/
def State.ownHeld (s : State) (p a : Nat) (src : MemSrc) : Bool :=
  (s.stk.region p (lineRegion a)).heldWrites.any fun e => e.line == a && e.waiters.any (sameSource src)
/-- A request of the source for the line waits for the check of the command lanes (R300). -/
def State.cmdHeld (s : State) (p a : Nat) (src : MemSrc) : Bool :=
  (s.stk.riser p).cmdWait.any fun c => match c with | .request x l => sameSource src x && l.toNat == a | _ => false
/-- The channel engine takes no request for the line now: its engine does not run, its region is being wiped, or its command word waits. -/
def State.lineBusy (s : State) (p a : Nat) (src : MemSrc) : Bool :=
  !s.engineOn p || (s.stk.region p (lineRegion a)).wiping || s.cmdHeld p a src

/-- Requests of a plot's hands for a line that the channel engine has not taken. -/
def Fabric.portWaits (f : Fabric) (p line : Nat) : List MemReq :=
  (List.range 8).flatMap fun h => (f.hand p h).memReq.filter fun q => q.done.isNone && !q.taken && q.line == line
/-- The oldest request of a hand that the channel engine has not taken for the line, when no other hand of the plot has issued one before it (R305). -/
def Fabric.nextFor (f : Fabric) (p h line : Nat) : Option MemReq :=
  ((f.hand p h).memReq.find? fun q => q.done.isNone && !q.taken && q.line == line).filter fun q =>
    (f.portWaits p line).all fun x => decide (q.seq ≤ x.seq)
/-- Mark a hand's request as taken. -/
def Hand.take (x : Hand) (seq : Nat) : Hand :=
  { x with memReq := x.memReq.map fun q => if q.seq = seq && q.done.isNone then { q with taken := true } else q }

/-- The seat whose rights a request of a source carries. -/
def State.srcSeat (s : State) (p : Nat) : MemSrc → Option Nat
  | .engine h => s.fab.handOwner p h.val
  | _ => none

/-- The read of a source, after its line's write-combining entry has been written: none while a write of its own is held. -/
def readAfter (s : State) (p a : Nat) (src : MemSrc) (upset : BitVec 640) : State × Option LineOut :=
  let s := flushLine s p a 0
  if s.ownHeld p a src then (s, none)
  else let r := readLine s p a (sourceOf src) upset true; (r.1, some r.2)
/-- LINE_READ for a source on B, or for a load of a thread that is not to retire: the reply. -/
def serveRead (s : State) (p a : Nat) (src : MemSrc) (upset : BitVec 640) : State × Option LineOut :=
  let ref := s.refusals p a src (s.srcSeat p src) false
  if !ref.isEmpty then (countRetired s p (firstResp ref), some { resp := firstResp ref })
  else readAfter s p a src upset

/-- A full-line write of a source: its line's entry is written first (R369), then all 64 bytes. -/
def fullWrite (s : State) (p a : Nat) (src : MemSrc) (data : BitVec 512) : State :=
  performEntry (flushLine s p a 0) p { line := a, be := fullBe, data := data, waiters := [src] } 0
/-- An accepted write of a source: a full line is performed, a partial one enters the write-combining buffer (R365–R369). -/
def takeWrite (s : State) (p a : Nat) (src : MemSrc) (be : BitVec 64) (data : BitVec 512) : State :=
  if be = fullBe then fullWrite s p a src data else enterWc s p a be data src

/-- A request from B: refused, or performed; none while it must wait behind a held write of its source. -/
def serveB (s : State) (p : Nat) (x : HeldAcc) (upset : BitVec 640) : Option State :=
  let ref := s.refusals p x.line x.src none x.we
  if !ref.isEmpty then some (answerB (countRetired s p (firstResp ref)) x.src (firstResp ref) 0)
  else if x.we then some (takeWrite s p x.line x.src x.be x.data)
  else if s.ownHeld p x.line x.src then none
  else match readAfter s p x.line x.src upset with
    | (s, some o) => some (answerB s x.src o.resp o.data)
    | (_, none) => none
/-- A request from B reaches the channel engine; it waits while the engine takes none for its line, and behind an older request of its source for the line (R300, R305, R336). -/
def requestB (s : State) (p : Nat) (x : HeldAcc) (upset : BitVec 640) : State :=
  let older := (s.stk.riser p).waiting.any fun y => y.line = x.line && sameSource y.src x.src
  let keep := fun (s : State) => (upsetLine s (lineId p x.line) upset).onStk fun k => k.setRiser p { k.riser p with waiting := (k.riser p).waiting ++ [x] }
  if s.lineBusy p x.line x.src || older then keep s
  else (serveB s p x upset).getD (keep (flushLine s p x.line 0))
/-- The waiting requests from B are tried again in their order. -/
def retryB (s : State) (p : Nat) : State :=
  let l := (s.stk.riser p).waiting
  l.foldl (fun s x => requestB s p x 0) (s.onStk fun k => k.setRiser p { k.riser p with waiting := [] })

/-- LINE_READ (R305, R314): for a hand, its next request for the line; for a thread, a load that need not retire, whose good line fills the cache (R268); for a source on B, one request. A wipe of the region holds every request (R336). (DEDUCED, log 55) -/
def execLineRead (p : PlotIx) (src : MemSrc) (line : BitVec 19) (upset : BitVec 640) (s : State) : Out :=
  let a := line.toNat
  match src with
  | .fabric h =>
    if s.lineBusy p.val a src then .next s
    else match s.fab.nextFor p.val h.val a with
    | none => .next s
    | some q =>
      if q.we then .next s
      else
        let ref := s.refusals p.val a src q.seat false
        let finish := fun (s : State) resp data =>
          s.onFab fun f => f.setHand p.val h.val ((f.hand p.val h.val).finish (fun x => x.seq == q.seq) resp data)
        if !ref.isEmpty then .next (finish (countRetired s p.val (firstResp ref)) (firstResp ref) 0)
        else match readAfter s p.val a src upset with
          | (s, some o) => .next (finish s o.resp o.data)
          | (s, none) => .next s
  | .engine h =>
    let e := s.eng.engine p.val
    match e.lookup a, s.fab.handOwner p.val h.val with
    | none, some seat =>
      if s.lineBusy p.val a src || (s.eng.thread p.val h.val).state != .running then .next s
      else match serveRead s p.val a src upset with
        | (s', none) => .next s'
        | (s', some o) =>
          if o.resp != respOkay then .next s'
          else match (s'.eng.engine p.val).fillLine seat (Config.freeNat s.aon.free) a o.data with
            | some e => .next ((s'.onEng fun x => x.setEngine p.val e).drawn)
            | none => .next s'
    | _, _ => .next s
  | _ => if s.engineOn p.val then .next (requestB s p.val { src := src, line := a, we := false } upset) else .next s

/-- A write request of a hand or of a source on B reaches the channel engine: held, refused, or performed. -/
def serveWrite (s : State) (p a : Nat) (src : MemSrc) (be : BitVec 64) (data : BitVec 512) : State :=
  match src with
  | .fabric h =>
    if s.lineBusy p a src then s
    else match s.fab.nextFor p h.val a with
    | none => s
    | some q =>
      if !q.we || q.be != be || q.data != data then s
      else
        let ref := s.refusals p a src q.seat true
        if !ref.isEmpty then
          (countRetired s p (firstResp ref)).onFab fun f =>
            f.setHand p h.val ((f.hand p h.val).finish (fun x => x.seq == q.seq) (firstResp ref) 0)
        else takeWrite (s.onFab fun f => f.setHand p h.val ((f.hand p h.val).take q.seq)) p a src be data
  | .engine _ => s
  | _ => if s.engineOn p then requestB s p { src := src, line := a, we := true, be := be, data := data } 0 else s

/-- FULL_LINE_WRITE (R310, R315, R360, R364, R365, R374, R377). Threads write lines by CACHE_WRITEBACK only. -/
def execFullLineWrite (p : PlotIx) (src : MemSrc) (line : BitVec 19) (data : BitVec 512) (s : State) : Out :=
  .next (serveWrite s p.val line.toNat src fullBe data)

/-- PARTIAL_LINE_WRITE (R316, R366–R370): a partial write enters the write-combining buffer, and is written to memory with its entry. -/
def execPartialLineWrite (p : PlotIx) (src : MemSrc) (line : BitVec 19) (be : BitVec 64) (data : BitVec 512) (s : State) : Out :=
  if be = fullBe || be = 0 then .next s else .next (serveWrite s p.val line.toNat src be data)

/-- WRITE_COMBINE_TIMEOUT (R369): an entry that has been open for 256 ns is written. -/
def execWriteCombineTimeout (p : PlotIx) (line : BitVec 19) (upset : BitVec 640) (s : State) : Out :=
  if !s.engineOn p.val || (s.stk.region p.val (lineRegion line.toNat)).wiping then .next s
  else .next (flushLine s p.val line.toNat upset)

/-- CACHE_WRITEBACK (R251, R254): a dirty line is written whole under its region's owner, and the response acts on the line. (DEDUCED, log 55) -/
def execCacheWriteback (p : PlotIx) (set : Fin 64) (way : Fin 4) (s : State) : Out :=
  match (s.eng.engine p.val).cache.lookup (4 * set.val + way.val) with
  | none => .next s
  | some c =>
    let r := lineRegion c.line
    if !c.dirty || s.lineBusy p.val c.line (.engine 0)
        || (s.stk.region p.val r).heldWrites.any fun e => e.line == c.line && e.waiters.any fun w => match w with | .engine _ => true | _ => false then .next s
    else
      let ref := s.refusals p.val c.line (.engine 0) (s.stk.regionOwner p.val r) true
      if !ref.isEmpty then .next (writeBackResp (countRetired s p.val (firstResp ref)) p.val c.line (firstResp ref))
      else
        let s := s.onEng fun e => e.setEngine p.val ((e.engine p.val).putLine (4 * set.val + way.val) { c with newer := false })
        .next (fullWrite s p.val c.line (.engine 0) c.data)

/-! ## Lanes, command words, patrol (R300, R327–R329, R342) -/

/-- SOURCE of what a command word asks for (R322). -/
def cmdSource : CmdSrc → Nat
  | .request src _ => sourceOf src
  | .patrol => srcPatrol
  | .copy => srcCopy
/-- COMMAND_RETRY (R300): a resend counts; the third failure of one word is logged, a check of the command lanes is due, and what the word asks for waits for it. (DEDUCED, log 52) -/
def execCommandRetry (w : CmdWord) (crcOk : Bool) (s : State) : Out :=
  let x := s.stk.riser w.plot.val
  if !s.engineOn w.plot.val || (s.nv.map.riser w.plot.val).rstate = 3 || x.cmdWait.contains w.what then .next s
  else
    let x := { x with cmdRetries := sat32 (x.cmdRetries + 1) }
    let rest := x.cmdFails.filter (· ≠ w.what)
    if crcOk then .next (s.onStk fun k => k.setRiser w.plot.val { x with cmdFails := rest })
    else if !x.cmdFails.contains w.what then .next (s.onStk fun k => k.setRiser w.plot.val { x with cmdFails := x.cmdFails ++ [w.what] })
    else
      let lanes := ((List.range 12).map (· + 80)).filter fun l => !x.checkDue.contains l
      let s := s.onStk fun k => k.setRiser w.plot.val { x with cmdFails := rest, cmdWait := x.cmdWait ++ [w.what], checkDue := x.checkDue ++ lanes }
      .next (riserEntry s w.plot.val 0 kindCommand (cmdSource w.what) 0 0xFF 0xFF)

/-- RISER_LANE_CHECK (R300, R342–R346): the lanes that are due, or the lanes of the round's share, are checked; each that fails takes its course, and what waited for the check goes on. -/
def execRiserLaneCheck (p : PlotIx) (failed : List (Fin 98)) (s : State) : Out :=
  let x := s.stk.riser p.val
  if !s.clocksOn then .next s
  else
    let share := fun (l : Nat) => l % 64 = s.mc.hk.rounds % 64
    let mine := (failed.map fun l => l.val).filter fun l => if x.checkDue.isEmpty then share l else x.checkDue.contains l
    .next (retryB (mine.foldl (fun s l => laneFailed s p.val l) (s.onStk fun k => k.setRiser p.val { x with checkDue := [], cmdWait := [] })) p.val)

/-- Lines that a riser's patrol visits: its own, and for an F0 plot those of its column's free spare tile (R327). (DEDUCED, log 51) -/
def patrolLines (s : State) (p : Nat) : Nat := 524288 + if p < 256 && s.spareFree p then 262144 else 0

/-- MEM_PATROL_READ (R327–R329): one line is read and checked, or skipped; the patrol pauses while the riser is down or cut. A spare tile that is no longer free ends the period where it stands. (DESIGN CHOICE, log 14) (DEDUCED, log 51) (DEDUCED, log 52) -/
def execMemPatrolRead (p : PlotIx) (upset : BitVec 640) (s : State) : Out :=
  let x := s.stk.riser p.val
  let past := decide (patrolLines s p.val ≤ x.patrol)
  let n := if past then 0 else x.patrol
  let next := (n + 1) % patrolLines s p.val
  let step := fun (s : State) => s.onStk fun k => k.setRiser p.val { k.riser p.val with
    patrol := next, pageCorr := if next = 0 then [] else (k.riser p.val).pageCorr }
  if !s.engineOn p.val || (s.nv.map.riser p.val).rstate = 3 || s.riserCut p.val (if n < 524288 then s.physDie p.val n else 4)
      || x.cmdWait.contains .patrol then .next s
  else
    let s := if past then s.onStk fun k => k.setRiser p.val { x with pageCorr := [] } else s
    if n < 524288 then
      let copying := match x.copy with | some (t, _, _) => t = n / 262144 + 1 | none => false
      if (s.stk.region p.val (lineRegion n)).wiping || copying || s.tileTested p.val n || s.retired p.val (linePage n) then .next (step s)
      else .next (step (readLine s p.val n srcPatrol upset false).1)
    else
      let b := s.mc.bist
      if (b.state = 1 || b.state = 2) && bits b.runTarget 31 16 = 0x1800 + p.val then .next (step s)
      else .next (step (readSpare s p.val (n - 524288) upset))

/-! ## Wipes and copies (R336, R339–R341) -/

/-- REGION_WIPE_DONE (R336): the wipe has completed and the held requests are served again. -/
def execRegionWipeDone (p : PlotIx) (r : Fin 32) (s : State) : Out :=
  if s.stackOn then .next (retryB (s.onStk fun k => k.setRegion p.val r.val { k.region p.val r.val with wiping := false }) p.val) else .next s

/-- TILE_COPY_LINE (R339, R340): the next line of the copy goes to the spare, corrected when it can be. -/
def execTileCopyLine (p : PlotIx) (upset : BitVec 640) (s : State) : Out :=
  let x := s.stk.riser p.val
  match x.copy with
  | none => .next s
  | some (t, n, die) =>
    if 262144 ≤ n || !s.engineOn p.val || s.riserCut p.val 4 || x.cmdWait.contains .copy then .next s
    else
      let a := 262144 * (t - 1) + n
      let id := lineId p.val a
      let s := upsetLine s id upset
      let l := s.stk.line id
      let s := match rsDecode (bytesOf l.toNat 80) with
        | .clean => noteHistory s p.val []
        | .fixed e =>
          let syms := e.map fun (x : Nat × Nat) => x.1
          logLine (noteHistory (s.onStk fun k => k.setLine id (correctLine l e)) p.val syms) p.val a srcCopy { kind := kindCorrected, syms := syms }
        | .fails => logLine (noteHistory s p.val []) p.val a srcCopy { kind := kindUncorr }
      .next (s.onStk fun k => k.setRiser p.val { k.riser p.val with copy := some (t, n + 1, die) })

/-- The spare tile of a column no longer holds lines of its own. -/
def Stack.dropSpare (k : Stack) (c : Nat) : Stack := k.fillLines (524288 * (512 + c)) 262144 fun _ => false
/-- Seats that own a region of tile t (1 lower, 2 upper) of a plot. -/
def Stack.tileOwners (k : Stack) (p t : Nat) : List Nat := ((List.range 16).filterMap fun r => k.regionOwner p (16 * (t - 1) + r)).eraseDups

/-- TILE_COPY_DONE (R340): the fallow map records the mapping, which is logged and announced. -/
def execTileCopyDone (p : PlotIx) (s : State) : Out :=
  match (s.stk.riser p.val).copy with
  | some (t, 262144, false) =>
    let die := 2 * dieOf p.val + (t - 1)
    let owners := s.stk.tileOwners p.val t
    let s := s.onMap fun m => m.setRiser p.val { m.riser p.val with tileMap := t }
    let s := s.onStk fun k => (k.setRiser p.val { k.riser p.val with copy := none }).dropSpare (columnOf p.val)
    .next ((riserEntry s p.val die kindTileMapped srcCopy 0 0xFF 0xFF).raiseAll (eventsFor owners 0x0203 (0x3400 + p.val) p.val die))
  | _ => .next s

/-- DIE_MAP_DONE (R340, R341): every riser of the die has copied its tile, or is down and leaves its tile's fill on M4; one entry is logged, and the owners of each copied tile get its attention. -/
def execDieMapDone (d : Fin 4) (s : State) : Out :=
  let t := d.val % 2 + 1
  let plots := (List.range 256).map fun c => c + 256 * (d.val / 2)
  let down := fun p => (s.nv.map.riser p).rstate = 3
  let done := plots.all fun p => down p || (s.stk.riser p).copy == some (t, 262144, true)
  if s.stk.dieMapping = some d.val && done then
    let s := s.onStk fun k => plots.foldl (fun k p =>
      let k := if (s.nv.map.riser p).rstate = 3 then k.fillLines (lineId p (262144 * (t - 1))) 262144 (fun _ => false) else k
      (k.setRiser p { k.riser p with copy := none }).dropSpare (columnOf p)) { k with dieMapping := none }
    let s := s.onMap fun m => { m with dieMap := d.val + 1 }
    let told := plots.flatMap fun p => if (s.nv.map.riser p).rstate = 3 then [] else eventsFor (s.stk.tileOwners p t) 0x0203 (0x3400 + p) p d.val
    .next ((riserEntry s 0 d.val kindDieMapped srcCopy 0 0xFF 0xFF).raiseAll told)
  else .next s

/-! ## Keys and re-key (R352, R354, R358, R371–R378) -/

/-- The region's owner's memory root. -/
def State.ownerSmr (s : State) (p r : Nat) : Option (BitVec 256) := match s.stk.regionOwner p r with | some o => (s.seat o).smr | none => none

/-- KEY_SLOT_LOAD (R352, R354): the idle slot of a sealed region that holds a key takes the next generation. -/
def execKeySlotLoad (p : PlotIx) (r : Fin 32) (s : State) : Out :=
  let g := s.stk.region p.val r.val
  match s.ownerSmr p.val r.val with
  | some m =>
    if s.clocksOn && g.isSealed && (g.key g.epoch).isSome && (g.key !g.epoch).isNone && g.rk != 2 then
      .next (s.onStk fun k => k.setRegion p.val r.val (g.load m p.val r.val !g.epoch))
    else .next s
  | none => .next s

/-- RKREQ (R358), as a turn has ordered it: STEADY becomes WAITING; in any other state the request is kept; an open region ignores it. (DEDUCED, log 53) -/
def execRkreq (p : PlotIx) (r : Fin 32) (s : State) : Out :=
  match takeOrder (.rekey p.val r.val) s.mc.orders with
  | none => .next s
  | some rest =>
    let s := s.onMc fun m => { m with orders := rest }
    let g := s.stk.region p.val r.val
    if !g.isSealed then .next s
    else if g.rk = 0 then .next (s.onStk fun k => k.rekeyDue p.val r.val)
    else .next (s.onStk fun k => k.setRegion p.val r.val { g with noted := true })

/-- The riser carries slots for the pass of region r now. -/
def State.riserRuns (s : State) (p a : Nat) : Bool :=
  s.engineOn p && (s.nv.map.riser p).rstate != 3 && !s.riserCut p (s.physDie p a)

/-- REKEY_FLIP (R373, R377): the first due of the riser's waiting regions flips once its idle slot holds a key and no pass runs; held writes proceed. (DEDUCED, log 53) -/
def execRekeyFlip (p : PlotIx) (r : Fin 32) (s : State) : Out :=
  let g := s.stk.region p.val r.val
  let others := (List.range 32).filter (· ≠ r.val)
  let pass := others.any fun x => (s.stk.region p.val x).rk = 2
  let first := others.all fun x => (s.stk.region p.val x).rk != 1 || decide (g.dueOrder < (s.stk.region p.val x).dueOrder)
  if g.rk != 1 || pass || !first || (g.key !g.epoch).isNone || g.wiping || !s.riserRuns p.val (16384 * r.val) then .next s
  else
    let held := g.heldWrites
    let s := s.onStk fun k => k.setRegion p.val r.val { g with
      epoch := !g.epoch, counter := 1, marks := [], progress := 0, rk := 2, heldWrites := [] }
    .next (retryB (held.foldl (fun s e => performEntry s p.val e 0) s) p.val)

/-- REKEY_PASS_LINE (R369, R375): the pass reaches its next line: skipped when marked or retired, left and logged when it fails, else sealed again with count 0 and marked. -/
def execRekeyPassLine (p : PlotIx) (r : Fin 32) (upset : BitVec 640) (s : State) : Out :=
  let g := s.stk.region p.val r.val
  let a := 16384 * r.val + g.progress
  if g.rk != 2 || decide (16384 ≤ g.progress) || !s.clocksOn || !s.riserRuns p.val a || (s.stk.riser p.val).cmdWait.contains .copy then .next s
  else
    let s := flushLine s p.val a 0
    let step := fun (s : State) => s.onStk fun k => k.setRegion p.val r.val { k.region p.val r.val with progress := (k.region p.val r.val).progress + 1 }
    if (s.stk.region p.val r.val).marks.contains a || s.retired p.val (linePage a) then .next (step s)
    else
      let (s, o) := readLine s p.val a srcCopy upset true
      if o.resp != respOkay then .next (step s)
      else match s.stk.writeLine p.val a o.data with
        | some k => .next (step { s with stk := k })
        | none => .next (step s)

/-- REKEY_PASS_END (R372, R376): the old slot is erased, and the region is STEADY, or WAITING again when a re-key was noted. -/
def execRekeyPassEnd (p : PlotIx) (r : Fin 32) (s : State) : Out :=
  let g := s.stk.region p.val r.val
  if g.rk != 2 || g.progress != 16384 || !s.clocksOn || !s.engineOn p.val then .next s
  else
    let x := s.stk.riser p.val
    let s := s.onStk fun k =>
      let k := k.setRiser p.val { x with rekeys := sat32 (x.rekeys + 1) }
      let k := k.setRegion p.val r.val { g.setKey (!g.epoch) none with rk := 0, progress := 0, marks := [], noted := false }
      if g.noted then k.rekeyDue p.val r.val else k
    .next s

/-- HOLD_TIMEOUT (R377): the oldest held write returns HOLD_TIMEOUT and is not performed. -/
def execHoldTimeout (p : PlotIx) (r : Fin 32) (s : State) : Out :=
  let g := s.stk.region p.val r.val
  match g.heldWrites with
  | [] => .next s
  | e :: rest =>
    if !s.engineOn p.val then .next s
    else
      let x := s.stk.riser p.val
      let s := s.onStk fun k => (k.setRegion p.val r.val { g with heldWrites := rest }).setRiser p.val { x with holdTimeouts := sat32 (x.holdTimeouts + 1) }
      let s := retryB (answerAll s p.val e.line respHoldTimeout e.waiters) p.val
      match ownerOf g.own with
      | some o => .next (s.raiseOnce { seat := o, code := 0x0202, index := 0x3400 + p.val, a := plotWith p.val r.val, b := e.line } p.val)
      | none => .next s

end Sys2Proof.Machine
end

