-- ==== Sys2Proof/Machine/Scratch.lean ====
section
/-! DEFINITION. The shared scratchpad: request and reply words, rights, the byte-lane rotate, collisions, errors and fills (R170–R187, R232, R281). -/

namespace Sys2Proof.Machine

/-! ## Request and reply words (R178, R179) -/

def srWaddr (w : BitVec 256) : Nat := bits w 19 0
/-- 0 READ, 1 WRITE, 2–3 reserved. -/
def srOp (w : BitVec 256) : Nat := bits w 35 34
def srFull (w : BitVec 256) : Bool := w.getLsbD 36
/-- Byte count. -/
def srLen (w : BitVec 256) : Nat := bits w 39 37 + 1
def srRot (w : BitVec 256) : Nat := bits w 43 40
def srTag (w : BitVec 256) : Nat := bits w 63 48
def srByte (w : BitVec 256) (i : Nat) : Byte := BitVec.ofNat 8 (bits w (71 + 8 * i) (64 + 8 * i))
/-- A reply word: read data is 0 for writes and for every response other than OKAY. -/
def scratchReply (req : BitVec 256) (resp : Nat) (busy : Bool) (data : List Byte) : BitVec 256 :=
  BitVec.ofNat 256 (srWaddr req + resp * 2 ^ 32 + (if busy then 2 ^ 40 else 0) + srTag req * 2 ^ 48 + leNat (data.take 16) * 2 ^ 64)

/-! ## The array -/

/-- Byte addresses from 0x00F8_0000 on are the secure partition (R176). -/
def secureBase : Nat := 0xF80000
/-- Lanes that an access reaches, in the order of its data bytes (R180). -/
def lanesOf (full : Bool) (rot len : Nat) : List Nat := if full then List.range 16 else (List.range len).map fun i => (rot + i) % 16
def Scratch.lane (c : Scratch) (w i : Nat) : Byte := c.byte (16 * w + i)
/-- Upset bits in half k of a word, its eight check bits in [71:64] (R170). -/
def Scratch.halfErr (c : Scratch) (w k : Nat) : BitVec 72 :=
  let e := c.errAt w
  BitVec.ofNat 72 (bits e (64 * k + 63) (64 * k) + 2 ^ 64 * bits e (135 + 8 * k) (128 + 8 * k))
/-- 0 clean, 1 corrected, 2 uncorrectable, as SEC-DED over a half finds it (R184, R185). (DESIGN CHOICE, log 13) -/
def halfState (e : BitVec 72) : Nat :=
  let n := popNat 72 e.toNat
  if n = 0 then 0 else if n = 1 then 1 else if n = 2 then 2 else match Config.secDed e.toNat with | some _ => 1 | none => 2
def Scratch.wordBad (c : Scratch) (w : Nat) : Bool := halfState (c.halfErr w 0) = 2 || halfState (c.halfErr w 1) = 2
def Scratch.wordCorr (c : Scratch) (w : Nat) : Bool := halfState (c.halfErr w 0) = 1 || halfState (c.halfErr w 1) = 1
/-- Byte i of half k as a read delivers it: as written, or, where three or more flips look like one, as the code miscorrects it (R184). (DESIGN CHOICE, log 13) -/
def Scratch.halfByte (c : Scratch) (w k i : Nat) : Byte :=
  let e := c.halfErr w k
  if popNat 72 e.toNat < 3 then c.lane w (8 * k + i)
  else
    let raw := leNat ((List.range 8).map fun j => c.lane w (8 * k + j)) ^^^ bits e 63 0
    BitVec.ofNat 8 ((Config.miscorrected raw).toNat >>> (8 * i))
/-- Lane i of word w as a read delivers it. -/
def Scratch.readLane (c : Scratch) (w i : Nat) : Byte := c.halfByte w (i / 8) (i % 8)
/-- The flips of a half, its check bits included. -/
def halfMask (k : Nat) : BitVec 144 := BitVec.ofNat 144 (0xFFFFFFFFFFFFFFFF * 2 ^ (64 * k) + 0xFF * 2 ^ (128 + 8 * k))
/-- Write bytes to lanes of one word; they merge with what a read of each half touched delivers, and its check bits are recomputed (R181). -/
def Scratch.store (c : Scratch) (w : Nat) (l : List (Nat × Byte)) : Scratch :=
  let touched := fun (k : Nat) => l.any fun e => decide (e.1 / 8 = k)
  let old := ([0, 1].filter fun k => touched k && decide (3 ≤ popNat 72 (c.halfErr w k).toNat)).flatMap fun k =>
    (List.range 8).map fun i => (8 * k + i, c.halfByte w k i)
  let x := c.errAt w
  let c := (old ++ l).foldl (fun c e => c.setByte (16 * w + e.1) e.2) c
  c.setErr w (x &&& ~~~((if touched 0 then halfMask 0 else 0) ||| (if touched 1 then halfMask 1 else 0)))

/-- The seat that reaches block k may use the word (R174, R176). -/
def Scratch.allows (c : Scratch) (seat : Option Nat) (w : Nat) : Bool :=
  decide (16 * w < secureBase) && seat.isSome && ownerOf (c.ownAt (w / 1024)) == seat
/-- A fill of the word's block runs, and its accesses are held (R175, R177). -/
def Scratch.held (c : Scratch) (w : Nat) : Bool :=
  if 16 * w < secureBase then c.filling.contains (w / 1024) else c.secFilling

/-- Attention for the owner of a word's block, or for the dealer when it has none; the secure partition reports to the MC only (R184, R185). -/
def scratchEvent (s : State) (w code : Nat) (once : Bool) : State :=
  if secureBase ≤ 16 * w then s
  else
    let o := ownerOf (s.net.scr.ownAt (w / 1024))
    if once then match o with
      | some k => s.raiseOnce { seat := k, code := code, index := 0x2800, a := w } 0
      | none => s
    else s.raise { seat := o.getD 0, code := code, index := 0x2800, a := w }

/-- A single-bit event counts, and the first in a round raises class 3 (R184). -/
def scratchCorrected (s : State) (w : Nat) : State :=
  scratchEvent (s.onNet fun n => n.onScr fun c => { c with corrected := sat32 (c.corrected + 1) }) w 0x0303 true
/-- An uncorrectable event counts and raises class 7 (R185). -/
def scratchUncorr (s : State) (w : Nat) : State :=
  scratchEvent (s.onNet fun n => n.onScr fun c => { c with uncorr := sat32 (c.uncorr + 1) }) w 0x0708 false

/-- The result of one access: response, BUSY, and the data bytes of a read. -/
structure ScratchOut where
  resp : Nat
  busy : Bool := false
  data : List Byte := []
deriving DecidableEq, Repr

/-- One access to the array that its requester may make (R180–R185): `portB` and what the other port does to the same word in the same cycle. A partial write that merges a half with a single-bit error neither counts nor raises the correction, and a partial read judges both halves of its word. (DESIGN CHOICE, log 11) (DESIGN CHOICE, log 103) -/
def scratchAccess (s : State) (portB : Bool) (w : Nat) (write full : Bool) (rot len : Nat) (data : List Byte) (coll : Coll) : State × ScratchOut :=
  let c := s.net.scr
  let lanes := lanesOf full rot len
  let busy := portB && (match coll with | .alone => false | .read => write | .write _ => true)
  if write then
    if !full && c.wordBad w then (scratchUncorr s w, { resp := respUncorr, busy := busy })
    else
      -- port B's bytes stand in the lanes that both ports write
      let keep := fun (i : Nat) => match coll with | .write m => portB || !m.getLsbD i | _ => true
      let l := (lanes.zip data).filter fun e => keep e.1
      (s.onNet fun n => n.onScr fun c => c.store w l, { resp := respOkay, busy := busy })
  else
    match coll with
    | .write _ =>
      -- a read that collides with a write returns undefined data and is not checked (R182, R183)
      let v := Config.freeBits 128 s.aon.free
      (s.drawn, { resp := respOkay, busy := busy, data := leBytes lanes.length v.toNat })
    | _ =>
      if c.wordBad w then (scratchUncorr s w, { resp := respUncorr, busy := busy })
      else
        let s1 := if c.wordCorr w then scratchCorrected s w else s
        (s1, { resp := respOkay, busy := busy, data := lanes.map fun i => c.readLane w i })

/-- New upsets of a word. (DESIGN CHOICE, log 14) -/
def scratchUpset (s : State) (w : Nat) (upset : BitVec 144) : State :=
  if upset = 0 then s else s.onNet fun n => n.onScr fun c => c.setErr w (c.errAt w ^^^ upset)

/-- Serve one request: its reply, or nothing when it is of the other operation. -/
def scratchServe (s : State) (seat : Option Nat) (portB : Bool) (path : Bool) (req : BitVec 256) (write : Bool) (coll : Coll) (upset : BitVec 144) :
    Option (State × BitVec 256) :=
  let w := srWaddr req
  if srOp req < 2 && (decide (srOp req = 1) != write) then none
  else if path then some (s, scratchReply req respPathReset false [])
  else if 2 ≤ srOp req || !s.net.scr.allows seat w then some (s, scratchReply req respProtected false [])
  else
    let s := scratchUpset s w upset
    let data := (List.range 16).map fun i => srByte req i
    let r := scratchAccess s portB w write (srFull req) (srRot req) (srLen req) data coll
    some (r.1, scratchReply req r.2.resp r.2.busy (if write then [] else r.2.data))

/-- The path of a plot's headland to B is cut: a feed domain on the way is down (R37, R179). -/
def State.feedCut (s : State) (p : Nat) : Bool := decide (256 ≤ p) && s.net.feedDown.any fun d => decide (d ≤ 1)

/-- A request that its requester may make is held at its port while its block is filled (R175). -/
def Scratch.holds (c : Scratch) (seat : Option Nat) (path : Bool) (req : BitVec 256) : Bool :=
  !path && decide (srOp req < 2) && c.allows seat (srWaddr req) && c.held (srWaddr req)
/-- The oldest request that has no reply and is not held: what its requester's port serves next (R172, R175). -/
def Chan.next (c : Chan) (held : BitVec 256 → Bool) : Option ScrReq := c.reqs.find? fun r => r.done.isNone && !held r.word
/-- The request `r` is answered. -/
def giveReply (r : ScrReq) (rep : BitVec 256) : List ScrReq → List ScrReq
  | [] => []
  | x :: t => if x = r then { x with done := some rep } :: t else x :: giveReply r rep t
/-- Replies return in the order of the requests (R172): those of the oldest requests leave, the first `skip` of them discarded. -/
def Chan.release (reps : List (BitVec 256)) (skip : Nat) : List ScrReq → Chan
  | [] => { reqs := [], reps := reps, skip := skip }
  | x :: t => match x.done with
    | some v => if skip = 0 then Chan.release (reps ++ [v]) 0 t else Chan.release reps (skip - 1) t
    | none => { reqs := x :: t, reps := reps, skip := skip }
/-- A reply comes back for a request of the channel, unless its requester has been wiped or restarted meanwhile. -/
def Chan.answer (c : Chan) (r : ScrReq) (rep : BitVec 256) : Chan := Chan.release c.reps c.skip (giveReply r rep c.reqs)
/-- Replies, and replies still due, are discarded (R242, R244). -/
def Chan.discard (c : Chan) : Chan := { c with reps := [], skip := c.reqs.length }
/-- Every request without a reply is answered with one response. -/
def Chan.answerAll (c : Chan) (resp : Nat) : Chan :=
  Chan.release c.reps c.skip (c.reqs.map fun r => if r.done.isNone then { r with done := some (scratchReply r.word resp false []) } else r)

/-- What the hand of channel k is held at. -/
def State.handHolds (s : State) (k : Nat) : BitVec 256 → Bool :=
  s.net.scr.holds (s.fab.handOwner (k / 64) (k / 8 % 8)) (s.feedCut (k / 64))
/-- An older request of the plot waits on another channel of its hands, and nothing holds it (R172). (DEDUCED, log 107) -/
def State.olderOnPort (s : State) (k : Nat) (r : ScrReq) : Bool :=
  s.net.handChan.any fun e => e.1 / 64 = k / 64 && e.1 != k && match e.2.next (s.handHolds e.1) with
    | some x => decide (x.seq < r.seq)
    | none => false
/-- The oldest request of a requester reaches the scratchpad: a hand through port B, a thread through port A. -/
def scratchStep (s : State) (r : Requester) (write : Bool) (coll : Coll) (upset : BitVec 144) : State :=
  if !s.clocksOn then s
  else match r with
  | .hand p h qp =>
    let k := handChanIx p.val h.val qp.val
    match (s.net.handChanAt k).next (s.handHolds k) with
    | none => s
    | some req =>
      if s.olderOnPort k req then s
      else match scratchServe s (s.fab.handOwner p.val h.val) true (s.feedCut p.val) req.word write coll upset with
        | none => s
        | some (s, rep) => s.onNet fun n => n.setHandChan k ((n.handChanAt k).answer req rep)
  | .thread p h =>
    let k := 8 * p.val + h.val
    let seat := s.fab.handOwner p.val h.val
    match (s.net.threadChanAt k).next (s.net.scr.holds seat false) with
    | none => s
    | some req =>
      match scratchServe s seat false false req.word write coll upset with
      | none => s
      | some (s, rep) => s.onNet fun n => n.setThreadChan k ((n.threadChanAt k).answer req rep)

/-- SCRATCH_READ (R172, R174, R176, R178–R184). -/
def execScratchRead (r : Requester) (coll : Coll) (upset : BitVec 144) (s : State) : Out := .next (scratchStep s r false coll upset)
/-- SCRATCH_WRITE (R172, R174, R176, R178–R183, R185). -/
def execScratchWrite (r : Requester) (coll : Coll) (upset : BitVec 144) (s : State) : Out := .next (scratchStep s r true coll upset)

/-! ## Fills -/

/-- Zeros and valid check bits in a range of byte addresses. -/
def Scratch.zero (c : Scratch) (lo n : Nat) : Scratch :=
  { c with
    cells := c.cells.filter fun e => !(decide (lo ≤ e.1) && decide (e.1 < lo + n))
    err := c.err.filter fun e => !(decide (lo / 16 ≤ e.1) && decide (e.1 < (lo + n) / 16)) }
/-- A change of a block's owner starts its fill (R175). -/
def Scratch.fillBlock (c : Scratch) (k : Nat) : Scratch :=
  let c := c.zero (16384 * k) 16384
  { c with filling := if c.filling.contains k then c.filling else c.filling ++ [k] }
/-- The fill of the secure partition starts (R177). -/
def Scratch.fillSecure (c : Scratch) : Scratch := { c.zero secureBase 0x80000 with secFilling := true }

/-- SECURE_PARTITION_FILL_DONE (R177). -/
def execSecurePartitionFillDone (s : State) : Out := .next (s.onNet fun n => n.onScr fun c => { c with secFilling := false })

/-! ## Accesses by the MC and the DMA channels for a seat (R174, R514) -/

/-- Bytes of a scratchpad range, as the MC or a channel reads them. -/
def Scratch.bytes (c : Scratch) (a n : Nat) : List Byte := (List.range n).map fun i => c.byte (a + i)
/-- A word of the range stands in a block that is being filled. -/
def Scratch.rangeHeld (c : Scratch) (a n : Nat) : Bool := (List.range ((a % 16 + n + 15) / 16)).any fun i => c.held (a / 16 + i)
/-- A hand's write to word w waits at port B. -/
def Net.writeWaits (n : Net) (w : Nat) : Bool :=
  n.handChan.any fun e => e.2.reqs.any fun r => r.done.isNone && srOp r.word = 1 && srWaddr r.word = w
/-- What a read of the MC or of a channel meets at port B: it may fall on the cycle of a write that waits there (R182). (DESIGN CHOICE, log 62) -/
def State.portAColl (s : State) (w : Nat) : Coll :=
  if s.net.writeWaits w && decide (Config.freeNat s.aon.free % 2 = 1) then .write 0 else .alone
/-- A read of one word through port A on behalf of the MC or a channel (R182–R185). -/
def scratchFetch (s : State) (w : Nat) (full : Bool) (rot len : Nat) : State × ScratchOut :=
  let r := scratchAccess s false w false full rot len [] (s.portAColl w)
  (if s.net.writeWaits w then r.1.drawn else r.1, r.2)
/-- Read n words from word w on through port A: the bytes, or none at the first uncorrectable word (R184, R185). -/
def scratchReadWords : (n : Nat) → State → Nat → State × Option (List Byte)
  | 0, s, _ => (s, some [])
  | n + 1, s, w =>
    let o := scratchFetch s w true 0 16
    if o.2.resp != respOkay then (o.1, none)
    else
      let r := scratchReadWords n o.1 (w + 1)
      (r.1, r.2.map fun l => o.2.data ++ l)
/-- Write a byte string from word w on through port A: whole words, and the bytes of a last part of a word in accesses of at most eight; false when one returns UNCORR (R181, R185). -/
def scratchWriteWords : (fuel : Nat) → State → Nat → List Byte → State × Bool
  | 0, s, _, _ => (s, true)
  | n + 1, s, w, l =>
    if l.isEmpty then (s, true)
    else if 16 ≤ l.length then
      scratchWriteWords n (scratchAccess s false w true true 0 16 (l.take 16) .alone).1 (w + 1) (l.drop 16)
    else
      let o := scratchAccess s false w true false 0 (min 8 l.length) l .alone
      if o.2.resp != respOkay then (o.1, false)
      else if l.length ≤ 8 then (o.1, true)
      else
        let o := scratchAccess o.1 false w true false 8 (l.length - 8) (l.drop 8) .alone
        (o.1, o.2.resp == respOkay)

end Sys2Proof.Machine
end

