-- ==== Sys2Proof/Machine/Bulk.lean ====
section
/-! DEFINITION. Bulk DMA channels: the bulk header, the checks of a request, writes and reads of plot memory, scratchpad, seed stream and error log (R436–R441, R569). -/

namespace Sys2Proof.Machine

/-! ## The bulk header (R437, R438) -/

structure BulkReq where
  /-- the 32 header bytes, zero beyond the packet's end -/
  hdr : List Byte
  payload : List Byte
  whole : Bool
  rank : Nat
deriving DecidableEq, Repr

def BulkReq.op (r : BulkReq) : Nat := leField r.hdr 2 1
def BulkReq.space (r : BulkReq) : Nat := leField r.hdr 8 1
def BulkReq.plot (r : BulkReq) : Nat := leField r.hdr 10 2
def BulkReq.addr (r : BulkReq) : Nat := leField r.hdr 12 4
def BulkReq.len (r : BulkReq) : Nat := leField r.hdr 16 2
def BulkReq.seq (r : BulkReq) : Nat := leField r.hdr 4 4
def bulkReqOf (p : Pkt) : BulkReq :=
  let l := p.bytes
  { hdr := (l ++ List.replicate 32 0).take 32, payload := l.drop 32, whole := decide (32 ≤ l.length), rank := p.rank }

def stBadHeader : Nat := 0x20
def stBadCrc : Nat := 0x21
def stBadAlign : Nat := 0x22
/-- The NAK status of a request that is not performed; none for a good one. A READ_REQ may come without the bytes it asks for. (DEDUCED, log 68) -/
def BulkReq.fault (r : BulkReq) (c : Nat) : Option Nat :=
  let zero := fun (lo n : Nat) => decide (leField r.hdr lo n = 0)
  let opOk := (r.op = 1 && r.space ≤ 2) || (r.op = 2 && (r.space ≤ 1 || r.space = 3))
  let bare := r.op = 2 && r.payload.isEmpty
  let lenOk := decide (r.len ≤ 16320) && (bare || r.payload.length = r.len)
  let placeOk := if r.space = 0 then decide (r.plot < 512) && decide (r.addr + r.len ≤ 33554432)
    else decide (r.plot = 0) && (r.space != 1 || decide (r.addr + r.len ≤ 16777216))
  if !r.whole || leField r.hdr 0 2 != 0xC5B1 || leField r.hdr 3 1 != c || leField r.hdr 9 1 != 0 || !zero 18 2 || !zero 24 8
      || !opOk || !lenOk || !placeOk then some stBadHeader
  else if leField r.hdr 20 4 != (if r.payload.isEmpty then 0 else (crc32c r.payload).toNat) then some stBadCrc
  else
    let unit := if r.space = 0 then 64 else if r.space = 1 then 16 else if r.space = 3 then 32 else 1
    if (r.space != 3 && r.addr % unit != 0) || r.len % unit != 0 then some stBadAlign else none

/-! ## A channel's queues (R436, R439) -/

/-- The request at the front of a channel's request queue, with the queue after it. (DEDUCED, log 68) -/
def bulkFront (s : State) (c : Nat) : Option (Nat × BulkReq × Queue) :=
  let x := s.lnk.bdma c
  let q := s.net.queue x.rq.toNat
  match ownerOf x.bind with
  | none => none
  | some seat =>
    if s.clocksOn && q.runs && qdConsumer q.dir = epBdma c then q.takePkt.map fun p => (seat, bulkReqOf p.1, p.2) else none
/-- A reply packet: the request's header with a new OP, STATUS, ADDR and payload. -/
def bulkReplyBytes (hdr : List Byte) (op status addr : Nat) (payload : List Byte) : List Byte :=
  leBytes 2 0xC5B1 ++ [BitVec.ofNat 8 op] ++ (hdr.drop 3).take 6 ++ [BitVec.ofNat 8 status] ++ (hdr.drop 10).take 2 ++ leBytes 4 addr ++
    leBytes 2 payload.length ++ [0, 0] ++ leBytes 4 (if payload.isEmpty then 0 else (crc32c payload).toNat) ++ List.replicate 8 0 ++ payload
/-- Push a reply into the channel's reply queue; none while the channel waits for credit (R207). A reply longer than the queue's packets is rewound (R215). (DEDUCED, log 68) -/
def bulkReply (s : State) (c rank : Nat) (l : List Byte) : Option State :=
  let tq := (s.lnk.bdma c).tq.toNat
  let q := s.net.queue tq
  match q.prodOf (epBdma c) with
  | none => none
  | some i =>
    let n := (l.length + 31) / 32
    if !q.runs then none
    else if (q.prod i).credits < (min n (qdMaxlen q.dir + 1) : Nat) then none
    else
      let r := pushWords q i rank (queueWords l)
      some (s.onNet fun m => m.setQueue tq (if r.2 then r.1.commit i l.length else r.1.endDiscard i))
/-- Answer the request at the front: it leaves its queue, the reply is pushed, a NAK counts. -/
def bulkAnswer (s : State) (c : Nat) (r : BulkReq) (q' : Queue) (op status addr : Nat) (payload : List Byte) : Option State :=
  let s := s.onNet fun m => m.setQueue (s.lnk.bdma c).rq.toNat q'
  (bulkReply s c r.rank (bulkReplyBytes r.hdr op status addr payload)).map fun s =>
    s.onLnk fun l => l.setBdma c (if op = 5 then { l.bdma c with naks := sat32 ((l.bdma c).naks + 1) } else { l.bdma c with requests := sat32 ((l.bdma c).requests + 1) })

/-! ## WRITE (R439, R440) -/

/-- 64 payload bytes as a line's data. -/
def lineBytes (l : List Byte) : BitVec 512 := BitVec.ofNat 512 (leNat l)
/-- How far a bulk WRITE has come: done with a response, or waiting. -/
inductive BulkEnd where
  | ends (resp : Nat)
  | waits
deriving DecidableEq, Repr
/-- The channel engine cannot take the line now (R300, R336). -/
def bulkBusy (s : State) (p a : Nat) (src : MemSrc) : Bool := !s.engineOn p || s.lineBusy p a src
/-- A write to the line finds no count (R377). -/
def noCount (s : State) (p a : Nat) : Bool :=
  let g := s.stk.region p (lineRegion a)
  g.isSealed && !(g.rk = 2 && !g.marks.contains a) && decide (2147483647 < g.counter)
/-- Write the lines of a payload in order from the first that is not done: the number of bytes done, and how it ended; a line without a count is held and the channel waits for its response. (DEDUCED, log 63) -/
def bulkLines (p seat : Nat) (c : Fin 64) : (fuel : Nat) → State → Nat → List Byte → State × Nat × BulkEnd
  | 0, s, _, _ => (s, 0, .ends respOkay)
  | n + 1, s, a, l =>
    if l.isEmpty then (s, 0, .ends respOkay)
    else
      let ref := s.refusals p a (.dma c) (some seat) true
      if !ref.isEmpty then (countRetired s p (firstResp ref), 0, .ends (firstResp ref))
      else if bulkBusy s p a (.dma c) then (s, 0, .waits)
      else if noCount s p a then
        let s := s.onLnk fun k => k.setBdma c.val { k.bdma c.val with wait := some (p, a, none) }
        (fullWrite s p a (.dma c) (lineBytes (l.take 64)), 0, .waits)
      else
        let s := fullWrite s p a (.dma c) (lineBytes (l.take 64))
        let r := bulkLines p seat c n s (a + 1) (l.drop 64)
        (r.1, r.2.1 + 64, r.2.2)
/-- Go on with the WRITE at the front of a channel's queue after `done` bytes: the state, the bytes done in all, and how it ended. -/
def bulkGoOn (s : State) (c : Fin 64) (seat : Nat) (r : BulkReq) : State × Nat × BulkEnd :=
  let x := s.lnk.bdma c.val
  let done := match x.part with | some (h, n) => if h = r.hdr then n else 0 | none => 0
  let from' := fun (s : State) (done : Nat) =>
    let w := bulkLines r.plot seat c (r.len / 64) s (r.addr / 64 + done / 64) (r.payload.drop done)
    (w.1, done + w.2.1, w.2.2)
  match x.wait with
  | some (_, _, none) => (s, done, .waits)
  | some (_, _, some resp) =>
    let s := s.onLnk fun l => l.setBdma c.val { x with wait := none }
    if resp = respOkay then from' s (done + 64) else (s, done, .ends resp)
  | none => from' s done
/-- Write the scratchpad words of a payload in order. -/
def bulkWords (seat : Nat) : (fuel : Nat) → State → Nat → List Byte → State × Nat × Nat
  | 0, s, _, _ => (s, 0, respOkay)
  | n + 1, s, w, l =>
    if l.isEmpty then (s, 0, respOkay)
    else if !s.net.scr.allows (some seat) w then (s, 0, respProtected)
    else
      let o := scratchAccess s false w true true 0 16 (l.take 16) .alone
      if o.2.resp != respOkay then (o.1, 0, o.2.resp)
      else
        let r := bulkWords seat n o.1 (w + 1) (l.drop 16)
        (r.1, r.2.1 + 16, r.2.2)
/-- A READ_REQ to memory that a channel engine takes in no part now, or a request to a block of the scratchpad that is being filled: the channel waits. (DEDUCED, log 63) -/
def bulkHeld (s : State) (c : Fin 64) (r : BulkReq) : Bool :=
  if r.space = 0 then
    r.op = 2 && (List.range (r.len / 64)).any fun i =>
      let a := r.addr / 64 + i
      (s.refusals r.plot a (.dma c) (s.lnk.bdma c.val |>.bind |> ownerOf) false).isEmpty && bulkBusy s r.plot a (.dma c)
  else r.space = 1 && (List.range (r.len / 16)).any fun i => s.net.scr.held (r.addr / 16 + i)

/-- The device accepts seed bytes (R568): step 7, Field and Limp. -/
def State.seedOpen (s : State) : Bool :=
  (s.aon.mode == some .sowing && s.aon.step = 7) || s.aon.mode == some .field || s.aon.mode == some .limp
/-- The next byte expected of a seat's current image. -/
def State.seedNext (s : State) (seat : Nat) : Nat := match (s.seat seat).stream with | some t => t.offset | none => 0
/-- Bytes up to `upTo` have entered the seat's stream from bulk DMA. (DESIGN CHOICE, log 44) -/
def seedAdvance (s : State) (seat upTo : Nat) : State :=
  s.onSeat seat fun r => { r with stream := match r.stream with
    | some t => some { t with offset := max t.offset upTo }
    | none => some { src := SeedSource.bulk, offset := upTo } }
/-- Perform the held writes of a seat's channels whose gap has closed, each with its ACK (R569); none while a reply waits for credit. -/
def seedRelease (seat : Nat) : (fuel : Nat) → State → Option State
  | 0, s => some s
  | n + 1, s =>
    let mine := (List.range 64).filter fun c => ownerOf (s.lnk.bdma c).bind = some seat
    let ready := mine.findSome? fun c => ((s.lnk.bdma c).held.find? fun h => decide (h.off ≤ s.seedNext seat)).map fun h => (c, h)
    match ready with
    | none => some s
    | some (c, h) =>
      let s := seedAdvance s seat (h.off + h.len)
      let s := s.onLnk fun l => l.setBdma c { l.bdma c with
        held := (l.bdma c).held.filter (· != h), requests := sat32 ((l.bdma c).requests + 1)
        seqs := (leField h.hdr 4 4 :: (l.bdma c).seqs).take 16 }
      match bulkReply s c h.rank (bulkReplyBytes h.hdr 4 0 (leField h.hdr 12 4) []) with
      | none => none
      | some s => seedRelease seat n s
/-- A WRITE to SPACE SEED (R471, R569). (DESIGN CHOICE, log 44) -/
def bulkSeed (s : State) (c seat : Nat) (r : BulkReq) (q' : Queue) : Option State :=
  let next := s.seedNext seat
  let other := match (s.seat seat).stream with | some t => t.src != SeedSource.bulk | none => false
  if !s.seedOpen then bulkAnswer s c r q' 5 (0x80 + errState) r.addr []
  else if other then bulkAnswer s c r q' 5 (0x80 + errBusy) r.addr []
  else if decide (r.addr + r.len ≤ next) && decide (r.addr < next) then bulkAnswer s c r q' 4 0 r.addr []
  else if next + 1048576 < r.addr then bulkAnswer s c r q' 5 0x86 r.addr []
  else if next < r.addr then
    some ((s.onNet fun m => m.setQueue (s.lnk.bdma c).rq.toNat q').onLnk fun l => l.setBdma c { l.bdma c with
      held := (l.bdma c).held ++ [{ off := r.addr, len := r.len, hdr := r.hdr, rank := r.rank }] })
  else
    ((bulkAnswer (seedAdvance s seat (r.addr + r.len)) c r q' 4 0 r.addr []).map fun (s : State) =>
      s.onLnk fun l => l.setBdma c { l.bdma c with seqs := (r.seq :: (l.bdma c).seqs).take 16 }).bind (seedRelease seat 1024)

/-- BULK_WRITE (R439, R440): a good WRITE at the front of the channel's queue is performed and answered, or only answered when its SEQ has been performed. -/
def execBulkWrite (c : Fin 64) (s : State) : Out :=
  match bulkFront s c.val with
  | none => .next s
  | some (seat, r, q') =>
    if r.op != 1 || (r.fault c.val).isSome || bulkHeld s c r then .next s
    else
      let finish := fun (s : State) (n resp : Nat) =>
        if resp = respOkay then
          (bulkAnswer s c.val r q' 4 0 r.addr []).map fun s =>
            s.onLnk fun l => l.setBdma c.val { l.bdma c.val with seqs := (r.seq :: (l.bdma c.val).seqs).take 16, part := none }
        else (bulkAnswer s c.val r q' 5 resp (r.addr + n) []).map fun s => s.onLnk fun l => l.setBdma c.val { l.bdma c.val with part := none }
      let done := if (s.lnk.bdma c.val).seqs.contains r.seq then
          (bulkReply (s.onNet fun m => m.setQueue (s.lnk.bdma c.val).rq.toNat q') c.val r.rank (bulkReplyBytes r.hdr 4 0 r.addr []))
        else if r.space = 2 then bulkSeed s c.val seat r q'
        else if r.space = 0 then
          match bulkGoOn s c seat r with
          | (s, n, .waits) => some (s.onLnk fun l => l.setBdma c.val { l.bdma c.val with part := some (r.hdr, n) })
          | (s, n, .ends resp) => finish s n resp
        else
          let w := bulkWords seat (r.len / 16) s (r.addr / 16) r.payload
          finish w.1 w.2.1 w.2.2
      match done with | some s => .next s | none => .next s

/-! ## READ_REQ (R324, R439) -/

/-- Read lines in order: the bytes, or the response and number of bytes before the first that failed. -/
def bulkReadLines (p seat : Nat) (src : MemSrc) : (n : Nat) → State → Nat → State × List Byte × Nat
  | 0, s, _ => (s, [], respOkay)
  | n + 1, s, a =>
    let ref := s.refusals p a src (some seat) false
    let o := if ref.isEmpty then readLine (flushLine s p a 0) p a (sourceOf src) 0 true else (countRetired s p (firstResp ref), { resp := firstResp ref })
    if o.2.resp != respOkay then (o.1, [], o.2.resp)
    else
      let r := bulkReadLines p seat src n o.1 (a + 1)
      (r.1, leBytes 64 o.2.data.toNat ++ r.2.1, r.2.2)
def bulkReadWords (seat : Nat) : (n : Nat) → State → Nat → State × List Byte × Nat
  | 0, s, _ => (s, [], respOkay)
  | n + 1, s, w =>
    if !s.net.scr.allows (some seat) w then (s, [], respProtected)
    else
      let o := scratchFetch s w true 0 16
      if o.2.resp != respOkay then (o.1, [], o.2.resp)
      else
        let r := bulkReadWords seat n o.1 (w + 1)
        (r.1, o.2.data ++ r.2.1, r.2.2)
/-- The 32 bytes of a log entry (R321). -/
def LogEntry.bytes (e : LogEntry) : List Byte :=
  leBytes 32 (e.sym0 % 256 * 2 ^ 56 + e.sym1 % 256 * 2 ^ 64 + e.nsym % 4 * 2 ^ 77 + e.source % 8 * 2 ^ 79 + e.kind % 16 * 2 ^ 82
    + e.owner.toNat % 8 * 2 ^ 86 + (if e.owner.getLsbD 7 then 2 ^ 89 else 0) + (if e.isSealed then 2 ^ 90 else 0) + e.region % 32 * 2 ^ 91
    + e.addr % 2 ^ 19 * 2 ^ 96 + e.die % 8 * 2 ^ 115 + e.plot % 512 * 2 ^ 118 + e.seq % 2 ^ 32 * 2 ^ 144
    + e.time % 1000000000 * 2 ^ 176 + e.time / 1000000000 % 2 ^ 48 * 2 ^ 208)
/-- A seat may read a log entry (R324). (DEDUCED, log 68) -/
def Stack.mayRead (k : Stack) (seat : Nat) (e : LogEntry) : Bool :=
  seat = 0 || ownerOf e.owner = some seat || (decide (4 ≤ e.kind) && decide (e.kind ≤ 9) && (k.regionOwners e.plot).contains seat)

/-- BULK_READ_REQ (R439): a good READ_REQ is performed and answered with READ_DATA, or NAK at the first line or word that fails. -/
def execBulkReadReq (c : Fin 64) (s : State) : Out :=
  match bulkFront s c.val with
  | none => .next s
  | some (seat, r, q') =>
    if r.op != 2 || (r.fault c.val).isSome || bulkHeld s c r then .next s
    else
      let o : State × List Byte × Nat :=
        if r.space = 0 then bulkReadLines r.plot seat (.dma c) (r.len / 64) s (r.addr / 64)
        else if r.space = 1 then bulkReadWords seat (r.len / 16) s (r.addr / 16)
        else (s, ((s.stk.log.filter fun e => decide (r.addr ≤ e.seq) && s.stk.mayRead seat e).take (r.len / 32)).flatMap LogEntry.bytes, respOkay)
      let unit := if r.space = 0 then 64 else 16
      let done := if o.2.2 = respOkay then bulkAnswer o.1 c.val r q' 3 0 r.addr o.2.1
        else bulkAnswer o.1 c.val r q' 5 o.2.2 (r.addr + unit * (o.2.1.length / unit)) []
      match done with | some s => .next s | none => .next s

/-- BULK_BAD_REQUEST (R438): a request with a fault is answered with NAK and not performed. -/
def execBulkBadRequest (c : Fin 64) (s : State) : Out :=
  match bulkFront s c.val with
  | none => .next s
  | some (_, r, q') =>
    match r.fault c.val with
    | none => .next s
    | some st => match bulkAnswer s c.val r q' 5 st r.addr [] with | some s => .next s | none => .next s

/-- A change of a channel's binding discards its held requests and its record of sequence numbers (R436). -/
def Bdma.rebind (x : Bdma) (own : Byte) : Bdma := { x with bind := own, seqs := [], held := [], part := none, wait := none }

end Sys2Proof.Machine
end

