-- ==== Sys2Proof/Machine/Kitty.lean ====
section
/-! DEFINITION. Kitty registers: the fabric port, watch bits, refusals and the kitty triggers of snapshots (R140–R145, R626). -/

namespace Sys2Proof.Machine

/-- Replace the enabled bytes of a 32-bit register. -/
def mergeWord (old new : Word) (be : BitVec 4) : Word :=
  BitVec.ofNat 32 (leNat ((List.range 4).map fun i =>
    if be.getLsbD i then (new >>> (8 * i)).setWidth 8 else (old >>> (8 * i)).setWidth 8))

/-- The kitty event of every thread of a seat in a plot is set (R145): thread h belongs to the owner of hand h (R238). -/
def wakeKitty (f : Fabric) (e : Engines) (p k : Nat) : Engines :=
  (List.range 8).foldl (fun e h =>
    if f.handOwner p h = some k then e.setThread p h { e.thread p h with kevent := true } else e) e

/-- KTRIG_s names this register (R633). -/
def trigNames (w : BitVec 32) (p reg : Nat) : Bool := w.getLsbD 31 && bits w 19 11 == p && bits w 10 0 == reg

/-- A write by a hand or thread of seat k to a kitty register triggers its snapshot 1 µs later, unless one that it triggered is still to be taken (R626). -/
def kittyTrigger (s : State) (k p reg : Nat) : State :=
  if trigNames (s.mc.snap k).ktrig p reg && !(s.mc.snapDue.any fun d => d.seat == k) then
    s.onMc fun m => { m with snapDue := m.snapDue ++ [{ instant := s.aon.now + 1000, seat := k }] }
  else s

/-- One write reaches the kitty whole: the register, its watch bit's events (R144, R145). -/
def writeKitty (s : State) (p reg : Nat) (data : Word) (be : BitVec 4) : State :=
  let b := reg / 64
  let old := s.fab.kittyReg p reg
  let s1 := s.onFab fun f => f.setKittyReg p reg (mergeWord old data be)
  if (s.fab.kwatchAt p b).getLsbD (reg % 64) then
    match ownerOf (s.fab.kownAt p b) with
    | some k => s1.onEng fun e => wakeKitty s.fab e p k
    | none => s1
  else s1

/-- The hand's seat owns the block of a register. -/
def kittyAllowed (s : State) (p h reg : Nat) : Bool :=
  match s.fab.handOwner p h with
  | some k => ownerOf (s.fab.kownAt p (reg / 64)) = some k
  | none => false

/-- A refused access counts, and the first in a round raises KITTY_REFUSED for the seat (R143). -/
def kittyRefused (s : State) (p h reg : Nat) : State :=
  let s := s.onFab fun f => f.setPlot p { f.plot p with kittyRefusals := sat32 ((f.plot p).kittyRefusals + 1) }
  match s.fab.handOwner p h with
  | some k => s.raiseOnce { seat := k, code := 0x0101, index := 0x3000 + p, a := plotWith p h, b := reg } p
  | none => s

/-- The write port captured this write (R142). -/
def Plot.writesKitty (x : Plot) (reg : Nat) (data : Word) (be : BitVec 4) : Bool :=
  x.field 4150 1 = 1 && x.field 4107 11 = reg && x.field 4118 32 = data.toNat && x.field 4151 4 = be.toNat
/-- A write of hand h at an edge, which a read of the same edge does not see (R142). -/
def fabricKittyWrite (s : State) (p h reg : Nat) (data : Word) (be : BitVec 4) : State :=
  if kittyAllowed s p h reg then
    let old := s.fab.kittyReg p reg
    let s := (writeKitty s p reg data be).onFab fun f => f.setPlot p { f.plot p with kittyLast := some { reg := reg, old := old, data := data, be := be } }
    match s.fab.handOwner p h with
    | some k => kittyTrigger s k p reg
    | none => s
  else kittyRefused s p h reg
/-- KITTY_WRITE (R142–R145, R626): the write port of the live hand. -/
def execKittyWrite (a : PlotEdge) (reg : BitVec 11) (data : Word) (be : BitVec 4) (s : State) : Out :=
  atPort s a.plot.val a.edge (fun x => x.writesKitty reg.toNat data be) 4150 fun s h => fabricKittyWrite s a.plot.val h reg.toNat data be

/-- What a read of a register taken at the last edge returns: the value from before a fabric write of that edge (R142). -/
def Fabric.kittyBefore (f : Fabric) (p reg : Nat) : BitVec 32 :=
  match (f.plot p).kittyLast with
  | some w => if w.reg = reg then w.old else f.kittyReg p reg
  | none => f.kittyReg p reg
/-- The read of hand h at an edge: the register, or 0 when refused, stands on the port in the cycle after the next edge (R142, R143). -/
def fabricKittyRead (s : State) (p h reg : Nat) : State :=
  let ok := kittyAllowed s p h reg
  let v := if ok then s.fab.kittyBefore p reg else 0
  let s := if ok then s else kittyRefused s p h reg
  s.onFab fun f => f.setPlot p { f.plot p with kittyNext := v }
/-- KITTY_READ (R142, R143): the read port of the live hand, which takes an address at every edge; an edge without this row leaves the port's value. (DESIGN CHOICE, log 106) -/
def execKittyRead (a : PlotEdge) (reg : BitVec 11) (s : State) : Out :=
  match s.atEdge a.plot.val a.edge with
  | none => .next s
  | some (t, h) => if (t.fab.plot a.plot.val).field 4096 11 = reg.toNat then .next (fabricKittyRead t a.plot.val h reg.toNat) else .next t

/-- A KWR after a fabric write of the same register at the last edge reaches the kitty at the same NCLK edge as that write or at a later one: at the same edge the engine's write is applied first, and the fabric's enabled bytes stand (R144). (DESIGN CHOICE, log 106) -/
def engineKittyWrite (s : State) (p reg : Nat) (data : Word) : State :=
  let t := writeKitty s p reg data 0xF
  match (s.fab.plot p).kittyLast with
  | some w =>
    if w.reg = reg then
      (if Config.freeNat s.aon.free % 2 = 0 then t.onFab fun f => f.setKittyReg p reg (mergeWord data w.data w.be) else t).drawn
    else t
  | none => t

/-- A change of a kitty block's owner clears its registers and watch bits (R140). -/
def Fabric.clearKitty (f : Fabric) (p b : Nat) : Fabric :=
  let lo := 2048 * p + 64 * b
  { f with
    kitty := f.kitty.filter fun e => !(decide (lo ≤ e.1) && decide (e.1 < lo + 64))
    kwatch := tput 0 f.kwatch (32 * p + b) 0 }

end Sys2Proof.Machine
end

