-- ==== Sys2Proof/Machine/Operands.lean ====
section
/-! DEFINITION. The operand forms of the engine instructions: registers, immediates, local and control-page words, queue operands and endpoints (R248–R250, R272, R275, R276). -/

namespace Sys2Proof.Machine

/-! ## Registers and immediates -/

/-- General register n: g0 reads 0. -/
def Thread.reg (t : Thread) (n : RegIx) : Word := if n = 0 then 0 else tget 0 t.regs n.val
/-- Write a general register: writes to g0 are discarded. -/
def Thread.setReg (t : Thread) (n : RegIx) (v : Word) : Thread := if n = 0 then t else { t with regs := tput 0 t.regs n.val v }
def sext16 (v : BitVec 16) : Word := v.signExtend 32
def zext16 (v : BitVec 16) : Word := v.setWidth 32

/-! ## SEC-DED of engine memories (R250) -/

/-- 0 clean, 1 corrected, 2 uncorrectable. (DESIGN CHOICE, log 13) -/
def eccState (e : BitVec 39) : Nat :=
  let n := popNat 39 e.toNat
  if n = 0 then 0 else if n = 1 then 1 else if n = 2 then 2 else match Config.secDed e.toNat with | some _ => 1 | none => 2
def Engines.imErrAt (e : Engines) (p a : Nat) : BitVec 39 := tget 0 e.imErr ((imemSize * p + a) / 4)
def Engines.dmErrAt (e : Engines) (p a : Nat) : BitVec 39 := tget 0 e.dmErr ((dmemSize * p + a) / 4)
def Engines.setImErr (e : Engines) (p a : Nat) (v : BitVec 39) : Engines := { e with imErr := tput 0 e.imErr ((imemSize * p + a) / 4) v }
def Engines.setDmErr (e : Engines) (p a : Nat) (v : BitVec 39) : Engines := { e with dmErr := tput 0 e.dmErr ((dmemSize * p + a) / 4) v }
/-- What a decoder takes for one error leaves the word as it decodes it: the written word, or after three or more upsets what SEC-DED makes of it. -/
def eccWord (v : Word) (e : BitVec 39) : Word :=
  if popNat 39 e.toNat ≤ 1 then v else match Config.secDed e.toNat with | some m => v ^^^ BitVec.ofNat 32 m | none => v ^^^ e.setWidth 32
/-- A correction on the fly counts; the stored word keeps its error. -/
def countMemCorr (s : State) (p n : Nat) : State :=
  if n = 0 then s else s.onEng fun e => e.setEngine p { e.engine p with memCorr := sat32 ((e.engine p).memCorr + n) }

/-! ## Local space (R248, R249) -/

/-- Trap causes (R290). -/
def causeIllegal : Nat := 0x01
def causeFetch : Nat := 0x02
def causeAlign : Nat := 0x03
def causeLocal : Nat := 0x04
def causeBus : Nat := 0x05
def causeQueue : Nat := 0x06
def causeKitty : Nat := 0x07
def causeCall : Nat := 0x08
def causePmc : Nat := 0x09
def causeTrap : Nat := 0x0A

/-- The thread's seat owns a local data block. -/
def ldbMine (s : State) (p h k : Nat) : Bool := (s.fab.handOwner p h).isSome && ownerOf (tget 0 (s.eng.engine p).ldbOwn k) == s.fab.handOwner p h
/-- The thread's seat owns an instruction block. -/
def imbMine (s : State) (p h k : Nat) : Bool := (s.fab.handOwner p h).isSome && ownerOf (tget 0 (s.eng.engine p).imbOwn k) == s.fab.handOwner p h
/-- Offsets of the control page that hold a register. -/
def ctlListed (o : Nat) : Bool := decide (o ≤ 0x20) || (decide (0x40 ≤ o) && decide (o ≤ 0x5C))
/-- What a local address names: a word of a block of the seat, an entry of the control page, or nothing it may reach. -/
inductive LocalAddr where
  | data (a : Nat) | ctl (o : Nat) | bad
deriving DecidableEq, Repr
def localAddr (s : State) (p h : Nat) (a : Word) : LocalAddr :=
  let n := a.toNat
  if n < 0x10000 then (if ldbMine s p h (n / 4096) then .data n else .bad)
  else if n < 0x10080 && ctlListed (n - 0x10000) then .ctl (n - 0x10000) else .bad

/-- Device time as a thread reads it: within 2 ns of the time base. (DEDUCED, log 59) -/
def readTime (s : State) : Nat := s.aon.now + Config.timing s.aon.free 0 % 5 - 2
/-- Nanoseconds and seconds fields of an instant. -/
def timeNs (t : Nat) : Nat := t % 1000000000
def timeS (t : Nat) : Nat := t / 1000000000 % 281474976710656
/-- The timer compare value as an instant. -/
def Thread.tcmp (t : Thread) : Nat := (t.tcmpSl.toNat + 4294967296 * (t.tcmpSh.toNat % 65536)) * 1000000000 + t.tcmpNs.toNat
/-- A control-page read (R249): a read of TIME_NS latches the seconds. -/
def readCtl (s : State) (p h o : Nat) : Word × Thread :=
  let t := s.eng.thread p h
  let now := readTime s
  if o = 0x00 then (BitVec.ofNat 32 (8 * p + h), t)
  else if o = 0x04 then (BitVec.ofNat 32 ((s.fab.handOwner p h).getD 0), t)
  else if o = 0x08 then (BitVec.ofNat 32 (timeNs now), { t with
    timeSl := BitVec.ofNat 32 (timeS now), timeSh := BitVec.ofNat 32 (timeS now / 4294967296) })
  else if o = 0x0C then (t.timeSl, t)
  else if o = 0x10 then (t.timeSh, t)
  else if o = 0x14 then (t.tcmpNs, t)
  else if o = 0x18 then (t.tcmpSl, t)
  else if o = 0x1C then (t.tcmpSh, t)
  else if o = 0x20 then (if t.kevent then 1 else 0, t)
  else (tget 0 t.watch ((o - 0x40) / 4), t)
/-- A control-page write: a write to a read-only entry is discarded, and reserved bits read 0. -/
def writeCtl (t : Thread) (o : Nat) (v : Word) : Thread :=
  if o = 0x14 then { t with tcmpNs := v }
  else if o = 0x18 then { t with tcmpSl := v }
  else if o = 0x1C then { t with tcmpSh := v &&& 0xFFFF }
  else if 0x40 ≤ o then { t with watch := tput 0 t.watch ((o - 0x40) / 4) (v &&& 0x8000FFFF) }
  else t

/-- Read words of local data memory: the little-endian words, how many were corrected, and the address of the first that cannot be. -/
def readLocal (e : Engines) (p a n : Nat) : List Word × Nat × Option Nat :=
  let at' := fun i => a + 4 * i
  let words := (List.range n).map fun i => eccWord (e.dmWord p (at' i)) (e.dmErrAt p (at' i))
  let corr := ((List.range n).filter fun i => eccState (e.dmErrAt p (at' i)) = 1).length
  (words, corr, ((List.range n).find? fun i => eccState (e.dmErrAt p (at' i)) = 2).map at')
/-- Write words of local data memory with fresh check bits. -/
def writeLocal (e : Engines) (p a : Nat) : List Word → Engines
  | [] => e
  | w :: t => writeLocal ((e.setDmWord p a w).setDmErr p a 0) p (a + 4) t
/-- The 32 bytes of a queue word as eight words, and back (R276). -/
def wordsOf (d : BitVec 256) : List Word := (List.range 8).map fun i => BitVec.ofNat 32 (d.toNat >>> (32 * i))
def ofWords (l : List Word) : BitVec 256 := BitVec.ofNat 256 (l.foldr (fun w acc => w.toNat + 4294967296 * acc) 0)

/-! ## Queue operands (R275, R276, R281) -/

/-- Number of queues; larger numbers name none, 0xFFFF names the scratchpad channel. -/
def scratchQueue : Nat := 0xFFFF
def qNum (w : Word) : Nat := bits w 15 0
def qRank (w : Word) : Nat := bits w 18 16
/-- Bits [31:19] must be 0. -/
def qWordBad (w : Word) : Bool := bits w 31 19 != 0
/-- The thread's producer number in an enabled queue. -/
def threadProd (s : State) (p h q : Nat) : Option Nat :=
  let x := s.net.queue q
  if qdEnable x.dir then x.prodOf (epThread p h) else none
/-- The thread is the consumer of an enabled queue. -/
def threadCons (s : State) (p h q : Nat) : Bool :=
  let x := s.net.queue q
  qdEnable x.dir && qdConsumer x.dir == epThread p h
/-- Requests of a thread's scratchpad channel that are outstanding: not yet answered, or answered and not yet popped. -/
def scratchOut (s : State) (p h : Nat) : Nat :=
  let c := s.net.threadChanAt (8 * p + h)
  c.reqs.length + c.reps.length - c.skip

end Sys2Proof.Machine
end

