-- ==== Sys2Proof/Machine/Pipeline.lean ====
section
/-! DEFINITION. How an engine instruction runs: fetch, retirement with its counters and samples, traps, branch prediction (R259–R271, R288–R291, R612–R631). -/

namespace Sys2Proof.Machine

/-! ## Clocks (R239, R288, R525) -/

/-- The engine PLL of a plot: its quadrant's (R89, R239). -/
def epllOf (p : Nat) : Nat := fpllOf p % 4
/-- Gate or ungate an engine's clock; an ungated engine starts its PLL when it is stopped (R288, R525). -/
def Engines.regate (e : Engines) (p : Nat) : Engines :=
  let busy := (List.range 8).any fun h => (e.thread p h).state == .running
  let e := e.setEngine p { e.engine p with gated := !busy }
  let k := epllOf p
  if busy && !(e.epll k).running then e.setEpll k { e.epll k with running := true, locked := false } else e
/-- Thread h of plot p is RUNNING and its engine receives edges. -/
def State.threadRuns (s : State) (p h : Nat) : Bool :=
  s.clocksOn && (s.eng.thread p h).state == .running && (s.eng.epll (epllOf p)).running && (s.eng.epll (epllOf p)).locked
    && !s.net.dieDown.contains (dieOf p)

/-! ## Slot counters (R612–R615) -/

/-- One set of slot counters over some cycles: `retire` slots retire now; the pipeline's timing decides how the rest fall into the classes, and the identity of R615 holds. (DESIGN CHOICE, log 20) -/
def SlotCnt.advance (c : SlotCnt) (cycles draw ix retire : Nat) (busy : Bool) : SlotCnt :=
  let t := fun i => Config.timing draw (8 * ix + i)
  if !busy then
    { c with wasted := wrap48 (c.wasted + c.inflight), front := wrap48 (c.front + 2 * cycles), inflight := 0 }
  else
    let rest := 2 * cycles + c.inflight - retire
    let m := min (t 2 % 9) rest
    let w := t 3 % (rest - m + 1)
    let b := t 4 % (rest - m - w + 1)
    { retired := wrap48 (c.retired + retire), wasted := wrap48 (c.wasted + w), back := wrap48 (c.back + b)
      front := wrap48 (c.front + (rest - m - w - b)), inflight := m }

/-- The engine's counters over the cycles up to the retirement of an instruction of thread h. (DESIGN CHOICE, log 20) -/
def Engines.account (e : Engines) (p h draw : Nat) : Engines :=
  let x := e.engine p
  let n := Config.timing draw 1 + if (e.slotCnt p h).inflight = 0 || x.totals.inflight = 0 then 1 else 0
  let e := (List.range 8).foldl (fun e k =>
    e.setSlotCnt p k ((e.slotCnt p k).advance n draw (k + 1) (if k = h then 1 else 0) ((e.thread p k).state == .running))) e
  e.setEngine p { x with cycles := wrap48 (x.cycles + n), totals := x.totals.advance n draw 9 1 true }

/-! ## Performance counters (R617–R623) -/

def pmcEnable (w : BitVec 32) : Bool := w.getLsbD 31
def pmcChain (w : BitVec 32) : Bool := w.getLsbD 29
def pmcThreads (w : BitVec 32) : Nat := bits w 23 16
def pmcEvent (w : BitVec 32) : Nat := bits w 7 0
/-- The seat to which PMC_k is assigned. -/
def Engine.pmcSeat (x : Engine) (k : Nat) : Option Nat := ownerOf (tget 0 x.pmcOwn k)
/-- Add to a counter: a wrap sets its flag, or counts in the odd counter chained to it (R622). -/
def Engine.pmcAdd (x : Engine) (ctl : Nat → BitVec 32) (k n : Nat) : Engine :=
  let v := tget 0 x.pmc k + n
  let wraps := v / 281474976710656
  let x := { x with pmc := tput 0 x.pmc k (wrap48 v) }
  let flag := fun (x : Engine) k => if x.ovf.contains k then x else { x with ovf := x.ovf ++ [k] }
  if wraps = 0 then x
  else if k % 2 = 0 && pmcChain (ctl (k + 1)) && x.pmcSeat (k + 1) == x.pmcSeat k then
    if pmcEnable (ctl (k + 1)) then
      let w := tget 0 x.pmc (k + 1) + wraps
      let x := { x with pmc := tput 0 x.pmc (k + 1) (wrap48 w) }
      if 281474976710656 ≤ w then flag x (k + 1) else x
    else x
  else flag x k
/-- Count the events of an instruction of thread h: architectural events as they are, events of kind M as the pipeline's timing gives them (R619, R620). (DESIGN CHOICE, log 20) -/
def State.countPmc (s : State) (p h : Nat) (events : List Nat) : State :=
  match s.fab.handOwner p h with
  | none => s
  | some seat =>
    let ctl := fun k => tget 0 (s.mc.snap seat).ctl k
    s.onEng fun e => e.setEngine p ((List.range 8).foldl (fun (x : Engine) k =>
      let w := ctl k
      if x.pmcSeat k = some seat && pmcEnable w && !(k % 2 = 1 && pmcChain w) && (pmcThreads w).testBit h then
        x.pmcAdd ctl k (if 0x20 ≤ pmcEvent w then Config.timing s.aon.free (200 + k) else events.count (pmcEvent w))
      else x) (e.engine p))

/-! ## Sampling (R630–R632) -/

def sampleOn (w : BitVec 16) : Bool := w.getLsbD 15
def sampleK (w : BitVec 16) : Nat := bits w 12 8
def sampleQ (w : BitVec 16) : Nat := bits w 5 0
/-- One step of the LFSR. -/
def lfsrStep (l : BitVec 20) : BitVec 20 := (l <<< 1) ||| (if l.getLsbD 19 != l.getLsbD 16 then 1 else 0)
/-- The sample record (R632) of the j-th instruction that the sampler sees at one event; its cycle counts and pipeline events are the timing's. -/
def sampleRecord (s : State) (j p h pc : Nat) (word : Word) (outcome : Nat) (taken : Bool) : BitVec 256 :=
  let t := fun i w => Config.timing s.aon.free (300 + 32 * j + i) % 2 ^ w
  let ev := t 5 13 % 4 + (if taken then 4 else 0) + t 5 13 / 8 * 8
  BitVec.ofNat 256 (timeNs (s.aon.now) * 2 ^ 224 + word.toNat * 2 ^ 192 + t 0 32 * 2 ^ 160 + t 1 16 * 2 ^ 144 + t 2 16 * 2 ^ 128 +
    t 3 16 * 2 ^ 112 + t 4 16 * 2 ^ 96 + ev * 2 ^ 64 + outcome * 2 ^ 52 + h * 2 ^ 45 + p * 2 ^ 36 + pc % 131072)
/-- Push a record into the seat's sampling queue, or count it as lost (R631). -/
def pushSample (s : State) (p seat q : Nat) (rec : BitVec 256) : State :=
  let n := 64 * p + q
  let x := s.net.queue n
  match x.prodOf epMc with
  | some i =>
    if x.runs && qdOwner x.dir = some seat && decide (0 < (x.prod i).credits) then s.onNet fun g => g.setQueue n (x.pushLast i rec 0 0).1
    else s.onEng fun e => e.setEngine p { e.engine p with samplesLost := sat32 ((e.engine p).samplesLost + 1) }
  | none => s.onEng fun e => e.setEngine p { e.engine p with samplesLost := sat32 ((e.engine p).samplesLost + 1) }
/-- The j-th instruction of thread h that the sampler sees at one event: the LFSR steps, and an instruction that it tags, when none of the seat is in flight yet, leaves its record (R630, R631). -/
def sampleOne (p h seat : Nat) (a : State × Bool) (j pc : Nat) (word : Word) (outcome : Nat) (taken : Bool) : State × Bool :=
  let s := a.1
  let w := (s.mc.snap seat).sample
  let x := s.eng.engine p
  let l := lfsrStep (tget 0 x.lfsr seat)
  let m := 2 ^ sampleK w - 1
  let hit := !a.2 && decide (l.toNat % 2 ^ sampleK w = m)
  let s := s.onEng fun e => e.setEngine p { x with
    lfsr := tput 0 x.lfsr seat l, samplesTagged := if hit then sat32 (x.samplesTagged + 1) else x.samplesTagged }
  (if hit then pushSample s p seat (sampleQ w) (sampleRecord s j p h pc word outcome taken) else s, a.2 || hit)
/-- The sampler sees the instructions of thread h that a discarded path has put into ID since the last retirement, whose number, words and PCs are the timing's, and then the instruction that retires or traps (R237, R630–R632). (DESIGN CHOICE, log 20) -/
def State.sample (s : State) (p h pc : Nat) (word : Word) (outcome : Nat) (taken : Bool) : State :=
  match s.fab.handOwner p h with
  | none => s
  | some seat =>
    if !sampleOn (s.mc.snap seat).sample then s
    else
      let t := fun j i => Config.timing s.aon.free (300 + 32 * j + i)
      let a := (List.range (t 0 20)).foldl (fun a j =>
        sampleOne p h seat a (j + 1) (4 * (t (j + 1) 21 % 32768)) (BitVec.ofNat 32 (t (j + 1) 22)) (2 + t (j + 1) 23 % 3) false) (s, false)
      (sampleOne p h seat a 0 pc word outcome taken).1

/-! ## Prediction (R264, R266) -/

/-- The bimodal counter of a PC, and its value after an outcome. (PRESUMED, log 58) -/
def Engine.bimodalAt (x : Engine) (pc : Nat) : Nat := tget 0 x.bimodal (pc / 4 % 512)
/-- PRESUMED, log 58. -/
def Engine.train (x : Engine) (pc : Nat) (taken : Bool) : Engine :=
  let v := x.bimodalAt pc
  { x with bimodal := tput 0 x.bimodal (pc / 4 % 512) (if taken then min 3 (v + 1) else v - 1) }
def Engine.target (x : Engine) (pc seat : Nat) : Option Nat := (x.targets.find? fun t => t.pc == pc && t.seat == seat).map fun t => t.target
/-- The target buffer learns a jump: an entry of its set gives way when all four are used, of which the spec does not say which. (PRESUMED, log 58) -/
def Engine.learn (x : Engine) (pc seat target draw : Nat) : Engine :=
  let others := x.targets.filter fun t => !(t.pc == pc && t.seat == seat)
  let inSet := others.filter fun t => t.pc / 4 % 16 == pc / 4 % 16
  let kept := if inSet.length < 4 then others
    else match inSet[draw % inSet.length]? with | some v => others.filter (· ≠ v) | none => others
  { x with targets := kept ++ [{ pc := pc, seat := seat, target := target }] }

/-! ## Retirement and traps (R267, R269, R289–R291) -/

/-- How an instruction ends. -/
inductive EngEnd where
  /-- it retires, the thread goes on at npc, and these architectural events count -/
  | retire (s : State) (npc : Word) (events : List Nat) (taken : Bool)
  /-- it traps with a cause, TRAP_INFO and TRAP_ADDR -/
  | trap (s : State) (cause info addr : Nat)
  /-- it does not retire yet -/
  | wait (s : State)

/-- Everything that counts an instruction at its retirement. -/
def State.retired' (s : State) (p h pc : Nat) (word : Word) (events : List Nat) (outcome : Nat) (taken : Bool) : State :=
  (((s.onEng fun e => e.account p h s.aon.free).countPmc p h events).sample p h pc word outcome taken).drawn

/-- Trap entry (R269, R289, R291): TRAPPED, the trap record, and attention of class 1 for TRAP, class 7 for every other cause. -/
def takeTrap (s : State) (p h cause info addr : Nat) : State :=
  let t := s.eng.thread p h
  let s := s.onEng fun e => (e.setThread p h { t with
    state := .trapped, trapCause := BitVec.ofNat 8 cause, trapInfo := BitVec.ofNat 16 info, trapPc := t.pc.setWidth 17
    trapAddr := BitVec.ofNat 32 addr, miss := none, fencing := false, fenceLost := none }).regate p
  let id := 8 * p + h
  match s.fab.handOwner p h with
  | none => s
  | some o => s.raise (if cause = causeTrap then { seat := o, code := 0x0102, index := 0x3200 + p, a := id, b := info }
      else { seat := o, code := 0x0709, index := 0x3200 + p, a := id, b := 256 * info + cause })

/-- The effect of an instruction's end. -/
def EngEnd.finish (r : EngEnd) (p h pc : Nat) (word : Word) : State :=
  match r with
  | .retire s npc events taken =>
    (s.onEng fun e => e.setThread p h { e.thread p h with pc := npc, miss := none, fencing := false, fenceLost := none }).retired' p h pc word
      (0x01 :: events) 0 taken
  | .trap s cause info addr => (takeTrap s p h cause info addr).retired' p h pc word [0x01, 0x11] 1 false
  | .wait s => s

/-! ## Fetch (R248, R250, R271) -/

/-- The word at the PC, as SEC-DED delivers it. -/
def fetchWord (s : State) (p : Nat) (pc : Word) : Word := eccWord (s.eng.imWord p pc.toNat) (s.eng.imErrAt p pc.toNat)
/-- The trap that a fetch takes: its block is not the seat's, or its word cannot be corrected. (DEDUCED, log 57) -/
def fetchTrap (s : State) (p h : Nat) (pc : Word) : Option (Nat × Nat) :=
  if 131072 ≤ pc.toNat || !imbMine s p h (pc.toNat / 8192) then some (causeFetch, 0)
  else if eccState (s.eng.imErrAt p pc.toNat) = 2 then some (causeBus, respUncorr) else none
/-- Corrections that the fetch of an instruction meets (R250). -/
def fetchCorr (s : State) (p : Nat) (pc : Word) : Nat := if eccState (s.eng.imErrAt p pc.toNat) = 1 then 1 else 0
/-- An instruction's end with n corrections of its fetch counted: once, when it leaves the pipeline, and not at each try of one that waits (R250). -/
def EngEnd.counted (r : EngEnd) (p n : Nat) : EngEnd :=
  match r with
  | .retire s npc events taken => .retire (countMemCorr s p n) npc events taken
  | .trap s cause info addr => .trap (countMemCorr s p n) cause info addr
  | .wait s => .wait s
/-- An event that names an instruction of a thread: nothing while the thread does not run or another word stands at its PC; the fetch's own trap; ILLEGAL for a reserved operand value; else the instruction's effect. (DEDUCED, log 57) -/
def engStep (s : State) (p h : Nat) (i : EngInsn) (body : State → Thread → EngEnd) : State :=
  let t := s.eng.thread p h
  if !s.threadRuns p h then s
  else match fetchTrap s p h t.pc with
    | some (c, info) => (EngEnd.trap s c info t.pc.toNat).finish p h t.pc.toNat 0
    | none =>
      let w := fetchWord s p t.pc
      if w != encodeEng i then s
      else
        let r := if legalEng i then body s t else EngEnd.trap s causeIllegal 0 0
        (r.counted p (fetchCorr s p t.pc)).finish p h t.pc.toNat w

/-- Retire at pc + 4 with a register written. -/
def retireReg (s : State) (p h : Nat) (t : Thread) (rd : RegIx) (v : Word) (events : List Nat) : EngEnd :=
  .retire (s.onEng fun e => e.setThread p h (t.setReg rd v)) (t.pc + 4) events false

end Sys2Proof.Machine
end

