-- ==== Sys2Proof/Machine/IsaMem.lean ====
section
/-! DEFINITION. Loads and stores of the engines, the riser cache's misses, kitty access, calls, counters and FENCE (R248–R256, R263, R274, R283–R285). -/

namespace Sys2Proof.Machine

/-- The address of a load or store: g[ra] + sext(imm). (DEDUCED, log 57) -/
def memAddr (t : Thread) (ra : RegIx) (imm : BitVec 16) : Word := t.reg ra + sext16 imm

/-! ## Local space (R248–R250) -/

/-- LD.L: a word of local memory, with the upsets it has met, or of the control page. -/
def loadLocal (s : State) (p h : Nat) (t : Thread) (rd ra : RegIx) (imm : BitVec 16) (upset : BitVec 39) : EngEnd :=
  let a := memAddr t ra imm
  if a.toNat % 4 ≠ 0 then .trap s causeAlign 0 a.toNat
  else match localAddr s p h a with
    | .bad => .trap s causeLocal 0 a.toNat
    | .ctl o =>
      let r := readCtl s p h o
      retireReg s p h r.2 rd r.1 []
    | .data n =>
      let s := if upset = 0 then s else s.onEng fun e => e.setDmErr p n (e.dmErrAt p n ^^^ upset)
      match readLocal s.eng p n 1 with
      | (_, _, some bad) => .trap s causeBus respUncorr bad
      | (ws, corr, none) => retireReg (countMemCorr s p corr) p h t rd (ws.headD 0) []
def execLdL (p : PlotIx) (h : HandIx) (rd ra : RegIx) (imm : BitVec 16) (upset : BitVec 39) (s : State) : Out :=
  .next (engStep s p.val h.val (.imm .ldL rd ra imm) fun s t => loadLocal s p.val h.val t rd ra imm upset)
/-- TIME_NS_READ (R249): the LD.L whose address is the control page's TIME_NS. (DEDUCED, log 59) -/
def execTimeNsRead (p : PlotIx) (h : HandIx) (rd ra : RegIx) (imm : BitVec 16) (s : State) : Out :=
  if memAddr (s.eng.thread p.val h.val) ra imm = 0x10008 then
    .next (engStep s p.val h.val (.imm .ldL rd ra imm) fun s t => loadLocal s p.val h.val t rd ra imm 0)
  else .next s
/-- ST.L: a word of local memory or of the control page, at retirement. -/
def execStL (p : PlotIx) (h : HandIx) (rs ra : RegIx) (imm : BitVec 16) (s : State) : Out :=
  .next (engStep s p.val h.val (.imm .stL rs ra imm) fun s t =>
    let a := memAddr t ra imm
    if a.toNat % 4 ≠ 0 then .trap s causeAlign 0 a.toNat
    else match localAddr s p.val h.val a with
      | .bad => .trap s causeLocal 0 a.toNat
      | .ctl o => .retire (s.onEng fun e => e.setThread p.val h.val (writeCtl t o (t.reg rs))) (t.pc + 4) [] false
      | .data n => .retire (s.onEng fun e => writeLocal e p.val n [t.reg rs]) (t.pc + 4) [] false)

/-! ## Riser space (R248, R251–R253, R263) -/

/-- What a riser address is to a thread. -/
inductive RiserAddr where
  | misaligned | protected' | hit (k : Nat) (c : CLine) | miss
deriving DecidableEq, Repr
def riserAddr (s : State) (p h : Nat) (a : Word) : RiserAddr :=
  let n := a.toNat
  if n % 4 ≠ 0 then .misaligned
  else if 0x2000000 ≤ n || (s.fab.handOwner p h).isNone || s.stk.regionOwner p (n / 1048576) != s.fab.handOwner p h then .protected'
  else match (s.eng.engine p).lookup (n / 64) with
    | some (k, c) => .hit k c
    | none => .miss
/-- The miss register of a thread waits for a line, or holds its response (R263). -/
def awaitLine (s : State) (p h : Nat) (t : Thread) (line : Nat) (store : Bool) : EngEnd :=
  match t.miss with
  | some m => if m.line = line then (match m.resp with
      | some r => if r = respOkay then .wait (s.onEng fun e => e.setThread p h { t with miss := some { line := line, store := store } })
        else .trap s causeBus r (64 * line)
      | none => .wait s)
    else .wait (s.onEng fun e => e.setThread p h { t with miss := some { line := line, store := store } })
  | none => .wait (s.onEng fun e => e.setThread p h { t with miss := some { line := line, store := store } })

/-- What the miss register says of an instruction whose line is in the cache: the riser has not answered its request yet, or has answered with a response other than OKAY, while another thread filled the line (R253, R263). -/
def missPending (t : Thread) (line : Nat) : Option (Option Nat) :=
  match t.miss with
  | some m => if m.line ≠ line then none else match m.resp with
    | none => some none
    | some r => if r = respOkay then none else some (some r)
  | none => none

/-- LD.M: a hit delivers the word; a miss leaves the pipeline until the riser responds. -/
def execLdM (p : PlotIx) (h : HandIx) (rd ra : RegIx) (imm : BitVec 16) (s : State) : Out :=
  .next (engStep s p.val h.val (.imm .ldM rd ra imm) fun s t =>
    let a := memAddr t ra imm
    match riserAddr s p.val h.val a with
    | .misaligned => .trap s causeAlign 0 a.toNat
    | .protected' => .trap s causeBus respProtected a.toNat
    | .hit _ c => match missPending t (a.toNat / 64) with
      | some none => .wait s
      | some (some r) => .trap s causeBus r a.toNat
      | none => retireReg s p.val h.val t rd (lineWord c.data a.toNat) ([0x05] ++ if t.miss.isSome then [0x07] else [])
    | .miss => match awaitLine s p.val h.val t (a.toNat / 64) false with
      | .trap s c i _ => .trap s c i a.toNat
      | r => r)

/-- ST.M: a hit writes the line and marks it dirty; a miss holds the thread until the line is filled. -/
def storeLine (s : State) (p k : Nat) (c : CLine) (a : Nat) (v : Word) : State :=
  s.onEng fun e => e.setEngine p ((e.engine p).putLine k { c with data := setLineWord c.data a v, dirty := true, newer := true })
def execStM (p : PlotIx) (h : HandIx) (rs ra : RegIx) (imm : BitVec 16) (s : State) : Out :=
  .next (engStep s p.val h.val (.imm .stM rs ra imm) fun s t =>
    let a := memAddr t ra imm
    match riserAddr s p.val h.val a with
    | .misaligned => .trap s causeAlign 0 a.toNat
    | .protected' => .trap s causeBus respProtected a.toNat
    | .hit k c => match missPending t (a.toNat / 64) with
      | some none => .wait s
      | some (some r) => .trap s causeBus r a.toNat
      | none => .retire (storeLine s p.val k c a.toNat (t.reg rs)) (t.pc + 4) [0x06] false
    | .miss => match awaitLine s p.val h.val t (a.toNat / 64) true with
      | .trap s c i _ => .trap s c i a.toNat
      | r => r)

/-- The riser answers a thread's request for a line: a good line is filled, for which a way of the seat's mask must be free or clean; the response. None while the channel engine holds the request or every way waits for its write-back. -/
def fillFor (s : State) (p h line : Nat) (upset : BitVec 640) : Option (State × Nat) :=
  let e := s.eng.engine p
  if (e.lookup line).isSome then some (s, respOkay)
  else
    let seat := (s.fab.handOwner p h).getD 0
    let draw := Config.freeNat s.aon.free
    if s.lineBusy p line (.engine (Fin.ofNat 8 h)) || (e.wayFor seat draw line).isNone then none
    else match serveRead s p line (.engine (Fin.ofNat 8 h)) upset with
      | (_, none) => none
      | (s, some o) =>
        if o.resp != respOkay then some (s, o.resp)
        else match (s.eng.engine p).fillLine seat draw line o.data with
          | some e => some ((s.onEng fun x => x.setEngine p e).drawn, respOkay)
          | none => none

/-- LDM_MISS_RESPONSE (R263): the response stands in the miss register, and the load issues again. (DEDUCED, log 55) -/
def execLdmMissResponse (p : PlotIx) (h : HandIx) (upset : BitVec 640) (s : State) : Out :=
  let t := s.eng.thread p.val h.val
  match t.miss with
  | some m =>
    if m.store || m.resp.isSome then .next s
    else match fillFor s p.val h.val m.line upset with
      | none => .next s
      | some (s, r) => .next (s.onEng fun e => e.setThread p.val h.val { e.thread p.val h.val with miss := some { m with resp := some r } })
  | none => .next s

/-- STM_FILL_RESPONSE (R248, R253): the line is filled and the store is written and retires, or it traps with BUS and the response: that of the fill, that which stands in the miss register, or PROTECTED when the region has left the thread's seat. -/
def execStmFillResponse (p : PlotIx) (h : HandIx) (upset : BitVec 640) (s : State) : Out :=
  let t := s.eng.thread p.val h.val
  match t.miss, decodeEng (fetchWord s p.val t.pc) with
  | some m, some (.imm .stM rs ra imm) =>
    let a := memAddr t ra imm
    if !m.store || a.toNat / 64 ≠ m.line || t.state != .running then .next s
    else
      let w := fetchWord s p.val t.pc
      let done := fun (r : EngEnd) => Host.Outcome.next ((r.counted p.val (fetchCorr s p.val t.pc)).finish p.val h.val t.pc.toNat w)
      match riserAddr s p.val h.val a, m.resp with
      | .protected', _ => done (.trap s causeBus respProtected a.toNat)
      | _, some r => if r != respOkay then done (.trap s causeBus r a.toNat) else .next s
      | _, none => match fillFor s p.val h.val m.line upset with
        | none => .next s
        | some (s, r) =>
          if r != respOkay then done (.trap s causeBus r a.toNat)
          else match (s.eng.engine p.val).lookup m.line with
            | some (k, c) => done (.retire (storeLine s p.val k c a.toNat (t.reg rs)) (t.pc + 4) [0x06] false)
            | none => .next s
  | _, _ => .next s

/-! ## Kitty, calls, counters (R283–R285) -/

/-- Kitty register of an address, when the thread's seat owns its block. -/
def kittyIx (s : State) (p h : Nat) (a : Word) : Option Nat :=
  if a.toNat < 2048 && kittyAllowed s p h a.toNat then some a.toNat else none
/-- A refused access of an engine counts and traps. -/
def kittyTrap (s : State) (p : Nat) : EngEnd :=
  .trap (s.onFab fun f => f.setPlot p { f.plot p with kittyRefusals := sat32 ((f.plot p).kittyRefusals + 1) }) causeKitty 0 0
def execKrd (p : PlotIx) (h : HandIx) (rd ra : RegIx) (imm : BitVec 16) (s : State) : Out :=
  .next (engStep s p.val h.val (.imm .krd rd ra imm) fun s t =>
    match kittyIx s p.val h.val (memAddr t ra imm) with
    | some k => retireReg s p.val h.val t rd (s.fab.kittyReg p.val k) [0x0D]
    | none => kittyTrap s p.val)
def execKwr (p : PlotIx) (h : HandIx) (rs ra : RegIx) (imm : BitVec 16) (s : State) : Out :=
  .next (engStep s p.val h.val (.imm .kwr rs ra imm) fun s t =>
    match kittyIx s p.val h.val (memAddr t ra imm), s.fab.handOwner p.val h.val with
    | some k, some o => .retire (kittyTrigger (engineKittyWrite s p.val k (t.reg rs)) o p.val k) (t.pc + 4) [0x0D] false
    | _, _ => kittyTrap s p.val)

/-- CALLH (R118, R120, R284): the call is raised at the second fabric edge after retirement; a slot outside LEN, unowned or of another seat traps. (DEDUCED, log 48) -/
def execCallh (p : PlotIx) (h : HandIx) (ra : RegIx) (imm : BitVec 16) (s : State) : Out :=
  .next (engStep s p.val h.val (.callh ra imm) fun s t =>
    let n := (memAddr t ra imm).toNat
    let q := s.fab.seqPlot p.val
    if s.fab.lenOf q ≤ n || slotOwner (s.fab.slot q n) = none || slotOwner (s.fab.slot q n) != s.fab.handOwner p.val h.val then .trap s causeCall 0 0
    else .retire (s.onFab fun f => f.setPlot p.val { f.plot p.val with engCalls := (f.plot p.val).engCalls ++ [(2, h.val, n)] }) (t.pc + 4) [0x0E] false)

/-- The 48-bit counter of an RDPMC selector pair. -/
def pmcValue (s : State) (p h k : Nat) : Nat :=
  let x := s.eng.engine p
  let c := s.eng.slotCnt p h
  if k < 8 then tget 0 x.pmc k else if k = 8 then x.cycles else if k = 9 then c.retired else if k = 10 then c.wasted
  else if k = 11 then c.front else c.back
/-- RDPMC (R285): the low half latches the high half for the thread's next read of it. -/
def execRdpmc (p : PlotIx) (h : HandIx) (rd : RegIx) (sel : BitVec 16) (s : State) : Out :=
  .next (engStep s p.val h.val (.rdpmc rd sel) fun s t =>
    let k := sel.toNat / 2
    match s.fab.handOwner p.val h.val with
    | none => .trap s causePmc 0 0
    | some seat =>
      let x := s.eng.engine p.val
      if !tget false x.pmcUser seat || (decide (k < 8) && x.pmcSeat k != some seat) then .trap s causePmc 0 0
      else if sel.toNat % 2 = 1 then retireReg s p.val h.val t rd (tget 0 t.latch k) []
      else
        let v := pmcValue s p.val h.val k
        retireReg s p.val h.val { t with latch := tput 0 t.latch k (BitVec.ofNat 32 (v / 4294967296)) } rd (BitVec.ofNat 32 v) [])

/-! ## FENCE (R256, R274) -/

/-- Every queue operation of the thread has reached its queue's store, and its scratchpad requests the scratchpad. (DEDUCED, log 56) -/
def opsArrived (s : State) (p h : Nat) : Bool :=
  (s.net.queues.all fun e =>
    (match e.2.prodOf (epThread p h) with
      | some i => e.2.flight.all fun x => x.from != i
      | none => true) && (qdConsumer e.2.dir != epThread p h || e.2.acts.isEmpty)) &&
  (s.net.threadChanAt (8 * p + h)).reqs.isEmpty
/-- FENCE: bit 0 ORDER, bit 1 WB, bit 2 INV. (DEDUCED, log 56) -/
def execFence (p : PlotIx) (h : HandIx) (what : BitVec 3) (s : State) : Out :=
  .next (engStep s p.val h.val (.fence what) fun s t =>
    let mine := fun r => (s.fab.handOwner p.val h.val).isSome && s.stk.regionOwner p.val r == s.fab.handOwner p.val h.val
    let e := s.eng.engine p.val
    let wb := what.getLsbD 1
    let inv := what.getLsbD 2
    if wb && e.dirtyFor mine then .wait (s.onEng fun e => e.setThread p.val h.val { t with fencing := true })
    else match wb, t.fenceLost with
      | true, some (r, line) => .trap s causeBus r (64 * line)
      | _, _ =>
        if what.getLsbD 0 && !opsArrived s p.val h.val then .wait (s.onEng fun e => e.setThread p.val h.val { t with fencing := t.fencing || wb })
        else
          let s := if inv then s.onEng fun x => x.setEngine p.val (e.invalidate fun a => mine (lineRegion a)) else s
          .retire s (t.pc + 4) [0x10] false)

end Sys2Proof.Machine
end

