-- ==== Sys2Proof/Machine/Threads.lean ====
section
/-! DEFINITION. Thread commands, wipes of threads and blocks, the engine PLLs, snapshots and the counter commands of a turn (R242–R247, R525, R617–R629). -/

namespace Sys2Proof.Machine

/-! ## Threads (R241–R245, R539) -/

/-- Registers and control page at their reset values. (DEDUCED, log 60) -/
def Thread.clear (t : Thread) : Thread :=
  { t with regs := [], timeSl := 0, timeSh := 0, tcmpNs := 0, tcmpSl := 0, tcmpSh := 0, kevent := false, watch := []
           waitRec := none, miss := none, fencing := false, fenceLost := none }
/-- RUNNING, or HELD in Limp when the thread is not essential (R539). -/
def Thread.run (t : Thread) (limp : Bool) (pc : Word) : Thread :=
  if limp && !t.ess then { t with state := .held, heldState := .running, pc := pc, waitRec := none, miss := none }
  else { t with state := .running, pc := pc, waitRec := none, miss := none }
/-- The pending scratchpad replies of a thread are discarded. (DEDUCED, log 75) -/
def Net.dropReplies (n : Net) (p h : Nat) : Net := n.setThreadChan (8 * p + h) (n.threadChanAt (8 * p + h)).discard
/-- A thread command of a turn at its engine edge: START 1, STOP 2, CONTINUE 3; one that does not match the state does nothing. (DEDUCED, log 60) -/
def threadCmd (s : State) (p h cmd pc : Nat) : State :=
  let t := s.eng.thread p h
  let limp := s.limp
  let put := fun (s : State) t => s.onEng fun e => (e.setThread p h t).regate p
  let halted := t.state = .stopped || t.state = .trapped
  if cmd = 1 && halted then
    put (s.onNet fun n => (n.stopThread p h 5).dropReplies p h) ({ t.clear with trapCause := 0 }.run limp (BitVec.ofNat 32 pc))
  else if cmd = 2 && (t.state = .running || t.state = .waiting) then
    put s { t with state := .stopped, waitRec := none, miss := none, fencing := false, fenceLost := none }
  else if cmd = 3 && halted then put s (t.run limp (BitVec.ofNat 32 pc))
  else s
/-- Take the turn's order for this thread and carry it out; while the clocks are off it waits. (DESIGN CHOICE, log 16) -/
def threadOrder (s : State) (p h cmd : Nat) : State :=
  if !s.clocksOn then s
  else match s.mc.orders.find? fun o => match o with | .thread a b c _ => a == p && b == h && c == cmd | _ => false with
  | some (.thread a b c pc) =>
    match takeOrder (.thread a b c pc) s.mc.orders with
    | some rest => threadCmd (s.onMc fun m => { m with orders := rest }) p h cmd pc
    | none => s
  | _ => s
def execThreadStart (p : PlotIx) (h : HandIx) (s : State) : Out := .next (threadOrder s p.val h.val 1)
def execThreadStop (p : PlotIx) (h : HandIx) (s : State) : Out := .next (threadOrder s p.val h.val 2)
def execThreadContinue (p : PlotIx) (h : HandIx) (s : State) : Out := .next (threadOrder s p.val h.val 3)

/-- The wipe of a thread (R244, R615): STOPPED under the new owner, or UNOWNED, with everything at its reset value and its slot counters 0. (DEDUCED, log 75) -/
def wipeThread (s : State) (p h : Nat) (owned : Bool) : State :=
  let s := s.onNet fun n => (n.stopThread p h 5).dropReplies p h
  s.onEng fun e => ((e.setThread p h { state := if owned then .stopped else .unowned }).setSlotCnt p h {}).regate p

/-! ## Blocks (R246, R247) -/

/-- Zeros and valid check bits in a block of instruction or local data memory. -/
def Engines.zeroBlock (e : Engines) (p : Nat) (ldb : Bool) (k : Nat) : Engines :=
  let n := if ldb then 4096 else 8192
  let lo := (if ldb then dmemSize * p else imemSize * p) + n * k
  let out := fun a => !(decide (lo ≤ a) && decide (a < lo + n))
  if ldb then { e with dmem := e.dmem.filter fun x => out x.1, dmErr := e.dmErr.filter fun x => out (4 * x.1) }
  else { e with imem := e.imem.filter fun x => out x.1, imErr := e.imErr.filter fun x => out (4 * x.1) }
/-- A change of a block's owner fills it (R247). -/
def fillEngBlock (s : State) (p : Nat) (ldb : Bool) (k : Nat) : State :=
  s.onEng fun e =>
    let e := e.zeroBlock p ldb k
    let x := e.engine p
    e.setEngine p (if ldb then { x with ldbFill := if x.ldbFill.contains k then x.ldbFill else x.ldbFill ++ [k] }
      else { x with imbFill := if x.imbFill.contains k then x.imbFill else x.imbFill ++ [k] })
/-- IMB_LDB_FILL_DONE (R247). -/
def execImbLdbFillDone (p : PlotIx) (ldb : Bool) (k : Fin 16) (s : State) : Out :=
  .next (s.onEng fun e =>
    let x := e.engine p.val
    e.setEngine p.val (if ldb then { x with ldbFill := x.ldbFill.filter (· ≠ k.val) } else { x with imbFill := x.imbFill.filter (· ≠ k.val) }))

/-! ## Engine PLLs (R525) -/

/-- Plot p's engine is gated: no thread is RUNNING, and no riser, queue or scratchpad transfer of its threads is outstanding (R288). -/
def State.engineIdle (s : State) (p : Nat) : Bool :=
  (s.eng.engine p).gated && (List.range 8).all fun h => opsArrived s p h && match (s.eng.thread p h).miss with | some m => m.resp.isSome | none => true
/-- EPLL_STOP (R525): all 128 engines of the PLL have been gated for 1 ms. -/
def execEpllStop (k : Fin 4) (s : State) : Out :=
  let idle := (List.range 512).all fun p => epllOf p != k.val || s.engineIdle p
  if s.clocksOn && idle then .next (s.onEng fun e => e.setEpll k.val { e.epll k.val with running := false, locked := false }) else .next s
/-- EPLL_TIMER_START (R525): 20 µs before a waiting thread's compare instant its PLL starts. -/
def execEpllTimerStart (p : PlotIx) (h : HandIx) (s : State) : Out :=
  let t := s.eng.thread p.val h.val
  let timer := match t.waitRec with | some r => r.mask.testBit 5 | none => false
  let l := s.eng.epll (epllOf p.val)
  if s.clocksOn && t.state == .waiting && timer && !l.running && decide (t.tcmp ≤ s.aon.now + 20000) then
    .next (s.onEng fun e => e.setEpll (epllOf p.val) { l with running := true, locked := false })
  else .next s

/-! ## Counters of a turn (R618, R623) -/

/-- Do to PMC_k of every engine that assigns it to a seat. -/
def onPmcs (s : State) (seat k : Nat) (g : Engine → Engine) : State :=
  s.onEng fun e => { e with engines := e.engines.foldl (fun l x => if x.2.pmcSeat k = some seat then tput {} l x.1 (g x.2) else l) e.engines }
/-- PMC_CLEAR (R618, R623): CLEAR of a turn sets the counter to 0. -/
def execPmcClear (seat : Seat) (k : Fin 8) (s : State) : Out :=
  match takeOrder (.pmcClear seat.val k.val) s.mc.orders with
  | none => .next s
  | some rest => .next (onPmcs (s.onMc fun m => { m with orders := rest }) seat.val k.val fun x => { x with pmc := tput 0 x.pmc k.val 0 })
/-- PMC_OVFCLR (R618, R623): the flag clears, unless the counter overflows on the same edge. -/
def execPmcOvfclr (seat : Seat) (k : Fin 8) (sameEdgeSet : Bool) (s : State) : Out :=
  match takeOrder (.pmcOvfClr seat.val k.val) s.mc.orders with
  | none => .next s
  | some rest =>
    let s := s.onMc fun m => { m with orders := rest }
    .next (if sameEdgeSet then s else onPmcs s seat.val k.val fun x => { x with ovf := x.ovf.filter (· ≠ k.val) })

end Sys2Proof.Machine
end

