-- ==== Sys2Proof/Machine/Dict.lean ====
section
/-! DEFINITION. The dictionary map: every object with its sub-entries, values, rights and ranges, and the table windows with their entries (chapters 10, 11, 14, 15 and 16). -/

namespace Sys2Proof.Machine

/-! ## Modes on the bus -/

/-- The operating mode encoding (R517). -/
def Mode.code : Mode → Nat
  | .fallow => 0 | .sowing => 1 | .field => 2 | .retention => 3 | .limp => 4 | .test => 5 | .recovery => 6 | .zeroised => 7
/-- The life-cycle state encoding (R634). -/
def Life.code : Life → Nat
  | .blank => 0 | .manufacture => 1 | .owned => 2 | .service => 3 | .decommissioned => 4
/-- The hand state encoding (R102). -/
def HState.code : HState → Nat
  | .empty => 0 | .sowing => 1 | .sown => 2 | .live => 3 | .parked => 4 | .frozen => 5 | .fallowed => 6
/-- The thread state encoding (R241). -/
def TState.code : TState → Nat
  | .unowned => 0 | .stopped => 1 | .running => 2 | .waiting => 3 | .trapped => 4 | .held => 5
/-- The link state encoding (R416). -/
def LinkState.code : LinkState → Nat
  | .off => 0 | .idle => 1 | .waking => 2 | .acquiring => 3 | .up => 4 | .lost => 5
/-- K objects are served: the stack is released and neither in Fallow nor in Retention (R491, R558). -/
def State.kUp (s : State) : Bool :=
  s.aon.powered && match s.aon.mode with
  | some .sowing => decide (7 ≤ s.aon.step) | some .field => true | some .limp => true | some .test => true | _ => false

/-! ## One sub-entry as a seat meets it (R450, R487) -/

structure Desc where
  /-- bytes of a value -/
  len : Nat
  val : List Byte := []
  read : Bool := false
  write : Bool := false
  stage : Bool := false
  /-- the value lies in its range (R450, R498) -/
  ok : List Byte → Bool := fun _ => true
  /-- further errors of a STAGE or a WRITE of the value -/
  more : List Byte → List Nat := fun _ => []

/-- A value that a seat only reads. -/
def roVal (n v : Nat) (read : Bool := true) : Desc := { len := n, val := leBytes n v, read := read }
/-- A staged value with its range. -/
def stVal (n v : Nat) (read stage : Bool) (ok : Nat → Bool) : Desc :=
  { len := n, val := leBytes n v, read := read, stage := stage, ok := fun l => ok (leNat l) }
/-- A counter that its holder clears by writing 0 (R495). -/
def ctrVal (n v : Nat) (read clear : Bool) : Desc :=
  { len := n, val := leBytes n v, read := read, write := clear, ok := fun l => decide (leNat l = 0) }
/-- An owner word (R493): the dealer stages it, dealer and owner read it. -/
def ownVal (seat : Nat) (w : Byte) : Desc :=
  stVal 1 w.toNat (seat = 0 || ownerOf w = some seat) (seat = 0) fun v => decide (v / 8 % 16 = 0)
def strVal (x : String) : Desc :=
  let l := x.toList.map fun c => BitVec.ofNat 8 c.toNat
  { len := l.length, val := l, read := true }
def timeVal (t : Nat) (read : Bool) : Desc := { len := 10, val := time80 t, read := read }
/-- A reading in Q8.8, 0x8000 when there is none (R586). -/
def q88 : Option Int → Nat
  | none => 0x8000
  | some t => (t % 65536).toNat
/-- The reserved bits of a word under a mask are 0. -/
def reservedZero (mask v : Nat) : Bool := decide (v &&& mask = 0)
def boolNat (b : Bool) : Nat := if b then 1 else 0
/-- The bits of a list of numbers, as a word. -/
def bitsOf (n : Nat) (g : Nat → Bool) : Nat := natOf g n

/-! ## A objects (R474, R480, R496, R498, R499, R605, R661) -/

def AttnEvent.bytes (e : AttnEvent) : List Byte :=
  leBytes 4 e.seq ++ time80 e.time ++ leBytes 2 e.code ++ leBytes 2 e.index ++ [0, 0] ++ leBytes 4 e.a ++ leBytes 4 e.b
/-- Value bytes in a staging set. -/
def stagedBytes (l : List Item) : Nat := (l.map fun i => i.data.length).sum

/-- DEDUCED, log 69. -/
def descIdentity (s : State) (sub : Nat) : Option Desc :=
  match sub with
  | 0x01 => some (strVal "NIZIA")
  | 0x02 => some (strVal "CX512")
  | 0x03 => some (strVal (if s.nv.grade3 then "CX512-3E-F85" else "CX512-2E-F85"))
  | 0x04 => some (strVal "B0")
  | 0x05 => some (roVal 16 s.nv.serial.toNat)
  | 0x06 => some (roVal 1 s.nv.life.code)
  | 0x07 => some (roVal 1 (match s.aon.mode with | some m => m.code | none => 0xFF))
  | 0x08 => some (roVal 2 s.aon.failedTest.toNat)
  | 0x09 => some { len := 48, val := beBytes 48 s.nv.idkeyX.toNat, read := true }
  | 0x0A => some { len := 48, val := beBytes 48 s.nv.idkeyY.toNat, read := true }
  | 0x0B => some (roVal 4 s.aon.fwVersion.toNat)
  | 0x0C => some (roVal 1 s.aon.fwSlot)
  | _ => none
def descComm (s : State) (seat sub : Nat) : Option Desc :=
  match sub with
  | 0x01 => some { len := 1, val := leBytes 1 s.nv.nominalRate, read := true, write := decide (seat = 0), ok := fun l => decide (leNat l ≤ 1) }
  | 0x02 => some { len := 1, val := leBytes 1 s.nv.dataRate, read := true, write := decide (seat = 0), ok := fun l => decide (leNat l ≤ 3) }
  | 0x03 => some (roVal 1 s.aon.node.toNat)
  | _ => none
def descSession (r : SeatRec) (mine : Bool) (sub : Nat) : Option Desc :=
  match sub with
  | 0x01 => some (roVal 1 (sessionState r) mine)
  | 0x02 => some (roVal 4 r.reqCtr mine)
  | 0x03 => some (roVal 4 r.repCtr mine)
  | 0x04 => some (ctrVal 4 r.rejected mine mine)
  | 0x05 => some (timeVal r.openedAt mine)
  | _ => none
def descStaging (r : SeatRec) (mine : Bool) (sub : Nat) : Option Desc :=
  match sub with
  | 0x01 => some (roVal 2 r.staged.length mine)
  | 0x02 => some (roVal 2 (stagedBytes r.staged) mine)
  | 0x03 => some (timeVal (match r.turn with | some t => t.at?.getD 0 | none => 0) mine)
  | _ => none
def descAttention (r : SeatRec) (mine : Bool) (sub : Nat) : Option Desc :=
  match sub with
  | 0x01 => some (roVal 1 r.pend.toNat mine)
  | 0x02 => some (roVal 1 (attnClass r) mine)
  | 0x03 => some (roVal 4 r.attnSeq mine)
  | n =>
    if inRange 0x11 0x17 n then some { len := 28, val := (tget {} r.events (n - 0x10)).bytes, read := mine }
    else if inRange 0x21 0x27 n then some (roVal 2 (tget 0 r.counts (n - 0x20)) mine) else none
def descReport (r : Report) (mine : Bool) (sub : Nat) : Option Desc :=
  match sub with
  | 0x01 => some (roVal 1 r.result mine)
  | 0x02 => some (roVal 1 r.source mine)
  | 0x03 => some (roVal 2 r.index mine)
  | 0x04 => some (roVal 1 r.sub mine)
  | 0x05 => some (roVal 2 r.reason mine)
  | 0x06 => some (roVal 4 r.detail mine)
  | 0x07 => some (timeVal r.time mine)
  | 0x08 => some (roVal 2 r.items mine)
  | _ => none

/-- A reading that the device holds is at or above the shutdown level of 115 °C (R593, R595). -/
def State.hot (s : State) : Bool := (List.range 64).any fun k => match tget none s.mc.hk.temps k with | some t => decide (29440 ≤ t) | none => false

def descMode (s : State) (dealer : Bool) (sub : Nat) : Option Desc :=
  match sub with
  | 0x01 => some (roVal 1 (match s.aon.mode with | some m => m.code | none => 0xFF))
  | 0x02 =>
    let test := s.nv.life = .manufacture || s.nv.life = .service
    some { stVal 1 0 dealer dealer (fun v => v = 0 || v = 2 || v = 3 || v = 4 || v = 5) with
      more := fun l => errsOf [(decide (leNat l = 5) && !test, errLifecycle)] }
  | 0x03 => some (stVal 1 0 dealer dealer fun v => decide (v ≤ 1))
  | 0x04 => some { stVal 1 0 dealer dealer (fun v => decide (v ≤ 1)) with
      more := fun l => errsOf [(decide (leNat l = 1) && s.hot, errThermal)] }
  | 0x05 => some (stVal 1 0 dealer dealer fun v => decide (v ≤ 2))
  | 0x06 => some (roVal 1 (boolNat s.aon.autorise))
  | _ => none
def descTime (s : State) (seat sub : Nat) : Option Desc :=
  let owner := decide (seat = s.aon.timeOwner)
  match sub with
  | 0x01 => some (timeVal s.aon.now true)
  | 0x02 => some (stVal 1 s.aon.timeOwner true (seat = 0) fun v => decide (v ≤ 7))
  | 0x03 => some { len := 10, stage := owner, ok := fun l => decide (leField l 0 4 ≤ 999999999) }
  | 0x04 => some { len := 4, stage := owner }
  | 0x05 => some (stVal 4 s.aon.freqAdj.toNat true owner fun _ => true)
  | 0x06 => some (roVal 2 (if s.clocksOn then 1 else 250))
  | _ => none
/-- Largest fabric frequency of the speed grade in kHz (R90). -/
def fclkMax (s : State) : Nat := if s.nv.grade3 then 800000 else 650000
def descFpll (s : State) (dealer : Bool) (sub : Nat) : Option Desc :=
  let f := fun v => inRange 50000 (fclkMax s) v && decide (v % 1000 = 0)
  if inRange 1 8 sub then
    let l := s.fab.fpll (sub - 1)
    some { len := 8, val := leBytes 4 l.fa ++ leBytes 4 l.fb, read := true, stage := dealer, ok := fun l => f (leField l 0 4) && f (leField l 4 4) }
  else if inRange 9 16 sub then some (stVal 1 (s.fab.fpll (sub - 9)).group true dealer fun v => decide (v ≤ 7))
  else none
def descEpll (s : State) (dealer : Bool) (sub : Nat) : Option Desc :=
  if inRange 1 4 sub then some (stVal 4 (s.eng.epll (sub - 1)).khz true dealer fun v => inRange 100000 1200000 v && decide (v % 1000 = 0)) else none
def descLife (s : State) (dealer : Bool) (sub : Nat) : Option Desc :=
  match sub with
  | 0x01 => some (roVal 1 s.nv.life.code)
  | 0x02 => some (roVal 1 s.nv.svcCount)
  | 0x03 => some { len := 48, val := beBytes 48 s.nv.ownerRoot.toNat, read := true }
  | 0x04 => some (roVal 4 s.nv.fwFloor.toNat)
  | 0x05 => some (roVal 8 s.nv.holdPulls.toNat)
  | 0x06 => some (roVal 1 s.nv.tamperEn.toNat)
  | 0x07 => some (roVal 4 s.nv.tamperCount)
  | 0x08 => some { len := 12, val := leBytes 2 s.nv.tamperLastCode ++ time80 s.nv.tamperLastTime, read := true }
  | 0x0B => some (roVal 1 s.mc.tokenResult dealer)
  | _ => none
def descRound (s : State) (dealer : Bool) (sub : Nat) : Option Desc :=
  match sub with
  | 0x01 => some (stVal 1 s.mc.hk.period true dealer (inRange 1 64))
  | 0x02 => some (roVal 4 s.mc.hk.rounds)
  | 0x03 => some (stVal 2 s.mc.hk.horizon true dealer (inRange 8 1024))
  | 0x04 => some (roVal 2 (q88 s.mc.hk.hottest))
  | _ => none
/-- One wear record: five bin counts and the wear fraction (R499). -/
def Wear.bytes (w : Wear) : List Byte := ((List.range 5).flatMap fun i => leBytes 4 (w.bins.getD i 0)) ++ leBytes 4 w.frac
def Rail.bytes (r : Rail) : List Byte := leBytes 2 r.setMv ++ leBytes 2 r.mv ++ leBytes 4 r.ma ++ leBytes 1 r.state ++ leBytes 1 r.step ++ [0, 0]
def descRails (s : State) (dealer : Bool) (sub : Nat) : Option Desc :=
  if inRange 1 5 sub then some { len := 12, val := (tget {} s.mc.hk.railRec (sub - 1)).bytes, read := true }
  else match sub with
  | 0x06 => some (timeVal s.mc.hk.roundTime true)
  | 0x07 => some (ctrVal 4 s.mc.hk.clockFaults true dealer)
  | 0x08 => some (roVal 1 s.mc.hk.failedRec)
  | _ => none
def descMonitor (s : State) (sub : Nat) : Option Desc :=
  if inRange 1 14 sub then
    let m := tget (some 0, 0) s.mc.hk.monitors (sub - 1)
    some { len := 4, val := leBytes 2 (q88 m.1) ++ [BitVec.ofNat 8 m.2, 0], read := true }
  else none
def descFallowMap (s : State) (dealer : Bool) (sub : Nat) : Option Desc :=
  let m := s.nv.map
  if inRange 0x01 0x08 sub then some (roVal 8 (bitsOf 64 fun i => m.plots.contains (64 * (sub - 1) + i)))
  else if inRange 0x09 0x10 sub then some (roVal 8 (bitsOf 64 fun i => decide ((m.riser (64 * (sub - 9) + i)).rstate = 3)))
  else if sub = 0x11 then some (stVal 1 m.dieMap true dealer fun v => decide (v ≤ 4))
  else if inRange 0x12 0x19 sub then
    some (roVal 8 (bitsOf 64 fun i => (tget 0 m.feed (32 * (sub - 0x12) + i / 2)).testBit (i % 2)))
  else if sub = 0x1A then some (stVal 1 s.stk.retireThresh true dealer (inRange 1 64))
  else if sub = 0x1B then some (stVal 1 s.stk.patrolH true dealer (inRange 1 168))
  else none
def descSeat (s : State) (seat k sub : Nat) : Option Desc :=
  let r := s.seat k
  let dealer := decide (seat = 0)
  let both := dealer || seat = k
  let cx := if k = 0 then s.nv.cred0X else r.credX
  let cy := if k = 0 then s.nv.cred0Y else r.credY
  match sub with
  | 0x01 => some { len := 48, val := beBytes 48 cx.toNat, read := true, stage := dealer && k != 0 }
  | 0x02 => some { len := 48, val := beBytes 48 cy.toNat, read := true, stage := dealer && k != 0 }
  | 0x03 => some (stVal 4 r.powerMw both dealer fun v => decide (v ≤ 450000))
  | 0x04 => some (stVal 4 r.rotpowMw both dealer fun v => decide (v ≤ 450000))
  | 0x05 => some (stVal 4 r.steerQuota both dealer fun v => decide (v ≤ 131072))
  | 0x06 => some (roVal 4 (s.lnk.steer.filter fun e => e.owner = k).length both)
  | 0x07 => some (stVal 1 r.odma.toNat (seat = k) (seat = k) fun v => decide (v ≤ 63) || v = 0xFF)
  | 0x08 => some (stVal 2 r.bulkbuf.toNat (seat = k) (seat = k) fun v => decide (v ≤ 991) || v = 0xFFFF)
  | _ => none

/-! ## Self-test targets (R648, R652) -/

def tgKind (w : BitVec 32) : Nat := bits w 31 28
def tgDie (w : BitVec 32) : Nat := bits w 27 25
def tgIndex (w : BitVec 32) : Nat := bits w 24 16
/-- The target code is in range: reserved bits and fields that its KIND does not use are 0. -/
def targetOk (w : BitVec 32) : Bool :=
  let k := tgKind w
  decide (bits w 15 0 = 0) &&
    (if k = 1 then decide (tgDie w ≤ 4) && decide (tgIndex w ≤ 255)
     else decide (tgDie w = 0) && (decide (2 ≤ k) && decide (k ≤ 5) || (k = 6 && decide (tgIndex w ≤ 15)) || (k = 7 && decide (tgIndex w = 0))))
/-- The plots and logical tile (1 lower, 2 upper) that physical tile c of die d serves at present; none for an unused one (R29, R338). -/
def State.tileUsers (s : State) (d c : Nat) : List (Nat × Nat) :=
  [c, c + 256].flatMap fun p => [1, 2].filterMap fun t => if s.physDie p (262144 * (t - 1)) = d then some (p, t) else none
/-- Regions of a physical tile, as (plot, region). -/
def State.tileRegions (s : State) (w : BitVec 32) : List (Nat × Nat) :=
  (s.tileUsers (tgDie w) (tgIndex w)).flatMap fun u => (List.range 16).map fun r => (u.1, 16 * (u.2 - 1) + r)
/-- The store of a queue: its KIND code with its index. -/
def queueStore (q : Nat) : Nat × Nat :=
  if q < 32768 then (4, q / 64) else if q < 40960 then (6, (q - 32768) / 16 / 32) else if q < 40976 then (0, 0) else (7, 0)
/-- A target code covers what a request names (R652). (DEDUCED, log 71) -/
def State.targetCovers (s : State) (w : BitVec 32) (index sub : Nat) (entry : Option Nat) : Bool :=
  let k := tgKind w
  let i := tgIndex w
  match k with
  | 1 => if inRange 0x3400 0x35FF index then
      (inRange 0x10 0x2F sub && (s.tileRegions w).contains (index - 0x3400, sub - 0x10)) ||
        (sub = 0x03 && (s.tileUsers (tgDie w) i).any fun u => u.1 = index - 0x3400)
    else if index = 0x5020 then match entry with
      | some e => (s.tileUsers (tgDie w) i).any fun u => u.1 = e / 64
      | none => false
    else false
  | 2 => index = 0x3000 + i && (inRange 0x08 0x37 sub)
  | 3 => index = 0x3000 + i && inRange 0x80 0xBF sub
  | 4 | 6 | 7 => index = 0x5010 && match entry with | some e => queueStore (e % 65536) = (k, i) | none => false
  | 5 => index = 0x3200 + i && (inRange 0x20 0x3F sub || inRange 0x10 0x17 sub)
  | _ => false
/-- The object is a target under a running self-test or field check, or under its restore. -/
def State.underTest (s : State) (index sub : Nat) (entry : Option Nat) : Bool :=
  (s.mc.bist.state = 1 || s.mc.bist.state = 2) && s.targetCovers s.mc.bist.runTarget index sub entry

/-! ## K objects (R501–R507, R633, R661) -/

def descSelfTest (s : State) (seat sub : Nat) : Option Desc :=
  let b := s.mc.bist
  let dealer := decide (seat = 0)
  let svc := s.nv.life = .owned || s.nv.life = .service
  let field := s.aon.mode == some .field || s.aon.mode == some .limp
  let heldSealed := fun w => (s.tileRegions w).any fun x => (s.stk.regionOwner x.1 x.2).isSome && (s.stk.region x.1 x.2).isSealed
  if inRange 0x10 0x17 sub then
    let mine := decide (seat = sub - 0x10)
    some (stVal 4 (tget 0 b.qgrant (sub - 0x10)).toNat mine mine fun v => v = 0 || targetOk (BitVec.ofNat 32 v))
  else match sub with
  | 0x01 => some { stVal 4 b.target.toNat dealer dealer (fun v => targetOk (BitVec.ofNat 32 v)) with
      more := fun l =>
        let w := BitVec.ofNat 32 (leNat l)
        let allowed := s.aon.mode == some .test || (field && svc && (tgKind w = 1 || tgKind w = 3 || tgKind w = 4))
        errsOf [(!allowed, errLifecycle), (tgKind w = 1 && heldSealed w, errAccess)] }
  | 0x02 => some (stVal 1 b.alg.toNat dealer dealer fun v => decide (v % 4 ≤ 2) && decide (v < 16))
  | 0x03 => some (stVal 4 b.bclk dealer dealer fun v => inRange 400000 800000 v && decide (v % 1000 = 0))
  | 0x04 => some (stVal 1 0 dealer dealer fun v => decide (v ≤ 1))
  | 0x05 => some (stVal 1 0 dealer dealer fun v => decide (v ≤ 1))
  | 0x06 => some (roVal 1 b.state dealer)
  | 0x07 => some { len := 32, read := dealer, val := b.record }
  | 0x08 => some (roVal 1 b.cause dealer)
  | 0x09 => some (roVal 2 b.log.length dealer)
  | 0x0A => some (roVal 4 b.lost dealer)
  | 0x0B => some (timeVal b.started dealer)
  | 0x0C => some (timeVal b.ended dealer)
  | 0x18 => some { stVal 2 0xFFFF dealer dealer (fun v => decide (v ≤ 511)) with
      more := fun _ => errsOf [(s.aon.mode != some .test, errLifecycle)] }
  | 0x19 => some (roVal 1 b.reclaimResult dealer)
  | _ => none

/-- A sealed region of the seat holds a key (R355). -/
def State.sealedKeyed (s : State) (seat : Nat) : Bool :=
  s.stk.regions.any fun e => ownerOf e.2.own = some seat && e.2.isSealed && (e.2.key0.isSome || e.2.key1.isSome)
def descSecrets (s : State) (seat sub : Nat) : Option Desc :=
  if inRange 0x01 0x08 sub then
    some { len := 32, write := decide (seat = sub - 1), more := fun _ => errsOf [(s.sealedKeyed seat, errState)] }
  else if inRange 0x11 0x18 sub then some (roVal 1 (boolNat (s.seat (sub - 0x11)).sms.isSome) (seat = sub - 0x11))
  else none

/-- Counter control words: reserved fields, events and CHAIN of an even counter (R618, R620). -/
def pmcEventOk (v : Nat) : Bool :=
  decide (v ≤ 0x11) || inRange 0x20 0x26 v || inRange 0x30 0x35 v || inRange 0x38 0x3A v || inRange 0x40 0x43 v
def pmcCtlOk (k v : Nat) : Bool :=
  reservedZero 0x0F00FF00 v && pmcEventOk (v % 256) && !(v.testBit 29 && decide (k % 2 = 0))
/-- DEDUCED, log 70. -/
def descSnapshot (s : State) (seat sub : Nat) : Option Desc :=
  let at' := fun (base : Nat) (d : Nat → Bool → Desc) => some (d (sub - base) (decide (seat = sub - base)))
  if sub = 0x01 then some (stVal 1 0 true true fun v => decide (v ≤ 1))
  else if inRange 0x08 0x0F sub then at' 0x08 fun k m => stVal 1 (s.mc.snap k).accept.toNat m m fun _ => true
  else if inRange 0x10 0x17 sub then at' 0x10 fun k m => stVal 4 (s.mc.snap k).buf.toNat m m fun v =>
    v = 0 || (decide (v % 65536 ≤ 991) && inRange 1 992 (v / 65536) && decide (v % 65536 + v / 65536 ≤ 992))
  -- IMAGE_s is a domain: only SEG_READ reaches it (R487)
  else if inRange 0x18 0x1F sub then some { len := 0 }
  else if inRange 0x20 0x27 sub then at' 0x20 fun k m =>
    let x := s.mc.snap k
    { len := 16, val := leBytes 4 x.seqNo ++ time80 x.lastInstant ++ leBytes 1 x.lastStatus ++ leBytes 1 x.skipped, read := m }
  else if inRange 0x28 0x2F sub then at' 0x28 fun k m => stVal 4 (s.mc.snap k).ktrig.toNat m m (reservedZero 0x7FF00000)
  else if inRange 0x30 0x37 sub then at' 0x30 fun k m => stVal 2 (s.mc.snap k).sample.toNat m m fun v =>
    reservedZero 0x60C0 v && (inRange 6 16 (v / 256 % 32) || v = 0)
  else if inRange 0x40 0x7F sub then
    let k := (sub - 0x40) / 8
    let c := (sub - 0x40) % 8
    let m := decide (seat = k)
    -- CLEAR and OVFCLR read 0
    some (stVal 4 (tget 0 (s.mc.snap k).ctl c).toNat m m (pmcCtlOk c))
  else none

/-- The seats that own a hand of the plot. -/
def Fabric.ownsHand (f : Fabric) (p seat : Nat) : Bool := (List.range 8).any fun h => f.handOwner p h = some seat
/-- The pair of hands of entry k of the difference table (R502). -/
def diffPair (k : Nat) : Nat × Nat :=
  (((List.range 8).flatMap fun a => ((List.range 8).filter fun b => decide (a < b)).map fun b => (a, b))[k]?).getD (0, 1)
def bmWordOk (v : Nat) : Bool := reservedZero 0x78FFE000 v && decide (v % 8 ≤ 6) && decide (v / 8 % 8 ≤ 6) && decide (v / 64 % 4 ≤ 2) && decide (v / 256 % 4 ≤ 2)
def descPlot (s : State) (seat p sub : Nat) : Option Desc :=
  let f := s.fab
  let x := f.plot p
  let dealer := decide (seat = 0)
  let some1 := dealer || f.ownsHand p seat
  let hand := fun (base : Nat) (d : Nat → Bool → Desc) => some (d (sub - base) (f.handOwner p (sub - base) = some seat))
  if inRange 0x08 0x0F sub then some (ownVal seat (f.hand p (sub - 0x08)).own)
  else if inRange 0x10 0x17 sub then hand 0x10 fun h m => roVal 1 (f.hand p h).state.code (dealer || m)
  else if inRange 0x18 0x1F sub then hand 0x18 fun _ m => stVal 1 0 m m fun v => decide (v ≤ 3)
  else if inRange 0x20 0x27 sub then hand 0x20 fun h m => stVal 1 (f.hand p h).hspb.toNat m m fun _ => true
  else if inRange 0x28 0x2F sub then hand 0x28 fun h m => stVal 1 (boolNat (f.hand p h).ess) m m fun v => decide (v ≤ 1)
  else if inRange 0x30 0x37 sub then hand 0x30 fun h m => roVal 4 (f.hand p h).timed m
  else if inRange 0x40 0x5F sub then some (ownVal seat (f.kownAt p (sub - 0x40)))
  else if inRange 0x60 0x7F sub then
    let m := ownerOf (f.kownAt p (sub - 0x60)) = some seat
    some (stVal 8 (f.kwatchAt p (sub - 0x60)).toNat m m fun _ => true)
  else if inRange 0x80 0xBF sub then
    let m := dealer || f.bmOwner p (sub - 0x80) = some seat
    some (stVal 4 (f.bm p (sub - 0x80)).word.toNat m m bmWordOk)
  else if inRange 0xD0 0xD7 sub then some (roVal 4 (f.rotPower s.nv.map.plots (sub - 0xD0) p) (dealer || seat = sub - 0xD0))
  else if inRange 0xD8 0xDF sub then some (roVal 8 (f.rbitsAt p (sub - 0xD8)) (dealer || seat = sub - 0xD8))
  else if inRange 0xE0 0xFB sub then
    let ab := diffPair (sub - 0xE0)
    some (roVal 4 (f.diffAt p ab.1 ab.2) (dealer || (f.handOwner p ab.1 = some seat && f.handOwner p ab.2 = some seat)))
  else match sub with
  | 0x01 => some (stVal 1 x.len some1 dealer (inRange 1 64))
  | 0x02 => some (stVal 1 (boolNat (f.yoked p)) true (dealer && decide (p < 256)) fun v => decide (v ≤ 1))
  | 0x03 => some (stVal 1 x.clksel some1 dealer fun v => decide (v ≤ 1))
  | 0x04 => some (roVal 1 (boolNat (s.plotFallowed p)))
  | 0xC0 => some (ctrVal 4 x.refusedCalls true dealer)
  | 0xC1 => some (ctrVal 4 x.lostCalls true dealer)
  | 0xC2 => some (ctrVal 4 x.kittyRefusals true dealer)
  | 0xC3 => some (ctrVal 4 x.cfgCorrected true dealer)
  | 0xC4 => some (ctrVal 4 x.memportRefusals true dealer)
  | 0xC5 => some (ctrVal 4 x.bmSbe true dealer)
  | 0xC6 => some (ctrVal 4 x.bmDbe true dealer)
  | _ => none

/-- The trap record (R289). -/
def Thread.trapRecord (t : Thread) : List Byte :=
  leBytes 12 (t.trapCause.toNat + t.trapInfo.toNat * 2 ^ 16 + t.trapPc.toNat * 2 ^ 32 + t.trapAddr.toNat * 2 ^ 64)
def descEngine (s : State) (seat p sub : Nat) : Option Desc :=
  let x := s.eng.engine p
  let dealer := decide (seat = 0)
  let thread := fun (base : Nat) (d : Nat → Bool → Desc) => some (d (sub - base) (s.fab.handOwner p (sub - base) = some seat))
  if inRange 0x08 0x0F sub then thread 0x08 fun h m => roVal 1 (s.eng.thread p h).state.code (dealer || m)
  else if inRange 0x10 0x17 sub then
    let ok := fun (l : List Byte) =>
      decide (leField l 0 1 ≤ 3) && decide (leField l 1 3 = 0) && decide (leField l 4 4 ≤ 0x1FFFC) && decide (leField l 4 4 % 4 = 0)
    thread 0x10 fun _ m => { len := 8, val := leBytes 8 0, read := m, stage := m, ok := ok }
  else if inRange 0x18 0x1F sub then thread 0x18 fun h m => { len := 12, val := (s.eng.thread p h).trapRecord, read := m }
  else if inRange 0x20 0x2F sub then some (ownVal seat (tget 0 x.imbOwn (sub - 0x20)))
  else if inRange 0x30 0x3F sub then some (ownVal seat (tget 0 x.ldbOwn (sub - 0x30)))
  else if inRange 0x40 0x47 sub then some (stVal 1 (x.maskOf (sub - 0x40)).toNat (dealer || seat = sub - 0x40) dealer fun v => decide (v ≤ 0xF))
  else if inRange 0x48 0x4F sub then
    some (stVal 1 (boolNat (tget false x.pmcUser (sub - 0x48))) (seat = sub - 0x48) (seat = sub - 0x48) fun v => decide (v ≤ 1))
  else if inRange 0x50 0x57 sub then some (ownVal seat (tget 0 x.pmcOwn (sub - 0x50)))
  else if inRange 0x58 0x5F sub then thread 0x58 fun h m => stVal 1 (boolNat (s.eng.thread p h).ess) m m fun v => decide (v ≤ 1)
  else match sub with
  | 0x60 => some (ctrVal 4 x.memCorr true dealer)
  | 0x61 => some (ctrVal 4 x.lostLines true dealer)
  | _ => none

/-- The region seal word as it reads (R356). -/
def Region.word (g : Region) : Nat :=
  g.own.toNat % 8 * 2 ^ 28 + boolNat (g.own.getLsbD 7) * 2 ^ 31 + boolNat g.isSealed * 2 ^ 27 + boolNat g.dbgOk * 2 ^ 26 + g.mcRight % 4 * 2 ^ 24 +
    g.odmaRight % 4 * 2 ^ 22 + g.rk % 4 * 2 ^ 18 + boolNat g.epoch * 2 ^ 17 + boolNat g.key1.isSome * 2 ^ 16 + boolNat g.key0.isSome * 2 ^ 15 +
    (if g.rk = 2 then g.progress % 32768 else 0)
def sealWordOk (v : Nat) : Bool := reservedZero 0x00100000 v && decide (v / 2 ^ 24 % 4 ≤ 2) && decide (v / 2 ^ 22 % 4 ≤ 2)
def descRiser (s : State) (seat p sub : Nat) : Option Desc :=
  let x := s.stk.riser p
  let m := s.nv.map.riser p
  let dealer := decide (seat = 0)
  let near := dealer || (s.stk.regionOwners p).contains seat
  if inRange 0x10 0x2F sub then
    let mine := dealer || s.stk.regionOwner p (sub - 0x10) = some seat
    some (stVal 4 (s.stk.region p (sub - 0x10)).word mine mine sealWordOk)
  else match sub with
  | 0x01 => some (roVal 1 m.rstate near)
  | 0x02 => some { len := 6, read := near, val := (List.range 6).map fun k => ((m.laneMap.getD k none).map (BitVec.ofNat 8)).getD 0xFF }
  | 0x03 => some (stVal 1 m.tileMap near dealer fun v => decide (v ≤ 2) && !(v = 0 && m.tileMap != 0))
  | 0x40 => some (ctrVal 4 x.corrEvents true dealer)
  | 0x41 => some (ctrVal 4 x.uncorrEvents true dealer)
  | 0x42 => some (ctrVal 4 x.crcEvents true dealer)
  | 0x43 => some (ctrVal 4 x.integrityEvents true dealer)
  | 0x44 => some (ctrVal 4 x.cmdRetries true dealer)
  | 0x45 => some (ctrVal 4 x.retiredHits true dealer)
  | 0x46 => some (ctrVal 4 x.rekeys true dealer)
  | 0x47 => some (ctrVal 4 x.holdTimeouts true dealer)
  | _ => none

/-- The port seal word as it reads (R384). -/
def Links.sealWord (l : Links) (n : Nat) : Nat :=
  let x := l.port n
  boolNat x.sealOn * 2 ^ 31 + x.kchgExp % 64 * 2 ^ 24 + x.txKeyN % 256 * 2 ^ 16 + x.rxKeyN % 256 * 2 ^ 8 + boolNat (l.keyset n)
def descPort (s : State) (seat n sub : Nat) : Option Desc :=
  let x := s.lnk.port n
  let mine := s.lnk.portOwner n = some seat
  if inRange 0x14 0x20 sub then some (ctrVal 4 (tget 0 x.cnt sub) mine mine)
  else match sub with
  | 0x01 => some (stVal 4 x.setup.toNat mine mine fun v => reservedZero 0x1F v && decide (v / 2 ^ 25 % 8 ≤ 5))
  | 0x02 => some (stVal 4 x.eq.toNat mine mine fun v => reservedZero 0x3FF0003F v && decide (v / 2 ^ 15 % 32 ≤ 24) && decide (v / 2 ^ 10 % 32 ≤ 24))
  | 0x03 => some (stVal 4 x.keyx.toNat mine mine (reservedZero 0xF0))
  | 0x04 => some (ownVal seat x.own)
  | 0x05 => some (roVal 1 x.link.code mine)
  | 0x06 => some (stVal 2 x.defq.toNat mine mine fun _ => true)
  | 0x07 => some (stVal 4 (s.lnk.sealWord n) mine mine fun v => reservedZero 0xFE v && inRange 20 48 (v / 2 ^ 24 % 64))
  | 0x08 => some { len := 32, stage := mine }
  | 0x09 => some (stVal 4 (x.txsalt.getD 0).toNat mine mine fun _ => true)
  | 0x0A => some (stVal 4 (x.rxsalt.getD 0).toNat mine mine fun _ => true)
  | 0x10 => some (ctrVal 8 x.pktsRx mine mine)
  | 0x11 => some (ctrVal 8 x.bytesRx mine mine)
  | 0x12 => some (ctrVal 8 x.pktsTx mine mine)
  | 0x13 => some (ctrVal 8 x.bytesTx mine mine)
  | _ => none
def descQuad (s : State) (dealer : Bool) (k sub : Nat) : Option Desc :=
  let x := s.lnk.quad k
  match sub with
  | 0x01 => some (stVal 1 x.family true dealer fun v => decide (v ≤ 7))
  | 0x02 => if k % 4 = 0 then some (stVal 1 x.reffreq true dealer fun v => decide (v ≤ 3)) else none
  | 0x03 => some (roVal 1 x.kat)
  | _ => none
def descBdma (s : State) (seat n sub : Nat) : Option Desc :=
  let x := s.lnk.bdma n
  let mine := ownerOf x.bind = some seat
  match sub with
  | 0x01 => some (ownVal seat x.bind)
  | 0x02 => some (stVal 2 x.port.toNat mine mine fun v => decide (v ≤ 511))
  | 0x03 => some (stVal 2 x.rq.toNat mine mine fun v => decide (v ≤ 41215))
  | 0x04 => some (stVal 2 x.tq.toNat mine mine fun v => decide (v ≤ 41215))
  | 0x05 => some (ctrVal 4 x.requests mine mine)
  | 0x06 => some (ctrVal 4 x.naks mine mine)
  | _ => none
def descBank (s : State) (seat b sub : Nat) : Option Desc :=
  let x := s.fab.bank b
  let mine := ownerOf x.own = some seat
  if inRange 0x10 0x27 sub then some (stVal 1 (bits x.std (4 * (sub - 0x10) + 3) (4 * (sub - 0x10))) mine mine fun v => decide (v ≤ 7))
  else match sub with
  | 0x01 => some (ownVal seat x.own)
  | 0x02 => some (roVal 1 x.nominal)
  | 0x03 => some (roVal 1 (bits s.nv.holdPulls (2 * b + 1) (2 * b)))
  | _ => none

/-! ## The map (R490–R492) -/

/-- Where an index lies. -/
inductive Place where
  | none
  | domain
  | window
  | user
  | object (top : Nat)
deriving DecidableEq, Repr

/-- The kind of an index, with the highest sub-entry number of an object that has sub-entries (R490, R492). -/
def placeOf (i : Nat) : Place :=
  if i = 0x1000 then .object 0x0C
  else if i = 0x1001 then .object 0x03
  else if i = 0x1002 || i = 0x2101 || inRange 0x1F30 0x1F37 i then .domain
  else if inRange 0x1100 0x1107 i then .object 0x05
  else if inRange 0x1F00 0x1F07 i then .object 0x03
  else if inRange 0x1F10 0x1F17 i then .object 0x27
  else if inRange 0x1F20 0x1F27 i then .object 0x08
  else if i = 0x2000 || i = 0x2008 then .object 0x06
  else if i = 0x2010 then .object 0x10
  else if i = 0x2011 then .object 0x04
  else if i = 0x2100 then .object 0x0B
  else if i = 0x2200 then .object 0x04
  else if i = 0x2201 then .object 0x40
  else if i = 0x2202 then .object 0x05
  else if i = 0x2203 then .object 0x09
  else if i = 0x2300 then .object 0x08
  else if i = 0x2301 then .object 0x0E
  else if i = 0x2302 then .object 0x60
  else if i = 0x2400 then .object 0x19
  else if i = 0x2500 then .object 0x03
  else if i = 0x2510 then .object 0x1B
  else if i = 0x2600 then .object 0x18
  else if i = 0x2700 then .object 0x7F
  else if i = 0x2800 then .object 0x02
  else if inRange 0x2810 0x2816 i then .object 0x80
  else if i = 0x2817 then .object 0x60
  else if inRange 0x3000 0x31FF i then .object 0xFB
  else if inRange 0x3200 0x33FF i then .object 0x61
  else if inRange 0x3400 0x35FF i then .object 0x47
  else if inRange 0x4000 0x41FF i then .object 0x20
  else if inRange 0x4200 0x427F i then .object 0x03
  else if inRange 0x4300 0x433F i then .object 0x06
  else if inRange 0x4400 0x441F i then .object 0x27
  else if i = 0x5000 || i = 0x5010 || i = 0x5020 || i = 0x5030 || i = 0x5040 || i = 0x5050 then .window
  else if inRange 0x6000 0x6007 i then .object 0x08
  else if inRange 0x8000 0xBFFF i then .user
  else .none

/-- The object is held on the stack or in B core (R490). -/
def heldK (i : Nat) : Bool :=
  inRange 0x1F30 0x1F37 i || i = 0x2010 || i = 0x2011 || i = 0x2400 || i = 0x2500 || i = 0x2600 || i = 0x2700 || inRange 0x2800 0x5FFF i || inRange 0x8000 0xBFFF i

/-- One sub-entry of an object as a seat meets it; none where the table of the index lists no such sub-entry. -/
def descOf (s : State) (seat i sub : Nat) : Option Desc :=
  let dealer := decide (seat = 0)
  if i = 0x1000 then descIdentity s sub
  else if i = 0x1001 then descComm s seat sub
  else if inRange 0x1100 0x1107 i then descSession (s.seat (i - 0x1100)) (seat = i - 0x1100) sub
  else if inRange 0x1F00 0x1F07 i then descStaging (s.seat (i - 0x1F00)) (seat = i - 0x1F00) sub
  else if inRange 0x1F10 0x1F17 i then descAttention (s.seat (i - 0x1F10)) (seat = i - 0x1F10) sub
  else if inRange 0x1F20 0x1F27 i then descReport (s.seat (i - 0x1F20)).report (seat = i - 0x1F20) sub
  else if i = 0x2000 then descMode s dealer sub
  else if i = 0x2008 then descTime s seat sub
  else if i = 0x2010 then descFpll s dealer sub
  else if i = 0x2011 then descEpll s dealer sub
  else if i = 0x2100 then descLife s dealer sub
  else if i = 0x2200 then descRound s dealer sub
  else if i = 0x2201 then some (roVal 2 (q88 (tget none s.mc.hk.temps (sub - 1))))
  else if i = 0x2202 then some (roVal 1 (tget {} s.mc.hk.railRec (sub - 1)).step)
  else if i = 0x2203 then some { len := 24, val := (tget {} s.mc.hk.wear (sub - 1)).bytes, read := true }
  else if i = 0x2300 then descRails s dealer sub
  else if i = 0x2301 then descMonitor s sub
  else if i = 0x2302 then some (roVal 2 (tget 0 s.mc.hk.phases (sub - 1)))
  else if i = 0x2400 then descSelfTest s seat sub
  else if i = 0x2500 then match sub with
    | 0x01 => some (roVal 4 (if s.stk.log.isEmpty then 0 else (s.stk.logSeq + 4294967295) % 4294967296))
    | 0x02 => some { len := 4, val := leBytes 4 (s.seat seat).cursor, read := true, write := true }
    | 0x03 => some { len := 32, read := true }
    | _ => none
  else if i = 0x2510 then descFallowMap s dealer sub
  else if i = 0x2600 then descSecrets s seat sub
  else if i = 0x2700 then descSnapshot s seat sub
  else if i = 0x2800 then some (ctrVal 4 (if sub = 1 then s.net.scr.corrected else s.net.scr.uncorr) true dealer)
  else if inRange 0x2810 0x2817 i then some (ownVal seat (s.net.scr.ownAt (128 * (i - 0x2810) + sub - 1)))
  else if inRange 0x3000 0x31FF i then descPlot s seat (i - 0x3000) sub
  else if inRange 0x3200 0x33FF i then descEngine s seat (i - 0x3200) sub
  else if inRange 0x3400 0x35FF i then descRiser s seat (i - 0x3400) sub
  else if inRange 0x4000 0x41FF i then descPort s seat (i - 0x4000) sub
  else if inRange 0x4200 0x427F i then descQuad s dealer (i - 0x4200) sub
  else if inRange 0x4300 0x433F i then descBdma s seat (i - 0x4300) sub
  else if inRange 0x4400 0x441F i then descBank s seat (i - 0x4400) sub
  else if inRange 0x6000 0x6007 i then descSeat s seat (i - 0x6000) sub
  else none

end Sys2Proof.Machine
end

