-- ==== Sys2Proof/Machine/Window.lean ====
section
/-! DEFINITION. The table windows and the user objects: entries, rights, ranges and values (R109, R192, R193, R330, R331, R422, R464, R508–R515). -/

namespace Sys2Proof.Machine

/-! ## Entries of the windows (R508) -/

def winSteer : Nat := 0x5000
def winQueue : Nat := 0x5010
def winRetire : Nat := 0x5020
def winRotate : Nat := 0x5030
def winFail : Nat := 0x5040
def winUser : Nat := 0x5050
/-- Bytes of one entry; FIRST of the queue directory names the plane. -/
def entrySize (w first : Nat) : Nat :=
  if w = winSteer then 12 else if w = winQueue then (if first / 65536 % 2 = 1 then 48 else 32) else if w = winFail then 16 else if w = winUser then 8 else 4
/-- Entry e lies in the window. -/
def entryOk (w e : Nat) : Bool :=
  if w = winQueue then decide (e / 131072 = 0) && decide (e % 65536 ≤ 41215) else if w = winRetire || w = winRotate then decide (e < 32768)
  else if w = winFail then decide (e < 4096) else decide (e < 16384)

/-- The plane 1 entry of a queue (R510). -/
def Queue.counters (q : Queue) : List Byte :=
  leBytes 2 (q.level % 32768 + (if q.event then 32768 else 0)) ++ leBytes 6 q.pktsDelivered ++ leBytes 6 q.wordsDelivered ++
    ((List.range 6).flatMap fun k => leBytes 4 (tget 0 q.rw k)) ++ leBytes 4 q.dropped ++ leBytes 4 q.lost ++ leBytes 2 q.crossings
/-- A steering record (R422). -/
def Steer.bytes (e : Steer) : List Byte :=
  leBytes 12 (e.key + e.port * 2 ^ 32 + e.queue * 2 ^ 72 + e.rank * 2 ^ 88 + (if e.needSeal then 2 ^ 91 else 0) + e.owner * 2 ^ 92 + 2 ^ 95)
/-- Valid entries of a seat's own ports, ordered by port and key (R509). -/
def State.mySteer (s : State) (seat : Nat) : List Steer :=
  (s.lnk.steer.filter fun e => s.lnk.portOwner e.port = some seat).mergeSort fun a b => decide (a.port * 2 ^ 32 + a.key ≤ b.port * 2 ^ 32 + b.key)

/-- Device queues whose owner no seat changes (R235, R511). -/
def fixedOwner (q : Nat) : Bool := decide (40960 ≤ q)
/-- The packing queues and the reserved MC queues are read-only (R193, R511). -/
def readOnlyQueue (q : Nat) : Bool := inRange 40960 40975 q || inRange 41112 41215 q
/-- The page of a retirement slot lies in a region that the seat owns. (DEDUCED, log 71) -/
def State.ownsPage (s : State) (p seat : Nat) (w : BitVec 32) : Bool := s.stk.regionOwner p (bits w 12 0 / 256) = some seat

/-- The seat may read entry e. -/
def mayReadEntry (s : State) (seat w e : Nat) : Bool :=
  if w = winQueue then
    let q := s.net.queue (e % 65536)
    if e / 65536 % 2 = 1 then qdOwner q.dir = some seat else seat = 0 || qdOwner q.dir = some seat || inRange 40960 40975 (e % 65536)
  else if w = winRetire then
    let x := s.nv.map.retireSlot (e / 64) (e % 64)
    seat = 0 || !x.getLsbD 31 || s.ownsPage (e / 64) seat x
  else if w = winRotate then seat = 0 || slotOwner (s.fab.slot (e / 64) (e % 64)) = some seat
  else if w = winUser then e / 0x800 = seat
  else true
/-- The bytes of entry e. -/
def entryBytes (s : State) (w e : Nat) : List Byte :=
  if w = winQueue then
    let q := s.net.queue (e % 65536)
    if e / 65536 % 2 = 1 then q.counters else leBytes 32 q.dir.toNat
  else if w = winRetire then leBytes 4 (s.nv.map.retireSlot (e / 64) (e % 64)).toNat
  else if w = winRotate then leBytes 4 (s.fab.slot (e / 64) (e % 64)).toNat
  else if w = winFail then leBytes 16 (s.mc.bist.log.getD e 0).toNat
  else leBytes 8 (s.lnk.umapAt e).toNat

/-! ## Staged entries -/

/-- The item that a staged entry makes: a steering entry is named by its port and key (R509). (DESIGN CHOICE, log 72) -/
def entryItem (w e : Nat) (data : List Byte) : Item :=
  { index := w, sub := 0, win := true, data := data,
    entry := if w = winSteer then leField data 0 4 + 2 ^ 32 * (leField data 4 2 % 512) else e }
/-- The seat may stage the entry (R109, R193, R331, R422, R510–R512). (DEDUCED, log 71) -/
def mayStageEntry (s : State) (seat : Nat) (i : Item) : Bool :=
  let e := i.entry
  if i.index = winSteer then s.lnk.portOwner (e / 2 ^ 32) = some seat
  else if i.index = winQueue then
    let n := e % 65536
    let mine := qdOwner (s.net.queue n).dir = some seat
    !readOnlyQueue n && (mine || (e / 65536 % 2 = 0 && seat = 0 && !fixedOwner n))
  else if i.index = winRetire then
    let old := s.nv.map.retireSlot (e / 64) (e % 64)
    let new := BitVec.ofNat 32 (leNat i.data)
    seat = 0 || ((!old.getLsbD 31 || s.ownsPage (e / 64) seat old) && (!new.getLsbD 31 || s.ownsPage (e / 64) seat new))
  else if i.index = winRotate then seat = 0 || slotOwner (s.fab.slot (e / 64) (e % 64)) = some seat
  else if i.index = winUser then e / 0x800 = seat
  else false
/-- An endpoint word without reserved encodings (R191). -/
def endpointOk (e : Nat) : Bool :=
  let id := epId e
  match epKind e with
  | 0 | 6 => decide (id = 0)
  | 1 => true
  | 2 => decide (id % 32 = 0)
  | 3 | 4 => decide (id < 512)
  | 5 => decide (id < 64)
  | _ => false
/-- A directory entry without reserved bits and encodings (R191, R192). -/
def dirOk (d : BitVec 256) : Bool :=
  decide (bits d 255 252 = 0) && !d.getLsbD 233 && decide (bits d 223 215 = 0) && decide (bits d 179 160 = 0) &&
    (qdCap d = 0 || inRange 2 256 (qdCap d)) && decide (qdWm d ≤ 16384) && endpointOk (qdConsumer d) &&
    (List.range 8).all fun k => endpointOk (qdProducer d k)
/-- The type of a user map entry. -/
def umType (w : BitVec 64) : Nat := bits w 61 58
def umKind (w : BitVec 64) : Nat := bits w 62 62
def umHostw (w : BitVec 64) : Nat := bits w 57 56
def umReaders (w : BitVec 64) : Nat := bits w 55 48
def umCount (w : BitVec 64) : Nat := bits w 47 42 + 1
def umPlot (w : BitVec 64) : Nat := bits w 41 33
def umBase (w : BitVec 64) : Nat := bits w 23 0
/-- The staged entry lies in its range. -/
def entryRangeOk (i : Item) : Bool :=
  let v := leNat i.data
  if i.index = winSteer then decide (v / 2 ^ 41 % 2 ^ 31 = 0)
  else if i.index = winQueue then (if i.entry / 65536 % 2 = 1 then true else dirOk (BitVec.ofNat 256 v))
  else if i.index = winRetire then reservedZero 0x7FFFE000 v
  else if i.index = winRotate then reservedZero 0x0F0F7800 v
  else if i.index = winUser then
    let w : BitVec 64 := BitVec.ofNat 64 v
    decide (umType w ≤ 8) && decide (bits w 32 24 = 0) && (if umKind w = 0 then decide (umBase w < 2048) else decide (umPlot w = 0))
  else false

/-! ## User objects (R512–R515) -/

/-- Bytes of a value by user type code (R450, R512). -/
def typeBytes (t : Nat) : Nat := match t with | 0 | 1 => 1 | 2 | 5 | 7 => 2 | 3 | 6 => 4 | 4 => 8 | _ => 10
/-- Scratchpad bytes of one sub-entry (R513). -/
def typeStride (t : Nat) : Nat := if t = 8 then 16 else typeBytes t
/-- Scratchpad byte address of sub-entry k. -/
def umAddr (w : BitVec 64) (k : Nat) : Nat := umBase w + (k - 1) * typeStride (umType w)
/-- Errors of a request for user index i, sub-entry k, and the map entry that serves it. -/
def userErrs (s : State) (seat i k op : Nat) : List Nat :=
  let e := i - 0x8000
  let w := s.lnk.umapAt e
  let mine := e / 0x800 = seat
  let granted := if mine then (op = 0 || (op = 1 && umHostw w % 2 = 1) || (op = 2 && 2 ≤ umHostw w)) else op = 0 && (umReaders w).testBit seat
  if !mine && !(w.getLsbD 63 && (umReaders w).testBit seat) then [errAccess]
  else if !w.getLsbD 63 then [errNoObject]
  else errsOf [(decide (umCount w < k), errNoSubindex), (!granted, errAccess)]
/-- A value fits the type (R450). -/
def userValueOk (t : Nat) (l : List Byte) : Bool := if t = 0 then decide (leNat l ≤ 1) else if t = 8 then decide (leField l 0 4 ≤ 999999999) else true
/-- Read a user sub-entry: the response and the value. (DESIGN CHOICE, log 62) -/
def userRead (s : State) (i k : Nat) : State × Nat × List Byte :=
  let w := s.lnk.umapAt (i - 0x8000)
  let n := typeBytes (umType w)
  if umKind w = 0 then (s, respOkay, leBytes n (s.fab.kittyReg (umPlot w) (umBase w + k - 1)).toNat)
  else
    let a := umAddr w k
    let owner := (i - 0x8000) / 0x800
    if !s.net.scr.allows (some owner) (a / 16) then (s, respProtected, [])
    else
      let r := scratchFetch s (a / 16) (umType w = 8) (a % 16) n
      (r.1, r.2.resp, r.2.data.take n)
/-- Write a user sub-entry through the engine port or port A. -/
def userWrite (s : State) (i k : Nat) (l : List Byte) : State × Nat :=
  let w := s.lnk.umapAt (i - 0x8000)
  let n := typeBytes (umType w)
  if umKind w = 0 then
    (writeKitty s (umPlot w) (umBase w + k - 1) (BitVec.ofNat 32 (leNat l)) (BitVec.ofNat 4 (2 ^ n - 1)), respOkay)
  else
    let a := umAddr w k
    let owner := (i - 0x8000) / 0x800
    if !s.net.scr.allows (some owner) (a / 16) then (s, respProtected)
    else
      let full := umType w = 8
      let r := scratchAccess s false (a / 16) true full (a % 16) n (if full then l ++ List.replicate 6 0 else l) .alone
      (r.1, r.2.resp)
/-- The scratchpad block or kitty block that a map entry's registers and bytes reach (R513, R515): KIND, plot and block. -/
def umReaches (w : BitVec 64) : List (Nat × Nat × Nat) :=
  ((List.range (umCount w)).map fun k =>
    if umKind w = 0 then (0, umPlot w, (umBase w + k) / 64)
    else (1, 0, (umBase w + k * typeStride (umType w)) / 16384)).eraseDups

/-! ## Errors of the operations (R461–R464, R487, R491) -/

/-- Errors of an operation on an object: 0 READ, 1 WRITE, 2 STAGE, with its data. -/
def objErrs (s : State) (seat i sub op : Nat) (data : List Byte) (long : Bool) : List Nat :=
  -- a K item is staged even while its object is unpowered, and fails its CHECK (R479, R491)
  let kDown := heldK i && !s.kUp && op != 2
  match placeOf i with
  | .none => [errNoObject]
  | .domain | .window => [errAccess]
  | .user =>
    if kDown then [errState]
    else
      let l := userErrs s seat i sub op
      if sub = 0 && !(l.contains errNoObject) && !(userErrs s seat i 0 0).contains errAccess then
        errsOf [(op != 0, errAccess), (long || !data.isEmpty, errTypeLength)]
      else
        let t := umType (s.lnk.umapAt (i - 0x8000))
        l ++ (if l.contains errNoObject then [] else errsOf [
          (long || (if op = 0 then !data.isEmpty else data.length != typeBytes t), errTypeLength),
          (op != 0 && data.length = typeBytes t && !userValueOk t data, errRange)])
  | .object top =>
    if sub = 0 then errsOf [(op != 0, errAccess), (long || !data.isEmpty, errTypeLength)]
    else if top < sub then [errNoSubindex]
    else match descOf s seat i sub with
      | none => [errNoSubindex]
      | some d =>
        let right := if op = 0 then d.read else if op = 1 then d.write else d.stage
        let badLen := long || (if op = 0 then !data.isEmpty else data.length != d.len)
        errsOf [(!right, errAccess), (badLen, errTypeLength), (op != 0 && !badLen && !d.ok data, errRange), (kDown, errState),
          (right && s.underTest i sub none, errBlockInTest)] ++ (if op = 0 || badLen then [] else d.more data)

/-- An operation 0 READ or 1 WRITE of user index i, sub-entry k, that nothing refuses and whose scratchpad block is being filled (R175). -/
def userHeld (s : State) (seat i k op : Nat) (data : List Byte) (long : Bool) : Bool :=
  let w := s.lnk.umapAt (i - 0x8000)
  let a := umAddr w k / 16
  decide (0x8000 ≤ i) && decide (i < 0xC000) && k != 0 && (objErrs s seat i k op data long).isEmpty && umKind w != 0 &&
    s.net.scr.allows (some ((i - 0x8000) / 0x800)) a && s.net.scr.held a

/-- The value in force of an object. -/
def objValue (s : State) (seat i sub : Nat) : List Byte :=
  match placeOf i with
  | .object top => if sub = 0 then [BitVec.ofNat 8 top] else match descOf s seat i sub with | some d => d.val | none => []
  | _ => []

/-- Errors of one staged entry once its window and length are accepted. -/
def entryErrs (s : State) (seat : Nat) (i : Item) : List Nat :=
  let inside := i.index = winSteer || entryOk i.index i.entry
  errsOf [(inside && !mayStageEntry s seat i, errAccess), (!inside || !entryRangeOk i, errRange),
    (s.underTest i.index 0 (some i.entry), errBlockInTest)]
/-- The entries of a WIN_WRITE. -/
def splitEntries (w size : Nat) : (fuel : Nat) → Nat → List Byte → List Item
  | 0, _, _ => []
  | n + 1, e, l => if l.length < size || size = 0 then [] else entryItem w e (l.take size) :: splitEntries w size n (e + 1) (l.drop size)
/-- Errors of a WIN_WRITE, and its entries. -/
def winWriteErrs (s : State) (seat w : Nat) (data : List Byte) (long : Bool) : List Nat × List Item :=
  match placeOf w with
  | .none => ([errNoObject], [])
  | .window =>
    let first := leField data 0 4
    let size := entrySize w first
    let n := data.length - 4
    if w = winFail then ([errAccess], [])
    else if long || data.length ≤ 4 || n % size != 0 then ([errTypeLength], [])
    else
      let l := splitEntries w size 13 first (data.drop 4)
      let beyond := w != winSteer && !(l.all fun i => entryOk w i.entry)
      (l.flatMap (entryErrs s seat) ++ errsOf [(beyond || (w = winSteer && first != 0), errRange)], l)
  | _ => ([errAccess], [])

/-- Errors of a WIN_READ, and its bytes. -/
def winReadErrs (s : State) (seat w : Nat) (data : List Byte) (long : Bool) : List Nat × List Byte :=
  match placeOf w with
  | .none => ([errNoObject], [])
  | .window =>
    let first := leField data 0 4
    let count := leField data 4 1
    let size := entrySize w first
    if w = winFail && seat != 0 then ([errAccess], [])
    else if long || data.length != 5 then ([errTypeLength], [])
    else if count = 0 || 52 / size < count then ([errRange], [])
    else if w = winSteer then
      let l := s.mySteer seat
      (errsOf [(decide (l.length < first + count), errRange), (!s.kUp, errState)], ((l.drop first).take count).flatMap Steer.bytes)
    else
      let es := (List.range count).map fun i => first + i
      let inside := es.all (entryOk w)
      (errsOf [(!(es.all fun e => !entryOk w e || mayReadEntry s seat w e), errAccess), (!inside, errRange), (!s.kUp, errState),
        (es.any fun e => s.underTest w 0 (some e), errBlockInTest)], es.flatMap (entryBytes s w))
  | _ => ([errAccess], [])

/-! ## Staging (R463) -/

/-- DESIGN CHOICE, log 72. -/
def Item.same (a b : Item) : Bool := a.index = b.index && a.sub = b.sub && a.win = b.win && a.entry = b.entry
/-- Put an item into a set: in the place of an earlier item of its object, or at the end. -/
def putItem (l : List Item) (i : Item) : List Item :=
  if l.any (Item.same i) then l.map fun x => if i.same x then i else x else l ++ [i]
/-- Put items into a set; STAGE_FULL when a limit would be exceeded. -/
def putItems (l : List Item) (is : List Item) : Option (List Item) :=
  let n := is.foldl putItem l
  if n.length ≤ 256 && stagedBytes n ≤ 4096 then some n else none

end Sys2Proof.Machine
end

