-- ==== Sys2Proof/Machine/Items.lean ====
section
/-! DEFINITION. What one staged item does when its turn applies: the object that it names takes its value, and every wipe, reset, unbinding and relock that its chapter gives the change (R115, R122, R126, R140, R165, R175, R197–R200, R244–R247, R357, R379, R385, R400, R401, R427, R432, R436, R457, R485, R506, R510, R515, R524, R603, R617, R633). -/

namespace Sys2Proof.Machine

/-! ## Small steps -/

/-- A command that the turn orders and its own row carries out. (DESIGN CHOICE, log 16) -/
def State.order (s : State) (o : Order) : State := s.onMc fun m => { m with orders := m.orders ++ [o] }
def Item.nat (i : Item) : Nat := leNat i.data
def Item.byte (i : Item) : Byte := BitVec.ofNat 8 i.nat
/-- The signed value of 32 bits. -/
def signed32 (v : Nat) : Int := (BitVec.ofNat 32 v).toInt

/-- The end of a session (R457, R459). -/
def SeatRec.endSession (r : SeatRec) : SeatRec :=
  { r with isOpen := false, kreq := 0, krep := 0, last := none, running := none, seg := none
           turn := r.turn.map fun t => { t with req := none } }
/-- Staging set, pending turn and deferred items are discarded (R457, R544, R644). -/
def SeatRec.dropTurns (r : SeatRec) : SeatRec := { r with staged := [], turn := none, deferred := [], running := none }

/-! ## Owners that change what others name (R515, R633) -/

/-- User map entries that reach a block of a kind are invalid (R515). -/
def Links.dropMaps (l : Links) (reach : Nat × Nat × Nat) : Links :=
  l.umap.foldl (fun l e => if e.2.getLsbD 63 && (umReaches e.2).contains reach then l.setUmap e.1 (e.2 &&& 0x7FFFFFFFFFFFFFFF) else l) l
/-- A kitty block changes owner (R140, R515, R633). -/
def changeKitty (s : State) (p b : Nat) (w : Byte) : State :=
  if s.fab.kownAt p b = w then s
  else
    let s := s.onFab fun f => (f.clearKitty p b).setKown p b w
    let s := s.onLnk fun l => l.dropMaps (0, p, b)
    s.onMc fun m => allSeats.foldl (fun m k =>
      let x := m.snap k
      if x.ktrig.getLsbD 31 && bits x.ktrig 19 11 = p && bits x.ktrig 10 0 / 64 = b then m.setSnap k { x with ktrig := x.ktrig &&& 0x7FFFFFFF } else m) m
/-- A scratchpad block changes owner (R175, R515, R633). -/
def changeScratch (s : State) (k : Nat) (w : Byte) : State :=
  if s.net.scr.ownAt k = w then s
  else
    let s := s.onNet fun n => n.onScr fun c => (c.fillBlock k).setOwn k w
    let s := s.onLnk fun l => l.dropMaps (1, 0, k)
    s.onMc fun m => allSeats.foldl (fun m j =>
      let x := m.snap j
      if decide (bits x.buf 15 0 ≤ k) && decide (k < bits x.buf 15 0 + bits x.buf 31 16) then m.setSnap j { x with buf := 0 } else m) m
/-- A hand changes owner, and its thread with it (R126, R244). -/
def changeHand (s : State) (p h : Nat) (w : Byte) : State :=
  if (s.fab.hand p h).own = w then s
  else
    let s := s.onNet fun n => n.stopHand p h
    let s := s.onFab fun f =>
      let f := f.wipeHand s.nv.map.plots p h
      f.setHand p h { f.hand p h with own := w }
    wipeThread s p h (ownerOf w).isSome
/-- A block memory's word changes: any change clears it (R153, R165). -/
def changeBm (s : State) (p k : Nat) (w : BitVec 32) : State :=
  if (s.fab.bm p k).word = w then s else s.onFab fun f => f.setBm p k (Bm.clear { f.bm p k with word := w })
/-- An engine memory block changes owner (R247). -/
def changeImb (s : State) (p k : Nat) (w : Byte) : State :=
  if tget 0 (s.eng.engine p).imbOwn k = w then s
  else (fillEngBlock s p false k).onEng fun e => e.setEngine p { e.engine p with imbOwn := tput 0 (e.engine p).imbOwn k w }
def changeLdb (s : State) (p k : Nat) (w : Byte) : State :=
  if tget 0 (s.eng.engine p).ldbOwn k = w then s
  else (fillEngBlock s p true k).onEng fun e => e.setEngine p { e.engine p with ldbOwn := tput 0 (e.engine p).ldbOwn k w }
/-- A counter changes its assignment (R617). -/
def changePmc (s : State) (p k : Nat) (w : Byte) : State :=
  let x := s.eng.engine p
  if tget 0 x.pmcOwn k = w then s
  else s.onEng fun e => e.setEngine p { x with pmcOwn := tput 0 x.pmcOwn k w, pmc := tput 0 x.pmc k 0, ovf := x.ovf.filter (· ≠ k) }
/-- An I/O bank changes owner: every standard OFF, and its hold state until the new owner's next turn (R506). -/
def changeBank (s : State) (b : Nat) (w : Byte) : State :=
  if (s.fab.bank b).own = w then s else s.onFab fun f => f.setBank b { f.bank b with own := w, std := 0, released := false }
def changePort (s : State) (n : Nat) (w : Byte) : State :=
  if (s.lnk.port n).own = w then s else (portReset s n).onPort n fun x => { x with own := w }
def changeBdma (s : State) (n : Nat) (w : Byte) : State :=
  if (s.lnk.bdma n).bind = w then s else s.onLnk fun l => l.setBdma n ((l.bdma n).rebind w)

/-! ## Rotation (R115, R121, R122) -/

/-- The slots that run in plot q, or in both plots of its column, end at the turn's first edge, slot 0 starts, and accepted calls are discarded; the plots of a column that was a yoke or becomes one count their edges from the later of their two counts. (DEDUCED, log 45) -/
def restartRotation (s : State) (q : Nat) (pair : Bool) : State :=
  s.onFab fun f =>
    let ps := if pair then [q, q + 256] else [q]
    let e := ps.foldl (fun e p => max e (f.edgeOf p)) 0
    ps.foldl (fun f p =>
      let f := f.setPlot p { f.plot p with call := none }
      if f.seqPlot p = p then f.startSlot s.nv.map.plots s.limp p 0 e else f) f
/-- The plot whose LEN or YOKE an item of its record writes. -/
def Item.restarts (i : Item) : Option Nat :=
  if !i.win && inRange 0x3000 0x31FF i.index && (i.sub = 0x01 || i.sub = 0x02) then some (i.index - 0x3000) else none
/-- Columns whose yoke, and plots whose LEN, a turn has changed from the state `b`: their rotations start again. -/
def restarts (b s : State) (items : List Item) : List (Nat × Bool) :=
  ((items.filterMap Item.restarts).eraseDups).filterMap fun p =>
    if s.fab.yoked p != b.fab.yoked p then (if p < 256 then some (p, true) else none)
    else if (s.fab.plot p).len != (b.fab.plot p).len && s.fab.seqPlot p = p then some (p, s.fab.yoked p) else none

/-! ## Queues (R193, R197–R200, R222–R225, R510) -/

/-- Queue q is unbound (R198): a WAIT that names it reports it, and what a port still receives for it is discarded. -/
def unbindQueue (s : State) (q : Nat) : State :=
  let s := (s.showStops fun e _ => e.1 = q).onNet fun n => n.setQueue q (n.queue q).unbind
  let s := s.onEng fun e => { e with threads := e.threads.map fun x => match x.2.waitRec with
    | some r => if r.mask % 8 != 0 && bits r.queue 15 0 = q then (x.1, { x.2 with waitRec := some { r with unbound := true } }) else x
    | none => x }
  s.onLnk fun l => { l with ports := l.ports.map fun x => match x.2.rx with
    | some r => if r.queue = q then (x.1, { x.2 with rx := some { r with dead := true } }) else x
    | none => x }
/-- The entry that a staged word leaves: OWNED and OWNER from the dealer, the rest from the owner, PACK as it was (R192, R193). -/
def dirAfter (old new : BitVec 256) (seat q : Nat) : BitVec 256 :=
  let mine := qdOwner old = some seat
  let top := if seat = 0 && !fixedOwner q then new else old
  let rest := if mine then new else old
  setBits (setBits rest 251 248 (bits top 251 248)) 246 246 (bits old 246 246)
/-- A change of an enabled queue that binds it afresh (R199). -/
def rebinds (old new : BitVec 256) : Bool := setBits old 214 200 0 != setBits new 214 200 0
def changeQueue (s : State) (q : Nat) (d : BitVec 256) : State :=
  let x := s.net.queue q
  let own := fun (d : BitVec 256) => bits d 251 248
  if own x.dir != own d then
    let s := unbindQueue s q
    s.onNet fun n => n.setQueue q { dir := BitVec.ofNat 256 (own d * 2 ^ 248 + bits x.dir 246 246 * 2 ^ 246) }
  else
    let s := if qdEnable x.dir && (!qdEnable d || rebinds x.dir d) then unbindQueue s q else s
    s.onNet fun n => n.setQueue q { n.queue q with dir := d }
/-- A staged counter entry: every field given as 0 is cleared (R510). -/
def Queue.clearCounters (x : Queue) (l : List Byte) : Queue :=
  let z := fun (lo n : Nat) => decide (leField l lo n = 0)
  { x with
    event := if z 0 2 || leField l 0 2 < 32768 then false else x.event
    pktsDelivered := if z 2 6 then 0 else x.pktsDelivered
    wordsDelivered := if z 8 6 then 0 else x.wordsDelivered
    rw := (List.range 6).foldl (fun r k => if z (14 + 4 * k) 4 then tput 0 r k 0 else r) x.rw
    dropped := if z 38 4 then 0 else x.dropped
    lost := if z 42 4 then 0 else x.lost
    crossings := if z 46 2 then 0 else x.crossings }

/-! ## The steering table (R425–R427, R509) -/

def stashBase : Nat := 131072
/-- Slots in which an entry may stand. -/
def placesOf (seed : BitVec 64) (port key : Nat) : List Nat := steerSlots seed port key ++ (List.range 256).map (stashBase + ·)
/-- Extend every path of a level by the other places of the entry that holds its first slot; a path to a free slot ends the search. Paths hold the slots from the last reached back to the new entry's. -/
def steerSearch (l : Links) : (moves : Nat) → List (List Nat) → List Nat → Option (List Nat)
  | 0, paths, _ => paths.find? fun p => match p with | k :: _ => !(l.steer.any fun e => e.slot == k) | [] => false
  | n + 1, paths, seen =>
    match paths.find? fun p => match p with | k :: _ => !(l.steer.any fun e => e.slot == k) | [] => false with
    | some p => some p
    | none =>
      let r := paths.foldl (fun acc p =>
        match p with
        | [] => acc
        | k :: _ => match l.steer.find? fun e => e.slot == k with
          | none => acc
          | some e => (placesOf l.steerSeed e.port e.key).foldl (fun acc j =>
              if acc.2.contains j then acc else (acc.1 ++ [j :: p], j :: acc.2)) acc) (([] : List (List Nat)), seen)
      if r.1.isEmpty then none else steerSearch l n r.1 r.2
/-- Move the entries along a path, the last first. -/
def moveAlong (t : List Steer) : List Nat → List Steer
  | a :: b :: rest => moveAlong (t.map fun e => if e.slot = b then { e with slot := a } else e) (b :: rest)
  | _ => t
/-- The table with an entry added or replaced; none when no placement with at most 64 moves exists. -/
def Links.place (l : Links) (e : Steer) : Option Links :=
  match l.lookup e.port e.key with
  | some old => some { l with steer := l.steer.map fun x => if x.port = e.port && x.key = e.key then { e with slot := old.slot } else x }
  | none =>
    let first := placesOf l.steerSeed e.port e.key
    match steerSearch l 64 (first.map fun k => [k]) first with
    | none => none
    | some path => some { l with steer := moveAlong l.steer path ++ [{ e with slot := path.getLast?.getD 0 }] }
/-- The entry that a staged record spells. -/
def steerOf (seat : Nat) (v : Nat) : Steer :=
  { port := v / 2 ^ 32 % 512, key := v % 2 ^ 32, owner := seat, needSeal := (v / 2 ^ 91) % 2 = 1, rank := v / 2 ^ 88 % 8, queue := v / 2 ^ 72 % 65536, slot := 0 }
/-- Place, or with VALID 0 remove, a staged record; a record without a place changes nothing (its CHECK has failed). (DESIGN CHOICE, log 72) -/
def applySteer (s : State) (seat v : Nat) : State :=
  let e := steerOf seat v
  if v / 2 ^ 95 % 2 = 0 then s.onLnk fun l => { l with steer := l.steer.filter fun x => !(x.port = e.port && x.key = e.key) }
  else s.onLnk fun l => (l.place e).getD l

/-! ## Clocks and rails (R90, R91, R524, R603) -/

/-- The voltage in mV that the highest of a die's fabric frequencies asks for (R603). -/
def Fabric.railMv (f : Fabric) (die : Nat) : Nat :=
  let top := ((List.range 4).map fun k => max (f.fpll (4 * die + k)).fa (f.fpll (4 * die + k)).fb).foldl max 0
  if top ≤ 400000 then 700 else if top ≤ 650000 then 780 else 850
/-- A fabric PLL takes new settings: a running PLL relocks (R524), and the die's rail follows (R603). A new group number relocks it even where it neither joins the PLL to another nor separates it from one, which the spec leaves open (R91). (DESIGN CHOICE, log 97) -/
def changeFpll (s : State) (k : Nat) (v : Fpll) : State :=
  let old := s.fab.fpll k
  let moved := old.fa != v.fa || old.fb != v.fb || old.group != v.group
  let s := s.onFab fun f => f.setFpll k { v with locked := v.locked && !moved }
  s.onHk fun h => (List.range 2).foldl (fun h d =>
    let r := h.rail d
    if r.state = 0 then h else h.setRail d { r with setMv := s.fab.railMv d }) h

/-! ## Items by object -/

def applyMode (s : State) (sub v : Nat) : State :=
  match sub with
  | 0x02 => s.order (.request v)
  | 0x03 => if v = 1 then s.order .rise else s
  | 0x04 => if v = 1 then s.order .restart else s
  | 0x05 => if v = 0 then s else s.order (.dieReset (v - 1))
  | _ => s
def applyTime (s : State) (sub : Nat) (i : Item) : State :=
  match sub with
  | 0x02 => s.onAon fun a => { a with timeOwner := i.nat }
  | 0x03 => s.order (.step (ofTime80 i.data))
  | 0x04 => s.order (.offset (signed32 i.nat))
  | 0x05 => s.onAon fun a => { a with freqAdj := BitVec.ofNat 32 i.nat }
  | _ => s
def applyFpll (s : State) (sub : Nat) (i : Item) : State :=
  if sub ≤ 8 then changeFpll s (sub - 1) { s.fab.fpll (sub - 1) with fa := leField i.data 0 4, fb := leField i.data 4 4 }
  else changeFpll s (sub - 9) { s.fab.fpll (sub - 9) with group := i.nat }
def applyEpll (s : State) (sub v : Nat) : State :=
  let l := s.eng.epll (sub - 1)
  s.onEng fun e => e.setEpll (sub - 1) { l with khz := v, locked := l.locked && decide (l.khz = v) }
def applySelfTest (s : State) (sub v : Nat) : State :=
  let put := fun (g : Bist → Bist) => s.onMc fun m => { m with bist := g m.bist }
  if inRange 0x10 0x17 sub then put fun b => { b with qgrant := tput 0 b.qgrant (sub - 0x10) (BitVec.ofNat 32 v) }
  else match sub with
  | 0x01 => put fun b => { b with target := BitVec.ofNat 32 v }
  | 0x02 => put fun b => { b with alg := BitVec.ofNat 8 v }
  | 0x03 => put fun b => { b with bclk := v }
  | 0x04 => if v = 1 then s.order .testStart else s
  | 0x05 => if v = 1 then s.order .testAbort else s
  | 0x18 => s.order (.reclaim v)
  | _ => s
/-- A whole die goes to M4: every riser of the die that is not down starts its copy (R341). -/
def startDieMap (s : State) (d : Nat) : State :=
  let plots := (List.range 256).map fun c => c + 256 * (d / 2)
  s.onStk fun k => plots.foldl (fun k p =>
    if (s.nv.map.riser p).rstate = 3 then k else k.setRiser p { k.riser p with copy := some (d % 2 + 1, 0, true) }) { k with dieMapping := some d }
def applyFallowMap (s : State) (sub v : Nat) : State :=
  match sub with
  | 0x11 => if v = 0 then s else startDieMap s (v - 1)
  | 0x1A => s.onStk fun k => { k with retireThresh := v }
  | 0x1B => s.onStk fun k => { k with patrolH := v }
  | _ => s
def applySnapshot (s : State) (seat sub v : Nat) : State :=
  let put := fun (k : Nat) (g : Snap → Snap) => s.onMc fun m => m.setSnap k (g (m.snap k))
  if sub = 0x01 then (if v = 1 then s.order (.snap seat) else s)
  else if inRange 0x08 0x0F sub then put (sub - 0x08) fun x => { x with accept := BitVec.ofNat 8 v }
  else if inRange 0x10 0x17 sub then put (sub - 0x10) fun x => { x with buf := BitVec.ofNat 32 v }
  else if inRange 0x28 0x2F sub then put (sub - 0x28) fun x => { x with ktrig := BitVec.ofNat 32 v }
  else if inRange 0x30 0x37 sub then put (sub - 0x30) fun x => { x with sample := BitVec.ofNat 16 v }
  else if inRange 0x40 0x7F sub then
    let j := (sub - 0x40) / 8
    let k := (sub - 0x40) % 8
    -- CLEAR [30] and OVFCLR [28] act once and read 0
    let s := s.onMc fun m => m.setSnap j { m.snap j with ctl := tput 0 (m.snap j).ctl k (BitVec.ofNat 32 v &&& 0xAFFFFFFF) }
    let s := if v.testBit 30 then s.order (.pmcClear j k) else s
    if v.testBit 28 then s.order (.pmcOvfClr j k) else s
  else s
def applyPlot (b s : State) (seat p sub : Nat) (i : Item) : State :=
  let v := i.nat
  let hand := fun (h : Nat) (g : Hand → Hand) => s.onFab fun f => f.setHand p h (g (f.hand p h))
  if inRange 0x08 0x0F sub then changeHand s p (sub - 0x08) i.byte
  else if inRange 0x18 0x1F sub then (if v = 0 then s else s.order (.hand p (sub - 0x18) v))
  else if inRange 0x20 0x27 sub then hand (sub - 0x20) fun x => { x with hspb := i.byte }
  else if inRange 0x28 0x2F sub then hand (sub - 0x28) fun x => { x with ess := v = 1 }
  else if inRange 0x40 0x5F sub then changeKitty s p (sub - 0x40) i.byte
  else if inRange 0x60 0x7F sub then s.onFab fun f => f.setKwatch p (sub - 0x60) (BitVec.ofNat 64 v)
  else if inRange 0x80 0xBF sub then
    let k := sub - 0x80
    let old := (s.fab.bm p k).word
    let w : BitVec 32 := BitVec.ofNat 32 v
    let w := setBits w 31 24 (if seat = 0 then bits w 31 24 else bits old 31 24)
    changeBm s p k (if b.fab.bmOwner p k = some seat then w else setBits w 23 0 (bits old 23 0))
  else match sub with
  | 0x01 => s.onFab fun f => f.setPlot p { f.plot p with len := v }
  | 0x02 => s.onFab fun f => f.setPlot p { f.plot p with yoke := decide (v = 1) }
  | 0x03 => s.onFab fun f => f.setPlot p { f.plot p with clksel := v }
  | _ => s
def applyEngine (s : State) (p sub : Nat) (i : Item) : State :=
  let v := i.nat
  let eng := fun (g : Engine → Engine) => s.onEng fun e => e.setEngine p (g (e.engine p))
  if inRange 0x10 0x17 sub then
    let cmd := leField i.data 0 1
    if cmd = 0 then s else s.order (.thread p (sub - 0x10) cmd (leField i.data 4 4))
  else if inRange 0x20 0x2F sub then changeImb s p (sub - 0x20) i.byte
  else if inRange 0x30 0x3F sub then changeLdb s p (sub - 0x30) i.byte
  else if inRange 0x40 0x47 sub then eng fun x => { x with wayMask := tput 0xF x.wayMask (sub - 0x40) i.byte }
  else if inRange 0x48 0x4F sub then eng fun x => { x with pmcUser := tput false x.pmcUser (sub - 0x48) (v = 1) }
  else if inRange 0x50 0x57 sub then changePmc s p (sub - 0x50) i.byte
  else if inRange 0x58 0x5F sub then s.onEng fun e => e.setThread p (sub - 0x58) { e.thread p (sub - 0x58) with ess := v = 1 }
  else s
/-- The region seal word (R356, R357): OWNED and OWNER from the dealer, SEALED from dealer or owner, the rest from the owner; a change of the first three wipes the region, and a change of the owner drops its cached lines (R255). -/
def applySealWord (b s : State) (seat p r v : Nat) : State :=
  let g := s.stk.region p r
  let mine := b.stk.regionOwner p r = some seat
  let own : Byte := if seat = 0 then BitVec.ofNat 8 (v / 2 ^ 31 % 2 * 128 + v / 2 ^ 28 % 8) else g.own
  let sealed' := v.testBit 27
  let changes := own != g.own || sealed' != g.isSealed
  -- the write-combining entries of the region are written as it was (R369)
  let s := if changes then flushWhere s p fun a => lineRegion a == r else s
  let s := s.onStk fun k =>
    let g := k.region p r
    let g := if mine then { g with dbgOk := v.testBit 26, mcRight := v / 2 ^ 24 % 4, odmaRight := v / 2 ^ 22 % 4 } else g
    k.setRegion p r { g with own := own, isSealed := sealed' }
  let s := if own != g.own then dropCached s p r else s
  let s := if changes then wipeRegion s p r else s
  if mine && v.testBit 21 then s.order (.rekey p r) else s
def applyRiser (b s : State) (seat p sub v : Nat) : State :=
  if inRange 0x10 0x2F sub then applySealWord b s seat p (sub - 0x10) v
  else if sub = 0x03 && v != 0 then s.onStk fun k => k.setRiser p { k.riser p with copy := some (v, 0, false) }
  else s
def applyPort (s : State) (n sub : Nat) (i : Item) : State :=
  let v := i.nat
  let put := fun (g : Port → Port) => s.onPort n g
  match sub with
  | 0x01 =>
    let old := (s.lnk.port n).setup
    let s := put fun x => { x with setup := BitVec.ofNat 32 v, loop := if v.testBit 16 then x.loop else [] }
    -- RATE, PCS and RAWW: the line is acquired again
    applyPower s n (bits old 31 23 != v / 2 ^ 23 % 2 ^ 9)
  | 0x02 => put fun x => { x with eq := BitVec.ofNat 32 v }
  | 0x03 => put fun x => { x with keyx := BitVec.ofNat 32 v }
  | 0x04 => changePort s n i.byte
  | 0x06 => put fun x => { x with defq := BitVec.ofNat 16 v }
  | 0x07 =>
    let on := v.testBit 31
    -- a packet on the line when SEAL changes is in no seal frame that could be accepted (R391)
    let s := if on != (s.lnk.port n).sealOn then rxStop (s.onPort n fun x => { x with frame := none }) n 3 else s
    let s := s.onPort n fun x =>
      let x := if x.sealOn && !on then x.clearKeys else x
      { x with sealOn := on, kchgExp := v / 2 ^ 24 % 64 }
    if v.testBit 30 then s.order (.keyChange n) else s
  -- a key is a byte string, byte 0 in the most significant bits
  | 0x08 => put fun x => Port.restartSeal { x with lk0 := some (BitVec.ofNat 256 (leNat i.data.reverse)) }
  | 0x09 => put fun x => Port.restartSeal { x with txsalt := some (BitVec.ofNat 32 v) }
  | 0x0A => put fun x => Port.restartSeal { x with rxsalt := some (BitVec.ofNat 32 v) }
  | _ => s
def applyQuad (s : State) (k sub v : Nat) : State :=
  match sub with
  | 0x01 =>
    let s := s.onLnk fun l => l.setQuad k { l.quad k with family := v, pllLocked := (l.quad k).pllLocked && decide ((l.quad k).family = v) }
    (List.range 4).foldl (fun s i => applyPower s (4 * k + i) false) s
  | 0x02 => s.onLnk fun l => l.setQuad k { l.quad k with reffreq := v }
  | _ => s
def applyBdma (s : State) (n sub : Nat) (i : Item) : State :=
  let put := fun (g : Bdma → Bdma) => s.onLnk fun l => l.setBdma n (g (l.bdma n))
  match sub with
  | 0x01 => changeBdma s n i.byte
  | 0x02 => put fun x => { x with port := BitVec.ofNat 16 i.nat }
  | 0x03 => put fun x => { x with rq := BitVec.ofNat 16 i.nat }
  | 0x04 => put fun x => { x with tq := BitVec.ofNat 16 i.nat }
  | _ => s
def applyBank (s : State) (b sub : Nat) (i : Item) : State :=
  if sub = 0x01 then changeBank s b i.byte
  else if inRange 0x10 0x27 sub then
    let k := sub - 0x10
    s.onFab fun f => f.setBank b { f.bank b with std := setBits (f.bank b).std (4 * k + 3) (4 * k) i.nat }
  else s
/-- A changed credential ends the seat's session and discards its staging set and turn (R457). (DEDUCED, log 74) -/
def changeCred (s : State) (k : Nat) (g : SeatRec → SeatRec) : State :=
  s.onSeat k fun r =>
    let r' := g r
    if r'.credX = r.credX && r'.credY = r.credY then r else r'.endSession.dropTurns
def applySeat (s : State) (k sub : Nat) (i : Item) : State :=
  let v := i.nat
  let big := BitVec.ofNat 384 (leNat i.data.reverse)
  match sub with
  | 0x01 => changeCred s k fun r => { r with credX := big }
  | 0x02 => changeCred s k fun r => { r with credY := big }
  | 0x03 => s.onSeat k fun r => { r with powerMw := v }
  | 0x04 => s.onSeat k fun r => { r with rotpowMw := v }
  | 0x05 => s.onSeat k fun r => { r with steerQuota := v }
  | 0x07 => s.onSeat k fun r => { r with odma := i.byte }
  | 0x08 => s.onSeat k fun r => { r with bulkbuf := BitVec.ofNat 16 v }
  | _ => s
/-- The slot word that a staged word leaves (R109): OWNED and OWNER from the dealer only. -/
def slotAfter (old : BitVec 32) (seat v : Nat) : BitVec 32 :=
  let w : BitVec 32 := BitVec.ofNat 32 v
  if seat = 0 then w else setBits w 31 28 (bits old 31 28)
def applyWindow (s : State) (seat : Nat) (i : Item) : State :=
  let e := i.entry
  if i.index = winSteer then applySteer s seat i.nat
  else if i.index = winQueue then
    let q := e % 65536
    if e / 65536 % 2 = 1 then s.onNet fun n => n.setQueue q ((n.queue q).clearCounters i.data)
    else changeQueue s q (dirAfter (s.net.queue q).dir (BitVec.ofNat 256 i.nat) seat q)
  else if i.index = winRetire then
    -- the write-combining entries of a page that is retired are written first (R369)
    let s := if i.nat.testBit 31 then flushWhere s (e / 64) fun a => linePage a == i.nat % 8192 else s
    s.onMap fun m => { m with retire := tput 0 m.retire e (BitVec.ofNat 32 i.nat) }
  else if i.index = winRotate then
    s.onFab fun f => f.setSlot (e / 64) (e % 64) (slotAfter (f.slot (e / 64) (e % 64)) seat i.nat)
  else if i.index = winUser then s.onLnk fun l => l.setUmap e (BitVec.ofNat 64 i.nat)
  else s

/-- One item of a seat's turn applies; `b` is the state before the turn, against which its rights stand. (DESIGN CHOICE, log 16) -/
def applyItem (b : State) (seat : Nat) (s : State) (i : Item) : State :=
  let x := i.index
  let sub := i.sub
  if i.win then applyWindow s seat i
  else if x = 0x2000 then applyMode s sub i.nat
  else if x = 0x2008 then applyTime s sub i
  else if x = 0x2010 then applyFpll s sub i
  else if x = 0x2011 then applyEpll s sub i.nat
  else if x = 0x2200 then
    (if sub = 1 then s.onHk fun h => { h with period := i.nat } else if sub = 3 then s.onHk fun h => { h with horizon := i.nat } else s)
  else if x = 0x2400 then applySelfTest s sub i.nat
  else if x = 0x2510 then applyFallowMap s sub i.nat
  else if x = 0x2700 then applySnapshot s seat sub i.nat
  else if inRange 0x2810 0x2817 x then changeScratch s (128 * (x - 0x2810) + sub - 1) i.byte
  else if inRange 0x3000 0x31FF x then applyPlot b s seat (x - 0x3000) sub i
  else if inRange 0x3200 0x33FF x then applyEngine s (x - 0x3200) sub i
  else if inRange 0x3400 0x35FF x then applyRiser b s seat (x - 0x3400) sub i.nat
  else if inRange 0x4000 0x41FF x then applyPort s (x - 0x4000) sub i
  else if inRange 0x4200 0x427F x then applyQuad s (x - 0x4200) sub i.nat
  else if inRange 0x4300 0x433F x then applyBdma s (x - 0x4300) sub i
  else if inRange 0x4400 0x441F x then applyBank s (x - 0x4400) sub i
  else if inRange 0x6000 0x6007 x then applySeat s (x - 0x6000) sub i
  else if inRange 0x8000 0xBFFF x then (userWrite s x sub i.data).1
  else s

/-- The item changes the owner of what it names, so that its wipes and resets come after the values of the turn's other items. -/
def ownerItem (b : State) (i : Item) : Bool :=
  let x := i.index
  let sub := i.sub
  let byte := fun (w : Byte) => i.byte != w
  if i.win then i.index = winQueue && i.entry / 65536 % 2 = 0 && bits (b.net.queue (i.entry % 65536)).dir 251 248 != i.nat / 2 ^ 248 % 16
  else if inRange 0x2810 0x2817 x then byte (b.net.scr.ownAt (128 * (x - 0x2810) + sub - 1))
  else if inRange 0x3000 0x31FF x then inRange 0x08 0x0F sub || inRange 0x40 0x5F sub
  else if inRange 0x3200 0x33FF x then inRange 0x20 0x3F sub || inRange 0x50 0x57 sub
  else if inRange 0x4000 0x41FF x then sub = 0x04
  else if inRange 0x4300 0x433F x then sub = 0x01
  else if inRange 0x4400 0x441F x then sub = 0x01
  else inRange 0x6000 0x6007 x && (sub = 0x01 || sub = 0x02)

/-- Deferred items replace staged-over items of the same object (R571). -/
def mergeItems (old new : List Item) : List Item := new.foldl putItem old

/-- The plot whose slot word an item changes. -/
def Item.rotates (i : Item) : Option Nat := if i.win && i.index = winRotate then some (i.entry / 64) else none
/-- All items of a turn apply as one (R485): first the retirement slots, so that no wipe of the turn reaches a page that it retires (R332); then the other items that change no owner, in the order of staging; then the rest, so that a value never outlives the reset that its resource's new owner finds. Rotations whose LEN or yoke has changed start again with the turn's slot words, and each plot's clock is gated or not as the turn as a whole leaves it (R94, R115, R122). -/
def applyItems (b : State) (seat : Nat) (items : List Item) : State :=
  let retires := fun (i : Item) => i.win && i.index = winRetire
  -- the slots that the turn ends have had their edges with the values before it
  let s := ((items.filterMap Item.restarts).eraseDups).foldl State.passSome b
  let s := (items.filter retires).foldl (applyItem b seat) s
  let s := (items.filter fun i => !retires i && !ownerItem b i).foldl (applyItem b seat) s
  let s := (items.filter fun i => !retires i && ownerItem b i).foldl (applyItem b seat) s
  let s := (restarts b s items).foldl (fun s r => restartRotation s r.1 r.2) s
  s.onFab fun f => ((f.plots.map (·.1) ++ items.filterMap Item.rotates).eraseDups).foldl (fun f p => f.regate s.nv.map.plots s.limp p) f

end Sys2Proof.Machine
end

