-- ==== Sys2Proof/Machine/Check.lean ====
section
/-! DEFINITION. The CHECK of a set of staged items: every rule that a chapter states for a CHECK, and the first failing item with its reason and detail (R478–R480). -/

namespace Sys2Proof.Machine

/-! ## V segments and the yoke (R71–R75) -/

/-- A hand whose configuration counts for the checks: SOWN, LIVE, PARKED or FROZEN (R74, R93). -/
def HState.configured : HState → Bool
  | .sown | .live | .parked | .frozen => true
  | .empty | .sowing | .fallowed => false
/-- The hand uses some V segment (R71). -/
def Fabric.usesV (f : Fabric) (p h : Nat) : Bool :=
  let c := f.storeOf p h
  (List.range 256).any fun b => (List.range 32).any fun t => vUses c b t
/-- The first V segment, by bed and track, that both hands of a slot would drive (R72, R75). -/
def Fabric.vClash (f : Fabric) (c hc hy : Nat) : Option Nat :=
  let a := f.storeOf c hc
  let b := f.storeOf (c + 256) hy
  (List.range 8192).find? fun w => vDrives a (w / 32) (w % 32) && vDrives b (w / 32) (w % 32)
/-- The two hands of every owned slot of the table of plot c, whatever LEN is (R72, R73). -/
def Fabric.yokePairs (f : Fabric) (c : Nat) : List (Option Nat × Option Nat) :=
  ((List.range 64).filter fun k => (slotOwner (f.slot c k)).isSome).map fun k => (namedHand false (f.slot c k), namedHand true (f.slot c k))
/-- The pairs of hands in which a yoked table names hand h of plot p. -/
def Fabric.pairsWith (f : Fabric) (p h : Nat) : List (Option Nat × Option Nat) :=
  (f.yokePairs (columnOf p)).filter fun x => (if p < 256 then x.1 else x.2) = some h
/-- The first V segment, by bed and track, that hand h of a yoked plot and a hand beside it in some owned slot would both drive (R72, R75). -/
def Fabric.vFirst (f : Fabric) (p h : Nat) : Option Nat :=
  match (f.pairsWith p h).filterMap fun x => match x with | (some a, some b) => f.vClash (columnOf p) a b | _ => none with
  | [] => none
  | w :: rest => some (rest.foldl min w)
/-- Hand h uses a V segment where it may not: in a plot that is not yoked, or beside a hand of another seat (R71, R73). -/
def Fabric.vForeign (f : Fabric) (p h : Nat) : Bool :=
  let c := columnOf p
  let other := fun (x : Option Nat × Option Nat) => match x with
    | (some a, some b) => f.handOwner c a != f.handOwner (c + 256) b
    | _ => false
  (!f.yoked p || (f.pairsWith p h).any other) && f.usesV p h
/-- The detail word of a V segment w that both hands of a slot would drive (R75). -/
def vWord (p h w : Nat) : Nat := contentionWord p h 2 (w / 512) (w / 32 % 16) (w % 32) 2
/-- The rules of R71–R73 for one hand: the reason and the detail word of the first that it breaks. (DEDUCED, log 46) -/
def Fabric.vFail (f : Fabric) (p h : Nat) : Option (Nat × Nat) :=
  match if f.yoked p then f.vFirst p h else none with
  | some w => some (whyContention, vWord p h w)
  | none => if f.vForeign p h then some (whyYoke, 0) else none
/-- The rules of R71–R73 for every configured hand of a pair (R74): the plots in ascending order, and in a plot the first offending wire over all its hands (R75). (DEDUCED, log 46) -/
def Fabric.yokeFail (f : Fabric) (c : Nat) : Option (Nat × Nat) :=
  [c, c + 256].findSome? fun p =>
    let hs := (List.range 8).filter fun h => (f.hand p h).state.configured
    let clash := hs.filterMap fun h => if f.yoked p then (f.vFirst p h).map fun w => (w, h) else none
    match clash with
    | x :: rest =>
      let x := rest.foldl (fun a b => if b.1 < a.1 then b else a) x
      some (whyContention, vWord p x.2 x.1)
    | [] => if hs.any (f.vForeign p) then some (whyYoke, 0) else none

/-! ## Clocks (R91–R93, R401, R402) -/

/-- Members of one clock group have the same frequencies (R91). -/
def Fabric.groupsAgree (f : Fabric) : Bool :=
  (List.range 8).all fun j => (List.range 8).all fun k =>
    (f.fpll j).group != (f.fpll k).group || ((f.fpll j).fa = (f.fpll k).fa && (f.fpll j).fb = (f.fpll k).fb)
/-- Two plots take the same output of PLLs of one group (R86, R92). -/
def Fabric.sameClock (f : Fabric) (p q : Nat) : Bool :=
  (f.plot p).clksel = (f.plot q).clksel && (f.fpll (fpllOf p)).group = (f.fpll (fpllOf q)).group
/-- A configured hand of the plot would run above its timed frequency (R93). -/
def Fabric.tooFast (f : Fabric) (p : Nat) : Bool :=
  (List.range 8).any fun h => (f.hand p h).state.configured && decide ((f.hand p h).timed < f.clockKhz p)
/-- Plots of a fabric PLL. -/
def plotsOf (k : Nat) : List Nat := (List.range 512).filter fun p => fpllOf p = k
/-- Line rates in Mbit/s × 10,000 by RATE (R405). -/
def rateOf (r : Nat) : Nat :=
  [0, 12500000, 25000000, 31250000, 50000000, 62500000, 80000000, 103125000, 125000000, 160000000, 257812500, 281250000, 320000000, 531250000, 562500000, 640000000].getD r 0
/-- RATE codes of a family (R401). -/
def familyRates (k : Nat) : List Nat :=
  match k with | 1 => [4, 2, 1] | 2 => [8, 5, 3] | 3 => [12, 9, 6, 15] | 4 => [7] | 5 => [10] | 6 => [11, 14] | 7 => [13] | _ => []
/-- The family works from a declared reference frequency (R402). -/
def refFits (family ref : Nat) : Bool :=
  match family with
  | 0 => true | 1 | 2 => decide (ref ≤ 2) | 3 => decide (ref ≤ 1) | 4 => inRange 1 3 ref | 5 => inRange 2 3 ref | 6 => inRange 1 2 ref | 7 => ref = 2
  | _ => false
/-- The coding sublayer allows the rate (R406). -/
def pcsAllows (pcs rate raww : Nat) : Bool :=
  match pcs with
  | 0 => decide (rateOf rate ≤ 10000000 * [32, 40, 64, 80].getD raww 32)
  | 1 => inRange 1 5 rate
  | 2 => [7, 10, 11].contains rate | 3 => [6, 9, 12].contains rate | 4 => [10, 11].contains rate | 5 => inRange 13 15 rate
  | _ => false
/-- The port's rate is one of its quad's family, or OFF (R401). -/
def Links.rateFits (l : Links) (n : Nat) : Bool := (l.port n).rate = 0 || (familyRates (l.quad (n / 4)).family).contains (l.port n).rate

/-! ## Supply sums and budgets (R418, R606, R607) -/

/-- Budget current of a port on VDDA_LINK and VDDH_LINK in units of 0.1 mA (R418). -/
def Port.current (x : Port) : Nat × Nat :=
  let r := x.rate
  match x.pstate with
  | 0 => if r = 0 then (0, 0) else if r = 15 then (2800, 250) else if 13 ≤ r then (2500, 250) else if 10 ≤ r then (1700, 200)
    else if 7 ≤ r then (800, 120) else (450, 80)
  | 1 => (75, 10) | 2 => (10, 1) | _ => (0, 0)
def Links.currents (l : Links) : Nat × Nat := ((l.ports.map fun x => x.2.current.1).sum, (l.ports.map fun x => x.2.current.2).sum)
/-- Budget power of a port in mW (R606). -/
def Port.power (x : Port) : Nat :=
  let r := x.rate
  match x.pstate with
  | 0 => if r = 0 then 0 else if r = 15 then 360 else if 13 ≤ r then 330 else if 10 ≤ r then 240 else if 7 ≤ r then 120 else 70
  | 1 => 8 | 2 => 1 | _ => 0
def divUp (a b : Nat) : Nat := (a + b - 1) / b
/-- The fabric term of a seat in plot p in µW: 0.45 mW for each MHz, in the share of the period that its slots with a SOWN, LIVE or PARKED hand take. -/
def Fabric.fabricPower (f : Fabric) (fallowed : List Nat) (o p : Nat) : Nat :=
  let q := f.seqPlot p
  let y := f.yoked p && decide (256 ≤ p)
  let d := ((List.range (f.lenOf q)).map fun k =>
    let w := f.slot q k
    if slotOwner w = some o && (f.estHand fallowed p y w).isSome then dwellOf w else 0).sum
  divUp (450 * f.clockKhz p * d) (1000 * f.period q)
/-- A thread counts as running once the turn's commands have acted. -/
def State.threadCounts (s : State) (p h : Nat) : Bool :=
  let cmd := s.mc.orders.findSome? fun o => match o with | .thread a b c _ => if a = p && b = h then some c else none | _ => none
  match cmd with
  | some 1 | some 3 => true
  | some 2 => false
  | _ => match (s.eng.thread p h).state with | .running | .waiting | .held => true | _ => false
/-- The budget power of a seat in µW (R606). -/
def State.budget (s : State) (o : Nat) : Nat :=
  let down := s.nv.map.plots
  let fabric := ((List.range 512).map (s.fab.fabricPower down o)).sum
  let threads := ((List.range 4096).map fun k =>
    if s.fab.handOwner (k / 8) (k % 8) = some o && s.threadCounts (k / 8) (k % 8) then divUp (15 * (s.eng.epll (epllOf (k / 8))).khz) 1000 else 0).sum
  let regions := (s.stk.regions.map fun e => if ownerOf e.2.own = some o then (if e.2.isSealed then 2500 else 1500) else 0).sum
  let ports := (s.lnk.ports.map fun e => if ownerOf e.2.own = some o then 1000 * e.2.power else 0).sum
  fabric + s.fab.seatRotPower down o + threads + regions + ports
/-- The staged changes bring a seat's budget power above its allocation (R607). -/
def overBudget (b s : State) (o : Nat) : Bool :=
  let new := s.budget o
  let alloc := 1000 * (s.seat o).powerMw
  decide (alloc < new) && (let old := b.budget o; decide (old < new) || (decide ((s.seat o).powerMw < (b.seat o).powerMw) && decide (old ≤ new)))
/-- The staged changes bring a seat's rotation power above its allocation (R138). -/
def overRotation (b s : State) (o : Nat) : Bool :=
  let new := s.fab.seatRotPower s.nv.map.plots o
  decide (1000 * (s.seat o).rotpowMw < new) && decide (b.fab.seatRotPower b.nv.map.plots o < new)
/-- Items that can raise a seat's rotation power: slot words, LEN, clock selection, yokes, hand commands (R138). -/
def rotationItem (i : Item) : Bool :=
  if i.win then i.index = winRotate
  else inRange 0x3000 0x31FF i.index && (inRange 0x01 0x03 i.sub || inRange 0x18 0x1F i.sub)
/-- Items that can raise a seat's budget power or lower its allocation. -/
def budgetItem (i : Item) : Bool :=
  rotationItem i || (!i.win && (
    i.index = 0x2010 || i.index = 0x2011 || (inRange 0x3000 0x31FF i.index && inRange 0x08 0x0F i.sub) ||
    (inRange 0x3200 0x33FF i.index && inRange 0x10 0x17 i.sub) || (inRange 0x3400 0x35FF i.index && inRange 0x10 0x2F i.sub) ||
    (inRange 0x4000 0x41FF i.index && (i.sub = 0x01 || i.sub = 0x04)) || (inRange 0x6000 0x6007 i.index && i.sub = 0x03)))

/-! ## Queues (R190, R194–R196, R232, R282, R421, R423) -/

/-- The seat that an endpoint belongs to; the MC serves every seat. -/
def State.endpointOwner (s : State) (e : Nat) : Option Nat :=
  match epKind e with
  | 1 | 2 => s.fab.handOwner (epPlot e) (epUnit e)
  | 3 | 4 => s.lnk.portOwner (epId e)
  | 5 => ownerOf (s.lnk.bdma (epId e)).bind
  | _ => none
/-- The namespace allows the consumer kind (R188). -/
def consumerFits (q e : Nat) : Bool :=
  let k := epKind e
  if q < 32768 then (k = 1 || k = 2) && epPlot e = q / 64
  else if q < 40960 then
    (if q % 16 < 8 then k = 1 || k = 2 || k = 5 || k = 6 else k = 4 && epId e = (q - 32768) / 16)
  else k = 6
/-- The port's steering entries or its default queue name the queue (R194). -/
def Links.names (l : Links) (n q : Nat) : Bool := (l.port n).defq.toNat = q || l.steer.any fun e => e.port = n && e.queue = q
/-- Pages of the store of a queue (R189). -/
def storePages (q : Nat) : Nat := if q < 32768 then 256 else if q < 40960 then 1024 else 512
/-- Pages that the enabled queues of the store of queue q hold together (R190). -/
def Net.pagesUsed (n : Net) (q : Nat) : Nat :=
  (n.queues.map fun e => if qdEnable e.2.dir && queueStore e.1 = queueStore q then qdCap e.2.dir else 0).sum
/-- Queues with a THREAD endpoint of an engine (R282). -/
def Net.boundTo (n : Net) (p : Nat) : Nat :=
  (n.queues.filter fun e => qdEnable e.2.dir &&
    (qdConsumer e.2.dir :: (List.range 8).map (qdProducer e.2.dir)).any fun w => epKind w = 2 && epPlot w = p).length
/-- A HAND endpoint stands once in a direction among the enabled queues (R194). -/
def Net.onceProduced (n : Net) (e : Nat) : Bool :=
  ((n.queues.map fun x => if qdEnable x.2.dir then ((List.range (qdNprod x.2.dir + 1)).filter fun k => qdProducer x.2.dir k = e).length else 0).sum) ≤ 1
def Net.onceConsumed (n : Net) (e : Nat) : Bool := (n.queues.filter fun x => qdEnable x.2.dir && qdConsumer x.2.dir = e).length ≤ 1
/-- Select 3 of a port that is bound to the scratchpad (R232). -/
def Fabric.scratchSelect (f : Fabric) (e : Nat) : Bool := epKind e = 1 && e % 4 = 3 && (f.hand (epPlot e) (epUnit e)).hspb.getLsbD (epId e / 4 % 8)
/-- The CHECK of an enabled queue's entry (R194). -/
def queueFail (s : State) (q : Nat) : Option Nat :=
  let d := (s.net.queue q).dir
  let prods := (List.range (qdNprod d + 1)).map (qdProducer d)
  let rest := ((List.range 8).filter fun k => decide (qdNprod d < k)).map (qdProducer d)
  let ends := qdConsumer d :: prods
  let mine := fun e => epKind e = 0 || epKind e = 6 || (s.endpointOwner e).isSome && s.endpointOwner e = qdOwner d
  let share := qdCap d / (qdNprod d + 1)
  if (qdOwner d).isNone || !ends.all mine then some whyOwnership
  else if !consumerFits q (qdConsumer d) || prods.any (fun e => epKind e = 0 || epKind e = 4) || rest.any (· != 0)
      || prods.any (fun e => epKind e = 3 && !s.lnk.names (epId e) q)
      || ends.any s.fab.scratchSelect
      || (epKind (qdConsumer d) = 1 && !s.net.onceConsumed (qdConsumer d)) || prods.any (fun e => epKind e = 1 && !s.net.onceProduced e)
    then some whyBinding
  else if decide (share * 2048 < (qdMaxlen d + 1) * 32 + 2048) || decide (storePages q < s.net.pagesUsed q)
      || ends.any (fun e => epKind e = 2 && decide (256 < s.net.boundTo (epPlot e)))
    then some whyCapacity
  else none
/-- The queue is enabled with the port among its PORT_RX producers. -/
def Net.takesPort (n : Net) (q n' : Nat) : Bool :=
  let d := (n.queue q).dir
  qdEnable d && ((List.range (qdNprod d + 1)).any fun k => qdProducer d k = epPortRx n')

/-! ## Other objects -/

/-- Reasons of a set of conditions, in order. (DEDUCED, log 73) -/
def firstWhy (l : List (Bool × Nat)) : Option Nat := (l.find? fun e => e.1).map fun e => e.2
/-- The transition table of R528: the modes that a REQUEST may name from the present mode. (DEDUCED, log 70) -/
def requestAllowed (m : Option Mode) (v : Nat) : Bool :=
  match m with
  | some .sowing | some .test => v = 0
  | some .field => v = 0 || v = 3 || v = 4 || v = 5
  | some .retention | some .limp => v = 0 || v = 2
  | _ => false
/-- A supply that the rise needs is outside its recommended range (R520, R604). -/
def State.supplyOut (s : State) : Bool :=
  let mv := fun k => (tget (some 0, 0) s.mc.hk.monitors (k - 1)).2
  [1, 3, 4].any fun k => mv k != 0
/-- Some seat but the dealer owns a resource of R488 (R542). -/
def State.othersOwn (s : State) : Bool :=
  let o := fun (w : Byte) => match ownerOf w with | some k => k != 0 | none => false
  s.fab.hands.any (fun e => o e.2.own) || s.fab.kown.any (fun e => o e.2) || s.fab.bms.any (fun e => o (BitVec.ofNat 8 (bits e.2.word 31 24)))
    || s.eng.engines.any (fun e => e.2.imbOwn.any (fun x => o x.2) || e.2.ldbOwn.any fun x => o x.2) || s.stk.regions.any (fun e => o e.2.own)
    || s.net.queues.any (fun e => !fixedOwner e.1 && match qdOwner e.2.dir with | some k => k != 0 | none => false)
    || s.lnk.ports.any (fun e => o e.2.own) || s.fab.banks.any (fun e => o e.2.own) || s.net.scr.own.any (fun e => o e.2)
    || s.lnk.bdmas.any (fun e => o e.2.bind)
/-- A copy of a tile or of a die runs. -/
def State.copying (s : State) : Bool := s.stk.dieMapping.isSome || s.stk.risers.any fun e => e.2.copy.isSome
/-- What keeps the device out of Retention (R534). (DEDUCED, log 75) -/
def State.restless (s : State) : Bool :=
  s.fab.hands.any (fun e => e.2.state == .sowing) || s.seats.any (fun e => e.2.stream.isSome || e.2.seg.isSome) ||
    s.mc.bist.state = 1 || s.mc.bist.state = 2 || s.copying
/-- The CHECK of DEVICE_MODE (R498, R520, R528, R533, R534, R542, R595). -/
def modeFail (b s : State) (sub v : Nat) : Option Nat :=
  match sub with
  | 0x02 => firstWhy [(!requestAllowed b.aon.mode v || (b.aon.moving && v != 0), whyState), (v = 3 && b.restless, whyState), (v = 5 && s.othersOwn, whyOwnership)]
  | 0x03 => firstWhy [(v = 1 && (b.aon.mode != some .fallow || b.aon.thermalLatch || b.aon.failedTest != 0 || b.supplyOut), whyState)]
  | 0x04 => firstWhy [(v = 1 && (b.aon.mode != some .fallow || b.hot || b.aon.failedTest != 0 || b.supplyOut), whyState)]
  | 0x05 => firstWhy [(v != 0 && b.aon.mode != some .field && b.aon.mode != some .limp && b.aon.mode != some .test, whyState)]
  | _ => none
/-- A test may start on its target (R649). -/
def startFail (s : State) : Option Nat :=
  let w := s.mc.bist.target
  let p := tgIndex w
  let granted := fun (owners : List Nat) => owners.all fun o => tget 0 s.mc.bist.qgrant o = w
  let hands := (List.range 8).map fun h => (s.fab.hand p h).state
  if s.mc.bist.state = 1 || s.mc.bist.state = 2 || !targetOk w then some whyState
  else match tgKind w with
  | 1 =>
    let regs := s.tileRegions w
    if !regs.isEmpty && (s.nv.map.riser (s.tileRiser w)).rstate = 3 then some whyState
    else if regs.any (fun x => (s.stk.regionOwner x.1 x.2).isSome && (s.stk.region x.1 x.2).isSealed) then some whyOwnership
    else if !granted (regs.filterMap fun x => s.stk.regionOwner x.1 x.2) then some whyOwnership else none
  | 2 => if hands.any fun x => x == .sowing || x == .live || x == .parked then some whyState else none
  | 3 => if granted ((List.range 64).filterMap fun k => s.fab.bmOwner p k) then none else some whyOwnership
  | 5 => if (List.range 8).all fun h => let t := (s.eng.thread p h).state; t == .stopped || t == .unowned then none else some whyState
  | k => if s.net.queues.any fun e => qdEnable e.2.dir && queueStore e.1 = (k, p) then some whyState else none
/-- A hand command matches the hand's state (R106). -/
def handCmdFits (x : HState) (cmd : Nat) : Bool :=
  match cmd, x with
  | 0, _ => true
  | 1, .sown | 1, .parked | 2, .live | 3, .live | 3, .parked => true
  | _, _ => false
/-- A thread command matches the thread's state (R242). -/
def threadCmdFits (x : TState) (cmd : Nat) : Bool :=
  match cmd, x with
  | 0, _ => true
  | 1, .stopped | 1, .trapped | 3, .stopped | 3, .trapped | 2, .running | 2, .waiting => true
  | _, _ => false
/-- The CHECK of a plot record item (R74, R92, R93, R106, R151, R156, R232). -/
def plotFail (b s : State) (p sub : Nat) (i : Item) : Option (Nat × Nat) :=
  let f := s.fab
  let v := i.nat
  let c := columnOf p
  let why := fun l => (firstWhy l).map fun r => (r, 0)
  if inRange 0x18 0x1F sub then
    let h := sub - 0x18
    let x := b.fab.hand p h
    why [(b.plotFallowed p || !handCmdFits x.state v, whyState), ((v = 1 || v = 3) && decide (x.timed < f.clockKhz p), whyClock)]
  else if inRange 0x20 0x27 sub then
    let h := sub - 0x20
    let ends := s.net.queues.flatMap fun e => if qdEnable e.2.dir then qdConsumer e.2.dir :: (List.range (qdNprod e.2.dir + 1)).map (qdProducer e.2.dir) else []
    why [(b.plotFallowed p, whyState), (ends.any fun e => epPlot e = p && epUnit e = h && f.scratchSelect e, whyBinding)]
  else if inRange 0x28 0x2F sub then why [(b.plotFallowed p, whyState)]
  else if inRange 0x08 0x0F sub then
    match (f.handOwner p (sub - 0x08)) with
    | some o => why [((s.eng.engine p).maskOf o = 0, whyCombination)]
    | none => none
  else if inRange 0x80 0xBF sub then
    let w := (f.bm p (sub - 0x80)).word
    why [((bmWidthA w = 6) != (bmWidthB w = 6) || (bmEcc w && bmWidthA w != 6), whyCombination)]
  else if sub = 0x02 then
    if f.yoked p && !f.sameClock c (c + 256) then some (whyYoke, 0) else if b.fab.yoked p = f.yoked p then none else f.yokeFail c
  else if sub = 0x03 then
    why [(f.yoked p && !f.sameClock c (c + 256), whyYoke), (f.tooFast p, whyClock)]
  else none
/-- The CHECK of a fabric PLL item (R91–R93). -/
def fpllFail (s : State) (sub : Nat) : Option Nat :=
  let k := if sub ≤ 8 then sub - 1 else sub - 9
  let f := s.fab
  firstWhy [(!f.groupsAgree, whyClock),
    ((List.range 256).any (fun c => f.yoked c && (fpllOf c = k || fpllOf (c + 256) = k) && !f.sameClock c (c + 256)), whyYoke),
    ((plotsOf k).any f.tooFast, whyClock)]
/-- The CHECK of an engine record item (R242, R252, R622). -/
def engineFail (b s : State) (p sub : Nat) (i : Item) : Option Nat :=
  if inRange 0x10 0x17 sub then firstWhy [(!threadCmdFits (b.eng.thread p (sub - 0x10)).state (leField i.data 0 1), whyState)]
  else if inRange 0x40 0x47 sub then
    firstWhy [((s.eng.engine p).maskOf (sub - 0x40) = 0 && (List.range 8).any fun h => s.fab.handOwner p h = some (sub - 0x40), whyCombination)]
  else none
/-- A chained counter whose partner another seat holds (R622). -/
def chainFail (s : State) (o k : Nat) : Bool :=
  pmcChain (tget 0 (s.mc.snap o).ctl k) && s.eng.engines.any fun e =>
    e.2.pmcSeat k = some o && (match e.2.pmcSeat (k - 1) with | some x => x != o | none => false)
/-- The CHECK of a riser record item (R339, R357). -/
def riserFail (b s : State) (p sub v : Nat) : Option Nat :=
  if inRange 0x10 0x2F sub then
    let g := s.stk.region p (sub - 0x10)
    let sms := match ownerOf g.own with | some o => (s.seat o).sms.isSome | none => false
    firstWhy [(g.isSealed && (!sms || (s.stk.riser p).katFail), whyKey)]
  else if sub = 0x03 && v != 0 then
    let c := columnOf p
    let t := 262144 * (v - 1)
    -- one set may not start two copies into one spare
    let both := (s.stk.riser (pairOf p)).copy.isSome || s.stk.dieMapping.isSome
    firstWhy [(!b.spareFree c || both || (b.nv.map.riser p).rstate = 3 || b.tileTested p t || b.stk.dieMapping.isSome, whyState)]
  else none
/-- The CHECK of a port record item (R385, R396, R401, R405, R406, R413, R414, R418, R421, R429). (DEDUCED, log 73) -/
def portFail (b s : State) (n sub : Nat) : Option Nat :=
  let x := s.lnk.port n
  let stamps := x.tstx != 0 && (!x.tsrx || x.defq = 0xFFFF)
  let pre := bits x.eq 19 15
  let post := bits x.eq 14 10
  let salts := x.txsalt.isSome && x.txsalt = x.rxsalt
  match sub with
  | 0x01 =>
    let old := b.lnk.currents
    let new := s.lnk.currents
    firstWhy [(!s.lnk.rateFits n, whyClock), (x.rate = 0 && x.pstate != 3, whyCombination),
      (!pcsAllows x.pcs x.rate (bits x.setup 24 23) || x.streamOn != (x.pcs = 0), whyCombination),
      (x.sealOn && x.streamOn, whyCombination), (stamps, whyCombination),
      ((decide (900000 < new.1) && decide (old.1 < new.1)) || (decide (200000 < new.2) && decide (old.2 < new.2)), whyPower)]
  | 0x02 => firstWhy [(decide (32 < pre + post), whyCombination)]
  | 0x06 => firstWhy [(x.defq != 0xFFFF && !s.net.takesPort x.defq.toNat n, whyBinding), (stamps, whyCombination)]
  | 0x07 => firstWhy [(x.sealOn && !s.lnk.keyset n, whyKey), (x.sealOn && x.streamOn, whyCombination), (x.sealOn && salts, whyCombination)]
  | 0x09 | 0x0A => firstWhy [(salts, whyCombination)]
  | _ => none
/-- The CHECK of a quad record item (R401, R402). -/
def quadFail (s : State) (k sub : Nat) : Option Nat :=
  let fits := fun j => refFits (s.lnk.quad j).family (s.lnk.quad (4 * (j / 4))).reffreq
  match sub with
  | 0x01 => firstWhy [(!((List.range 4).all fun i => s.lnk.rateFits (4 * k + i)) || !fits k, whyClock)]
  | 0x02 => firstWhy [(!((List.range 4).all fun i => fits (k + i)), whyClock)]
  | _ => none
/-- The CHECK of a bulk channel item (R436). (DEDUCED, log 73) -/
def bdmaFail (s : State) (c sub : Nat) : Option Nat :=
  let x := s.lnk.bdma c
  let n := x.port.toNat
  let tq := x.tq.toNat
  if sub = 0x01 then none
  else firstWhy [(s.lnk.portOwner n != ownerOf x.bind || (ownerOf x.bind).isNone || qdConsumer (s.net.queue x.rq.toNat).dir != epBdma c
    || !(decide (32768 + 16 * n + 8 ≤ tq) && decide (tq ≤ 32768 + 16 * n + 15)) || ((s.net.queue tq).prodOf (epBdma c)).isNone, whyBinding)]
/-- The CHECK of a seat record item (R426, R507, R607). -/
def seatFail (s : State) (k sub : Nat) : Option Nat :=
  let r := s.seat k
  match sub with
  | 0x03 => firstWhy [(decide (420000 < (allSeats.map fun o => (s.seat o).powerMw).sum), whyPower)]
  | 0x05 => firstWhy [(decide (131072 < (allSeats.map fun o => (s.seat o).steerQuota).sum) ||
      decide (r.steerQuota < (s.lnk.steer.filter fun x => x.owner = k).length), whyQuota)]
  | 0x07 => firstWhy [(r.odma != 0xFF && ownerOf (s.lnk.bdma r.odma.toNat).bind != some k, whyOwnership)]
  | 0x08 => firstWhy [(r.bulkbuf != 0xFFFF && ownerOf (s.net.scr.ownAt r.bulkbuf.toNat) != some k, whyOwnership)]
  | _ => none
/-- The CHECK of a snapshot item (R622, R633). -/
def snapFail (s : State) (sub : Nat) : Option Nat :=
  if inRange 0x10 0x17 sub then
    let k := sub - 0x10
    let w := (s.mc.snap k).buf
    firstWhy [(w != 0 && !((List.range (bits w 31 16)).all fun i => ownerOf (s.net.scr.ownAt (bits w 15 0 + i)) = some k), whyOwnership)]
  else if inRange 0x28 0x2F sub then
    let k := sub - 0x28
    let w := (s.mc.snap k).ktrig
    firstWhy [(w.getLsbD 31 && ownerOf (s.fab.kownAt (bits w 19 11) (bits w 10 0 / 64)) != some k, whyOwnership)]
  else if inRange 0x40 0x7F sub then firstWhy [(chainFail s ((sub - 0x40) / 8) ((sub - 0x40) % 8), whyCombination)]
  else none
/-- The CHECK of a steering entry (R423, R426). -/
def steerFail (b s : State) (seat v : Nat) : Option Nat :=
  let e := steerOf seat v
  if v / 2 ^ 95 % 2 = 0 then none
  else
    let used := fun (s : State) => (s.lnk.steer.filter fun x => x.owner = seat).length
    firstWhy [(!s.net.takesPort e.queue e.port, whyBinding), (qdOwner (s.net.queue e.queue).dir != some seat, whyOwnership),
      ((s.lnk.lookup e.port e.key).isNone, whyTableFull),
      (decide ((s.seat seat).steerQuota < used s) && decide (used b < used s), whyQuota)]
/-- The CHECK of a window entry (R111, R151, R194, R331, R513): an owned slot that names a hand of a fallowed plot fails with STATE, as the other items that name its hands do. (DEDUCED, log 73) -/
def windowFail (b s : State) (seat : Nat) (i : Item) : Option (Nat × Nat) :=
  let e := i.entry
  let why := fun (r : Option Nat) => r.map fun r => (r, if i.index = winSteer then 0 else e)
  if i.index = winSteer then why (steerFail b s seat i.nat)
  else if i.index = winQueue then
    let q := e % 65536
    let d := (s.net.queue q).dir
    if e / 65536 % 2 = 0 && qdEnable d && d != (b.net.queue q).dir then why (queueFail s q) else none
  else if i.index = winRetire then
    let p := e / 64
    let w := s.nv.map.retireSlot p (e % 64)
    why (firstWhy [(w.getLsbD 31 && (List.range 64).any fun k =>
      k != e % 64 && (s.nv.map.retireSlot p k).getLsbD 31 && bits (s.nv.map.retireSlot p k) 12 0 = bits w 12 0, whyCombination)])
  else if i.index = winRotate then
    let p := e / 64
    let w := s.fab.slot p (e % 64)
    let named := fun (y : Bool) (q : Nat) => match namedHand y w with
      | some h => (slotOwner w).isSome && s.fab.handOwner q h != slotOwner w
      | none => false
    let lost := fun (y : Bool) (q : Nat) => s.nv.map.plots.contains q && (slotOwner w).isSome && (namedHand y w).isSome
    if named false p || (s.fab.yoked p && decide (p < 256) && named true (p + 256)) then some (whyOwnership, e)
    else if lost false p || (s.fab.yoked p && decide (p < 256) && lost true (p + 256)) then some (whyState, e)
    else if s.fab.yoked p && decide (p < 256) then s.fab.yokeFail p else none
  else if i.index = winUser then
    let w := s.lnk.umapAt e
    let k := e / 0x800
    let mine := (umReaches w).all fun x => if x.1 = 0 then ownerOf (s.fab.kownAt x.2.1 x.2.2) = some k else ownerOf (s.net.scr.ownAt x.2.2) = some k
    let t := umType w
    why (firstWhy [(w.getLsbD 63 && !mine, whyOwnership), (w.getLsbD 63 && (if umKind w = 0 then t = 4 || t = 8 else umBase w % typeStride t != 0), whyCombination)])
  else none

/-! ## One item, and the set (R478–R480) -/

/-- What STAGE found right and has changed since: a lost right, an unpowered resource (R479), a test of the target (R677). (DEDUCED, log 73) -/
def standingFail (b : State) (seat : Nat) (i : Item) : Option Nat :=
  let l := if i.win then entryErrs b seat i else objErrs b seat i.index i.sub 2 i.data false
  firstWhy [(heldK i.index && !b.kUp, whyState), (l.contains errAccess || l.contains errNoObject, whyOwnership), (!l.isEmpty, whyState)]
/-- The rules of the item's own chapter. -/
def ruleFail (b s : State) (seat : Nat) (i : Item) : Option (Nat × Nat) :=
  let x := i.index
  let sub := i.sub
  let why := fun (r : Option Nat) => r.map fun r => (r, 0)
  if i.win then windowFail b s seat i
  else if x = 0x2000 then why (modeFail b s sub i.nat)
  else if x = 0x2010 then why (fpllFail s sub)
  else if x = 0x2400 then
    why (if sub = 0x04 && i.nat = 1 then startFail s else if sub = 0x18 && b.aon.mode != some .test then some whyState else none)
  else if x = 0x2510 && sub = 0x11 then
    let tileCopy := s.stk.risers.any fun e => match e.2.copy with | some (_, _, die) => !die | none => false
    why (firstWhy [((if i.nat = 0 then b.nv.map.dieMap != 0 else tileCopy || !((List.range 256).all b.spareFree)) || b.stk.dieMapping.isSome, whyState)])
  else if x = 0x2700 then why (snapFail s sub)
  else if inRange 0x3000 0x31FF x then plotFail b s (x - 0x3000) sub i
  else if inRange 0x3200 0x33FF x then
    why ((engineFail b s (x - 0x3200) sub i).orElse fun _ =>
      if inRange 0x50 0x57 sub && allSeats.any (fun o => (List.range 8).any fun k => chainFail s o k) then some whyCombination else none)
  else if inRange 0x3400 0x35FF x then why (riserFail b s (x - 0x3400) sub i.nat)
  else if inRange 0x4000 0x41FF x then why (portFail b s (x - 0x4000) sub)
  else if inRange 0x4200 0x427F x then why (quadFail s (x - 0x4200) sub)
  else if inRange 0x4300 0x433F x then why (bdmaFail s (x - 0x4300) sub)
  else if inRange 0x6000 0x6007 x then why (seatFail s (x - 0x6000) sub)
  else none
/-- The reason and the detail with which an item fails, if it does: `b` is the state without the set, `s` the state it would leave. (DEDUCED, log 73) -/
def itemFail (b s : State) (seat : Nat) (i : Item) : Option (Nat × Nat) :=
  match standingFail b seat i with
  | some r => some (r, if i.win && i.index != winSteer then i.entry else 0)
  | none => match ruleFail b s seat i with
    | some r => some r
    | none =>
      if rotationItem i && allSeats.any (overRotation b s) then some (whyPower, if i.win then i.entry else 0)
      else if budgetItem i && allSeats.any (overBudget b s) then some (whyPower, if i.win then i.entry else 0)
      else none
/-- The state in force with a seat's deferred items counted as applied (R572). -/
def State.inForce (s : State) (seat : Nat) : State :=
  let d := (s.seat seat).deferred
  if d.isEmpty then s else applyItems s seat d
/-- The first failing item of a set in the order of staging. (DEDUCED, log 73) -/
def checkItems (b : State) (seat : Nat) (items : List Item) : Option (Item × Nat × Nat) :=
  let s := applyItems b seat items
  items.findSome? fun i => (itemFail b s seat i).map fun r => (i, r)
/-- The report of a check (R480). -/
def reportOf (now source : Nat) (items : List Item) (r : Option (Item × Nat × Nat)) : Report :=
  match r with
  | none => { result := 1, source := source, time := now, items := items.length }
  | some (i, why, detail) => { result := 2, source := source, index := i.index, sub := i.sub, reason := why, detail := detail, time := now, items := items.length }
/-- The data of a CHECK_FAILED reply (R461). -/
def failData (r : Report) : List Byte := leBytes 2 r.index ++ leBytes 1 r.sub ++ [0] ++ leBytes 2 r.reason

end Sys2Proof.Machine
end

