-- ==== Sys2Proof/Machine/Staging.lean ====
section
/-! DEFINITION. Staging, check and turn as a seat asks for them (R463–R465, R478–R483, R511, R523, R571, R572), whether by a frame, through a dictionary service queue or in a staging section. -/

namespace Sys2Proof.Machine

/-- What an operation answers: the state it leaves, the error code, the reply's data; or that the reply follows later. -/
structure OpOut where
  st : State
  err : Nat := errOk
  data : List Byte := []
  later : Bool := false

/-- A refused operation changes nothing (R476); of several codes the first in order is returned (R477). -/
def OpOut.fail (s : State) (errs : List Nat) : OpOut := { st := s, err := firstErr errs }

/-! ## Staging (R463, R464) -/

/-- The reply data of STAGE and WIN_WRITE: items and value bytes in the set (R461). -/
def stagedData (l : List Item) : List Byte := leBytes 2 l.length ++ leBytes 2 (stagedBytes l)
/-- Stage items for which `errs` holds the errors found: all of them or none. -/
def stageItems (s : State) (seat : Nat) (errs : List Nat) (items : List Item) : OpOut :=
  match putItems (s.seat seat).staged items with
  | none => .fail s (errs ++ [errStageFull])
  | some l => if errs.isEmpty then { st := s.onSeat seat fun r => { r with staged := l }, data := stagedData l } else .fail s errs
/-- STAGE (R463). -/
def opStage (s : State) (seat index sub : Nat) (data : List Byte) (long : Bool) : OpOut :=
  stageItems s seat (objErrs s seat index sub 2 data long) [{ index := index, sub := sub, data := data }]
/-- WIN_WRITE (R464). -/
def opWinWrite (s : State) (seat index : Nat) (data : List Byte) (long : Bool) : OpOut :=
  let r := winWriteErrs s seat index data long
  stageItems s seat r.1 r.2

/-! ## Deferral (R571, R572, R574) -/

/-- Step 7 of start-up runs. -/
def State.step7 (s : State) : Bool := s.aon.mode == some .sowing && s.aon.step = 7
/-- An item that a TURN in step 7 defers: a hand or thread command, or a queue entry that sets ENABLE from 0 to 1 for a queue with no BULK_DMA endpoint (R571). (DEDUCED, log 43) -/
def defers (s : State) (i : Item) : Bool :=
  if i.win then
    let d : BitVec 256 := BitVec.ofNat 256 i.nat
    i.index = winQueue && i.entry / 65536 % 2 = 0 && qdEnable d && !qdEnable (s.net.queue (i.entry % 65536)).dir &&
      epKind (qdConsumer d) != 5 && (List.range 8).all fun k => epKind (qdProducer d k) != 5
  else (inRange 0x3000 0x31FF i.index && inRange 0x18 0x1F i.sub) || (inRange 0x3200 0x33FF i.index && inRange 0x10 0x17 i.sub)
/-- The seat's next TURN takes its deferred items (R481, R574). (DEDUCED, log 43) -/
def State.takesDeferred (s : State) (seat : Nat) : Bool :=
  (s.aon.mode == some .field || s.aon.mode == some .limp) && !(s.seat seat).deferred.isEmpty

/-! ## CHECK and TURN -/

/-- Check a set against the state `b` and record the report (R478, R480). -/
def checkSet (b s : State) (seat source : Nat) (items : List Item) : State × Report :=
  let rep := reportOf s.aon.now source items (checkItems b seat items)
  (s.onSeat seat fun r => { r with report := rep }, rep)
/-- The state against which a request checks: in step 7 the deferred items count as applied (R572). -/
def State.checkBase (s : State) (seat : Nat) : State := if s.step7 then s.inForce seat else s
/-- CHECK (R478, R479). -/
def opCheck (s : State) (seat : Nat) (data : List Byte) (long : Bool) : OpOut :=
  if long || !data.isEmpty then .fail s [errTypeLength]
  else
    let r := checkSet (s.checkBase seat) s seat 0 (s.seat seat).staged
    if r.2.result = 2 then { st := r.1, err := errCheckFailed, data := failData r.2 } else { st := r.1 }

/-- Start the PLLs that a turn will need: those of the clock groups, as the turn leaves them, that serve an ungated plot or one with a hand to start, and of engines whose threads it starts (R522, R523). -/
def startPlls (s : State) (seat : Nat) (items : List Item) : State :=
  let t := applyItems s seat items
  let hands := items.filterMap fun i =>
    if !i.win && inRange 0x3000 0x31FF i.index && inRange 0x18 0x1F i.sub && (i.nat = 1 || i.nat = 3) then some (i.index - 0x3000) else none
  let plots := hands ++ (List.range 512).filter fun p => !(t.fab.plot p).gated
  let groups := (plots.map fun p => (t.fab.fpll (fpllOf p)).group).eraseDups
  let engs := (items.filter fun i => !i.win && inRange 0x3200 0x33FF i.index && inRange 0x10 0x17 i.sub &&
    (leField i.data 0 1 = 1 || leField i.data 0 1 = 3)).map fun i => i.index - 0x3200
  let s := s.onFab fun f => (List.range 8).foldl (fun f k => if groups.contains (t.fab.fpll k).group then f.startFpll k else f) f
  s.onEng fun e => engs.foldl (fun e p => if (e.epll (epllOf p)).running then e
    else e.setEpll (epllOf p) { e.epll (epllOf p) with running := true, locked := false }) e

/-- TURN (R481–R483, R571, R572). `how` says who asks: its source for the report, and what waits for the outcome. (DEDUCED, log 43) (DESIGN CHOICE, log 78) -/
def opTurn (s : State) (seat : Nat) (data : List Byte) (long : Bool) (how : Turn) : OpOut :=
  let r := s.seat seat
  let takes := s.takesDeferred seat
  let timed := !data.isEmpty
  let at' := ofTime80 data
  let badLen := long || (timed && data.length != 10)
  let errs := errsOf [
    (badLen, errTypeLength),
    (timed && (decide (999999999 < leField data 0 4) || decide (s.aon.now + 86400000000000 < at')), errRange),
    ((r.staged.isEmpty && !takes) || (timed && s.aon.mode == some .sowing), errState),
    (r.turn.isSome || (!r.deferred.isEmpty && !takes && !s.step7), errBusy),
    (timed && decide (at' < s.aon.now + 1000000), errTurnLate)]
  if !errs.isEmpty then .fail s errs
  else
    let items := if takes then mergeItems r.deferred r.staged else r.staged
    let c := checkSet (s.checkBase seat) s seat how.source items
    if c.2.result = 2 then { st := c.1, err := errCheckFailed, data := failData c.2 }
    else
      let t := { how with items := items, at? := if timed then some at' else none, source := if timed then 2 else how.source }
      let s := c.1.onSeat seat fun r => { r with staged := [], deferred := if takes then [] else r.deferred, turn := some t }
      if timed then { st := s, data := data }
      else { st := startPlls s seat (if s.step7 then items.filter fun i => !defers s i else items), later := true }

/-! ## DISCARD (R465, R572) -/

/-- The turns of the binding tick: once step 8 is over, the deferred items of each loaded seat (R574, R578). (DEDUCED, log 39) -/
def State.pendingTurns (s : State) : List (Nat × Turn) :=
  if s.aon.mode = some .sowing && s.aon.step = 9 then
    (List.range 8).filterMap fun k =>
      let r := s.seat k
      if r.loaded && !r.deferred.isEmpty then some (k, { items := r.deferred, at? := some s.aon.now, source := 2 }) else none
  else []
/-- The tick of the seat's pending turn has been reached: its instant has come, or its application window is open. -/
def State.turnReached (s : State) (seat : Nat) : Bool :=
  match (s.seat seat).turn with
  | none => s.mc.window && s.pendingTurns.any fun x => x.1 == seat
  | some t => match t.at? with | some a => decide (a ≤ s.aon.now) | none => s.mc.window
/-- DISCARD: without data it empties the staging set; with bit 0 set it cancels the pending turn and empties the deferred items. (DEDUCED, log 77) -/
def opDiscard (s : State) (seat : Nat) (data : List Byte) (long : Bool) : OpOut :=
  let v := leNat data
  let cancel := v % 2 = 1
  let errs := errsOf [(long || decide (1 < data.length), errTypeLength), (decide (1 < v), errRange), (cancel && s.turnReached seat, errState)]
  if !errs.isEmpty then .fail s errs
  else if cancel then { st := s.onSeat seat fun r => { r with turn := none, deferred := [] } }
  else { st := s.onSeat seat fun r => { r with staged := [] } }

end Sys2Proof.Machine
end

