-- ==== Sys2Proof/Machine/Sowing.lean ====
section
/-! DEFINITION. Seed images and their sections: the header, hands, block memories, engine blocks and staged items (R126–R132, R166–R168, R257, R258, R559–R567). -/

namespace Sys2Proof.Machine

/-! ## What the bytes of a section spell (R128, R166, R257, R560, R562, R566) -/

/-- The 64-byte header of a section (R128, R166, R257, R566), decrypted. -/
structure SectHdr where
  typ : Nat
  plot : Nat
  /-- HAND, BM, BLOCK or, in a staging section, FLAGS -/
  target : Nat
  /-- WORDS or BYTES -/
  size : Nat
  /-- TIMED_KHZ, SETUP or ITEMS -/
  arg : Nat
  reservedZero : Bool
deriving DecidableEq, Repr

/-- An item of a staging section (R566). -/
structure StageItem where
  func : BitVec 8
  index : BitVec 16
  sub : BitVec 8
  data : List Byte
deriving DecidableEq, Repr

/-- KSEED_s (R562). -/
def seedKey (sms : BitVec 256) (seat : Nat) : BitVec 256 := left256 (Config.hmac384 (beBytes 32 sms.toNat) [4, BitVec.ofNat 8 seat])
/-- The 64 bytes of a table entry, the additional data of its section (R560, R562). -/
def sectEntryBytes (e : SectEntry) : List Byte :=
  leBytes 2 e.typ ++ leBytes 2 e.plot ++ BitVec.ofNat 8 e.target :: List.replicate 3 0 ++ leBytes 4 e.length ++ List.replicate 4 0 ++ beBytes 48 e.digest.toNat
/-- The header of a section whose table entry gives TYPE `typ`. -/
def sectHeader (typ : Nat) (l : List Byte) : SectHdr :=
  let zero := fun (lo n : Nat) => decide (leField l lo n = 0)
  { typ := leField l 0 2
    plot := leField l 2 2
    target := leField l (if typ = 2 then 5 else 4) 1
    size := leField l 12 4
    arg := if typ = 1 then leField l 8 4 else if typ = 2 then leField l 6 2 else leField l 2 2
    reservedZero := if typ = 1 then zero 5 3 else if typ = 2 then zero 4 1 && zero 8 4 else zero 5 7 }
/-- The 64-bit words of a byte string. -/
def words64 : List Byte → List (BitVec 64)
  | a :: b :: c :: d :: e :: f :: g :: h :: t => BitVec.ofNat 64 (leNat [a, b, c, d, e, f, g, h]) :: words64 t
  | _ => []
/-- The entries of a list that are not zero, with their places. -/
def nonzero {w : Nat} (l : List (BitVec w)) : List (Nat × BitVec w) := (l.zipIdx.filter fun e => e.1 != 0).map fun e => (e.2, e.1)
/-- The items of a staging section's content: FUNC, INDEX, SUB, LEN and the data; none when the bytes do not end with an item. -/
def sectionItems : (fuel : Nat) → List Byte → Option (List StageItem)
  | 0, l => if l.isEmpty then some [] else none
  | n + 1, l =>
    if l.isEmpty then some []
    else if l.length < 5 || l.length < 5 + leField l 4 1 then none
    else (sectionItems n (l.drop (5 + leField l 4 1))).map fun t =>
      { func := byteAt l 0, index := BitVec.ofNat 16 (leField l 1 2), sub := byteAt l 3, data := (l.drop 5).take (leField l 4 1) } :: t

/-! ## The stream and its report (R471, R564, R565) -/

/-- SOURCE of a report by the image's source (R480). -/
def reportSource : SeedSource → Nat
  | .flash => 3 | .segWrite => 3 | .bulk => 4
def onStream (s : State) (seat : Nat) (g : Stream → Stream) : State :=
  s.onSeat seat fun r => { r with stream := r.stream.map g }
/-- The image stops being the seat's open stream, unless a SEG_WRITE still runs (R471). -/
def closeStream (s : State) (seat : Nat) : State :=
  s.onSeat seat fun r => { r with stream := match r.stream with
    | some t => if t.src = .segWrite then some t else none
    | none => none }
/-- The first refusal of an image (R564). -/
def refuse (s : State) (seat index sub reason detail : Nat) : State :=
  onStream s seat fun t => { t with firstRep := match t.firstRep with
    | some r => some r
    | none => some { result := 2, source := reportSource t.src, index := index, sub := sub, reason := reason, detail := detail, time := s.aon.now } }
/-- The image is complete: its report, and FINAL (R564, R565, R574). -/
def completeImage (s : State) (seat : Nat) (t : Stream) : State :=
  let final := match t.hdr with | some h => h.final | none => false
  let s := match t.firstRep with
    | some r => s.onSeat seat fun x => { x with report := { r with time := s.aon.now } }
    | none => if t.turned then s else s.onSeat seat fun x => { x with report := { result := 1, source := reportSource t.src, time := s.aon.now } }
  let s := if final && s.step7 then s.onSeat seat fun x => { x with finalDone := true } else s
  closeStream s seat
/-- The section that was expected has been processed (R563). (DEDUCED, log 40) -/
def nextSection (s : State) (seat : Nat) : State :=
  let s := onStream s seat fun t => { t with next := t.next + 1, sect := none }
  match (s.seat seat).stream with
  | some t => match t.hdr with
    | some h => if h.nsect ≤ t.next then completeImage s seat t else s
    | none => s
  | none => s
/-- The table entry of the section that a seat's stream expects, when no section is in progress. -/
def State.expected (s : State) (seat : Nat) : Option SectEntry :=
  match (s.seat seat).stream with
  | some t => if t.refused || t.sect.isSome || !s.seedOpen then none else match t.hdr with
    | some h => h.table[t.next]?
    | none => none
  | none => none
/-- A section as it has arrived: its table entry, its plaintext, and whether its tag and both digests hold (R562, R563). -/
structure SectIn where
  entry : SectEntry
  plain : List Byte
  good : Bool
deriving DecidableEq, Repr
/-- The header as its table entry's TYPE lays it out. -/
def SectIn.header (x : SectIn) : SectHdr := sectHeader x.entry.typ x.plain
/-- The content bytes. -/
def SectIn.content (x : SectIn) : List Byte := x.plain.drop 64
/-- The entry, the key and the IV of the section that a seat's stream has come to (R562). -/
def State.sectKey (s : State) (seat : Nat) : Option (SectEntry × BitVec 256 × List Byte) :=
  match (s.seat seat).stream with
  | some t => match t.hdr with
    | some h => (h.table[t.next]?).map fun e => (e, seedKey ((s.seat seat).sms.getD 0) seat, leBytes 8 h.ivBase ++ beBytes 4 t.next)
    | none => none
  | none => none
/-- The section that a seat's stream has come to, from its ciphertext and tag; none when these are not its bytes. -/
def State.sectionIn (s : State) (seat : Nat) (bytes : List Byte) : Option SectIn :=
  match s.sectKey seat with
  | none => none
  | some (e, k, iv) =>
    if bytes.length != e.length + 16 then none
    else
      let plain := gcmCrypt k iv (bytes.take e.length)
      some { entry := e, plain := plain
             good := gcmGood k iv (sectEntryBytes e) bytes && Config.sha384 plain == e.digest &&
               beBytes 48 (Config.sha384 (plain.drop 64)).toNat == (plain.drop 16).take 48 }
/-- Refuse the section and go on with the next (R563). (DEDUCED, log 40) -/
def refuseSection (s : State) (seat index sub reason detail : Nat) : State :=
  nextSection (refuse s seat index sub reason detail) seat
/-- The reason and detail of a section refused under R129, R167 or R258 before its checks run (R564). -/
def whyRefused (errs : List Nat) : Nat × Nat :=
  let e := firstErr errs
  (if e = errNotOwner then whyOwnership else whyState, e)

/-! ## The header (R559–R562) -/

/-- Bytes of an image by its header and table (R559). -/
def imageBytes (h : ImageHdr) : Nat := 160 + 64 * h.nsect + (h.table.map fun e => e.length + 16).sum
/-- Why a whole image is refused (R561, R562, R564). (DEDUCED, log 40) -/
def imageRefusal (s : State) (seat : Nat) (h : ImageHdr) : Option Nat :=
  firstWhy [
    (!h.sigOk || !hasCred s.nv h.seat (s.seat h.seat), whyDigest),
    (h.magic != 0xC5ED || h.version != 1 || h.flagsReserved != 0 || !h.reservedZero || h.seat != seat || decide (65535 < h.nsect) ||
      h.table.length != h.nsect || !(h.table.all fun e => inRange 1 5 e.typ) || !(h.serial = 0 || h.serial = s.nv.serial) || h.total != imageBytes h, whyHeader),
    ((s.seat seat).sms.isNone, whyKey)]

/-! ### The seed directory (R547, R568) -/

/-- Bytes of the boot flash. (DESIGN CHOICE, log 3) (DESIGN CHOICE, log 5) -/
def Nv.flashByte (n : Nv) (a : Nat) : Byte := tget 0xFF n.flash a
def Nv.flashBytes (n : Nv) (a k : Nat) : List Byte := (List.range k).map fun i => n.flashByte (a + i)
/-- The boot record is good (R547). -/
def Nv.bootRecordOk (n : Nv) : Bool :=
  decide (leNat (n.flashBytes 0 4) = 0xC5B00001) && decide (leNat (n.flashBytes 252 4) = (crc32c (n.flashBytes 0 252)).toNat)
/-- The flash addresses of the seed directory's images, in directory order; a wrong boot record gives none. (DEDUCED, log 44) -/
def Nv.seedDir (n : Nv) : List Nat :=
  if n.bootRecordOk then ((List.range 16).map fun k => leNat (n.flashBytes (16 + 8 * k) 4)).zipIdx.filterMap fun e =>
    if leNat (n.flashBytes (20 + 8 * e.2) 4) != 0 && e.1 % 4096 = 0 then some e.1 else none
  else []
/-- The order in which the MC reads them in step 7: first the images whose header names seat 0, then the rest (R568). (DEDUCED, log 44) -/
def Nv.seedImages (n : Nv) : List Nat :=
  let l := n.seedDir.filter fun a => decide ((n.flashByte (a + 4)).toNat < 8)
  (l.filter fun a => n.flashByte (a + 4) == 0) ++ l.filter fun a => n.flashByte (a + 4) != 0
/-- The header and the section table of the image at a flash address (R559, R560). -/
def Nv.imageAt (n : Nv) (a : Nat) (sigOk : Bool) : ImageHdr :=
  let le := fun (i k : Nat) => leNat (n.flashBytes (a + i) k)
  let zero := fun (i k : Nat) => decide (le i k = 0)
  let ids := List.range (min (le 8 4) 65535)
  { magic := le 0 2, version := le 2 1, final := decide (le 3 1 % 2 = 1), flagsReserved := le 3 1 / 2, seat := le 4 1, nsect := le 8 4
    ivBase := le 16 8, serial := BitVec.ofNat 128 (le 24 16), total := le 40 8
    reservedZero := zero 5 3 && zero 12 4 && zero 48 16 && ids.all fun j => zero (69 + 64 * j) 3 && zero (76 + 64 * j) 4
    table := ids.map fun j =>
      { typ := le (64 + 64 * j) 2, plot := le (66 + 64 * j) 2, target := le (68 + 64 * j) 1, length := le (72 + 64 * j) 4
        digest := BitVec.ofNat 384 (leNat (n.flashBytes (a + 80 + 64 * j) 48).reverse) }
    sigOk := sigOk }
/-- The flash brings a seat this header next: step 7 runs, no flash image is in progress, and it is that of the next image in reading order (R568). -/
def State.flashBrings (s : State) (hdr : ImageHdr) : Bool :=
  s.step7 && (allSeats.all fun k => match (s.seat k).stream with | some t => t.src != .flash | none => true) &&
    match s.nv.seedImages[s.aon.seedRead]? with
    | some a => hdr == s.nv.imageAt a hdr.sigOk
    | none => false
/-- SEED_IMAGE_HEADER (R561): the header, table and signature of an image have arrived from a source; the image is accepted, or refused whole. The flash brings the images of the seed directory, in step 7 only (R568). (DESIGN CHOICE, log 44) -/
def execSeedImageHeader (seat : Seat) (src : SeedSource) (hdr : ImageHdr) (s : State) : Out :=
  let k := seat.val
  let here := match (s.seat k).stream with
    | some t => decide (t.src = src) && t.hdr.isNone && !t.refused && src != .flash
    | none => decide (src = .flash) && hdr.seat = k && s.flashBrings hdr
  if !s.seedOpen || !here then .next s
  else
    let s := if src = .flash then s.onAon fun a => { a with seedRead := a.seedRead + 1 } else s
    let t : Stream := ((s.seat k).stream.getD { src := src, next := 0, offset := 0 })
    match imageRefusal s k hdr with
    | some why =>
      let s := s.onSeat k fun r => { r with stream := some { t with refused := true } }
      let s := refuse s k (0x1F30 + k) 0 why 0
      let s := s.onSeat k fun r => match r.stream with
        | some t => { r with report := t.firstRep.getD r.report }
        | none => r
      .next (closeStream s k)
    | none =>
      let t := { t with hdr := some hdr, next := 0, turned := false, firstRep := none }
      let s := s.onSeat k fun r => { r with stream := some t }
      .next (if hdr.nsect = 0 then completeImage s k t else s)

/-! ## Hands (R128–R132) -/

/-- The decrypted header agrees with the table entry (R560). -/
def sectFits (e : SectEntry) (h : SectHdr) (bytes : Nat) : Bool :=
  decide (e.typ = h.typ) && decide (e.plot = h.plot) && decide (e.target = h.target) && decide (e.length = 64 + bytes)
/-- HAND_SECTION (R129, R130): the first 64 bytes of the next section give its header, which is checked; a refused section leaves its hand as it was. (DESIGN CHOICE, log 44) -/
def execHandSection (seat : Seat) (bytes : List Byte) (s : State) : Out :=
  let k := seat.val
  match s.expected k, s.sectKey k with
  | some e, some (_, key, iv) =>
    if e.typ != 1 || bytes.length != min 64 e.length then .next s
    else
      let hdr := sectHeader 1 (gcmCrypt key iv bytes)
      let index := 0x3000 + e.plot
      let sub := 0x10 + e.target
      if !hdr.reservedZero || hdr.size != 46080 || 511 < hdr.plot || 7 < hdr.target || !sectFits e hdr 368640 then
        .next (refuseSection s k index sub whyHeader 0)
      else
        let x := s.fab.hand hdr.plot hdr.target
        let errs := errsOf [(ownerOf x.own != some k, errNotOwner), (decide (x.state = .sowing) || x.wiping, errBusy), (s.plotFallowed hdr.plot, errFallowed)]
        if !errs.isEmpty then .next (refuseSection s k index sub (whyRefused errs).1 (whyRefused errs).2)
        else .next (onStream s k fun t => { t with sect := some (hdr.plot, hdr.target, hdr.arg) })
  | _, _ => .next s

/-- The seat whose stream brings words for the hand. -/
def State.sower (s : State) (p h : Nat) : Option Nat :=
  allSeats.find? fun k => match (s.seat k).stream with
    | some t => match t.sect with | some (a, b, _) => decide (a = p) && decide (b = h) | none => false
    | none => false
/-- A slot that runs in plot p names hand h, whether or not the hand runs in it (R130). -/
def State.slotNames (s : State) (p h : Nat) : Bool := s.plotClocked (s.fab.seqPlot p) && s.fab.slotNames p h
/-- HAND_SOWING_START (R130): once no running slot names a LIVE or PARKED hand, the hand enters SOWING and its old configuration and values are gone. (DEDUCED, log 42) -/
def execHandSowingStart (p : PlotIx) (h : HandIx) (s : State) : Out :=
  let x := s.fab.hand p.val h.val
  let runs := (x.state == .live || x.state == .parked) && s.slotNames p.val h.val
  if !s.clocksOn || (s.sower p.val h.val).isNone || decide (x.state = .sowing) || runs then .next s
  else
    let s := (s.showStops (isHand p.val h.val)).onNet fun n => n.stopHand p.val h.val
    .next (s.onFab fun f =>
      let f := (f.clearStore p.val h.val).clearDiff p.val h.val
      (f.setHand p.val h.val { f.hand p.val h.val with state := .sowing, ff := 0 }).regate s.nv.map.plots s.limp p.val)

/-- The first L48 line of a hand with two or more drivers (R70, R75). -/
def l48Fail (c : List (Nat × BitVec 64)) (p h : Nat) : Option Nat :=
  (List.range 512).findSome? fun w =>
    let n := l48Count c (w / 256) (w / 16 % 16) (w % 16)
    if 2 ≤ n then some (contentionWord p h (w / 256) (w / 16 % 16) 0 (w % 16) n) else none
/-- The rules of R85 and R86 for the border links that a hand uses. -/
def borderFail (f : Fabric) (c : List (Nat × BitVec 64)) (seat p h : Nat) : Option Nat :=
  let near := (List.range 4).filterMap fun d => if usesBorder c d then neighbour p d else none
  if near.any fun n => f.handOwner n h != some seat then some whyOwnership
  else if near.any fun n => !f.sameClock p n then some whyClock else none
/-- Why a hand whose words are in the store fails its sowing (R131, R132, R138). Where several checks fail, the spec does not say which reason is reported: digest or signature comes first, then contention, the yoke, the borders and power. (DESIGN CHOICE, log 99) -/
def sowFail (before s : State) (seat p h : Nat) (good : Bool) : Option (Nat × Nat) :=
  let f := s.fab
  let c := f.storeOf p h
  if !good then some (whyDigest, 0)
  else match l48Fail c p h with
  | some w => some (whyContention, w)
  | none => match f.vFail p h with
    | some r => some r
    | none => match borderFail f c seat p h with
      | some r => some (r, 0)
      | none => if allSeats.any (overRotation before s) then some (whyPower, 0) else none
/-- The hand with the arrived words in its store, SOWN, with its difference counts (R131, R135). -/
def sownState (s : State) (seat p h : Nat) (cfg : List (Nat × BitVec 64)) : State :=
  let timed := match (s.seat seat).stream with | some t => (match t.sect with | some x => x.2.2 | none => 0) | none => 0
  let f := (cfg.filter fun e => decide (e.1 < handWords)).foldl (fun (f : Fabric) e => f.setCfgWord p h e.1 e.2) s.fab
  let f := f.setHand p h { f.hand p h with state := .sown, timed := timed, ff := initBank (f.storeOf p h) }
  { s with fab := (List.range 8).foldl (fun f g =>
    if g != h && (f.hand p g).state.configured then f.setDiff p h g (storeDiff (f.storeOf p h) (f.storeOf p g)) else f) f }
/-- HAND_SOWING_END (R131, R132): the whole section is in, the ciphertext of its header and of its body and its tag, its words in the hand store; the hand enters SOWN with its difference counts, or EMPTY with a cleared store. The image's signature has been accepted with its header (R561). -/
def execHandSowingEnd (p : PlotIx) (h : HandIx) (head body tag : List Byte) (s : State) : Out :=
  match s.sower p.val h.val with
  | none => .next s
  | some k =>
    match s.sectionIn k (head ++ body ++ tag) with
    | none => .next s
    | some x =>
    if !s.clocksOn || (s.fab.hand p.val h.val).state != HState.sowing then .next s
    else
      let t := sownState s k p.val h.val (nonzero (words64 x.content))
      match sowFail s t k p.val h.val x.good with
      | none => .next (nextSection t k)
      | some (why, detail) =>
        let s := s.onFab fun f =>
          let f := f.clearStore p.val h.val
          f.setHand p.val h.val { f.hand p.val h.val with state := .empty, ff := 0 }
        .next (refuseSection s k (0x3000 + p.val) (0x10 + h.val) why detail)

/-- Sections in progress whose hand has left the sowing seat, or whose plot is fallowed, end there (R129). -/
def sweepSections (s : State) : State :=
  allSeats.foldl (fun s k => match (s.seat k).stream with
    | some t => match t.sect with
      | some (p, h, _) =>
        if s.fab.handOwner p h != some k then refuseSection s k (0x3000 + p) (0x10 + h) whyOwnership errNotOwner
        else if s.plotFallowed p then refuseSection s k (0x3000 + p) (0x10 + h) whyState errFallowed
        else s
      | none => s
    | none => s) s
/-- The stream ends early: the hand section in progress fails, and the image is abandoned (R132, R470). -/
def endStream (s : State) (seat : Nat) : State :=
  let s := match (s.seat seat).stream with
    | some t => match t.sect with
      | some (p, h, _) =>
        if (s.fab.hand p h).state == HState.sowing then s.onFab fun f =>
          let f := f.clearStore p h
          f.setHand p h { f.hand p h with state := .empty, ff := 0 }
        else s
      | none => s
    | none => s
  s.onSeat seat fun r => { r with stream := none }

/-! ## Block memories (R166–R168) -/

/-- The check bits of element a of a memory's content. (DEDUCED, log 41) -/
def elemCheck (x : BitVec 36864) (a : Nat) : BitVec 8 :=
  Config.hamming (BitVec.ofNat 64 (natOf (fun j => x.getLsbD (72 * a + 9 * (j / 8) + j % 8)) 64))
/-- The stored bits of a section's content: in ECC mode the ninth bits are computed. (DEDUCED, log 41) -/
def bmContent (x : BitVec 36864) (ecc : Bool) : BitVec 36864 :=
  if ecc then BitVec.ofNat 36864 (natOf (fun i => if i % 9 = 8 then (elemCheck x (i / 72)).getLsbD (i % 72 / 9) else x.getLsbD i) 36864) else x
/-- A static setup word without reserved bits and without a combination that R156 forbids. -/
def bmSetupOk (v : Nat) : Bool :=
  bmWordOk v && decide (v < 65536) && ((v % 8 = 6) == (v / 8 % 8 = 6)) && !(v.testBit 10 && v % 8 != 6)
/-- BM_SECTION (R167, R168): a header that names another memory than the table touches none; any other fault leaves the memory cleared with the section's setup. (DEDUCED, log 41) -/
def execBmSection (seat : Seat) (head body tag : List Byte) (s : State) : Out :=
  let k := seat.val
  match s.expected k, s.sectionIn k (head ++ body ++ tag) with
  | some e, some x =>
    if e.typ != 2 || !s.clocksOn then .next s
    else
      let hdr := x.header
      let index := 0x3000 + e.plot
      let sub := 0x80 + e.target
      if 511 < hdr.plot || 63 < hdr.target || e.plot != hdr.plot || e.target != hdr.target then .next (refuseSection s k index sub whyHeader 0)
      else
        let p := hdr.plot
        let live := (List.range 8).any fun h => s.fab.handOwner p h = some k && (s.fab.hand p h).state = .live
        let errs := errsOf [(s.fab.bmOwner p hdr.target != some k, errNotOwner), (live, errState), (s.plotFallowed p, errFallowed)]
        if !errs.isEmpty then .next (refuseSection s k index sub (whyRefused errs).1 (whyRefused errs).2)
        else
          let m := s.fab.bm p hdr.target
          let m := { (Bm.clear { m with word := setBits m.word 12 0 hdr.arg }) with clearing := false }
          let put := fun (m : Bm) => s.onFab fun f => f.setBm p hdr.target m
          if !sectFits e hdr 4608 || !hdr.reservedZero || hdr.size != 4608 || !bmSetupOk hdr.arg then .next (refuseSection (put m) k index sub whyHeader 0)
          else if !x.good then .next (refuseSection (put m) k index sub whyDigest 0)
          else .next (nextSection (put { m with bits := bmContent (BitVec.ofNat 36864 (leNat x.content)) (bmEcc m.word) }) k)
  | _, _ => .next s

/-! ## Engine blocks (R257, R258) -/

/-- ENGINE_SECTION (R258): TYPE 3 loads an instruction block, TYPE 4 a local data block; a header that names another block than the table touches none, and any other fault leaves the block zero. (DEDUCED, log 41) -/
def execEngineSection (seat : Seat) (head body tag : List Byte) (s : State) : Out :=
  let k := seat.val
  match s.expected k, s.sectionIn k (head ++ body ++ tag) with
  | some e, some y =>
    if !(e.typ = 3 || e.typ = 4) || !s.clocksOn then .next s
    else
      let hdr := y.header
      let ldb := decide (e.typ = 4)
      let n := if ldb then 4096 else 8192
      let index := 0x3200 + e.plot
      let sub := (if ldb then 0x30 else 0x20) + e.target
      if 511 < hdr.plot || 15 < hdr.target || e.plot != hdr.plot || e.target != hdr.target then .next (refuseSection s k index sub whyHeader 0)
      else
        let p := hdr.plot
        let x := s.eng.engine p
        let own := ownerOf (if ldb then tget 0 x.ldbOwn hdr.target else tget 0 x.imbOwn hdr.target)
        let busy := (List.range 8).any fun h => s.fab.handOwner p h = some k && ((s.eng.thread p h).state = .running || (s.eng.thread p h).state = .waiting)
        let errs := errsOf [(own != some k, errNotOwner), (busy, errState)]
        if !errs.isEmpty then .next (refuseSection s k index sub (whyRefused errs).1 (whyRefused errs).2)
        else
          let s := s.onEng fun e => e.zeroBlock p ldb hdr.target
          if !sectFits e hdr n || !hdr.reservedZero || hdr.size != n then .next (refuseSection s k index sub whyHeader 0)
          else if !y.good then .next (refuseSection s k index sub whyDigest 0)
          else
            .next (nextSection (s.onEng fun e => (nonzero (y.content.take n)).foldl (fun (e : Engines) b =>
              if ldb then e.setDmByte p (n * hdr.target + b.1) b.2 else e.setImByte p (n * hdr.target + b.1) b.2) e) k)
  | _, _ => .next s

/-! ## Staged items (R566, R567) -/

/-- One item of a staging section, performed as the seat's own request. -/
def stageOne (s : State) (seat : Nat) (i : StageItem) : OpOut :=
  let long := decide (52 < i.data.length)
  if i.func = 0x03 then opStage s seat i.index.toNat i.sub.toNat i.data long
  else if i.func = 0x0C then opWinWrite s seat i.index.toNat i.data long
  else .fail s [errNoObject]
/-- All items in order; or the first that any request would receive an error for, with its code. -/
def stageEach (seat : Nat) : List StageItem → State → State × Option (StageItem × Nat)
  | [], s => (s, none)
  | i :: t, s =>
    let r := stageOne s seat i
    if r.err = errOk then stageEach seat t r.st else (r.st, some (i, r.err))
/-- The TURN of a staging section: a failure raises TURN_FAILED (R567). (DEDUCED, log 40) -/
def sectionTurn (s : State) (seat : Nat) (source : Nat) : State :=
  let r := opTurn s seat [] false { items := [], at? := none, source := source, quiet := true }
  if r.err = errOk then onStream r.st seat fun t => { t with turned := true }
  else if r.err = errCheckFailed then
    let rep := (r.st.seat seat).report
    onStream (r.st.raise { seat := seat, code := 0x0205, index := rep.index, a := rep.reason }) seat fun t => { t with turned := true }
  else (r.st.raise { seat := seat, code := 0x0205, index := s.freeIndex, a := whyState }).drawn
/-- Refuse a staging section before any item has failed: R564 names its target by the failing item, so INDEX and SUB are free. (DEDUCED, log 40) -/
def refuseStaging (s : State) (seat reason : Nat) : State :=
  (refuseSection s seat s.freeIndex (Config.freeNat s.aon.free / 65536 % 256) reason 0).drawn
/-- STAGING_SECTION (R566, R567). -/
def execStagingSection (seat : Seat) (head body tag : List Byte) (s : State) : Out :=
  let k := seat.val
  match s.expected k, (s.seat k).stream, s.sectionIn k (head ++ body ++ tag) with
  | some e, some t, some x =>
    if e.typ != 5 then .next s
    else
      let hdr := x.header
      let items := (sectionItems 257 x.content).getD []
      if hdr.typ != 5 || e.plot != 0 || e.target != 0 || e.length != 64 + hdr.size || !hdr.reservedZero || 1 < hdr.target || !inRange 5 14336 hdr.size ||
          !inRange 1 256 hdr.arg || items.length != hdr.arg then .next (refuseStaging s k whyHeader)
      else if !x.good then .next (refuseStaging s k whyDigest)
      else
        match stageEach k items s with
        | (_, some (i, code)) => .next (refuseSection s k i.index.toNat i.sub.toNat whyHeader code)
        | (s', none) => .next (nextSection (if hdr.target = 1 then sectionTurn s' k (reportSource t.src) else s') k)
  | _, _, _ => .next s

end Sys2Proof.Machine
end

