-- ==== Sys2Proof/Machine/Findings.lean ====
section
/-! DEFINITION. What a check of lanes and bonds finds and what becomes of it: feed lanes, configuration bonds and riser lanes, in the round and at start-up (R39, R149, R150, R343–R346, R557). -/

namespace Sys2Proof.Machine

/-! ## Feed links (R34, R39) -/

/-- Data lanes 0–31 with control lanes 64 and 65 are one half of a feed link; the other lanes are the other half. (DEDUCED, log 36) -/
def feedHalf (lane : Nat) : Bool := decide (lane < 32) || lane = 64 || lane = 65
/-- What a feed link's own lanes allow: 0 full width, 1 half width, 3 down. Six spares cover failed lanes of the link, or of the half in use. -/
def feedWidth (failed : List Nat) : Nat :=
  let low := (failed.filter feedHalf).length
  if failed.length ≤ 6 then 0 else if low ≤ 6 || failed.length - low ≤ 6 then 1 else 3
/-- The one link that may carry the traffic of a column whose own feed link is down. -/
def feedCandidate (c : Nat) : Nat := if c % 16 = 0 then c + 1 else c - 1
/-- State of a column's feed link: 0 full, 1 half width, 2 carried by a neighbour, 3 down (R499). -/
def FallowMap.feedAt (m : FallowMap) (c : Nat) : Nat := tget 0 m.feed c
/-- Link k carries the traffic of a second column. -/
def FallowMap.lends (m : FallowMap) (k : Nat) : Bool := m.feed.any fun e => e.2 = 2 && feedCandidate e.1 = k
/-- A link's state changes. -/
def FallowMap.setFeed (m : FallowMap) (c v : Nat) : FallowMap := { m with feed := tput 0 m.feed c v }
/-- A lane of a column's feed link has failed: the new map, and the plots that it fallows. -/
def FallowMap.feedFails (m : FallowMap) (c lane : Nat) : FallowMap × List Nat :=
  let old := tget [] m.feedLanes c
  if old.contains lane || 2 ≤ m.feedAt c then (m, [])
  else
    let failed := old ++ [lane]
    let m := { m with feedLanes := tput [] m.feedLanes c failed }
    if feedWidth failed != 3 then (m.setFeed c (feedWidth failed), [])
    else
      let k := feedCandidate c
      -- a column that this link carried has no candidate left
      let guests := (m.feed.filter fun e => e.2 = 2 && feedCandidate e.1 = c).map (·.1)
      let m := guests.foldl (fun m g => m.setFeed g 3) m
      let lost := 2 ≤ m.feedAt k || m.lends k
      (m.setFeed c (if lost then 3 else 2), guests.map (· + 256) ++ if lost then [c + 256] else [])

/-! ## Configuration bonds (R149, R150) -/

/-- A bond of a group fails in the round's check: a spare is due at the next slot boundary, or, with the group's one spare in use or due already, the plot is fallowed (R149, R150). -/
def bondFailed (s : State) (p g : Nat) : State :=
  let x := s.fab.plot p
  if s.plotFallowed p then s
  else if (tget [] s.nv.map.bonds p).contains g || x.bondsDue.any (fun b => b.1 = g) then fallowPlot s p
  else
    let hands : BitVec 8 := BitVec.ofNat 8 (natOf (fun h => x.liveSince.getLsbD (64 * h + g % 64)) 8)
    s.onFab fun f => f.setPlot p { x with bondsDue := x.bondsDue ++ [(g, hands)] }
/-- The bond groups of share k of every plot have been checked: from here on only hands that run now count as live since. -/
def Fabric.shareChecked (f : Fabric) (k : Nat) : Fabric :=
  { f with plots := f.plots.foldl (fun l e =>
      let x := e.2
      let keep := (List.range 8).foldl (fun (m : BitVec 512) h =>
        if x.live = some h && !x.gated then m else m &&& ~~~(1#512 <<< (64 * h + k))) x.liveSince
      tput {} l e.1 { x with liveSince := keep }) f.plots }

/-! ## Findings -/

/-- One finding of the round: its share of the lanes is the one of R342, and the bonds are shared in the same way, a group of R149 with number n mod 64 in the rounds r with r mod 64 equal to it. (DESIGN CHOICE, log 100) -/
def finding (s : State) (f : Finding) : State :=
  let share := s.mc.hk.rounds % 64
  match f with
  | .riserLane p lane => if lane.val % 64 = share then laneFailed s p.val lane.val else s
  | .cfgBond p g => if g.val % 64 = share then bondFailed s p.val g.val else s
  | .feedLane c lane =>
    if lane.val % 64 = share then
      let r := s.nv.map.feedFails c.val lane.val
      sweepSections (r.2.foldl fallowPlot (s.onMap fun _ => r.1))
    else s
/-- Attention that a lane's fate brings (R343–R346): code. -/
def LaneFate.code : LaneFate → Option Nat
  | .known | .recorded => none
  | .spared _ _ => some 0x0304
  | .half _ => some 0x070C
  | .down => some 0x070D
/-- A plot fallowed in step 5, with its attention to the dealer. -/
def riseFallow (s : State) (p : Nat) : State :=
  if s.plotFallowed p then s else (fallowPlot s p).raise { seat := 0, code := 0x0704, index := 0x3000 + p, a := p }
/-- One finding of step 5 (R557): spares are mapped at once, and every attention goes to the dealer. -/
def riseFinding (s : State) (f : Finding) : State :=
  match f with
  | .riserLane p lane =>
    let code := ((s.nv.map.riser p.val).laneFails lane.val).2.code
    let s := laneFailed s p.val lane.val
    match code with
    | some k => s.raise { seat := 0, code := k, index := 0x3400 + p.val, a := p.val, b := lane.val }
    | none => s
  | .cfgBond p g =>
    if s.plotFallowed p.val then s
    else if (tget [] s.nv.map.bonds p.val).contains g.val then riseFallow s p.val
    else (s.onMap fun m => { m with bonds := tput [] m.bonds p.val (g.val :: tget [] m.bonds p.val) }).raise
      { seat := 0, code := 0x0703, index := 0x3000 + p.val, a := p.val, b := g.val }
  | .feedLane c lane =>
    let r := s.nv.map.feedFails c.val lane.val
    r.2.foldl riseFallow (s.onMap fun _ => r.1)

end Sys2Proof.Machine
end

