-- ==== Sys2Proof/Machine/Protocol.lean ====
section
/-! DEFINITION. The dictionary protocol: frames, sessions, transactions, operations, segmented transfers and the dictionary service queues (R441–R489, R500, R511, R640, R641, R675). -/

namespace Sys2Proof.Machine

/-! ## Frames that the device sends (R445, R448, R455) -/

/-- Bytes of the shortest CAN FD data field that holds n bytes. -/
def fieldLen (n : Nat) : Nat := ([12, 16, 20, 24, 32, 48, 64].find? fun k => n ≤ k).getD 64
/-- Bytes 0 to n − 9 of a reply's data field. -/
def Reply.field (r : Reply) : List Byte :=
  let l := [r.status, r.error] ++ leBytes 2 r.aux.toNat ++ r.data
  l ++ List.replicate (fieldLen (l.length + 8) - 8 - l.length) 0
/-- The identifier of a reply frame (R445): CLASS REPLY. -/
def Reply.ident (r : Reply) (node : Nat) : Nat :=
  2 * 2 ^ 27 + r.prio.toNat * 2 ^ 24 + r.seat % 8 * 2 ^ 21 + node * 2 ^ 16 + r.seq.toNat * 256 + r.func.toNat
/-- TAG (R455): the leftmost 8 bytes of the CMAC over identifier, counter and data field. -/
def Reply.tagged (r : Reply) (key : BitVec 256) (node ctr : Nat) : Reply :=
  { r with tag := BitVec.ofNat 64 ((Config.cmac key (leBytes 4 (r.ident node) ++ leBytes 4 ctr ++ r.field)).toNat >>> 64) }

/-- TAG of a request under a counter (R445, R448, R455): CLASS REQUEST, and the data field of header, data and padding. -/
def Req.tagUnder (r : Sys2Proof.Req) (func : Nat) (key : BitVec 256) (ctr : Nat) : BitVec 64 :=
  let ident := 2 ^ 27 + r.prio.toNat * 2 ^ 24 + r.seat.val * 2 ^ 21 + r.node.toNat * 2 ^ 16 + r.seq.toNat * 256 + func
  BitVec.ofNat 64 ((Config.cmac key (leBytes 4 ident ++ leBytes 4 ctr ++ leBytes 2 r.index.toNat ++ [r.sub, r.len] ++ r.data)).toNat >>> 64)
/-- The distance c − e of the first counter from the expected one on under which a request's tag verifies (R456). -/
def State.authOf (s : State) (r : Sys2Proof.Req) (func : Nat) : Option Nat :=
  let x := s.seat r.seat.val
  (List.range 16).find? fun d => Req.tagUnder r func x.kreq (x.reqCtr + d) == r.tag
/-- Every segmented transfer of the seat ends early; a seed image stream that it fed is abandoned (R470). -/
def endSeg (s : State) (k : Nat) : State :=
  let write := match (s.seat k).seg with | some g => g.isWrite && g.index = 0x1F30 + k | none => false
  let s := if write then endStream s k else s
  s.onSeat k fun r => { r with seg := none }
/-- A seat's session ends (R457). -/
def endSession (s : State) (k : Nat) : State := (endSeg s k).onSeat k SeatRec.endSession
/-- A session whose counters are used up ends (R457). -/
def wearSession (s : State) (k : Nat) : State :=
  let r := s.seat k
  if r.isOpen && (decide (4294967295 ≤ r.reqCtr) || decide (4294967295 ≤ r.repCtr)) then endSession s k else s
/-- Send a reply: under the session's next reply counter, or with TAG 0 when the seat has no session (R456, R458). (DESIGN CHOICE, log 22) -/
def sendReply (s : State) (r : Reply) : State :=
  let x := s.seat r.seat
  if x.isOpen then wearSession ((s.send (r.tagged x.krep s.aon.node.toNat x.repCtr)).onSeat r.seat fun x => { x with repCtr := x.repCtr + 1 }) r.seat
  else s.send r
/-- The reply to a request, before its tag. -/
def replyTo (s : State) (r : Req) (func err aux : Nat) (data : List Byte) : Reply :=
  { seat := r.seat.val, prio := r.prio, seq := r.seq, func := BitVec.ofNat 8 func, status := statusByte (s.seat r.seat.val)
    error := BitVec.ofNat 8 err, aux := BitVec.ofNat 16 aux, data := data }
/-- Reply, and keep the reply as that of the session's last completed transaction (R459). (DESIGN CHOICE, log 22) -/
def respond (s : State) (r : Req) (func err aux : Nat) (data : List Byte) : State :=
  let rep := replyTo s r func err aux data
  let s := if (s.seat r.seat.val).isOpen then s.onSeat r.seat.val fun x => { x with last := some rep } else s
  sendReply s rep
/-- Reply without completing a transaction. (DESIGN CHOICE, log 22) (DEDUCED, log 76) -/
def respondOnly (s : State) (r : Req) (func err aux : Nat) (data : List Byte) : State := sendReply s (replyTo s r func err aux data)
/-- DESIGN CHOICE, log 22. -/
def State.clearOut (s : State) : State := s.onMc fun m => { m with out := [] }

/-! ## Admission (R442, R444, R449, R456, R458, R459, R470) -/

/-- What becomes of a request frame: it is performed, or admission has settled it. -/
inductive Admission where
  | go (s : State)
  | done (s : State)
/-- The request names an identity object for READ (R458). -/
def readsIdentity (r : Req) (func : Nat) : Bool := func = 0x01 && inRange 0x1000 0x100F r.index.toNat
/-- The request against the seat's running and completed transactions; `seg` marks SEG_DATA and SEG_ACK. -/
def acceptSeq (s : State) (r : Req) (func : Nat) (seg : Bool) : Admission :=
  let k := r.seat.val
  let x := s.seat k
  let again := match x.last with | some l => decide (l.seq = r.seq) && decide (l.func.toNat = func) | none => false
  let own := match x.seg with | some g => decide (g.seq = r.seq) | none => false
  if own && seg then .go s
  else if again then .done (sendReply s (x.last.getD {}))
  else if own || x.running == some r.seq then .done s
  else if x.running.isSome || (seg && x.seg.isSome) then .done (respondOnly s r func errBusy 0 [])
  else if x.seg.isSome then .go (endSeg s k)
  else .go s
/-- DEDUCED, log 76. -/
def accept (s : State) (r : Req) (func : Nat) (seg : Bool) : Admission :=
  let s := s.clearOut
  let k := r.seat.val
  let x := s.seat k
  if !s.busUp || r.node != s.aon.node || r.short then .done s
  else if s.aon.failedTest != 0 && !readsIdentity r func then .done s
  else if !x.isOpen then (if readsIdentity r func then .go s else .done (respondOnly s r func errAuth 0 []))
  else match s.authOf r func with
    | none => .done (s.onSeat k fun x => { x with rejected := sat32 (x.rejected + 1) })
    | some d => acceptSeq (s.onSeat k fun x => { x with reqCtr := x.reqCtr + d + 1 }) r func seg

/-! ## The operations (R461–R465, R475, R500) -/

/-- The data bytes that LEN announces, and whether LEN exceeds the data field (R449). -/
def Req.payload (r : Sys2Proof.Req) : List Byte := r.data.take r.len.toNat
def Req.long (r : Sys2Proof.Req) : Bool := decide (r.data.length < r.len.toNat)

/-- The next readable error log entry at or after the seat's cursor (R500). -/
def nextLog (s : State) (seat : Nat) : Option LogEntry :=
  s.stk.log.find? fun e => decide ((s.seat seat).cursor ≤ e.seq) && s.stk.mayRead seat e
/-- READ. -/
def opRead (s : State) (seat i sub : Nat) (data : List Byte) (long : Bool) : OpOut :=
  let errs := objErrs s seat i sub 0 data long
  if !errs.isEmpty then .fail s errs
  else if i = 0x2500 && sub = 3 then
    match nextLog s seat with
    | none => .fail s [errState]
    | some e => { st := s.onSeat seat fun r => { r with cursor := wrap32 (e.seq + 1) }, data := e.bytes }
  else match placeOf i with
    | .user =>
      if sub = 0 then { st := s, data := leBytes 1 (umCount (s.lnk.umapAt (i - 0x8000))) }
      else
        let r := userRead s i sub
        if r.2.1 = respOkay then { st := r.1, data := r.2.2 } else { st := r.1, err := errOfResp r.2.1 }
    | _ => { st := s, data := objValue s seat i sub }

/-- A seat writes its memory secret (R351, R355, R380, R556): the root is derived, MRAM holds the sealed copy, and every sealed region of the seat without a key is wiped. -/
def writeSms (s : State) (k : Nat) (v : BitVec 256) : State :=
  let s := s.onNv fun n => { n with smsCopy := tput none n.smsCopy k (some v) }
  let s := s.onSeat k fun r => { r with sms := some v, smr := some (smrOf s.nv.duk k s.stk.bootNonce v) }
  let keyless := (s.stk.regions.filter fun e => ownerOf e.2.own = some k && e.2.keyless).map fun e => e.1
  keyless.foldl (fun s x => wipeRegion s (x / 32) (x % 32)) s
/-- The effect of an accepted WRITE of an object. -/
def applyWrite (s : State) (seat i sub : Nat) (data : List Byte) : State :=
  let v := leNat data
  if i = 0x1001 then s.onNv fun n => if sub = 1 then { n with nominalRate := v } else { n with dataRate := v }
  else if inRange 0x1100 0x1107 i then s.onSeat (i - 0x1100) fun r => { r with rejected := 0 }
  else if i = 0x2300 then s.onHk fun h => { h with clockFaults := 0 }
  else if i = 0x2500 then s.onSeat seat fun r => { r with cursor := v }
  else if i = 0x2600 then writeSms s (sub - 1) (BitVec.ofNat 256 (leNat data.reverse))
  else if i = 0x2800 then s.onNet fun n => n.onScr fun c => if sub = 1 then { c with corrected := 0 } else { c with uncorr := 0 }
  else if inRange 0x3000 0x31FF i then s.onFab fun f =>
    let x := f.plot (i - 0x3000)
    f.setPlot (i - 0x3000) (match sub with
      | 0xC0 => { x with refusedCalls := 0 } | 0xC1 => { x with lostCalls := 0 } | 0xC2 => { x with kittyRefusals := 0 }
      | 0xC3 => { x with cfgCorrected := 0 } | 0xC4 => { x with memportRefusals := 0 } | 0xC5 => { x with bmSbe := 0 }
      | 0xC6 => { x with bmDbe := 0 } | _ => x)
  else if inRange 0x3200 0x33FF i then s.onEng fun e =>
    let x := e.engine (i - 0x3200)
    e.setEngine (i - 0x3200) (if sub = 0x60 then { x with memCorr := 0 } else { x with lostLines := 0 })
  else if inRange 0x3400 0x35FF i then s.onStk fun k =>
    let x := k.riser (i - 0x3400)
    k.setRiser (i - 0x3400) (match sub with
      | 0x40 => { x with corrEvents := 0 } | 0x41 => { x with uncorrEvents := 0 } | 0x42 => { x with crcEvents := 0 }
      | 0x43 => { x with integrityEvents := 0 } | 0x44 => { x with cmdRetries := 0 } | 0x45 => { x with retiredHits := 0 }
      | 0x46 => { x with rekeys := 0 } | 0x47 => { x with holdTimeouts := 0 } | _ => x)
  else if inRange 0x4000 0x41FF i then s.onPort (i - 0x4000) fun x =>
    match sub with
    | 0x10 => { x with pktsRx := 0 } | 0x11 => { x with bytesRx := 0 } | 0x12 => { x with pktsTx := 0 } | 0x13 => { x with bytesTx := 0 }
    | n => { x with cnt := tput 0 x.cnt n 0 }
  else if inRange 0x4300 0x433F i then s.onLnk fun l =>
    let x := l.bdma (i - 0x4300)
    l.setBdma (i - 0x4300) (if sub = 5 then { x with requests := 0 } else { x with naks := 0 })
  else s
/-- WRITE (R462). -/
def opWrite (s : State) (seat i sub : Nat) (data : List Byte) (long : Bool) : OpOut :=
  let errs := objErrs s seat i sub 1 data long
  if !errs.isEmpty then .fail s errs
  else match placeOf i with
    | .user =>
      let r := userWrite s i sub data
      { st := r.1, err := errOfResp r.2 }
    | _ => { st := applyWrite s seat i sub data }
/-- WIN_READ (R464). -/
def opWinRead (s : State) (seat i : Nat) (data : List Byte) (long : Bool) : OpOut :=
  let r := winReadErrs s seat i data long
  if r.1.isEmpty then { st := s, data := r.2 } else .fail s r.1
/-- PING. -/
def opPing (s : State) (data : List Byte) (long : Bool) : OpOut := if long || !data.isEmpty then .fail s [errTypeLength] else { st := s }
/-- Clear the classes whose latest event has a sequence number of `a` or less (R475). -/
def SeatRec.acknowledge (r : SeatRec) (a : Nat) : SeatRec :=
  [1, 2, 3, 4, 5, 6, 7].foldl (fun r c =>
    if r.pend.getLsbD c && decide ((tget {} r.events c).seq ≤ a) then
      { r with pend := r.pend &&& ~~~(BitVec.ofNat 8 (2 ^ c)), counts := tput 0 r.counts c 0 }
    else r) r
/-- ATTN_ACK. -/
def opAttnAck (s : State) (seat : Nat) (data : List Byte) (long : Bool) : OpOut :=
  let a := leNat data
  let errs := errsOf [(long || data.length != 4, errTypeLength), (decide ((s.seat seat).attnSeq < a), errRange)]
  if errs.isEmpty then { st := s.onSeat seat fun r => r.acknowledge a } else .fail s errs

/-! ## Dictionary service queues: replies (R511) -/

def mcQueue (k j : Nat) : Nat := 40976 + 16 * k + j
/-- The seat owns the reply queue, which runs and takes packets from the MC. (DEDUCED, log 79) -/
def State.replyProd (s : State) (seat rq : Nat) : Option Nat :=
  let q := s.net.queue rq
  if qdOwner q.dir = some seat && q.runs then q.prodOf epMc else none
/-- Push a reply packet; none while the MC waits for credit (R207). (DEDUCED, log 79) -/
def pushReply (s : State) (seat rq rank : Nat) (r : Reply) : Option State :=
  let l := [r.status, r.error] ++ leBytes 2 r.aux.toNat ++ r.data
  match s.replyProd seat rq with
  | none => none
  | some i =>
    let q := s.net.queue rq
    let n := (l.length + 31) / 32
    if (q.prod i).credits < (min n (qdMaxlen q.dir + 1) : Nat) then none
    else
      let w := pushWords q i rank (queueWords l)
      some (s.onNet fun m => m.setQueue rq (if w.2 then w.1.commit i l.length else w.1.endDiscard i))

/-- Answer whatever waits for a seat's turn: its frame, or its dictionary service request. A reply packet that finds no credit is kept for a retransmission (R459). -/
def answerTurn (s : State) (seat : Nat) (t : Turn) (err : Nat) (data : List Byte) : State :=
  let rep := fun (r : Reply) => { r with status := statusByte (s.seat seat), error := BitVec.ofNat 8 err, aux := BitVec.ofNat 16 data.length, data := data }
  match t.req, t.via with
  | some r, none => sendReply (s.onSeat seat fun x => { x with running := none, last := some (rep r) }) (rep r)
  | some r, some (rq, rank) =>
    let s := s.onSeat seat fun x => { x with mcRunning := none, mcLast := some (rep r) }
    (pushReply s seat rq rank (rep r)).getD s
  | none, _ => s
/-- A cancelled turn that an immediate TURN of the seat's other stream waits for: the spec states no reply, so the error code is free. (DEDUCED, log 77) -/
def cancelled (before s : State) (seat : Nat) : State :=
  match (before.seat seat).turn, (s.seat seat).turn with
  | some t, none => if t.at?.isNone && t.req.isSome then (answerTurn s seat t (Config.freeBits 8 s.aon.free).toNat []).drawn else s
  | _, _ => s

/-! ## Requests over the bus -/

/-- Complete an operation: its reply, or the wait for its turn. -/
def finish (s : State) (r : Req) (func : Nat) (o : OpOut) : State :=
  if o.later then o.st.onSeat r.seat.val fun x => { x with
    running := some r.seq
    turn := x.turn.map fun t => { t with req := some (replyTo s r func 0 0 []), via := none } }
  else respond o.st r func o.err o.data.length o.data
/-- A request of an operation that completes at once. -/
def serve (s : State) (r : Req) (func : Nat) (op : State → Nat → List Byte → Bool → OpOut) : Out :=
  match accept s r func false with
  | .done s => .next s
  | .go s => .next (finish s r func (op s r.seat.val (Req.payload r) (Req.long r)))

/-- A request waits for the fill of the scratchpad block that it reaches (R175). -/
def holdFill (s : State) (func : Nat) (r : Req) : State :=
  let s := s.onMc fun m => { m with heldFill := m.heldFill ++ [(func, r)] }
  -- a segmented transfer runs already
  if func ≤ 2 then s.onSeat r.seat.val fun x => { x with running := some r.seq } else s
/-- A READ that has been accepted. -/
def performRead (s : State) (r : Req) : State :=
  if userHeld s r.seat.val r.index.toNat r.sub.toNat 0 (Req.payload r) (Req.long r) then holdFill s 0x01 r
  else finish s r 0x01 (opRead s r.seat.val r.index.toNat r.sub.toNat (Req.payload r) (Req.long r))
/-- A WRITE that has been accepted. -/
def performWrite (s : State) (r : Req) : State :=
  if userHeld s r.seat.val r.index.toNat r.sub.toNat 1 (Req.payload r) (Req.long r) then holdFill s 0x02 r
  else finish s r 0x02 (opWrite s r.seat.val r.index.toNat r.sub.toNat (Req.payload r) (Req.long r))
def execRead (r : Req) (s : State) : Out :=
  match accept s r 0x01 false with
  | .done s => .next s
  | .go s => .next (performRead s r)
/-- NEXT (R500): a READ of 0x2500.03; no other request is this command. -/
def execNextEntry (r : Req) (s : State) : Out :=
  if r.index = 0x2500 && r.sub = 0x03 then serve s r 0x01 fun s k d l => opRead s k 0x2500 0x03 d l else .next s
/-- A WRITE in an application window is held and performed after the commit (R675). (DESIGN CHOICE, log 78) -/
def serveWrite' (s : State) (r : Req) : Out :=
  match accept s r 0x02 false with
  | .done s => .next s
  | .go s =>
    if s.mc.window then .next ((s.onMc fun m => { m with heldWrites := m.heldWrites ++ [r] }).onSeat r.seat.val fun x => { x with running := some r.seq })
    else .next (performWrite s r)
def execWrite (r : Req) (s : State) : Out := serveWrite' s r
/-- SMS_WRITE (R351, R355): a WRITE of 0x2600.01–.08; no other request is this command. -/
def execSmsWrite (r : Req) (s : State) : Out := if r.index = 0x2600 && inRange 1 8 r.sub.toNat then serveWrite' s r else .next s
/-- The WRITEs held by the window are performed in the order of their arrival, each answered (R675). (DESIGN CHOICE, log 78) -/
def releaseWrites (s : State) : State :=
  let l := s.mc.heldWrites
  l.foldl (fun s r =>
    let s := s.onSeat r.seat.val fun x => { x with running := none }
    if (s.seat r.seat.val).isOpen then performWrite s r else s)
    (s.onMc fun m => { m with heldWrites := [] })
def execStage (r : Req) (s : State) : Out := serve s r 0x03 fun s k d l => opStage s k r.index.toNat r.sub.toNat d l
def execCheck (r : Req) (s : State) : Out := serve s r 0x04 fun s k d l => opCheck s k d l
def execTurn (r : Req) (s : State) : Out := serve s r 0x05 fun s k d l => opTurn s k d l { items := [], at? := none, source := 1 }
def execDiscard (r : Req) (s : State) : Out := serve s r 0x06 fun s k d l =>
  let o := opDiscard s k d l
  { o with st := cancelled s o.st k }
def execWinRead (r : Req) (s : State) : Out := serve s r 0x0B fun s k d l => opWinRead s k r.index.toNat d l
def execWinWrite (r : Req) (s : State) : Out := serve s r 0x0C fun s k d l => opWinWrite s k r.index.toNat d l
def execPing (r : Req) (s : State) : Out := serve s r 0x0F fun s _ d l => opPing s d l
def execAttnAck (r : Req) (s : State) : Out := serve s r 0x10 fun s k d l => opAttnAck s k d l
/-- The codes of R447 that a REQUEST may carry. -/
def requestFunc (f : Nat) : Bool := inRange 0x01 0x0C f || inRange 0x0E 0x10 f
/-- RESERVED_FUNC (R446, R447): NO_OBJECT. -/
def execReservedFunc (r : Req) (func : Byte) (s : State) : Out :=
  if requestFunc func.toNat then .next s else serve s r func.toNat fun s _ _ _ => .fail s [errNoObject]
/-- SESSION_CLOSE (R457, R461): the reply still goes out under the session's keys. (DEDUCED, log 76) -/
def execSessionClose (r : Req) (s : State) : Out :=
  match accept s r 0x0E false with
  | .done s => .next s
  | .go s =>
    let k := r.seat.val
    let d := Req.payload r
    let errs := errsOf [(!d.isEmpty && k != 0, errAccess), (Req.long r || decide (1 < d.length), errTypeLength), (decide (7 < leNat d), errRange)]
    let s := respond s r 0x0E (firstErr errs) 0 []
    .next (if errs.isEmpty then endSession s (if d.isEmpty then k else leNat d) else s)
/-- CAN_FRAME_IGNORED (R442, R446). -/
def execCanFrameIgnored (_why : IgnoreReason) (s : State) : Out := .next s.clearOut

/-! ## Segmented transfers (R466–R471, R640, R641) -/

def isImage (i sub : Nat) : Bool := decide (i = 0x2700) && inRange 0x18 0x1F sub
/-- The seat's bulk buffer, when it owns the block it names. -/
def State.bulkBuf (s : State) (seat : Nat) : Option Nat :=
  let b := (s.seat seat).bulkbuf.toNat
  if b ≤ 991 && ownerOf (s.net.scr.ownAt b) = some seat then some b else none
/-- First byte and length of the image that stands at SNAPBUF_s (R627, R628). -/
def State.imageAt (s : State) (seat : Nat) : Nat × Nat :=
  let buf := (s.mc.snap seat).buf
  let base := 16384 * bits buf 15 0
  let n := leField (s.net.scr.bytes base 64) 24 4
  (base, if (s.mc.snap seat).seqNo = 0 then 0 else min n (16384 * bits buf 31 16))
/-- Errors of a SEG_READ or SEG_WRITE at its start. (DEDUCED, log 80) -/
def segErrs (s : State) (seat i sub : Nat) (write : Bool) (data : List Byte) (long : Bool) : List Nat :=
  let missing := match placeOf i with
    | .none => true
    | .user => (userErrs s seat i sub 0).contains errNoObject
    | _ => false
  let image := isImage i sub
  if missing then [errNoObject]
  else if placeOf i != .domain && !image then [errAccess]
  else
    let right := if write then (i = 0x2101 && seat = 0) || i = 0x1F30 + seat else i = 0x1002 || (image && sub = 0x18 + seat)
    let n := leNat data
    let size := if i = 0x2101 then n = 432 else inRange 1 16777216 n
    errsOf [(!right, errAccess), (long || data.length != (if write then 4 else 0), errTypeLength), (write && data.length = 4 && !size, errRange),
      ((i = 0x1F30 + seat && !s.seedOpen) || (image && (!s.kUp || (s.imageAt seat).2 = 0)), errState),
      ((write && i = 0x1F30 + seat && (s.seat seat).stream.isSome) || (image && (s.mc.snap seat).writing), errBusy),
      (i != 0x1002 && i != 0x2101 && (s.bulkBuf seat).isNone, errResource)]
/-- SEG_READ (R469): the reply carries TOTAL. (DEDUCED, log 80) -/
def execSegRead (r : Req) (s : State) : Out :=
  match accept s r 0x07 false with
  | .done s => .next s
  | .go s =>
    let k := r.seat.val
    let i := r.index.toNat
    let errs := segErrs s k i r.sub.toNat false (Req.payload r) (Req.long r)
    if !errs.isEmpty then .next (respond s r 0x07 (firstErr errs) 0 [])
    else
      let total := if i = 0x1002 then s.nv.certificate.length else (s.imageAt k).2
      let s := s.onSeat k fun x => { x with seg := some { isWrite := false, index := i, total := total, seq := r.seq } }
      .next (respondOnly s r 0x07 errOk 4 (leBytes 4 total))
/-- SEG_WRITE (R468): OK, and block 0 is expected. A transfer to the seed object opens the seat's stream (R471). (DEDUCED, log 80) -/
def execSegWrite (r : Req) (s : State) : Out :=
  match accept s r 0x08 false with
  | .done s => .next s
  | .go s =>
    let k := r.seat.val
    let i := r.index.toNat
    let errs := segErrs s k i r.sub.toNat true (Req.payload r) (Req.long r)
    if !errs.isEmpty then .next (respond s r 0x08 (firstErr errs) 0 [])
    else
      let s := s.onSeat k fun x => { x with
        seg := some { isWrite := true, index := i, total := leNat (Req.payload r), seq := r.seq }
        stream := if i = 0x2101 then x.stream else some { src := .segWrite, next := 0, offset := 0 } }
      .next (respondOnly s r 0x08 errOk 0 [])

/-- Bytes of block b of an object, and its frames. (DEDUCED, log 80) -/
def blockLen (total b : Nat) : Nat := min 16384 (total - 16384 * b)
/-- DEDUCED, log 80. -/
def frameCount (n : Nat) : Nat := (n + 51) / 52
/-- The transfer ends with an error reply, which completes its transaction. -/
def segFail (s : State) (r : Req) (func err : Nat) : State := respond (endSeg s r.seat.val) r func err 0 []

/-- The bytes of a number that travels most significant byte first. -/
def beNat (l : List Byte) : Nat := leNat l.reverse
/-- The life-cycle transition of a token's KIND exists from the present state (R639). -/
def Life.allows (l : Life) (kind : Nat) : Bool :=
  match l with
  | .manufacture => kind = 1 || kind = 4
  | .owned => kind = 2 || kind = 4
  | .service => kind = 3 || kind = 4
  | _ => false
/-- The first check that a token fails (R640, R641); `sigOk` and `pointsOk` are the outcomes of the signature and of the P-384 points. (DEDUCED, log 15) (DEDUCED, log 81) -/
def tokenErr (s : State) (t : List Byte) (sigOk pointsOk : Bool) : Nat :=
  let kind := leField t 3 1
  let prov := decide (kind = 1)
  let fields := leField t 0 2 = 0xC5AC && leField t 2 1 = 1 && inRange 1 4 kind && leField t 23 1 = 0 && leField t 324 12 = 0 &&
    (if prov then leField t 22 1 < 4 else leField t 22 1 = 0 && leField t 24 4 = 0 && leField t 28 8 = 0 && leField t 132 96 = 0 && leField t 228 96 = 0)
  let root := if kind = 1 || (kind = 4 && s.nv.life = .manufacture) then s.nv.provHash else s.nv.ownerRoot
  if !fields then errRange
  else if leField t 4 16 != s.nv.serial.toNat then errRange
  else if !s.nv.life.allows kind then errLifecycle
  else if Config.sha384 ((t.drop 36).take 96) != root then errAuth
  else if !sigOk then errAuth
  else if leField t 20 2 != s.nv.svcCount then errState
  else if kind = 2 && 63 ≤ s.nv.svcCount then errResource
  else if kind = 3 && s.aon.mode == some .test then errState
  else if prov && !pointsOk then errRange
  else errOk
/-- What a token that has passed changes. (DEDUCED, log 81) -/
def tokenOf (t : List Byte) : Token :=
  { tamperEn := BitVec.ofNat 2 (leField t 22 1), fwFloor := BitVec.ofNat 32 (leField t 24 4), holdPulls := BitVec.ofNat 64 (leField t 28 8)
    seat0X := BitVec.ofNat 384 (beNat ((t.drop 132).take 48)), seat0Y := BitVec.ofNat 384 (beNat ((t.drop 180).take 48))
    ownerRoot := Config.sha384 ((t.drop 228).take 96) }
/-- The final block of a token: its result, and the order of the transition that the MC then performs, with LC_PENDING set until it has (R641–R643). (DEDUCED, log 81) -/
def tokenDone (s : State) (r : Req) (block : Nat) (t : List Byte) (sigOk pointsOk : Bool) : State :=
  let e := tokenErr s t sigOk pointsOk
  let s := (endSeg s r.seat.val).onMc fun m => { m with tokenResult := e }
  let s := respond s r 0x09 e block []
  if e = errOk then (s.onNv fun n => { n with lcPending := true }).onMc fun m => { m with orders := m.orders ++ [.life (leField t 3 1) (tokenOf t)] } else s
/-- The result of a seed image with a refusal (R129, R167, R258, R468, R564): the code that refused its first refused section before its checks ran, else CHECK_FAILED. (DEDUCED, log 40) -/
def seedError (r : Report) : Nat :=
  if (r.reason = whyOwnership && r.detail = errNotOwner) || (r.reason = whyState && (r.detail = errFallowed || r.detail = errBusy || r.detail = errState)) then r.detail
  else errCheckFailed
/-- The final block of a seed image: the image's result, with the report's data when it is CHECK_FAILED (R468). The spec states no result for a transfer that ends before its image is complete: the error code is free. (DEDUCED, log 40) -/
def seedDone (s : State) (r : Req) (block : Nat) : State :=
  let k := r.seat.val
  match (s.seat k).stream with
  | none => respond (endSeg s k) r 0x09 (Config.freeBits 8 s.aon.free).toNat block []
  | some t =>
    let whole := match t.hdr with | some h => decide (h.nsect ≤ t.next) | none => false
    match t.firstRep with
    | some rep => if t.refused || whole then respond (endSeg s k) r 0x09 (seedError rep) block (if seedError rep = errCheckFailed then failData rep else [])
      else (respond (endSeg s k) r 0x09 (Config.freeBits 8 s.aon.free).toNat block []).drawn
    | none => if whole then respond (endSeg s k) r 0x09 errOk block []
      else (respond (endSeg s k) r 0x09 (Config.freeBits 8 s.aon.free).toNat block []).drawn
/-- The last frame of a block has come (R468): SEGMENT, or the block is consumed. -/
def blockEnd (s : State) (r : Req) (g : Seg) (sigOk pointsOk : Bool) : State :=
  let k := r.seat.val
  let put := fun (s : State) (g : Seg) => s.onSeat k fun x => { x with seg := some g }
  if !g.blockOk || g.frame != frameCount (blockLen g.total g.block) then
    respondOnly (put s { g with frame := 0, got := [], blockOk := true }) r 0x09 errSegment g.block []
  else if g.index = 0x2101 then tokenDone s r g.block g.got sigOk pointsOk
  else match s.bulkBuf k with
    | none => segFail s r 0x09 errResource
    | some b =>
      -- the block buffer is being filled: the transfer waits for it (R175)
      if s.net.scr.rangeHeld (16384 * b) g.got.length then holdFill s 0x09 r
      else
      let o := scratchWriteWords 1024 s (1024 * b) g.got
      let s := o.1
      if !o.2 then segFail s r 0x09 errUncorrectable
      else
      let s := onStream s k fun t => { t with offset := t.offset + g.got.length }
      if g.total ≤ 16384 * (g.block + 1) then seedDone s r g.block
      else respondOnly (put s { g with block := g.block + 1, frame := 0, got := [], blockOk := true }) r 0x09 errOk g.block []
/-- SEG_DATA (R467, R468): one frame of the block that the transfer expects; a frame of any other block is discarded. (DEDUCED, log 80) -/
def execSegData (r : Req) (sigOk pointsOk : Bool) (s : State) : Out :=
  match accept s r 0x09 true with
  | .done s => .next s
  | .go s =>
    let k := r.seat.val
    match (s.seat k).seg with
    | none => .next (respond s r 0x09 errState 0 [])
    | some g =>
      if g.ended || !g.isWrite then .next (segFail s r 0x09 errState)
      else if r.index.toNat != g.block then .next s
      else
        let n := blockLen g.total g.block
        let f := r.sub.toNat + 256 * r.len.toNat
        let want := min 52 (n - 52 * f)
        let good := f = g.frame && want ≤ r.data.length && 0 < want
        let g := if good then { g with frame := g.frame + 1, got := g.got ++ r.data.take want } else { g with blockOk := false }
        let s := s.onSeat k fun x => { x with seg := some g }
        .next (if f + 1 = frameCount n then blockEnd s r g sigOk pointsOk else s)

/-- The frames of a block, sent as SEG_DATA replies with AUX = FRAME. -/
def sendFrames (r : Req) : (fuel : Nat) → State → Nat → List Byte → State
  | 0, s, _, _ => s
  | n + 1, s, f, l =>
    if l.isEmpty || !(s.seat r.seat.val).isOpen then s
    else sendFrames r n (respondOnly s r 0x09 errOk f (l.take 52)) (f + 1) (l.drop 52)
/-- Block b of the image at SNAPBUF_s goes through the bulk buffer and out (R175, R184, R185, R469). -/
def sendImageBlock (s : State) (r : Req) (g : Seg) (b : Nat) : State :=
  let k := r.seat.val
  let n := blockLen g.total b
  match s.bulkBuf k with
  | none => segFail s r 0x0A errResource
  | some buf =>
    let a := (s.imageAt k).1 + 16384 * b
    if s.net.scr.rangeHeld a n || s.net.scr.rangeHeld (16384 * buf) n then holdFill s 0x0A r
    else match scratchReadWords ((n + 15) / 16) s (a / 16) with
      | (s, none) => segFail s r 0x0A errUncorrectable
      | (s, some l) =>
        let l := l.take n
        let o := scratchWriteWords 1024 s (1024 * buf) l
        if o.2 then sendFrames r 316 o.1 0 l else segFail o.1 r 0x0A errUncorrectable
/-- SEG_ACK (R469): the device fills the bulk buffer with the block asked for and sends it; block 0 after the last, or a block beyond TOTAL, ends the transaction. -/
def execSegAck (r : Req) (s : State) : Out :=
  match accept s r 0x0A true with
  | .done s => .next s
  | .go s =>
    let k := r.seat.val
    match (s.seat k).seg with
    | none => .next (respond s r 0x0A errState 0 [])
    | some g =>
      let d := Req.payload r
      let b := leNat d
      if g.ended || g.isWrite then .next (segFail s r 0x0A errState)
      else if Req.long r || d.length != 2 then .next (segFail s r 0x0A errTypeLength)
      else if g.total ≤ 16384 * b || (b = 0 && g.total ≤ 16384 * g.block) then .next (respond (endSeg s k) r 0x0A errOk 0 [])
      else
        let s := s.onSeat k fun x => { x with seg := some { g with block := max g.block (b + 1) } }
        if g.index = 0x1002 then .next (sendFrames r 316 s 0 ((s.nv.certificate.drop (16384 * b)).take (blockLen g.total b)))
        else .next (sendImageBlock s r g b)
/-- What waited for a fill goes on, in the order of its arrival; it waits again when another block of it is still being filled (R175). -/
def releaseFill (s : State) : State :=
  s.mc.heldFill.foldl (fun s e =>
    let r := e.2
    let x := s.seat r.seat.val
    if e.1 ≤ 2 then
      if !x.isOpen || x.running != some r.seq then s
      else if e.1 = 2 && s.mc.window then s.onMc fun m => { m with heldWrites := m.heldWrites ++ [r] }
      else
        let s := s.onSeat r.seat.val fun x => { x with running := none }
        if e.1 = 1 then performRead s r else performWrite s r
    else match x.seg with
      | some g => if g.ended || g.seq != r.seq then s else if e.1 = 0x09 then blockEnd s r g false false else sendImageBlock s r g (leNat (Req.payload r))
      | none => s) (s.onMc fun m => { m with heldFill := [] })
/-- SCRATCH_BLOCK_FILL_DONE (R175): accesses to the block are served again. -/
def execScratchBlockFillDone (k : Fin 992) (s : State) : Out :=
  .next (releaseFill (s.onNet fun n => n.onScr fun c => { c with filling := c.filling.filter (· ≠ k.val) }))
/-- SEG_TRANSFER_TIMEOUT (R470): no frame of the transfer has come for 1 s. -/
def execSegTransferTimeout (seat : Seat) (s : State) : Out := .next (endSeg s seat.val)

/-! ## Session opening (R451–R454) -/

/-- A session frame's reply: STATUS, ERROR, AUX = 256 × STEP + PART, without a tag. -/
def openReply (s : State) (o : OpenPart) (err step part : Nat) (data : List Byte) : State :=
  s.send { seat := o.seat.val, prio := o.prio, seq := o.seq, func := 0x0D, status := statusByte (s.seat o.seat.val)
           error := BitVec.ofNat 8 err, aux := BitVec.ofNat 16 (256 * step + part), data := data }
/-- The opening is abandoned with an error. -/
def openFail (s : State) (o : OpenPart) (err step part : Nat) : State :=
  openReply (s.onSeat o.seat.val fun r => { r with opening := none }) o err step part []
/-- Errors that meet every opening: a device held under R397, Zeroised, DECOMMISSIONED, a seat whose last opening failed less than 1 s ago. -/
def openErrs (s : State) (seat : Nat) : List Nat :=
  let late := match (s.seat seat).authFail with | some t => decide (s.aon.now < t + 1000000000) | none => false
  errsOf [(s.aon.mode == some .zeroised || s.nv.life = .decommissioned, errLifecycle), (s.aon.failedTest != 0, errState), (late, errBusy)]
/-- The device's ephemeral private key, which its DRBG draws (R394). -/
def ephemeral (s : State) : BitVec 384 := Config.freeBits 384 s.aon.free
/-- TH (R453). -/
def transcript (s : State) (seat : Nat) (qh two : List Byte) : BitVec 384 :=
  Config.sha384 (qh ++ two.take 112 ++ [BitVec.ofNat 8 seat, s.aon.node.setWidth 8] ++ leBytes 16 s.nv.serial.toNat)
/-- The device's step 2: QD, ND and SIGD, 208 bytes (R452, R453). -/
def stepTwo (s : State) (seat : Nat) (qh : List Byte) : List Byte :=
  let d := Config.publicKey (ephemeral s)
  let head := beBytes 48 d.1.toNat ++ beBytes 48 d.2.toNat ++ leBytes 16 (Config.freeBits 128 (s.aon.free + 1)).toNat
  let th := transcript s seat qh head
  head ++ beBytes 96 (Config.ecdsaSign s.nv.idkeyX s.nv.idkeyY (s.aon.free + 1) (0x21 :: beBytes 48 th.toNat)).toNat
/-- SESSION_OPEN_QH (R452–R454): step 1. Part 0 starts an opening; part 1 is answered by the four parts of step 2. -/
def execSessionOpenQh (o : OpenPart) (pointOk : Bool) (s : State) : Out :=
  let s := s.clearOut
  let k := o.seat.val
  if !s.busUp || o.node != s.aon.node then .next s
  else if o.part = 0 && o.data.length = 60 then .next (s.onSeat k fun r => { r with opening := some { step := 1, part := 1, seq := o.seq, qh := o.data } })
  else
    match (s.seat k).opening with
    | some x =>
      if x.step != 1 || o.part != 1 then .next (openFail s o errSequence 1 o.part.toNat)
      else
        let errs := openErrs s k ++ errsOf [(o.data.length != 36, errTypeLength), (!pointOk, errRange)]
        if !errs.isEmpty then .next (openFail s o (firstErr errs) 1 1)
        else
          let qh := x.qh ++ o.data
          let two := stepTwo s k qh
          let th := transcript s k qh two
          let point := fun (i : Nat) => BitVec.ofNat 384 (beNat ((qh.drop i).take 48))
          let z := Config.ecdh (ephemeral s) (point 0) (point 48)
          let s := s.drawn.drawn.onSeat k fun r => { r with opening := some { step := 3, part := 0, seq := o.seq, qh := qh, th := th, z := z } }
          .next ((List.range 4).foldl (fun s i => openReply s o errOk 2 i ((two.drop (60 * i)).take 60)) s)
    | none => .next (openFail s o errSequence 1 o.part.toNat)

/-- KREQ and KREP (R453). -/
def sessionKey (z th : BitVec 384) (tag : Byte) : BitVec 256 := left256 (Config.hmac384 (beBytes 48 z.toNat) (tag :: beBytes 48 th.toNat))
/-- SESSION_OPEN_SIGH (R452, R454): step 3. Part 1 is answered by step 4; an opening that verifies replaces the seat's session (R457). -/
def execSessionOpenSigh (o : OpenPart) (sigOk : Bool) (s : State) : Out :=
  let s := s.clearOut
  let k := o.seat.val
  if !s.busUp || o.node != s.aon.node then .next s
  else
    match (s.seat k).opening with
    | none => .next (openFail s o errSequence 3 o.part.toNat)
    | some x =>
      if x.step != 3 || o.part.toNat != x.part then .next (openFail s o errSequence 3 o.part.toNat)
      else if x.part = 0 then
        (if o.data.length = 60 then .next (s.onSeat k fun r => { r with opening := some { x with part := 1, sigh := o.data } })
         else .next (openFail s o errTypeLength 3 0))
      else
        let bad := !sigOk || !hasCred s.nv k (s.seat k)
        let errs := errsOf [(s.aon.mode == some .zeroised || s.nv.life = .decommissioned, errLifecycle), (s.aon.failedTest != 0, errState),
          (o.data.length != 36, errTypeLength), (bad, errAuth)]
        if !errs.isEmpty then
          let e := firstErr errs
          let s := if e = errAuth then s.onSeat k fun r => { r with authFail := some s.aon.now } else s
          .next (openFail s o e 4 0)
        else
          let s := (endSession s k).onSeat k fun r => { r with
            opening := none, isOpen := true, kreq := sessionKey x.z x.th 0x31, krep := sessionKey x.z x.th 0x32
            reqCtr := 0, repCtr := 0, openedAt := s.aon.now, authFail := none }
          .next (openReply s o errOk 4 0 [])
/-- SESSION_OPEN_TIMEOUT (R454): the next part has not come within 1 s. -/
def execSessionOpenTimeout (seat : Seat) (s : State) : Out := .next (s.onSeat seat.val fun r => { r with opening := none })

/-! ## Dictionary service queues and user attention (R511) -/

/-- The operation of a dictionary service request. (DEDUCED, log 79) -/
def mcOp (s : State) (k func i sub : Nat) (d : List Byte) (long : Bool) : OpOut :=
  match func with
  | 0x01 => opRead s k i sub d long
  | 0x02 => opWrite s k i sub d long
  | 0x03 => opStage s k i sub d long
  | 0x04 => opCheck s k d long
  | 0x05 => opTurn s k d long { items := [], at? := none, source := 1 }
  | 0x06 =>
    let o := opDiscard s k d long
    { o with st := cancelled s o.st k }
  | 0x07 | 0x08 | 0x09 | 0x0A | 0x0D | 0x0E => .fail s [errState]
  | 0x0B => opWinRead s k i d long
  | 0x0C => opWinWrite s k i d long
  | 0x0F => opPing s d long
  | 0x10 => opAttnAck s k d long
  | _ => .fail s [errNoObject]
/-- MC_DICTIONARY_REQUEST (R511): the packet at the front of queue 40,976 + 16s + j is one request; its reply goes to the queue it names. A packet without a reply queue that the seat owns and the MC may fill is consumed and not performed. (DEDUCED, log 79) -/
def execMcDictionaryRequest (seat : Seat) (j : Fin 16) (s : State) : Out :=
  let k := seat.val
  let n := mcQueue k j.val
  let q := s.net.queue n
  if !s.clocksOn || !q.runs || qdConsumer q.dir != epMc then .next s
  else match q.takePkt with
    | none => .next s
    | some (p, q') =>
      let b := p.bytes
      let s' := s.onNet fun m => m.setQueue n q'
      let func := leField b 0 1
      let seq : BitVec 8 := byteAt b 1
      let rq := leField b 2 2
      let x := s.seat k
      let again := match x.mcLast with | some l => decide (l.seq = seq) && decide (l.func.toNat = func) | none => false
      let answer := fun (s'' : State) (r : Reply) (keep : Bool) =>
        let s'' := if keep then s''.onSeat k fun x => { x with mcLast := some r } else s''
        match pushReply s'' k rq p.rank r with | some t => Host.Outcome.next t | none => .next s
      let reply := fun (t : State) (err : Nat) (data : List Byte) =>
        ({ seat := k, seq := seq, func := BitVec.ofNat 8 func, status := statusByte (t.seat k), error := BitVec.ofNat 8 err
           aux := BitVec.ofNat 16 data.length, data := data } : Reply)
      if b.length < 8 || (s'.replyProd k rq).isNone then .next s'
      else if again then answer s' (x.mcLast.getD {}) false
      else if x.mcRunning == some seq then .next s'
      else if x.mcRunning.isSome then answer s' (reply s' errBusy []) false
      else
        let len := leField b 7 1
        let d := (b.drop 8).take len
        let long := decide (b.length - 8 < len)
        if (func = 0x02 && s.mc.window) || ((func = 1 || func = 2) && userHeld s k (leField b 4 2) (leField b 6 1) (func - 1) d long) then .next s
        else
        let o := mcOp s' k func (leField b 4 2) (leField b 6 1) d long
        if o.later then .next (o.st.onSeat k fun x => { x with
          mcRunning := some seq
          turn := x.turn.map fun t => { t with req := some (reply s' 0 []), via := some (rq, p.rank) } })
        else answer o.st (reply o.st o.err o.data) true
/-- USER_ATTENTION (R511): a packet of 9 bytes raises an event; any other packet is dropped and counted. -/
def execUserAttention (seat : Seat) (s : State) : Out :=
  let k := seat.val
  let n := 41104 + k
  let q := s.net.queue n
  if !s.clocksOn || !q.runs || qdConsumer q.dir != epMc then .next s
  else match q.takePkt with
    | none => .next s
    | some (p, q') =>
      let b := p.bytes
      let c := leField b 0 1
      if b.length = 9 && inRange 1 7 c then
        .next ((s.onNet fun m => m.setQueue n q').raise { seat := k, code := 256 * c + 0xFF, index := s.freeIndex, a := leField b 1 4, b := leField b 5 4 }).drawn
      else .next (s.onNet fun m => m.setQueue n { q' with dropped := sat32 (q'.dropped + 1) })

end Sys2Proof.Machine
end

