-- ==== Sys2Proof/Machine/Snapshots.lean ====
section
/-! DEFINITION. Snapshots: triggers, shadows, images and their records (R624–R629). -/

namespace Sys2Proof.Machine

/-! ## Records (R624, R629) -/

/-- A record: KIND, WORDS, ID, and its body padded to WORDS × 16 bytes. -/
def snapRecord (kind words id : Nat) (body : List Byte) : List Byte :=
  (leBytes 1 kind ++ leBytes 1 words ++ leBytes 2 id ++ [0, 0, 0, 0] ++ body ++ List.replicate (16 * words) 0).take (16 * words)
def SlotCnt.bytes (c : SlotCnt) : List Byte :=
  leBytes 6 c.retired ++ leBytes 6 c.wasted ++ leBytes 6 c.front ++ leBytes 6 c.back ++ leBytes 1 c.inflight
/-- ENGINE: counters that belong to another seat read 0 and have no bit in PMCMASK. -/
def engineRecord (s : State) (seat p : Nat) : List Byte :=
  let x := s.eng.engine p
  let mine := fun k => x.pmcSeat k = some seat
  snapRecord 1 5 p (leBytes 6 x.cycles ++ leBytes 1 (natOf (fun k => mine k) 8) ++ leBytes 1 (natOf (fun k => mine k && x.ovf.contains k) 8) ++
    ((List.range 8).flatMap fun k => leBytes 6 (if mine k then tget 0 x.pmc k else 0)) ++ leBytes 4 x.samplesTagged ++ leBytes 4 x.samplesLost)
def portRecord (s : State) (n : Nat) : List Byte :=
  let x := s.lnk.port n
  snapRecord 5 6 n (leBytes 6 x.pktsRx ++ leBytes 6 x.bytesRx ++ leBytes 6 x.pktsTx ++ leBytes 6 x.bytesTx ++
    (List.range 13).flatMap fun k => leBytes 4 (tget 0 x.cnt (0x14 + k)))
def riserRecord (s : State) (p : Nat) : List Byte :=
  let x := s.stk.riser p
  snapRecord 6 3 p ([x.corrEvents, x.uncorrEvents, x.crcEvents, x.integrityEvents, x.cmdRetries, x.retiredHits, x.rekeys, x.holdTimeouts].flatMap (leBytes 4))
def plotRecord (s : State) (p : Nat) : List Byte :=
  let x := s.fab.plot p
  snapRecord 7 3 p ([x.refusedCalls, x.lostCalls, x.kittyRefusals, x.cfgCorrected, x.memportRefusals, x.bmSbe, x.bmDbe].flatMap (leBytes 4))
/-- The records of a seat, in ascending KIND and ID: exactly those of the counters that belong to it. (DEDUCED, log 82) -/
def snapRecords (s : State) (seat : Nat) : List (List Byte) :=
  let plots := List.range 512
  let owns := fun p h => s.fab.handOwner p h = some seat
  let threads := (List.range 4096).filter fun k => owns (k / 8) (k % 8)
  let engines := plots.filter fun p => (List.range 8).any fun h => owns p h || (s.eng.engine p).pmcSeat h = some seat
  let whole := plots.filter fun p => (List.range 8).all fun h => owns p h
  (engines.map (engineRecord s seat)) ++ (threads.map fun k => snapRecord 2 3 k (s.eng.slotCnt (k / 8) (k % 8)).bytes) ++
    (whole.map fun p => snapRecord 3 3 p (s.eng.engine p).totals.bytes) ++
    ((s.net.queues.filter fun e => qdOwner e.2.dir = some seat).map fun e => snapRecord 4 4 e.1 e.2.counters) ++
    ((plots.filter fun n => s.lnk.portOwner n = some seat).map (portRecord s)) ++
    (if seat = 0 then plots.map (riserRecord s) ++ plots.map (plotRecord s) else [])

/-! ## Triggers (R626) -/

/-- The shadows of every seat at a turn's tick, before the values of the turns act (R625). (DEDUCED, log 82) -/
def preSnapshot (s : State) : State :=
  s.onMc fun m => { m with preSnap := m.preSnap ++ [(s.aon.now, allSeats.map fun k => let l := snapRecords s k; (k, l.flatten, l.length))] }
/-- SNAP (R626): a seat's turn has triggered a snapshot at its tick. (DEDUCED, log 82) -/
def execSnap (seat : Seat) (s : State) : Out :=
  match takeOrder (.snap seat.val) s.mc.orders with
  | none => .next s
  | some rest =>
    let i := match s.mc.preSnap.getLast? with | some x => x.1 | none => s.aon.now
    .next (s.onMc fun m => { m with orders := rest, snapDue := m.snapDue ++ [{ instant := i, seat := seat.val }] })

/-! ## The copy and the image (R625, R627, R628) -/

/-- MAGIC of the image at word w is 0 from an accepted snapshot on until the image is whole (R627); a block being filled takes the write with the image. -/
def clearMagic (s : State) (w : Nat) : State :=
  if s.clocksOn && !s.net.scr.held w then (scratchWriteWords 1 s w [0, 0]).1 else s
/-- The seat's shadows at instant I take the counters, unless its previous image is being written or read (R627). -/
def takeShadow (s : State) (i : Nat) (mask : Byte) (pre : Option (List (Nat × List Byte × Nat))) (k : Nat) : State :=
  let x := s.mc.snap k
  let reading := match (s.seat k).seg with | some g => !g.isWrite && g.index = 0x2700 | none => false
  if x.accept &&& mask = 0 then s
  else if x.writing || reading then s.onMc fun m => m.setSnap k { x with skipped := satTo 255 (x.skipped + 1) }
  else if x.buf = 0 then s
  else
    let l := match pre with
      | some t => tget ([], 0) t k
      | none => let l := snapRecords s k; (l.flatten, l.length)
    clearMagic (s.onMc fun m => m.setSnap k { x with shadow := l.1, shadowRecords := l.2, instant := i, trigger := mask, writing := true }) (1024 * bits x.buf 15 0)
/-- SNAPSHOT (R625, R626): the triggers of the earliest instant that has come form one snapshot, and the shadows of every accepting seat are copied. -/
def execSnapshot (s : State) : Out :=
  let due := s.mc.snapDue.filter fun d => decide (d.instant ≤ s.aon.now)
  match due with
  | [] => .next s
  | d :: rest =>
    if !s.stackHeld then .next s
    else
      let i := rest.foldl (fun m x => min m x.instant) d.instant
      let now := s.mc.snapDue.filter fun x => x.instant = i
      let mask := now.foldl (fun (m : Byte) x => m ||| BitVec.ofNat 8 (2 ^ x.seat)) 0
      let pre := s.mc.preSnap.lookup i
      let s := allSeats.foldl (fun s k => takeShadow s i mask pre k) s
      .next (s.onMc fun m => { m with snapDue := m.snapDue.filter fun x => x.instant ≠ i, preSnap := m.preSnap.filter fun x => x.1 ≠ i })

/-- The whole records that fit in n bytes: their bytes and number. -/
def fitRecords : (fuel : Nat) → Nat → List Byte → List Byte × Nat
  | 0, _, _ => ([], 0)
  | k + 1, n, l =>
    let w := 16 * leField l 1 1
    if w = 0 || n < w then ([], 0)
    else
      let r := fitRecords k (n - w) (l.drop w)
      (l.take w ++ r.1, r.2 + 1)
/-- SNAPSHOT_IMAGE_WRITTEN (R627, R628): the image stands whole at SNAPBUF_s, cut at the last whole record that fits. -/
def execSnapshotImageWritten (seat : Seat) (s : State) : Out :=
  let k := seat.val
  let x := s.mc.snap k
  if !s.clocksOn || !x.writing || (x.buf != 0 && s.net.scr.rangeHeld (16384 * bits x.buf 15 0) (16384 * bits x.buf 31 16)) then .next s
  else if x.buf = 0 then .next (s.onMc fun m => m.setSnap k { x with writing := false, shadow := [], shadowRecords := 0 })
  else
    let room := 16384 * bits x.buf 31 16 - 64
    let r := fitRecords x.shadowRecords room x.shadow
    let status := if r.2 = x.shadowRecords then 1 else 2
    let n := wrap32 (x.seqNo + 1)
    let image := leBytes 2 0xC5A7 ++ [1, BitVec.ofNat 8 k] ++ leBytes 4 n ++ time80 x.instant ++ [x.trigger, BitVec.ofNat 8 status] ++
      leBytes 4 r.2 ++ leBytes 4 (64 + r.1.length) ++ List.replicate 36 0 ++ r.1
    let s := (scratchWriteWords image.length s (1024 * bits x.buf 15 0) image).1
    .next (s.onMc fun m => m.setSnap k { x with
      seqNo := n, lastInstant := x.instant, lastStatus := status, writing := false, shadow := [], shadowRecords := 0 })

end Sys2Proof.Machine
end

