-- ==== Sys2Proof/Machine/Turns.lean ====
section
/-! DEFINITION. The tick of a turn, its application window, and what the tick orders (R484–R486, R571, R579–R581, R671–R675). -/

namespace Sys2Proof.Machine

/-! ## Due turns -/

/-- The turns whose tick has come, dealer first, then by seat (R484). -/
def State.dueTurns (s : State) : List (Nat × Turn) :=
  allSeats.filterMap fun k => match (s.seat k).turn with
    | some t => match t.at? with
      | none => some (k, t)
      | some a => if a ≤ s.aon.now then some (k, t) else none
    | none => none
/-- The turns whose re-check lies within the coming 20 µs (R671). (DESIGN CHOICE, log 19) -/
def State.windowTurns (s : State) : List (Nat × Turn) :=
  allSeats.filterMap fun k => match (s.seat k).turn with
    | some t => match t.at? with
      | none => some (k, t)
      | some a => if a ≤ s.aon.now + 20000 then some (k, t) else none
    | none => none
/-- TURN_WINDOW_START (R523, R671): the application window of the coming tick opens, and the PLLs that scheduled turns need start. Before the binding tick it is the window of the pending turns of R578. (DESIGN CHOICE, log 78) -/
def execTurnWindowStart (s : State) : Out :=
  let l := s.windowTurns
  if !s.mcUp || (l.isEmpty && s.pendingTurns.isEmpty) || s.mc.window then .next s
  else
    let s := l.foldl (fun s x => if x.2.at?.isSome && s.clocksOn then startPlls s x.1 x.2.items else s) s
    .next (s.onMc fun m => { m with window := true })

/-- The turns for which the device has started PLLs: immediate ones from their check on, scheduled ones from their window on, and those of the binding tick (R523). -/
def State.pllTurns (s : State) : List (Nat × Turn) := s.windowTurns.filter (fun x => x.2.at?.isNone || s.mc.window) ++ s.pendingTurns
/-- PLL_GROUP_STOP (R522): a group all of whose plots have been gated for 1 ms stops, unless a pending turn will ungate a plot that it serves. -/
def execPllGroupStop (g : Fin 8) (s : State) : Out :=
  let idle := (List.range 512).all fun p => (s.fab.fpll (fpllOf p)).group != g.val || (s.fab.plot p).gated
  let off := s.onFab fun f => f.stopGroup g.val
  let on := s.pllTurns.foldl (fun s x => startPlls s x.1 (if s.step7 then x.2.items.filter fun i => !defers s i else x.2.items)) off
  let needed := (List.range 8).any fun k => (s.fab.fpll k).group = g.val && (on.fab.fpll k).running
  if s.clocksOn && idle && !needed then .next off else .next s

/-! ## Outcomes -/

/-- The seat's turn has failed with a report: an immediate TURN is answered, any other raises TURN_FAILED (R484, R567). -/
def turnFailed (s : State) (k : Nat) (t : Turn) (rep : Report) : State :=
  let s := s.onSeat k fun r => { r with turn := none, report := rep }
  if t.at?.isSome || t.quiet then s.raise { seat := k, code := 0x0205, index := rep.index, a := rep.reason }
  else answerTurn s k t errCheckFailed (failData rep)
/-- The seat's turn has applied. -/
def turnPassed (s : State) (k : Nat) (t : Turn) : State :=
  if t.at?.isSome || t.quiet then (s.raise { seat := k, code := 0x0103, index := s.freeIndex }).drawn else answerTurn s k t errOk []
/-- An event of rank 1–6 in the window discards the turns that name an object of its scope; each reports the first such item with reason STATE (R672, R673). (DEDUCED, log 39) -/
def discardDue (s : State) (scope : Item → Bool) : State :=
  if !s.mc.window then s
  else
    let fail := fun (s : State) (x : Nat × Turn) (i : Item) => turnFailed s x.1 x.2 (reportOf s.aon.now x.2.source x.2.items (some (i, whyState, if i.win then i.entry else 0)))
    let later := s.pendingTurns
    let s := s.windowTurns.foldl (fun s x => match x.2.items.find? scope with
      | none => s
      | some i => fail s x i) s
    -- the turns of the binding tick: the deferred items are lost, an immediate turn of the same seat is not
    later.foldl (fun s x => match x.2.items.find? scope with
      | none => s
      | some i =>
        let t := (s.seat x.1).turn
        (fail s x i).onSeat x.1 fun r => { r with turn := t, deferred := [] }) s

/-! ## First turns (R579–R581) -/

/-- After a turn of the seat in Field or Limp: the first one powers its ports, and every bank that the seat owns leaves its hold state. -/
def afterTurn (s : State) (k : Nat) : State :=
  let open' := s.aon.mode == some .field || s.aon.mode == some .limp
  if open' then
    let first := !(s.seat k).firstTurn
    let s := s.onSeat k fun r => { r with firstTurn := true }
    let s := if first then ((List.range 512).filter fun n => s.lnk.portOwner n = some k).foldl (fun s n => applyPower s n false) s else s
    s.onFab fun f => (List.range 32).foldl (fun f b => if ownerOf (f.bank b).own = some k then f.setBank b { f.bank b with released := true } else f) f
  else if s.aon.mode == some .sowing then
    -- ports of bulk channels power in step 7 (R576)
    ((List.range 512).filter s.bulkPort).foldl (fun s n => applyPower s n false) s
  else s
/-- Sections and streams whose ground a turn has taken away end (R129, R470). -/
def settleStreams (s : State) : State :=
  allSeats.foldl (fun s k => match (s.seat k).stream, (s.seat k).seg with
    | some t, none => if t.src = .segWrite then endStream s k else s
    | _, _ => s) (sweepSections s)

/-! ## The tick -/

/-- Apply a turn's items as one: in step 7 its deferred items join those that wait (R485, R571). (DEDUCED, log 43) -/
def applyTurn (s : State) (k : Nat) (items : List Item) : State :=
  let later := if s.step7 then items.filter (defers s) else []
  let now := if s.step7 then items.filter fun i => !defers s i else items
  let s := applyItems s k now
  if later.isEmpty then s else s.onSeat k fun r => { r with deferred := mergeItems r.deferred later }
/-- The state that a re-check meets: a transition into or out of Retention that runs counts as Retention (R529). -/
def State.recheckBase (s : State) (k : Nat) : State :=
  let s := s.checkBase k
  if s.aon.moving then s.onAon fun a => { a with mode := some .retention } else s
/-- A turn has ordered a change of mode that its own command has yet to carry out. -/
def State.modeOrdered (s : State) : Bool :=
  s.mc.orders.any fun o => match o with | .request _ => true | .rise => true | .restart => true | _ => false
/-- One due turn: checked again against the state that the turns before it have left, and applied whole or discarded (R484). A turn whose seat has lost its session meanwhile has nobody to answer. -/
def performTurn (s : State) (k : Nat) (t : Turn) : State :=
  let t := if (s.seat k).turn.isNone && t.via.isNone then { t with req := none } else t
  let rep := reportOf s.aon.now t.source t.items (checkItems (s.recheckBase k) k t.items)
  if rep.result = 2 then turnFailed s k t rep
  else
    let s := s.onSeat k fun r => { r with turn := none, report := rep }
    turnPassed (settleStreams (afterTurn (applyTurn s k t.items) k)) k t
/-- Some due turn triggers a snapshot. -/
def takesSnap (l : List (Nat × Turn)) : Bool := l.any fun x => x.2.items.any fun i => !i.win && i.index = 0x2700 && i.sub = 0x01 && i.nat = 1
/-- TURN_APPLY (R484, R485, R625, R671, R675): at the tick, the due turns are taken in order; then the WRITEs that the window held are performed. A change of mode that the dealer's turn orders is carried out before the turns after it are taken (R529). (DESIGN CHOICE, log 78) -/
def execTurnApply (s : State) : Out :=
  let l := s.dueTurns
  -- a device held under R397 answers nothing but READs of identity
  if !s.mcUp || l.isEmpty || s.aon.failedTest != 0 then .next s
  else
    let s := s.clearOut
    let s := if takesSnap l && s.stackHeld then preSnapshot s else s
    let s := l.foldl (fun s x => if s.modeOrdered then s else performTurn s x.1 x.2) s
    .next (if s.modeOrdered && !s.dueTurns.isEmpty then s else releaseWrites (s.onMc fun m => { m with window := false }))

end Sys2Proof.Machine
end

