-- ==== Sys2Proof/Machine/Power.lean ====
section
/-! DEFINITION. Power: boot, loss of power, the rise of the stack, the power-down into Fallow, zeroisation and tamper (R395–R397, R519, R530–R533, R544–R558, R645, R646, R666, R693). -/

namespace Sys2Proof.Machine

/-! ## The power-down of the stack (R532, R611) -/

/-- Queues in the packing store keep their state; the producer of BIST_LOG loses power, and its open packet with it (R189, R235). (DEDUCED, log 29) -/
def Net.powerDown (n : Net) : Net :=
  let m : Net := { queues := n.queues.filter fun e => decide (40960 ≤ e.1) && decide (e.1 ≤ 40975), narrow := tdel n.narrow 2 }
  m.setQueue 40962 ((m.queue 40962).rewindOpen 0 5)
/-- What a seat keeps: every A object, its session, its staging set and its pending turn. Deferred items, streams, secrets and K transfers end (R470, R532). (DEDUCED, log 29) -/
def SeatRec.powerDown (r : SeatRec) : SeatRec :=
  { r with
    sms := none, smr := none, stream := none, deferred := [], cursor := 0, loaded := false, firstTurn := false, finalDone := false
    mcLast := none, mcRunning := none
    seg := r.seg.map fun g => if g.index = 0x2101 || g.index = 0x1002 then g else { g with ended := true }
    turn := r.turn.map fun t => { t with via := none } }
/-- Commands of a turn that the AON domain or the MC can still carry out. -/
def Order.inAon : Order → Bool
  | .step _ | .offset _ | .life _ _ => true
  | _ => false
/-- A rail loses power; one in FAULT goes on showing it (R605). -/
def Rail.off (r : Rail) : Rail := { state := if r.state = 5 then 5 else 0 }
/-- Requests that wait for the fill of a scratchpad block lose the block with the power: STATE (R175, R491). (DEDUCED, log 29) -/
def dropHeldFill (s : State) : State :=
  s.mc.heldFill.foldl (fun s e =>
    let k := e.2.seat.val
    if e.1 ≤ 2 && (s.seat k).running == some e.2.seq then respond (s.onSeat k fun x => { x with running := none }) e.2 e.1 errState 0 [] else s)
    (s.onMc fun m => { m with heldFill := [] })
/-- Stack power goes down (R532): the ledger and the memory secrets held are saved in MRAM, and everything held on the stack and in B core is lost. (DEDUCED, log 29) -/
def powerDown (s : State) : State :=
  let s := dropHeldFill s
  { s with
    nv := { s.nv with wearSaved := s.mc.hk.wear, smsCopy := allSeats.foldl (fun l k => if (s.seat k).sms = none then l else tput none l k (s.seat k).sms) s.nv.smsCopy }
    seats := s.seats.map fun e => (e.1, e.2.powerDown)
    fab := { banks := (s.fab.banks.map fun e => (e.1, ({ nominal := e.2.nominal, cand := e.2.cand, candRounds := e.2.candRounds, outRounds := e.2.outRounds } : Bank))).filter fun e => e.2 != {} }
    net := s.net.powerDown
    eng := {}
    stk := { retireThresh := s.stk.retireThresh, patrolH := s.stk.patrolH }
    lnk := {}
    mc := { s.mc with
      bist := {}, snaps := [], snapDue := [], preSnap := [], orders := s.mc.orders.filter Order.inAon
      hk := { s.mc.hk with rails := (s.mc.hk.rails.map fun e => (e.1, e.2.off)).filter (fun e => e.2 != {}), limpArmed := false } }
    aon := { s.aon with mode := some .fallow, step := 0, moving := false, trainGroup := 0, finalTimeout := false } }
/-- The WRITEs that the window holds are neither performed nor answered (R675). (DEDUCED, log 29) -/
def dropHeldWrites (s : State) : State :=
  s.mc.heldWrites.foldl (fun s r => s.onSeat r.seat.val fun x => { x with running := none }) (s.onMc fun m => { m with heldWrites := [] })
/-- The record that THERMAL_SHUTDOWN concerns, by its cause (R594). (DEDUCED, log 30) -/
def shutdownIndex (cause : Nat) : Nat := if inRange 64 68 cause then 0x2300 else if inRange 80 93 cause then 0x2301 else 0x2201
/-- The shutdown sequence (R593–R595): turns in their window are discarded, the stack goes down, the state of R533 is set, and every seat hears of it. -/
def shutdown (s : State) (cause detail : Nat) : State :=
  let on := s.stackHeld
  let s := if on then powerDown (dropHeldWrites (discardDue s fun _ => true)) else s
  let s := s.onAon fun a => { a with thermalLatch := true }
  let s := if inRange 64 68 cause then s.onHk fun h => h.setRail (cause - 64) { h.rail (cause - 64) with state := 5 } else s
  s.raiseAll (eventsFor allSeats 0x0601 (shutdownIndex cause) cause detail)

/-! ## Boot (R543–R549, R643) -/

/-- Bytes of a firmware slot (R548). -/
def slotSize : Nat := 8392704
/-- The flash address of firmware slot 0 (A) or 1 (B), none when it is invalid. -/
def Nv.slotAddr (n : Nv) (k : Nat) : Option Nat :=
  if n.bootRecordOk then
    let a := leNat (n.flashBytes (4 + 4 * k) 4)
    if a % 4096 = 0 then some a else none
  else none
/-- Firmware slot k is valid (R549). In BLANK the OTP holds no firmware key (R637). -/
def Nv.slotValid (n : Nv) (k : Nat) : Bool :=
  match n.slotAddr k with
  | none => false
  | some a =>
    let w := fun i => leNat (n.flashBytes (a + i) 4)
    let len := w 8
    decide (w 0 = 0xC5F10001) && inRange 4 8388608 len && decide (len % 4 = 0) && decide (w 12 = 0) && n.fwKeyHash != 0 && n.life != Life.blank &&
      Config.firmwareSig n.fwKeyHash (n.flashBytes a 64) (n.flashBytes (a + 64) 96) &&
      decide (beBytes 48 (Config.sha384 (n.flashBytes (a + 160) len)).toNat = n.flashBytes (a + 16) 48) && decide (n.fwFloor.toNat ≤ w 4)
/-- The version of the firmware in slot k. -/
def Nv.slotVersion (n : Nv) (k : Nat) : Word :=
  match n.slotAddr k with | some a => BitVec.ofNat 32 (leNat (n.flashBytes (a + 4) 4)) | none => 0
/-- The device at the moment VDD_AON becomes valid: OTP, MRAM and flash stand, the ledger is read back, the packing store is set up, and everything else is at its reset value. (DEDUCED, log 27) -/
def State.fresh (s : State) (nv : Nv) (jtag : Jtag) : State :=
  { aon := { powered := true, free := s.aon.free }
    nv := nv
    net := ({} : Net).setPacking
    mc := { hk := { wear := nv.wearSaved }, jtag := jtag }
    pending := s.pending }
/-- Steps 1 and 2 of start-up (R395, R397, R543–R549, R643): tests, an interrupted transition, the life-cycle state, then slot A, slot B, or Recovery. (DESIGN CHOICE, log 17) (DEDUCED, log 26) (DEDUCED, log 27) -/
def boot (s : State) (env : BootEnv) (jtag : Jtag) : State :=
  let nv := if s.nv.lcPending then { s.nv with smsCopy := [], lcPending := false } else s.nv
  let s := (s.fresh nv jtag).onAon fun a => { a with node := env.node, autorise := env.autorise, fwSlot := 2, fwVersion := Config.romVersion }
  let failed := inRange 1 10 env.testFail.toNat
  let s := if failed then s.onAon fun a => { a with failedTest := env.testFail } else s
  let enter := fun (m : Mode) => s.onAon fun a => { a with mode := some m }
  if nv.life = .decommissioned then enter .zeroised
  else if failed then enter .fallow
  else
    let run := fun (k : Nat) => s.onAon fun a => { a with mode := some .fallow, fwSlot := k, fwVersion := nv.slotVersion k, autoDue := a.autorise }
    if nv.slotValid 0 then run 0 else if nv.slotValid 1 then run 1 else enter .recovery
/-- POWER_ON (R545): VDD_AON becomes valid. (DESIGN CHOICE, log 17) (DEDUCED, log 26) -/
def execPowerOn (env : BootEnv) (s : State) : Out := if s.aon.powered then .next s else .next (boot s env {})
/-- A loss of VDD_AON leaves OTP, MRAM and flash (R666). -/
def powerLoss (s : State) : State := { aon := { free := s.aon.free }, nv := s.nv, pending := s.pending }
/-- POWER_LOSS (R666, R676). -/
def execPowerLoss (s : State) : Out := .next (powerLoss s)
/-- RESET_N (R530, R662, R692, R693): a low pulse of 2 µs or more restarts the device, one of 0.5 µs or less is ignored, and one between may do either. The TAP is not reset. (DESIGN CHOICE, log 19) (DESIGN CHOICE, log 33) -/
def execResetN (lowNs : Nat) (env : BootEnv) (s : State) : Out :=
  let restarts := decide (2000 ≤ lowNs) || (decide (500 < lowNs) && decide (Config.freeNat s.aon.free % 2 = 1))
  if !s.aon.powered then .next s
  else if restarts then .next (boot s env s.mc.jtag).drawn
  else .next s.drawn
/-- TRST_N (R662). -/
def execTrstN (s : State) : Out := .next (s.onMc fun m => { m with jtag := {} })

/-! ## Zeroised (R544–R646) -/

/-- Zeroisation (R544, R646, R672–R676): keys and secrets are erased, sessions end, sets and turns are discarded, and a powered stack is cleared, filled and powered down. (DESIGN CHOICE, log 17) (DESIGN CHOICE, log 32) -/
def zeroise (s : State) : State :=
  let s := { s with
    nv := { s.nv with smsCopy := [] }
    seats := s.seats.map fun e => (e.1, { (e.2.endSession.dropTurns) with sms := none, smr := none, opening := none })
    mc := { s.mc with heldWrites := [], heldFill := [], orders := [], window := false } }
  let s := if s.stackHeld then powerDown s else s
  s.onAon fun a => { a with mode := some .zeroised, step := 0, autoDue := false }
/-- A tamper source is armed (R645): codes 1–7. -/
def Nv.armed (n : Nv) (code : Nat) : Bool :=
  (n.life == .owned || n.life == .service) && (if code ≤ 2 then n.tamperEn.getLsbD (code - 1) else true)
/-- TAMPER (R645, R646): the firing is counted and recorded; an armed source zeroises the device. A source that is not armed fills no memory: whether its firing is a tamper event of R177 the spec does not say. (DESIGN CHOICE, log 32) (DESIGN CHOICE, log 102) -/
def execTamper (source : Fin 7) (s : State) : Out :=
  let code := source.val + 1
  if !s.mcUp then .next s
  else
    let s := s.onNv fun n => { n with tamperCount := sat32 (n.tamperCount + 1), tamperLastCode := code, tamperLastTime := s.aon.now }
    .next (if s.nv.armed code then zeroise s else s)

/-! ## The rise of the stack (R351, R396, R511, R553–R558, R630, R659) -/

/-- A directory entry that only names its owner (R511). -/
def ownDir (k : Nat) : BitVec 256 := BitVec.ofNat 256 ((8 + k) * 2 ^ 248)
/-- The MC queues of the seats, owned from stack power-up on (R511). -/
def Net.setServices (n : Net) : Net :=
  allSeats.foldl (fun n k => ((41104 + k) :: (List.range 16).map fun j => 40976 + 16 * k + j).foldl (fun n q => n.setQueue q { dir := ownDir k }) n) n
/-- A failed tile in use goes to its column's spare when that is free (R338, R659). (DEDUCED, log 34) -/
def mapFailedTile (s : State) (t : Nat) : State :=
  let d := t / 256
  let c := t % 256
  if d < 4 && s.spareFree c then s.onMap fun m => m.setRiser (c + 256 * (d / 2)) { m.riser (c + 256 * (d / 2)) with tileMap := d % 2 + 1 } else s
/-- A seed of an LFSR from the CTR_DRBG: free, and not zero (R630). (DESIGN CHOICE, log 28) -/
def lfsrSeed (draw : Nat) : BitVec 20 := let v := Config.freeBits 20 draw; if v = 0 then 1 else v
/-- The security set-up of step 4 (R351, R396, R511, R556, R630). (DESIGN CHOICE, log 28) -/
def secure (s : State) (env : RiseEnv) : State :=
  let d := s.aon.free
  let nonce : BitVec 256 := Config.freeBits 256 d
  let s := s.onStk fun k => env.coreFail.foldl (fun (k : Stack) p => k.setRiser p.val { k.riser p.val with katFail := true }) { k with bootNonce := nonce }
  let s := s.onLnk fun l => env.quadFail.foldl (fun (l : Links) q => l.setQuad q.val { l.quad q.val with kat := 1 }) { l with steerSeed := Config.freeBits 64 d }
  let s := s.onNet Net.setServices
  let s := s.onEng fun e => (List.range 512).foldl (fun (e : Engines) p => e.setEngine p { e.engine p with
    lfsr := allSeats.foldl (fun l k => tput 0 l k (lfsrSeed (d + 8 * p + k))) [] }) e
  let s := s.nv.smsCopy.foldl (fun (s : State) c => s.onSeat c.1 fun r => { r with sms := c.2, smr := c.2.map (smrOf s.nv.duk c.1 nonce) }) s
  let s := s.raiseAll (env.coreFail.map fun p => ({ seat := 0, code := 0x070E, index := 0x3400 + p.val, a := p.val } : Event))
  let s := s.raiseAll (env.quadFail.map fun k => ({ seat := 0, code := 0x070E, index := 0x4200 + k.val, a := 2 ^ 31 + k.val } : Event))
  s.onAon fun a => { a with free := a.free + 4096 }
/-- Every rail reaches regulation, with every limit step at 0 (R554, R596, R602, R603). -/
def railsUp (s : State) : State :=
  let mv := fun (k : Nat) => if k < 2 then s.fab.railMv k else if k = 3 then 1050 else 750
  s.onHk fun h => { h with
    failedRail := 0
    rails := (List.range 5).foldl (fun l k => tput {} l k { setMv := mv k, state := 2 }) []
    monOut := h.monOut.filter fun e => !inRange 5 12 e.1 && e.1 < 20 }
/-- Steps 4–6 of start-up: the domains power up, the set-up runs, lanes and bonds are checked, memories are filled and cleared, and the stack is released into step 7. (DESIGN CHOICE, log 17) (DESIGN CHOICE, log 28) (DEDUCED, log 34) -/
def rise (s : State) (env : RiseEnv) : State :=
  let s := s.onAon fun a => { a with mode := some .sowing, step := 4, autoDue := false, finalTimeout := false, thermalLatch := false, trainGroup := 0, seedRead := 0 }
  let s := secure (railsUp s) env
  let s := s.nv.map.failedTiles.foldl mapFailedTile s
  let s := s.nv.map.plots.foldl (fun s p => s.onFab fun f => (List.range 8).foldl (fun f h => f.setHand p h { f.hand p h with state := .fallowed }) f) s
  let s := env.findings.foldl riseFinding s
  s.onAon fun a => { a with step := 7 }
/-- AUTORISE_RISE (R397, R533, R553): in Fallow as boot has left it, with every supply in range. (DESIGN CHOICE, log 17) -/
def execAutoriseRise (env : RiseEnv) (s : State) : Out :=
  if s.aon.mode = some .fallow && s.aon.autoDue && s.aon.failedTest = 0 && !s.aon.thermalLatch && !s.supplyOut then .next (rise s env) else .next s
/-- RISE (R520, R533, R553): the dealer's turn has ordered it. (DESIGN CHOICE, log 17) -/
def execRise (env : RiseEnv) (s : State) : Out :=
  match takeOrder .rise s.mc.orders with
  | none => .next s
  | some rest =>
    let s := s.onMc fun m => { m with orders := rest }
    if s.aon.mode = some .fallow && !s.aon.thermalLatch && s.aon.failedTest = 0 then .next (rise s env) else .next s
/-- RESTART (R533, R595): the dealer's turn has ordered it; it also leaves the state that a thermal shutdown sets. (DESIGN CHOICE, log 17) -/
def execRestart (env : RiseEnv) (s : State) : Out :=
  match takeOrder .restart s.mc.orders with
  | none => .next s
  | some rest =>
    let s := s.onMc fun m => { m with orders := rest }
    if s.aon.mode = some .fallow && s.aon.failedTest = 0 then .next (rise s env) else .next s
/-- The rise that is under way or due, taken off. -/
def State.dropRise (s : State) : Option State :=
  match takeOrder .rise s.mc.orders with
  | some rest => some (s.onMc fun m => { m with orders := rest })
  | none => match takeOrder .restart s.mc.orders with
    | some rest => some ((s.onMc fun m => { m with orders := rest }).onAon fun a => { a with thermalLatch := false })
    | none => if s.aon.autoDue then some (s.onAon fun a => { a with autoDue := false }) else none
/-- SOFT_START_FAIL (R555, R605): the rise that is due fails at a rail; stack power is removed and the device is in Fallow. -/
def execSoftStartFail (rail : Fin 5) (s : State) : Out :=
  if s.aon.mode != some .fallow then .next s
  else match s.dropRise with
    | none => .next s
    | some s => .next (s.onHk fun h => { h with failedRail := rail.val + 1, rails := tput {} [] rail.val { state := 5 } })

/-! ## Transitions into Fallow (R397, R532) -/

/-- REQUEST_FALLOW (R532): the dealer's turn has ordered REQUEST 0. -/
def execRequestFallow (s : State) : Out :=
  match takeOrder (.request 0) s.mc.orders with
  | none => .next s
  | some rest =>
    let s := s.onMc fun m => { m with orders := rest }
    if s.stackHeld then .next (powerDown s) else .next s
/-- CONTINUOUS_TEST_FAIL (R395, R397): a continuous test of the entropy source, or the pairwise test of a key pair, has failed: the device is held in Fallow until a power cycle; what its turns have ordered and the WRITEs it has held are not carried out. (DEDUCED, log 31) -/
def execContinuousTestFail (code : Fin 3) (s : State) : Out :=
  if !s.mcUp then .next s
  else
    let s := s.onAon fun a => { a with failedTest := BitVec.ofNat 16 (0x0101 + code.val), autoDue := false }
    let s := (dropHeldWrites s).onMc fun m => { m with orders := [], heldFill := [], window := false }
    .next (if s.stackHeld then powerDown s else s)

end Sys2Proof.Machine
end

