-- ==== Sys2Proof/Machine/Startup.lean ====
section
/-! DEFINITION. Steps 7 to 9 of start-up: the end of sowing, link training, the binding tick, and the reads of the boot flash (R546, R574–R581). -/

namespace Sys2Proof.Machine

/-- BOOT_FLASH_READ (R235, R546): the bytes of one read arrive on BOOT_LOAD as one packet, in address order. -/
def execBootFlashRead (addr : BitVec 32) (len : Nat) (s : State) : Out :=
  if !s.mcUp || !inRange 4 16384 len || decide (2 ^ 32 < addr.toNat + len) then .next s
  else match (s.net.queue 40960).packPacket 0 (s.nv.flashBytes addr.toNat len) with
    | some q => .next (s.onNet fun n => n.setQueue 40960 q)
    | none => .next s

/-! ## The end of step 7 (R574) -/

/-- The seat has completed a FINAL image in this step and has no stream open. (DEDUCED, log 39) -/
def State.finished (s : State) (k : Nat) : Bool := (s.seat k).finalDone && (s.seat k).stream.isNone
/-- The seat owns a plot-hand pair, a port or a queue that the dealer gives. -/
def State.holds (s : State) (k : Nat) : Bool :=
  s.fab.hands.any (fun e => ownerOf e.2.own = some k) || s.lnk.ports.any (fun e => ownerOf e.2.own = some k) ||
    s.net.queues.any fun e => !fixedOwner e.1 && qdOwner e.2.dir = some k
/-- The conditions of R574. (DEDUCED, log 39) -/
def State.sowingOver (s : State) : Bool :=
  s.step7 && s.finished 0 && (allSeats.all fun k => !s.holds k || s.finished k || s.aon.finalTimeout) &&
    !(s.fab.hands.any fun e => e.2.state == .sowing && match ownerOf e.2.own with | some k => s.finished k | none => false)

/-! ## Link training (R573, R575) -/

/-- A port takes part in its group's training slot. -/
def State.trains (s : State) (n : Nat) : Bool :=
  let x := s.lnk.port n
  (match s.lnk.portOwner n with | some k => (s.seat k).loaded | none => false) && x.rate != 0 && x.pstate != 3 && !s.bulkPort n
def portsOf (g : Nat) : List Nat := (List.range 32).map (32 * g + ·)
/-- The next group, from g on, that has a port to train. -/
def State.nextGroup (s : State) (g : Nat) : Option Nat := (List.range 16).find? fun x => decide (g ≤ x) && (portsOf x).any s.trains
/-- The training slot of the first group from g on that has a port starts; or step 8 ends, at least 20 µs before the binding tick, and the PLLs that the pending turns need start (R523, R578). (DEDUCED, log 39) -/
def startSlot (s : State) (g : Nat) : State :=
  match s.nextGroup g with
  | none =>
    let s := s.onAon fun a => { a with step := 9, trainGroup := 0 }
    s.pendingTurns.foldl (fun s x => startPlls s x.1 x.2.items) s
  | some x => ((portsOf x).filter s.trains).foldl (fun s n => applyPower (s.onPort n fun y => { y with released := true }) n false)
      (s.onAon fun a => { a with trainGroup := x })
/-- SOWING_END (R574): the finished seats have loaded, and step 8 begins. -/
def execSowingEnd (s : State) : Out :=
  if !s.sowingOver then .next s
  else
    let s := allSeats.foldl (fun s k => if s.finished k then s.onSeat k fun r => { r with loaded := true } else s) s
    .next (startSlot (s.onAon fun a => { a with step := 8 }) 0)
/-- SOWING_FINAL_TIMEOUT (R574): 10 s have passed since the dealer's FINAL image completed. -/
def execSowingFinalTimeout (s : State) : Out :=
  if s.step7 && (s.seat 0).finalDone then .next (s.onAon fun a => { a with finalTimeout := true }) else .next s
/-- TRAINING_SLOT_END (R575): every ACTIVE port of the group is UP, or 40 ms have passed. -/
def execTrainingSlotEnd (s : State) : Out :=
  if s.aon.mode = some .sowing && s.aon.step = 8 then .next (startSlot s (s.aon.trainGroup + 1)) else .next s

/-! ## The binding tick (R571, R574, R578–R581) -/

/-- The pending turn of a loaded seat: its deferred items, re-checked and applied as one. (DEDUCED, log 39) -/
def bindSeat (s : State) (k : Nat) : State :=
  let items := (s.seat k).deferred
  if !(s.seat k).loaded || items.isEmpty then s
  else performTurn (s.onSeat k fun r => { r with deferred := [] }) k { items := items, at? := some s.aon.now, source := 2 }
/-- BINDING_TICK (R578): turns still due are taken, then the pending turns of the loaded seats, the dealer's first; the device is in Field. (DEDUCED, log 39) -/
def execBindingTick (s : State) : Out :=
  if s.aon.mode = some .sowing && s.aon.step = 9 then
    let s := s.clearOut
    let s := s.dueTurns.foldl (fun s x => performTurn s x.1 x.2) s
    let s := s.onAon fun a => { a with mode := some .field, step := 0 }
    .next (releaseWrites ((allSeats.foldl bindSeat s).onMc fun m => { m with window := false }))
  else .next s

end Sys2Proof.Machine
end

