-- ==== Sys2Proof/Machine/Resets.lean ====
section
/-! DEFINITION. Resets of feed domains and of the fabric dies (R33–R43, R245, R378, R615, R672, R677). -/

namespace Sys2Proof.Machine

/-! ## Common steps -/

/-- Seats that own a hand of one of some plots. (DEDUCED, log 35) -/
def State.plotOwners (s : State) (ps : List Nat) : List Nat :=
  (s.fab.hands.filterMap fun e => if ps.contains (e.1 / 8) then ownerOf e.2.own else none).eraseDups
/-- Every act of the consumer that is on its way reaches the store. -/
def Queue.settleActs (q : Queue) : Queue := (List.range q.acts.length).foldl (fun q _ => q.act) q
/-- What a port still receives for queue q, over a path that feed domain d cuts, is discarded, its open packet being gone. -/
def deadRx (s : State) (q d : Nat) : State :=
  s.onLnk fun l => { l with ports := l.ports.map fun x => match x.2.rx with
    | some r => if r.queue = q && prodCrosses q (s.net.queue q) r.prod d then (x.1, { x.2 with rx := some { r with dead := true } }) else x
    | none => x }
/-- The queue number and word of a staged queue directory entry. -/
def Item.queueEntry (i : Item) : Option (Nat × BitVec 256) :=
  if i.win && i.index = winQueue then some (i.entry % 65536, if i.entry / 65536 % 2 = 0 then BitVec.ofNat 256 i.nat else 0) else none
/-- The plot whose record, engine, riser, rotation table or retirement slots an item names. -/
def Item.plotOf (i : Item) : Option Nat :=
  if i.win then (if i.index = winRotate || i.index = winRetire then some (i.entry / 64) else none)
  else if inRange 0x3000 0x31FF i.index then some (i.index - 0x3000)
  else if inRange 0x3200 0x33FF i.index then some (i.index - 0x3200)
  else if inRange 0x3400 0x35FF i.index then some (i.index - 0x3400)
  else none

/-! ## Feed domains (R33–R39) -/

/-- The traffic of plot p passes through feed domain d: 0 F0, 1 C, 2 F1, 3–6 M0–M3 (R33). -/
def State.feedServes (s : State) (d p : Nat) : Bool :=
  let far := max (s.physDie p 0) (s.physDie p 262144)
  (decide (d ≤ 1) && decide (256 ≤ p)) || ((d = 1 || d = 2) && decide (p < 256)) || (decide (3 ≤ d) && decide (d - 3 < far))
/-- A queue whose path runs through the domain loses what crosses: open packets are rewound, packets in flight are lost, and it is no longer bound (R37). -/
def Queue.feedReset (x : Queue) (q d : Nat) : Queue :=
  let cut := prodCrosses q x
  let x := (List.range (qdNprod x.dir + 1)).foldl (fun y i => if cut i d then (y.rewindOpen i 5).endDiscard i else y) x
  let lost := (x.flying.filter fun p => cut p.prod d).length
  ({ x.settleActs with flight := x.flight.filter fun p => !cut p.from d, lost := sat32 (x.lost + lost) }).withdraw
/-- The running test's target lies behind the domain (R677). -/
def State.testBehind (s : State) (d : Nat) : Bool :=
  let w := s.mc.bist.runTarget
  let i := tgIndex w
  match tgKind w with
  | 1 =>
    let p := s.tileRiser w
    (decide (d ≤ 1) && decide (256 ≤ p)) || ((d = 1 || d = 2) && decide (p < 256)) || (decide (3 ≤ d) && decide (d - 3 < tgDie w))
  | 2 => d = 0
  | 3 | 4 | 5 => decide (d ≤ 1) && decide (256 ≤ i)
  | _ => false
/-- Requests in flight through the domain return PATH_RESET (R37). -/
def feedRequests (s : State) (d : Nat) : State :=
  let cut := fun (p a : Nat) => let x := s.physDie p a; (decide (p < 256) && (d = 1 || d = 2)) || (decide (3 ≤ d) && decide (d - 3 < x))
  let s := s.onFab fun f => { f with hands := f.hands.map fun e =>
    let p := e.1 / 8
    (e.1, ({ e.2 with memReq := e.2.memReq.map fun (q : MemReq) =>
      if q.done.isNone && !q.taken && cut p q.line then { q with done := some (respPathReset, 0) } else q } : Hand).settle) }
  let s := s.onEng fun e => { e with threads := e.threads.map fun x => match x.2.miss with
    | some m => if m.resp.isNone && cut (x.1 / 8) m.line then (x.1, { x.2 with miss := some { m with resp := some respPathReset } }) else x
    | none => x }
  if d ≤ 1 then s.onNet fun n => { n with handChan := n.handChan.map fun e =>
    if 256 ≤ e.1 / 64 then (e.1, e.2.answerAll respPathReset) else e }
  else s
/-- FEED_DOMAIN_RESET (R36, R37, R672, R677). (DEDUCED, log 36) -/
def feedReset (s : State) (d : Nat) : State :=
  let plots := (List.range 512).filter (s.feedServes d)
  let scope := fun (i : Item) => (match i.plotOf with | some p => plots.contains p | none => false) || match i.queueEntry with
    | some (q, w) => queueCrosses q (s.net.queue q) d || queueCrosses q { dir := w } d
    | none => false
  let s := discardDue s scope
  let s := if s.mc.bist.state = 1 && s.testBehind d then abortTest s 5 else s
  let hit := (s.net.queues.filter fun e => qdEnable e.2.dir && queueCrosses e.1 e.2 d).map (·.1)
  let s := s.showStops fun e i => qdEnable e.2.dir && prodCrosses e.1 e.2 i d
  let s := hit.foldl (fun s q => deadRx (s.onNet fun n => n.setQueue q ((n.queue q).feedReset q d)) q d) s
  let s := feedRequests s d
  let s := s.onNet fun n => { n with feedDown := if n.feedDown.contains d then n.feedDown else d :: n.feedDown }
  (s.raiseAll (eventsFor (s.plotOwners plots) 0x0706 s.freeIndex d 0)).drawn
def execFeedDomainReset (d : Fin 7) (s : State) : Out := if s.stackHeld then .next (feedReset s d.val) else .next s
/-- FEED_RETRAIN_DONE (R38): the domain is in service again, and each of its queues that no other reset holds is bound with its initial credits. -/
def execFeedRetrainDone (d : Fin 7) (s : State) : Out :=
  if !s.net.feedDown.contains d.val then .next s
  else
    let s := s.onNet fun n => { n with feedDown := n.feedDown.filter (· ≠ d.val) }
    let dead := fun (e : Option Nat) => match e with | some p => s.net.dieDown.contains (dieOf p) | none => false
    let free := fun (q : Nat) (x : Queue) => !(s.net.feedDown.any fun d => queueCrosses q x d) && !dead (storePlace q) && !dead (epPlace (qdConsumer x.dir)) &&
      !((List.range (qdNprod x.dir + 1)).any fun i => dead (epPlace (qdProducer x.dir i)))
    let again := fun (e : Nat × Queue) => if qdEnable e.2.dir && !e.2.bound && queueCrosses e.1 e.2 d.val && free e.1 e.2 then (e.1, e.2.bind) else e
    .next (s.onNet fun n => { n with queues := n.queues.map again })

/-! ## Die resets (R40–R43, R245) -/

/-- Number n lies on die d when it numbers plots. -/
def onDie (d p : Nat) : Bool := dieOf p = d && decide (p < 512)
/-- Hands, kitty and block memories of the die (R41, R42, R140, R165). (DEDUCED, log 35) -/
def Fabric.dieReset (f : Fabric) (d : Nat) : Fabric :=
  { f with
    hands := (f.hands.map fun e => if onDie d (e.1 / 8) then (e.1, { e.2 with
      state := if e.2.state = .live || e.2.state = .parked then .sown else e.2.state
      ff := 0, arrival := 0, memReq := [], memRep := [], qoRw := [] }) else e).filter fun e => e.2 != {}
    kitty := f.kitty.filter fun e => !onDie d (e.1 / 2048)
    kwatch := f.kwatch.filter fun e => !onDie d (e.1 / 32)
    bms := (List.range 512).foldl (fun l p => if onDie d p then (List.range 64).foldl (fun l k => tput {} l (64 * p + k) (tget {} l (64 * p + k)).clear) l else l) f.bms }
/-- The sequencer of one plot of the die: the running slot ends, calls and values on their way are gone; in a yoke the other plot of the column stops with its sequencer on F0. -/
def Fabric.plotReset (f : Fabric) (down : List Nat) (limp : Bool) (p : Nat) : Fabric :=
  let yoked := f.yoked p
  -- the other plot of a yoke whose sequencer is reset runs its slot up to here
  let f := if yoked && decide (p < 256) then f.setPlot (p + 256) { f.plot (p + 256) with idleRest := true } else f
  let x := f.plot p
  let f := f.setPlot p { x with
    live := none, idleRest := true, call := none, engCalls := [], transit := [], disabled := [], between := []
    captured := 0, qiSel := 0, qiWas := 0, kittyOut := 0, kittyNext := 0, kittyLast := none, halted := false }
  if f.seqPlot p = p then
    let f := if yoked then f else f.setPlot p { f.plot p with gated := true, cur := 0, word := slotReset, start := 0, now := 0, idleRest := false }
    if yoked && f.namesLive p then f.startSlot down limp p 0 (f.edgeOf p) else f.regate down limp p
  else f.regate down limp p
/-- Threads, memories and counters of the die's engines (R245, R615); instruction memories keep their contents. (DEDUCED, log 35) -/
def Engines.dieReset (e : Engines) (d : Nat) : Engines :=
  { e with
    threads := (e.threads.map fun x => if onDie d (x.1 / 8) then (x.1, ({ state := if x.2.state = .unowned then .unowned else .stopped, ess := x.2.ess } : Thread)) else x).filter fun x => x.2 != {}
    slots := e.slots.filter fun x => !onDie d (x.1 / 8)
    dmem := e.dmem.filter fun x => !onDie d (x.1 / dmemSize)
    dmErr := e.dmErr.filter fun x => !onDie d (4 * x.1 / dmemSize)
    engines := (e.engines.map fun x => if onDie d x.1 then (x.1, { x.2 with cycles := 0, totals := {}, cache := [], bimodal := [], targets := [], gated := true }) else x).filter fun x => x.2 != {} }
/-- A request comes from a hand or a thread, not from B. -/
def fromPlot : MemSrc → Bool
  | .fabric _ | .engine _ => true
  | _ => false
/-- Writes held past the counter limit: those of the die's hands and engine are discarded without reply (R378). -/
def keepHeld (l : List WcEntry) : List WcEntry :=
  l.filterMap fun e =>
    let w := e.waiters.filter fun s => !fromPlot s
    if w.isEmpty && !e.waiters.isEmpty then none else some { e with waiters := w }
/-- Channel engines of the die (R41, R378); the key stores in C stay. Requests of other masters that wait in an engine return PATH_RESET. -/
def riserReset (s : State) (p : Nat) : State :=
  let x := s.stk.riser p
  let s := s.onStk fun k =>
    let k := k.setRiser p { x with wc := [], patrol := 0, recent := [], history := [], checkDue := [], cmdFails := [], cmdWait := [], waiting := [], pageCorr := [] }
    (List.range 32).foldl (fun k r =>
      let g := k.region p r
      k.setRegion p r { g with heldWrites := keepHeld g.heldWrites }) k
  let s := x.wc.foldl (fun s e => answerAll s p e.line respPathReset (e.waiters.filter fun w => !fromPlot w)) s
  x.waiting.foldl (fun s e => answerB s e.src respPathReset 0) s
/-- Queue q meets the reset of die d (R43): one stored there loses its packets; one with an end there is to be bound again, and the open packets of producers there are rewound. (DEDUCED, log 35) -/
def queueDieReset (s : State) (d q : Nat) : State :=
  let x := s.net.queue q
  let here := fun (e : Option Nat) => match e with | some p => onDie d p | none => false
  if here (storePlace q) then unbindQueue s q
  else
    let mine := (List.range (qdNprod x.dir + 1)).filter fun i => here (epPlace (qdProducer x.dir i))
    if mine.isEmpty && !here (epPlace (qdConsumer x.dir)) then s
    else s.onNet fun n =>
      let x := mine.foldl (fun y i => (y.rewindOpen i 5).endDiscard i) (n.queue q)
      n.setQueue q x.settleActs.withdraw
/-- The running test's target lies on the die or behind it (R677). -/
def State.testOnDie (s : State) (d : Nat) : Bool :=
  let w := s.mc.bist.runTarget
  match tgKind w with
  | 1 => onDie d (s.tileRiser w)
  | 3 | 4 | 5 => onDie d (tgIndex w)
  | _ => false
/-- DIE_RESET (R41–R43, R245, R378, R672, R677). (DEDUCED, log 35) -/
def dieReset (s : State) (d : Nat) : State :=
  let ends := fun (q : Nat) (w : BitVec 256) => ((storePlace q).any (onDie d)) || ((epPlace (qdConsumer w)).any (onDie d)) ||
    (List.range (qdNprod w + 1)).any fun i => (epPlace (qdProducer w i)).any (onDie d)
  let scope := fun (i : Item) => (match i.plotOf with | some p => onDie d p | none => false) || match i.queueEntry with
    | some (q, w) => ends q (s.net.queue q).dir || ends q w
    | none => false
  let s := discardDue s scope
  let s := if s.mc.bist.state = 1 && s.testOnDie d then abortTest s 5 else s
  let owners := (s.plotOwners ((List.range 512).filter (onDie d)) ++
    s.net.queues.filterMap fun e => if (storePlace e.1).any (onDie d) then qdOwner e.2.dir else none).eraseDups
  let qs := (s.net.queues.filter fun e => qdEnable e.2.dir).map (·.1)
  let s := qs.foldl (fun s q => queueDieReset s d q) s
  let ps := (s.fab.plots.map (·.1)).filter (onDie d)
  -- the other plots of the die's clocks, among them those of its yokes, have had the edges up to here
  let s := (ps.filter fun p => s.fab.yoked p && decide (p < 256)).foldl State.passSome s
  let f := s.fab.dieReset d
  let f := ps.foldl (fun f p => f.plotReset s.nv.map.plots s.limp p) f
  let s := { s with fab := f, eng := s.eng.dieReset d }
  let s := (s.stk.risers.map (·.1)).foldl (fun s p => if onDie d p then riserReset s p else s) s
  let s := s.onStk fun k => { k with regions := k.regions.foldl (fun l e =>
    if onDie d (e.1 / 32) then tput {} l e.1 { e.2 with heldWrites := keepHeld e.2.heldWrites } else l) k.regions }
  let s := s.onNet fun n => { n with
    handChan := n.handChan.filter fun e => !onDie d (e.1 / 64)
    threadChan := n.threadChan.filter fun e => !onDie d (e.1 / 8)
    dieDown := if n.dieDown.contains d then n.dieDown else d :: n.dieDown }
  (s.raiseAll (eventsFor owners 0x0705 s.freeIndex d 0)).drawn
/-- A die of the fabric may be reset alone: in Field, and where the dealer may order it (R40, R498). -/
def State.dieMayReset (s : State) : Bool := s.aon.mode == some .field || s.aon.mode == some .limp || s.aon.mode == some .test
/-- DIE_RESET (R40, R41): the MC asserts the reset on a fault that cannot be contained within one plot. (DEDUCED, log 35) -/
def execDieReset (d : Fin 2) (s : State) : Out := if s.dieMayReset then .next (dieReset s d.val) else .next s
/-- DIE_RESET_REQUEST (R40, R498): the dealer's turn has ordered the reset of a die. -/
def execDieResetRequest (s : State) : Out :=
  match s.mc.orders.findSome? fun o => match o with | .dieReset d => some d | _ => none with
  | none => .next s
  | some d => match takeOrder (.dieReset d) s.mc.orders with
    | none => .next s
    | some rest =>
      let s := s.onMc fun m => { m with orders := rest }
      .next (if s.dieMayReset then dieReset s d else s)
/-- DIE_RESET_RELEASE (R43, R378): queues may be bound again and passes resume at PROGRESS. -/
def execDieResetRelease (d : Fin 2) (s : State) : Out := .next (s.onNet fun n => { n with dieDown := n.dieDown.filter (· ≠ d.val) })

end Sys2Proof.Machine
end

