-- ==== Sys2Proof/Machine/Modes.lean ====
section
/-! DEFINITION. Retention, Limp and Test (R529, R534–R542). -/

namespace Sys2Proof.Machine

/-- The state that a command leaves when it answers one. -/
def outcomeState (s : State) : Out → State
  | .next t => t
  | _ => s
/-- The dealer's turn has ordered REQUEST m: the order taken off. (DEDUCED, log 70) -/
def State.takeRequest (s : State) (m : Nat) : Option State :=
  (takeOrder (.request m) s.mc.orders).map fun rest => s.onMc fun x => { x with orders := rest }

/-! ## Into Retention (R535) -/

/-- Every slot that runs ends at the first fabric edge, and the sequencers stop; accepted calls are kept. -/
def haltPlots (s : State) : State :=
  let qs := (s.fab.plots.map (·.1)).filter fun p => !(s.fab.plot p).gated && s.fab.seqPlot p = p
  let s := qs.foldl State.passSome s
  s.onFab fun f => qs.foldl (fun f q =>
    let ps := if f.yoked q && decide (q < 256) then [q, q + 256] else [q]
    let f := ps.foldl (fun f p => (f.deliver p 2).setPlot p { (f.deliver p 2).plot p with idleRest := true }) f
    f.setPlot q { f.plot q with halted := true }) f
/-- What a thread has not retired is discarded; its state and PC stay. (DEDUCED, log 37) -/
def Thread.discardInFlight (t : Thread) : Thread := { t with miss := none, fencing := false, fenceLost := none }
/-- REQUEST_RETENTION (R535): steps 1 to 3 begin: slots end, threads stop, packets being received are rewound. (DEDUCED, log 37) -/
def execRequestRetention (s : State) : Out :=
  match s.takeRequest 3 with
  | none => .next s
  | some s =>
    if s.aon.mode != some .field || s.aon.moving then .next s
    else
      let s := haltPlots s
      let s := s.onEng fun e => { e with threads := (e.threads.map fun x => (x.1, x.2.discardInFlight)).filter fun x => x.2 != {} }
      let s := (s.lnk.ports.map (·.1)).foldl (fun s n => rxStop s n 5) s
      .next (s.onAon fun a => { a with moving := true })

/-- Ports finish the packets they send and go to DEEP_IDLE. -/
def idlePorts (s : State) : State :=
  let s := (s.lnk.ports.map (·.1)).foldl (fun s n => if h : n < 512 then outcomeState s (execPacketTxEnd ⟨n, h⟩ s) else s) s
  s.onLnk fun l => { l with ports := l.ports.map fun x => (x.1, if x.2.link == .off then x.2 else { x.2 with link := .idle }) }
/-- Words, commits, rewinds and credits on their way reach their ends. -/
def Queue.settle (q : Queue) : Queue :=
  let rep := fun (n : Nat) (g : Queue → Queue) (q : Queue) => (List.range n).foldl (fun q _ => g q) q
  let q := rep q.flight.length (fun q => match q.flight with
    | .commit p :: _ => q.arrive p.prod
    | .rewind i _ :: _ => q.rewindArrive i
    | [] => q) q
  let q := q.settleActs
  rep q.returns.length (fun q => match q.returns with | x :: _ => q.credit x.1 | [] => q) q
/-- One accepted request of a hand reaches the channel engine. -/
def serveHand (s : State) (p h : Nat) (q : MemReq) : State :=
  if hp : p < 512 then
    if hh : h < 8 then
      let src : MemSrc := .fabric ⟨h, hh⟩
      let line := BitVec.ofNat 19 q.line
      outcomeState s (
        if !q.we then execLineRead ⟨p, hp⟩ src line 0 s
        else if q.be = fullBe then execFullLineWrite ⟨p, hp⟩ src line q.data s
        else execPartialLineWrite ⟨p, hp⟩ src line q.be q.data s)
    else s
  else s
/-- Channel engines complete the requests they have accepted and write every write-combining entry. -/
def drainRisers (s : State) : State :=
  let waits := s.fab.hands.flatMap fun e => (e.2.memReq.filter fun q => q.done.isNone && !q.taken).map fun q => (q.seq, e.1, q)
  let s := (waits.mergeSort fun x y => decide (x.1 ≤ y.1)).foldl (fun s x => serveHand s (x.2.1 / 8) (x.2.1 % 8) x.2.2) s
  (s.stk.risers.map (·.1)).foldl (fun s p => flushWhere s p fun _ => true) s
/-- A write is held past the counter limit, or a wipe holds requests. -/
def State.draining (s : State) : Bool := s.stk.regions.any fun e => !e.2.heldWrites.isEmpty || e.2.wiping
/-- The rails go to retention voltage (R602). (DEDUCED, log 37) -/
def Hk.retain (h : Hk) : Hk :=
  { h with rails := (List.range 5).foldl (fun l k => tput {} l k { tget {} l k with setMv := if k = 3 then 1050 else 600, state := 3, skip := 0, overUs := 0 }) h.rails }
/-- RETENTION_ENTRY_DONE (R535, R536): ports, bulk channels, queues and channel engines have drained, PLLs stop, and the stack and B core go to retention voltage. A held write keeps the device here until it proceeds or times out. A PLL's running flag says from here on whether it starts again at the exit (R537). (DESIGN CHOICE, log 17) (DEDUCED, log 37) -/
def execRetentionEntryDone (s : State) : Out :=
  if s.aon.mode != some .field || !s.aon.moving then .next s
  else
    let s := drainRisers (idlePorts s)
    let s := s.onNet fun n => { n with queues := n.queues.map fun e => (e.1, if e.2.runs then e.2.settle else e.2) }
    if s.draining then .next s
    else
      let s := s.onFab fun f => (List.range 8).foldl (fun f k => f.setFpll k { f.fpll k with locked := false }) f
      let s := s.onEng fun e => (List.range 4).foldl (fun e k => e.setEpll k { e.epll k with locked := false }) e
      let s := s.onLnk fun l => { l with quads := (l.quads.map fun x => (x.1, { x.2 with pllRunning := false, pllLocked := false })).filter fun x => x.2 != {} }
      .next ((s.onHk Hk.retain).onAon fun a => { a with mode := some .retention, moving := false })

/-! ## Out of Retention (R537) -/

/-- Each sequencer starts the slot after the one that ended; a call kept is taken there. -/
def resumePlots (s : State) : State :=
  let qs := (s.fab.plots.map (·.1)).filter fun p => (s.fab.plot p).halted
  s.onFab fun f => qs.foldl (fun f q =>
    let x := f.plot q
    let next := match x.call with | some c => c.slot | none => (x.cur + 1) % x.len
    (f.setPlot q { x with halted := false, call := none }).startSlot s.nv.map.plots s.limp q next (f.edgeOf q)) f
/-- REQUEST_FIELD (R537, R541): out of Retention the supplies rise; out of Limp held hands and threads run again. -/
def execRequestField (s : State) : Out :=
  match s.takeRequest 2 with
  | none => .next s
  | some s =>
    if s.aon.mode = some .retention then
      .next (if s.aon.moving then s else s.onAon fun a => { a with moving := true })
    else if s.aon.mode = some .limp then
      let back := fun (t : Thread) => if t.state = .held then { t with state := t.heldState, heldState := .stopped } else t
      let s := s.onEng fun e =>
        let e : Engines := { e with threads := (e.threads.map fun (x : Nat × Thread) => (x.1, back x.2)).filter fun x => x.2 != ({} : Thread) }
        (e.engines.map (·.1)).foldl (fun e p => e.regate p) e
      .next (s.onAon fun a => { a with mode := some .field })
    else .next s
/-- RETENTION_EXIT_DONE (R537): clocks resume, each sequencer starts its next slot, and ports leave DEEP_IDLE. -/
def execRetentionExitDone (s : State) : Out :=
  if s.aon.mode != some .retention || !s.aon.moving then .next s
  else
    let s := s.onAon fun a => { a with mode := some .field, moving := false }
    let s := s.onFab fun f => (List.range 8).foldl (fun f k => f.setFpll k { f.fpll k with locked := (f.fpll k).running }) f
    let s := s.onEng fun e => (List.range 4).foldl (fun e k => e.setEpll k { e.epll k with locked := (e.epll k).running }) e
    let mv := fun (k : Nat) => if k < 2 then s.fab.railMv k else if k = 3 then 1050 else 750
    let s := s.onHk fun h => { h with rails := (List.range 5).foldl (fun l k => tput {} l k { tget {} l k with setMv := mv k, state := 2 }) h.rails }
    let s := resumePlots s
    .next ((s.lnk.ports.map (·.1)).foldl (fun s n => applyPower s n false) s)

/-! ## Limp (R538–R541) -/

/-- The device enters Limp: hands and threads without their mark are held, and a running test ends. -/
def enterLimp (s : State) : State :=
  let s := abortTest s 4
  let ps := (s.fab.plots.map (·.1)).filter fun p => match (s.fab.plot p).live with | some h => !(s.fab.hand p h).ess | none => false
  let s := ps.foldl State.passSome s
  let hold := fun (t : Thread) => if !t.ess && (t.state = .running || t.state = .waiting) then { t.discardInFlight with state := .held, heldState := t.state } else t
  let s := s.onFab fun f => ps.foldl (fun f p => f.setPlot p { f.plot p with idleRest := true }) f
  let s := s.onEng fun e =>
    let e : Engines := { e with threads := e.threads.map fun (x : Nat × Thread) => (x.1, hold x.2) }
    (e.engines.map (·.1)).foldl (fun e p => e.regate p) e
  (s.onHk fun h => { h with limpArmed := false }).onAon fun a => { a with mode := some .limp }
/-- REQUEST_LIMP (R528, R539). -/
def execRequestLimp (s : State) : Out :=
  match s.takeRequest 4 with
  | none => .next s
  | some s => .next (if s.aon.mode = some .field && !s.aon.moving then enterLimp s else s)
/-- LIMP_AUTO_ENTRY (R540): at a round boundary, after a stack rail has been at step 15 for 256 rounds. -/
def execLimpAutoEntry (s : State) : Out :=
  if s.aon.mode != some .field || s.aon.moving || !s.mc.hk.limpArmed then .next s
  else
    let held := (List.range 4).filter fun k => 256 ≤ (s.mc.hk.rail k).at15
    .next ((enterLimp s).raiseAll (held.flatMap fun k => eventsFor allSeats 0x0602 0x2202 k 15))

/-! ## Test (R542) -/

/-- REQUEST_TEST (R527, R542): every I/O bank is in its hold state, and a field check that runs ends. (DEDUCED, log 38) -/
def execRequestTest (s : State) : Out :=
  match s.takeRequest 5 with
  | none => .next s
  | some s =>
    if s.aon.mode != some .field || s.aon.moving then .next s
    else
      let s := abortTest s 4
      let s := s.onFab fun f => { f with banks := (f.banks.map fun e => (e.1, { e.2 with released := false })).filter fun e => e.2 != {} }
      .next (s.onAon fun a => { a with mode := some .test })

end Sys2Proof.Machine
end

