-- ==== Sys2Proof/Machine/Housekeeping.lean ====
section
/-! DEFINITION. The housekeeping sequencer: temperature frames and shutdown, rounds, the governor, current limits, the wear ledger, bank voltages and refresh (R137–R139, R303, R584–R611, R700). -/

namespace Sys2Proof.Machine

/-! ## Temperature sensors (R589–R595) -/

/-- The shutdown level of 115 °C as Q8.8 (R593). -/
def hotLevel : Int := 29440
/-- Sensors of die d: 0 B, 1 F0, 2 C, 3 F1, 4–8 M0–M4 (R589). -/
def dieSensors (d : Nat) : List Nat :=
  let r := fun a n => (List.range n).map (a + ·)
  match d with | 0 => r 0 16 | 1 => r 16 12 | 2 => r 28 4 | 3 => r 32 12 | m => r (44 + 4 * (m - 4)) 4
/-- The fused counts N25 and N110 of a sensor. (DESIGN CHOICE, log 84) -/
def Nv.fuse (n : Nv) (k : Nat) : Nat × Nat := tget (18000, 22250) n.fuses k
/-- A reading from a gate's count: 0.125 °C steps as Q8.8, or none for a failed sensor (R590, R591). (DESIGN CHOICE, log 84) -/
def reading (fuse : Nat × Nat) (count : Nat) : Option Int :=
  let den : Int := (fuse.2 : Int) - fuse.1
  if !inRange 12800 25600 count || den ≤ 0 then none
  else
    let eighths : Int := (2 * (200 * den + 680 * ((count : Int) - fuse.1)) + den) / (2 * den)
    some (max (-10240) (min 32736 (32 * eighths)))
/-- The hottest of some sensors, the lowest number on a tie. (DESIGN CHOICE, log 84) -/
def hottestOf (temps : List (Nat × Option Int)) (sensors : List Nat) : Option (Nat × Int) :=
  sensors.foldl (fun best k => match tget none temps k, best with
    | none, b => b
    | some t, none => some (k, t)
    | some t, some (j, u) => if u < t then some (k, t) else some (j, u)) none
/-- A powered die all of whose sensors have failed (R591). (DESIGN CHOICE, log 84) -/
def dieFailed (temps : List (Nat × Option Int)) (d : Nat) : Bool := (dieSensors d).all fun k => (tget none temps k).isNone
/-- The cause for which a frame starts the shutdown sequence: a sensor, then a failed die (R593, R594). (DEDUCED, log 85) -/
def frameCause (temps : List (Nat × Option Int)) (on : Bool) : Option (Nat × Nat) :=
  let failed := ((List.range (if on then 9 else 1)).find? fun d => dieFailed temps d).map fun d => (96 + d, 0x7300)
  match hottestOf temps (List.range 64) with
  | some (k, t) => if hotLevel ≤ t then some (k, t.toNat) else failed
  | none => failed
/-- TEMP_FRAME (R588, R593, R595): every powered sensor is gated once, and the comparator reads the frame. (DEDUCED, log 85) -/
def execTempFrame (counts : List Nat) (s : State) : Out :=
  if !s.mcUp then .next s
  else
    let on := s.stackHeld
    let temps := (List.range 64).foldl (fun l k => tput none l k (if k < 16 || on then reading (s.nv.fuse k) (counts.getD k 0) else none)) []
    let s := s.onHk fun h => { h with frameTemps := temps }
    match frameCause temps on with
    | some c => if on || s.aon.mode = some .fallow then .next (shutdown s c.1 c.2) else .next s
    | none => .next s

/-! ## Rails and current limits (R596–R603) -/

/-- Maximum current of a rail in mA (R602). -/
def railMax (k : Nat) : Nat := if k < 2 then 250000 else if k < 4 then 60000 else 100000
/-- The limit of step j in mA: (100 − 5j) % of the maximum (R596). -/
def railLimit (k step : Nat) : Nat := railMax k * (100 - 5 * step) / 100
/-- One microsecond of the clock controller at a rail: the skip count j and the time above the limit at j = 15. (DEDUCED, log 89) -/
def Rail.microsecond (r : Rail) (limit ma : Nat) : Rail :=
  let r := { r with ma := ma }
  let r := if limit < ma then (if r.skip = 15 then { r with overUs := r.overUs + 1 } else { r with skip := r.skip + 1, overUs := 0 })
    else if 100 * ma < 95 * limit then { r with skip := r.skip - 1, overUs := 0 } else { r with overUs := 0 }
  if r.state = 3 then r else { r with state := if r.skip = 0 && !(decide (limit < ma)) then 2 else 4 }
/-- CURRENT_LIMIT_SKIP (R600). (DEDUCED, log 89) -/
def execCurrentLimitSkip (rail : Fin 5) (milliamps : Nat) (s : State) : Out :=
  let k := rail.val
  let r := s.mc.hk.rail k
  if !s.stackHeld || !inRange 2 4 r.state then .next s
  else
    let r := r.microsecond (railLimit k r.step) milliamps
    let s := s.onHk fun h => h.setRail k r
    .next (if 1000 ≤ r.overUs then shutdown s (64 + k) milliamps else s)
/-- Governed sensors of a rail (R597). -/
def railSensors (k : Nat) : List Nat :=
  match k with
  | 0 => dieSensors 1 | 1 => dieSensors 3 | 2 => dieSensors 2
  | 3 => (List.range 20).map (44 + ·)
  | _ => dieSensors 0
/-- P(h) ≥ 115 °C from the readings of rounds n and n − 7 (R598), with h in ms and the start times in ns, newest first; until there are 8 rounds, and where the times do not rise, P is the present reading. (DEDUCED, log 86) -/
def predictsHot (hist : List (Nat × Int)) (h : Nat) : Bool :=
  match hist with
  | [] => false
  | (t, x) :: _ =>
    match hist[7]? with
    | none => decide (hotLevel ≤ x)
    | some (t7, x7) =>
      if t ≤ t7 then decide (hotLevel ≤ x)
      else
        let dt : Int := (t : Int) - t7
        decide (hotLevel * dt ≤ x * dt + (x - x7) * (h * 1000000))
/-- The governor's rule for one rail at the end of a round (R599, R540): the rail with this round's reading added. (DEDUCED, log 86) -/
def Rail.govern (r : Rail) (limpStack : Bool) (horizon start : Nat) (x : Int) : Rail :=
  let hist := ((start, x) :: r.hist).take 8
  let r := { r with hist := hist }
  let r :=
    if limpStack then { r with step := 15, calm := 0 }
    else if predictsHot hist horizon then { r with step := min (r.step + 1) 15, calm := 0 }
    else if !predictsHot hist (2 * horizon) then
      if r.calm + 1 = 64 then { r with step := r.step - 1, calm := 0 } else { r with calm := r.calm + 1 }
    else { r with calm := 0 }
  { r with at15 := if r.step = 15 && !limpStack then r.at15 + 1 else 0 }
/-- GOVERNOR_LIMIT is due: the step rises from 0 to 1, or reaches 15 (R601). (DEDUCED, log 30) (DEDUCED, log 86) -/
def stepRaised (old new : Nat) : Bool := (old = 0 && new = 1) || (old != 15 && new = 15)
/-- The governor at step 6 of a round. (DESIGN CHOICE, log 18) (DEDUCED, log 86) -/
def govern (s : State) : State :=
  if !s.stackHeld then s.onHk fun h => { h with limpArmed := false }
  else
    let limp := s.limp
    let s := (List.range 5).foldl (fun (s : State) k =>
      let r := s.mc.hk.rail k
      let x := match hottestOf s.mc.hk.temps (railSensors k) with | some t => t.2 | none => hotLevel
      let n := r.govern (limp && decide (k < 4)) s.mc.hk.horizon s.mc.hk.roundTime x
      let s := s.onHk fun h => h.setRail k n
      if stepRaised r.step n.step then s.raiseAll (eventsFor allSeats 0x0602 0x2202 k n.step) else s) s
    s.onHk fun h => { h with limpArmed := s.aon.mode == some .field && (List.range 4).any fun k => decide (256 ≤ (h.rail k).at15) }

/-! ## The wear ledger (R608–R611) -/

/-- One kelvin in the ledger's unit, in which the mean of any readings is exact. (DEDUCED, log 88) -/
def wearKelvin : Int := 369008640
/-- The temperature of a die in units of half an interface's: the exact mean of its valid readings, or 115 °C when every sensor has failed; an unpowered stack die takes that of B. -/
def dieTemp (temps : List (Nat × Option Int)) (on : Bool) (d : Nat) : Int :=
  let l := (dieSensors (if on then d else 0)).filterMap (tget none temps)
  if l.isEmpty then hotLevel * 720720 else l.foldl (· + ·) 0 * (720720 / (l.length : Int))
/-- The temperature of interface i, 0–8 for B–F0 to M4–T. -/
def faceTemp (temps : List (Nat × Option Int)) (on : Bool) (i : Nat) : Int :=
  dieTemp temps on i + dieTemp temps on (if i = 8 then 8 else i + 1)
/-- The bin of a range, and none below 10 K (R609). -/
def wearBin (range : Int) : Option Nat :=
  if range < 10 * wearKelvin then none
  else if range < 20 * wearKelvin then some 0
  else if range < 40 * wearKelvin then some 1
  else if range < 60 * wearKelvin then some 2
  else if range < 80 * wearKelvin then some 3 else some 4
/-- The wear fraction in units of 2^-32: the sum of h_b / (2 N_b) over the bins, over the least common multiple of the rated counts (R610). -/
def wearFrac (bins : List Nat) : Nat :=
  let w := [111111, 444444, 1000000, 1777776, 2777775]
  sat32 (((List.range 5).map fun i => bins.getD i 0 * w.getD i 0).sum * 2147483648 / 111111000000)
/-- Half-cycles of a range are counted. (DEDUCED, log 88) -/
def Wear.add (w : Wear) (range : Int) (n : Nat) : Wear :=
  match wearBin range with
  | none => w
  | some i =>
    let bins := (List.range 5).map fun j => if j = i then sat32 (w.bins.getD j 0 + n) else w.bins.getD j 0
    { w with bins := bins, frac := wearFrac bins }
/-- Four-point rainflow over a residue, newest first: a closed cycle is counted and removed, and the oldest open half-cycle is counted when a larger one replaces it. (DEDUCED, log 88) -/
def Wear.close : Nat → Wear → Wear
  | 0, w => w
  | n + 1, w =>
    match w.residue with
    | [c, b, a] => if |b - a| < |c - b| then Wear.close n ({ w with residue := [c, b] }.add |b - a| 1) else w
    | d :: c :: b :: a :: t =>
      if |b - c| ≤ |a - b| && |b - c| ≤ |c - d| then Wear.close n ({ w with residue := d :: a :: t }.add |b - c| 2) else w
    | _ => w
/-- A turning point enters the residue. (DEDUCED, log 88) -/
def Wear.turn (w : Wear) (x : Int) : Wear := Wear.close (w.residue.length + 2) { w with residue := x :: w.residue }
/-- One round's temperature passes the 2 K hysteresis filter: a turning point is the extreme from which the temperature has come back by 2 K. -/
def Wear.round (w : Wear) (x : Int) : Wear :=
  let h := 2 * wearKelvin
  match w.filt, w.rising with
  | none, _ => { w with filt := some x }
  | some e, none =>
    if e + h ≤ x then { w.turn e with filt := some x, rising := some true }
    else if x + h ≤ e then { w.turn e with filt := some x, rising := some false }
    else w
  | some e, some true => if e ≤ x then { w with filt := some x } else if x + h ≤ e then { w.turn e with filt := some x, rising := some false } else w
  | some e, some false => if x ≤ e then { w with filt := some x } else if e + h ≤ x then { w.turn e with filt := some x, rising := some true } else w
/-- The ledger at step 6 of a round. -/
def Hk.wearRound (h : Hk) (on : Bool) : Hk :=
  { h with wear := (List.range 9).foldl (fun l i => tput {} l i ((tget {} l i).round (faceTemp h.temps on i))) h.wear }
/-- WEAR_LEDGER_SAVE (R611): after every 256 rounds the ledger is written to MRAM. -/
def execWearLedgerSave (s : State) : Out :=
  if s.aon.powered && s.mc.hk.ledgerDue then
    .next ((s.onNv fun n => { n with wearSaved := s.mc.hk.wear }).onHk fun h => { h with ledgerDue := false })
  else .next s

/-! ## Supply monitors and bank voltages (R604, R700) -/

/-- A nominal bank voltage in mV by its code, 1–5. -/
def nominalMv (c : Nat) : Nat := match c with | 1 => 1200 | 2 => 1500 | 3 => 1800 | 4 => 2500 | 5 => 3300 | _ => 0
/-- A voltage lies within ±5 % of another. -/
def within5 (mv of : Nat) : Bool := decide (95 * of ≤ 100 * mv) && decide (100 * mv ≤ 105 * of)
/-- One round's reading of a bank's supply. -/
def Bank.round (x : Bank) (b mv : Nat) : Bank :=
  let c := ((List.range (if b < 16 then 4 else 5)).find? fun i => within5 mv (nominalMv (i + 1))).map (· + 1)
  let x := match c with
    | some c => if x.cand = c then { x with candRounds := x.candRounds + 1 } else { x with cand := c, candRounds := 1 }
    | none => { x with cand := 0, candRounds := 0 }
  if x.nominal = 0 then { x with outRounds := 0 }
  else if within5 mv (nominalMv x.nominal) then { x with outRounds := 0 }
  else if x.outRounds = 1 then { x with nominal := 0, outRounds := 0 } else { x with outRounds := x.outRounds + 1 }
/-- IO_NOMINAL_VOLTAGE_FIX (R700). -/
def execIoNominalVoltageFix (b : Fin 32) (s : State) : Out :=
  let x := s.fab.bank b.val
  if s.aon.powered && x.nominal = 0 && 4 ≤ x.candRounds then .next (s.onFab fun f => f.setBank b.val { x with nominal := x.cand, outRounds := 0 }) else .next s
/-- The range of supply monitor k in mV (R604); 12–14 are judged against the supply that their reading belongs to. (DEDUCED, log 87) -/
def monRange (h : Hk) (k : Nat) : Option (Int × Int) :=
  let about := fun (r : Nat) => let v : Int := (h.rail r).setMv; some ((v * 95 + 99) / 100, v * 105 / 100)
  match k with
  | 1 => some (1746, 1854) | 2 => some (760, 840) | 3 => some (873, 927) | 4 => some (1164, 1236)
  | 5 => about 0 | 6 => about 1 | 7 => about 2 | 8 => about 3 | 9 => about 4
  | 10 => some (2400, 2700) | 11 => some (-350, -250)
  | _ => none
/-- The rail whose state decides whether monitor k acts. -/
def monRail (k : Nat) : Nat := if inRange 5 9 k then k - 5 else 3
/-- The record of monitor k in a round: its reading and state (R604, R605). The state of one that has failed is open. (DEDUCED, log 87) -/
def monRecord (s : State) (env : RoundEnv) (k : Nat) : Option Int × Nat :=
  let owned := fun a n => (List.range n).any fun b => (ownerOf (s.fab.bank (a + b)).own).isSome
  let skipped := (inRange 5 12 k && !s.stackHeld) || (k = 13 && !owned 0 16) || (k = 14 && !owned 16 16)
  if skipped then (none, 3)
  else match env.monitors.getD (k - 1) none with
    | none => (none, Config.freeNat (s.aon.free + k) % 4)
    | some v => match monRange s.mc.hk k with
      | some (lo, hi) => (some v, if v < lo then 1 else if hi < v then 2 else 0)
      | none => (some v, ((env.farthest.getD (k - 12) 0).val))
/-- The rail that a feed switch takes its supply from: VB for F0, C and F1, VM for M0–M3 (R33). -/
def feedRail (d : Nat) : Nat := if d < 3 then 4 else 3
/-- The supply monitors of a round are read. One of 5–11 that is outside its range in two rounds running starts the shutdown sequence while its rail regulates; a feed switch so behind monitor 12 resets its domain (R36, R604); and outside the range of monitor 3 or 4 in Field each port that is UP goes to LOST (R704). (DESIGN CHOICE, log 18) (DEDUCED, log 87) -/
def readMonitors (s : State) (env : RoundEnv) : State :=
  let rec' := (List.range 14).map fun i => (i + 1, monRecord s env (i + 1))
  let out := fun (x : Nat × Option Int × Nat) => x.2.1.isSome && (x.2.2 = 1 || x.2.2 = 2)
  let h := s.mc.hk
  let count := rec'.foldl (fun l x => tput 0 l x.1 (if out x then tget 0 h.monOut x.1 + 1 else 0)) []
  -- monitor 12 watches seven switches; domain d counts its rounds under key 20 + d
  let feeds := (List.range 7).filter fun d => env.feedOut.any (·.val = d) && (rec'.any fun x => x.1 = 12 && out x)
  let count := feeds.foldl (fun l d => tput 0 l (20 + d) (tget 0 h.monOut (20 + d) + 1)) count
  let s := (s.onHk fun h => { h with
    monitors := rec'.foldl (fun l x => tput (some 0, 0) l (x.1 - 1) x.2) []
    monOut := count }).drawn
  let s := if s.linkSupplyOut then (List.range 512).foldl lockLost s else s
  match rec'.find? fun x => inRange 5 11 x.1 && decide (2 ≤ tget 0 count x.1) && (h.rail (monRail x.1)).state = 2 with
  | some x => shutdown s (79 + x.1) (match x.2.1 with | some v => (BitVec.ofInt 32 v).toNat | none => 0)
  | none => feeds.foldl (fun s d => if 2 ≤ tget 0 count (20 + d) && (h.rail (feedRail d)).state = 2 then feedReset s d else s) s

/-! ## The round (R584–R588) -/

/-- A running PLL is off frequency or out of lock: it is relocked, and the event counts (R587). (DEDUCED, log 87) -/
def clockFault (s : State) (p : Pll) : State :=
  let count := fun (s : State) => s.onHk fun h => { h with clockFaults := sat32 (h.clockFaults + 1) }
  match p with
  | .fabric k => if (s.fab.fpll k.val).running then count (s.onFab fun f => f.setFpll k.val { f.fpll k.val with locked := false }) else s
  | .engine k => if (s.eng.epll k.val).running then count (s.onEng fun e => e.setEpll k.val { e.epll k.val with locked := false }) else s
  | .quad k => if (s.lnk.quad k.val).pllRunning then count (s.onLnk fun l => l.setQuad k.val { l.quad k.val with pllLocked := false }) else s
  | .system => if s.clocksOn then count s else s
  | .mc => count s
  | .bist => if s.mc.bist.state = 1 then count s else s
/-- The limits of a running self-test are read again at every round (R657): VM with the monitors, then the BIST clock. -/
def testLimits (s : State) (env : RoundEnv) : State :=
  let s := match (tget (some 0, 0) s.mc.hk.monitors 7).1 with
    | some v => if v < 1000 || 1100 < v then abortTest s 3 else s
    | none => s
  if inRange 400000 800000 env.bistKhz then s else abortTest s 2
/-- Bits that a seat's slots in a plot have switched since the last round (R139). -/
def Fabric.switched (f : Fabric) (o p : Nat) : Nat := (f.rbitsAt p o + 281474976710656 - tget 0 f.rbitsLast (8 * p + o)) % 281474976710656
/-- Measured rotation power of every seat, and ROTPOW_OVER for one above its allocation (R139). (DESIGN CHOICE, log 18) (DEDUCED, log 87) -/
def rotationRound (s : State) : State :=
  let period := s.mc.hk.period
  let s := allSeats.foldl (fun (s : State) o =>
    let l := (List.range 512).map fun p => (p, s.fab.switched o p)
    let total := (l.map (·.2)).sum
    let most := l.foldl (fun (m : Nat × Nat) x => if m.2 < x.2 then x else m) (0, 0)
    if (s.seat o).rotpowMw * period * 2560000000 < total * 11 then
      s.raise { seat := o, code := 0x0201, index := 0x3000 + most.1, a := most.1, b := sat32 (total * 11 / (period * 2560000000)) }
    else s) s
  s.onFab fun f => { f with rbitsLast := f.rbits }
/-- Lanes and bonds of this round's share (R342, R149, order 5 of R585). (DESIGN CHOICE, log 18) -/
def sweepShare (s : State) (env : RoundEnv) : State :=
  if !s.clocksOn then s
  else
    let k := s.mc.hk.rounds % 64
    (sweepSections (env.findings.foldl finding s)).onFab fun f => f.shareChecked k
/-- Currents and voltages of the round's rails and phases; what is unpowered shows 0. -/
def readRails (s : State) (env : RoundEnv) : State :=
  let on := s.stackHeld
  s.onHk fun h => { h with
    phases := if on then (List.range 96).foldl (fun l k => tput 0 l k (env.phases.getD k 0)) [] else []
    rails := (List.range 5).foldl (fun l k =>
      let r := tget ({} : Rail) l k
      let m := if on then env.rails.getD k (0, 0) else (0, 0)
      tput {} l k { r with mv := m.1, ma := m.2 }) h.rails }
/-- HOUSEKEEPING_ROUND (R584–R587): monitors, phases, clocks, lanes and bonds, then the record, the governor and the ledger; ROUNDS is incremented last. (DESIGN CHOICE, log 18) -/
def execHousekeepingRound (env : RoundEnv) (s : State) : Out :=
  if !s.mcUp then .next s
  else
    -- events of rules that act once in a round may act again, and log entries may repeat (R323)
    let s := { s with seats := (s.seats.map fun (e : Nat × SeatRec) => (e.1, { e.2 with raised := [] })).filter fun e => e.2 != ({} : SeatRec) }
    let s := s.onStk fun k => { k with risers := (k.risers.map fun (e : Nat × Riser) => (e.1, { e.2 with recent := [] })).filter fun e => e.2 != ({} : Riser) }
    let s := s.onHk fun h => { h with roundTime := s.aon.now, temps := h.frameTemps, hottest := (hottestOf h.frameTemps (List.range 64)).map (·.2) }
    let s := readMonitors s env
    let s := readRails s env
    let s := env.clockFaults.foldl clockFault s
    let s := testLimits s env
    let s := sweepShare s env
    let s := s.onFab fun f => (List.range 32).foldl (fun f b => f.setBank b ((f.bank b).round b (env.banks.getD b 0))) f
    let s := rotationRound s
    let s := govern s
    let s := s.onHk fun h => { h.wearRound s.stackHeld with railRec := h.rails, failedRec := h.failedRail }
    .next (s.onHk fun h => { h with rounds := wrap32 (h.rounds + 1), ledgerDue := h.ledgerDue || (h.rounds + 1) % 256 = 0 })

/-! ## Refresh (R303) -/

/-- MEM_REFRESH (R303): the die refreshes its rows at 64 ms, or at 32 ms while one of its sensors reads more than 85 °C; with a failed sensor and none above, the interval is open. (DEDUCED, log 89) -/
def execMemRefresh (die : Fin 5) (s : State) : Out :=
  if !s.stackOn then .next s
  else
    let l := (dieSensors (4 + die.val)).map (tget none s.mc.hk.frameTemps)
    let hot := l.any fun t => match t with | some x => decide (21760 < x) | none => false
    let ms := if hot then 32 else if l.all Option.isSome then 64 else if Config.freeNat s.aon.free % 2 = 0 then 64 else 32
    .next ((s.onStk fun k => { k with refresh := tput 0 k.refresh die.val ms }).drawn)

end Sys2Proof.Machine
end

