-- ==== Sys2Proof/Machine/Service.lean ====
section
/-! DEFINITION. The service SPI port: STATUS, and the frames that the MC performs in Recovery (R550–R552). -/

namespace Sys2Proof.Machine

/-- The status record, bytes 0–15 (R551). A command is performed whole within its own row, so BUSY reads 0. (DESIGN CHOICE, log 32) -/
def State.sspiRecord (s : State) : List Byte :=
  [BitVec.ofNat 8 (match s.aon.mode with | some m => m.code | none => 0xFF), BitVec.ofNat 8 s.nv.life.code, 0, s.mc.sspi.result]
    ++ leBytes 4 s.aon.fwVersion.toNat ++ leBytes 4 s.mc.sspi.next.toNat ++ [0, 0, 0, 0]
/-- SSPI_STATUS (R550, R551): accepted in every mode, without the MC. -/
def execSspiStatus (s : State) : Out :=
  if !s.aon.powered then .next s
  else .next (s.onMc fun m => { m with sspi := { m.sspi with out := s.sspiRecord } })

/-- RESULT of the last command. -/
def State.sspiResult (s : State) (e : Nat) : State := s.onMc fun m => { m with sspi := { m.sspi with result := BitVec.ofNat 8 e } }
/-- A frame whose CMD is `cmd` reaches the port (R550): one outside 8–16,384 bytes sets TYPE_LENGTH and is not performed; another becomes one packet on SSPI_IN, or is discarded while earlier frames fill the queue. Then the frame is performed. (DEDUCED, log 90) -/
def sspiFrame (s : State) (frame : List Byte) (cmd : Nat → Bool) (perform : State → Out) : Out :=
  if !s.mcUp || !cmd (byteAt frame 0).toNat then .next s
  else if frame.length < 8 then .next (s.sspiResult errTypeLength)
  else match (s.net.queue 40961).packPacket 1 frame with
    | none => .next s
    | some q =>
      let s := s.onNet fun n => n.setQueue 40961 q
      if 16384 < frame.length then .next (s.sspiResult errTypeLength) else perform s
/-- The slot that a frame names, 0 A or 1 B, with its reserved bytes 0. (DEDUCED, log 90) -/
def sspiSlot (frame : List Byte) : Option Nat :=
  let k := (byteAt frame 1).toNat
  if k ≤ 1 && byteAt frame 2 = 0 && byteAt frame 3 = 0 then some k else none
/-- A command of R552 on a slot: only in Recovery; a reserved value is RANGE. Where the boot record gives the slot no address, RESULT is open. (DEDUCED, log 90) -/
def sspiOnSlot (s : State) (frame : List Byte) (act : Nat → Nat → State) : Out :=
  if s.aon.mode != some .recovery then .next (s.sspiResult errLifecycle)
  else match sspiSlot frame with
    | none => .next (s.sspiResult errRange)
    | some k => match s.nv.slotAddr k with
      | none => .next (s.onMc fun m => { m with sspi := { m.sspi with result := Config.freeBits 8 s.aon.free } }).drawn
      | some a => .next (act k a)
/-- SSPI_ERASE (R551, R552): every byte of the slot reads 0xFF. -/
def execSspiErase (frame : List Byte) (s : State) : Out :=
  sspiFrame s frame (· = 2) fun s => sspiOnSlot s frame fun _ a =>
    (s.onNv fun n => { n with flash := n.flash.filter fun c => decide (c.1 < a) || decide (a + slotSize ≤ c.1) }).sspiResult errOk
/-- SSPI_WRITE (R551, R552). -/
def execSspiWrite (frame : List Byte) (s : State) : Out :=
  sspiFrame s frame (· = 3) fun s => sspiOnSlot s frame fun _ a =>
    let off := leField frame 4 4
    let data := frame.drop 8
    if slotSize < off + data.length then s.sspiResult errRange
    else
      let s := s.onNv fun n => { n with flash := (data.foldl (fun (x : List Host.Cell × Nat) b => (tput 0xFF x.1 x.2 b, x.2 + 1)) (n.flash, a + off)).1 }
      (s.onMc fun m => { m with sspi := { m.sspi with next := BitVec.ofNat 32 (off + data.length) } }).sspiResult errOk
/-- SSPI_VERIFY (R549, R551, R552). -/
def execSspiVerify (frame : List Byte) (s : State) : Out :=
  sspiFrame s frame (· = 4) fun s =>
    if s.aon.mode != some .recovery then .next (s.sspiResult errLifecycle)
    else match sspiSlot frame with
      -- a VERIFY of a slot that does not exist has not returned OK, so RESTART answers STATE (R552)
      | none => .next ((s.onMc fun m => { m with sspi := { m.sspi with verified := false } }).sspiResult errRange)
      | some k =>
        let ok := s.nv.slotValid k
        .next ((s.onMc fun m => { m with sspi := { m.sspi with verified := ok } }).sspiResult (if ok then errOk else errCheckFailed))
/-- SSPI_RESTART (R530, R551, R552): only after a VERIFY that returned OK. -/
def execSspiRestart (frame : List Byte) (env : BootEnv) (s : State) : Out :=
  sspiFrame s frame (· = 5) fun s =>
    if s.aon.mode != some .recovery then .next (s.sspiResult errLifecycle)
    else if !s.mc.sspi.verified then .next (s.sspiResult errState)
    else .next (boot s env s.mc.jtag)
/-- SSPI_RESERVED_COMMAND (R551): not performed. -/
def execSspiReservedCommand (frame : List Byte) (s : State) : Out :=
  sspiFrame s frame (fun c => c = 0 || 6 ≤ c) fun s => .next (s.sspiResult errRange)

end Sys2Proof.Machine
end

