-- ==== Sys2Proof/Machine/Life.lean ====
section
/-! DEFINITION. The life cycle: the transitions that tokens order, and their wipes (R380, R639–R644). -/

namespace Sys2Proof.Machine

/-- A region at a life-cycle change: its slots are cleared and a pass is abandoned; it stays sealed, or open (R380, R676). -/
def Region.dropKeys (g : Region) : Region :=
  { g with key0 := none, key1 := none, gen0 := 0, gen1 := 0, rk := 0, progress := 0, marks := [], noted := false, counter := 0, heldWrites := [] }
/-- Every key store is cleared; writes that a pass holds return PROTECTED. -/
def dropRegionKeys (s : State) : State :=
  s.stk.regions.foldl (fun s e =>
    let p := e.1 / 32
    let r := e.1 % 32
    let g := s.stk.region p r
    g.heldWrites.foldl (fun s w => answerAll s p w.line respProtected w.waiters) (s.onStk fun k => k.setRegion p r g.dropKeys)) s
/-- The wipes of R644: the secure partition, every secret and key, every session, staging set and pending turn; a self-test aborts with cause LIFECYCLE. WRITEs that the application window holds are not performed. -/
def lifeWipe (s : State) : State :=
  let s := (List.range 8).foldl endSession (dropHeldWrites s)
  let s := { s with seats := (s.seats.map fun (e : Nat × SeatRec) => (e.1, { e.2.dropTurns with sms := none, smr := none })).filter fun e => e.2 != ({} : SeatRec) }
  let s := (s.onNv fun n => { n with smsCopy := [] }).onMc fun m => { m with window := false }
  let s := abortTest s 7
  if !s.stackHeld then s
  else
    let s := s.onNet fun n => n.onScr Scratch.fillSecure
    let s := s.onLnk fun l => { l with ports := (l.ports.map fun (e : Nat × Port) => (e.1, e.2.clearKeys)).filter fun e => e.2 != ({} : Port) }
    dropRegionKeys s
/-- The first transition of a KIND that a token has ordered. (DESIGN CHOICE, log 16) -/
def takeLife (kind : Nat) : List Order → Option (Token × List Order)
  | [] => none
  | o :: t => match o with
    | .life k tok => if k = kind then some (tok, t) else (takeLife kind t).map fun x => (x.1, o :: x.2)
    | _ => (takeLife kind t).map fun x => (x.1, o :: x.2)
/-- A transition (R642): the fields of the KIND are burned, then the wipes, and LC_PENDING is cleared; it takes place from the state that R639 gives it. (DEDUCED, log 81) -/
def transition (s : State) (kind : Nat) (burn : Token → Nv → Nv) : State :=
  match takeLife kind s.mc.orders with
  | none => s
  | some (tok, rest) =>
    let s := (s.onMc fun m => { m with orders := rest }).onNv fun n => { n with lcPending := false }
    if s.mcUp && s.nv.life.allows kind then lifeWipe (s.onNv (burn tok)) else s
/-- PROVISION: MANUFACTURE to OWNED, with the owner root, the floor, the pulls, the tamper inputs and the seat-0 credential (R635, R638). -/
def execProvision (s : State) : Out :=
  .next (transition s 1 fun t n => { n with
    lcOwn := true, ownerRoot := t.ownerRoot, fwFloor := t.fwFloor, holdPulls := t.holdPulls
    tamperEn := t.tamperEn, cred0X := t.seat0X, cred0Y := t.seat0Y })
/-- ENTER_SERVICE: OWNED to SERVICE, one more bit of SVC_COUNT. -/
def execEnterService (s : State) : Out := .next (transition s 2 fun _ n => { n with svcCount := min 64 (n.svcCount + 1) })
/-- LEAVE_SERVICE: SERVICE to OWNED. -/
def execLeaveService (s : State) : Out := .next (transition s 3 fun _ n => { n with svcCount := min 64 (n.svcCount + 1) })
/-- DECOMMISSION: to DECOMMISSIONED, and on into Zeroised (R544). -/
def execDecommission (s : State) : Out :=
  let t := transition s 4 fun _ n => { n with lcDecom := true }
  .next (if t.nv.lcDecom && !s.nv.lcDecom then zeroise t else t)

end Sys2Proof.Machine
end

