-- ==== Sys2Proof/Machine/Bist.lean ====
section
/-! DEFINITION. Self-test: a march's start, failing bits, end, restore and abort, and the reclaim of a fallowed plot or riser (R647–R661). -/

namespace Sys2Proof.Machine

/-! ## What a march counts (R648, R650) -/

/-- Words of a target by its KIND. -/
def targetWords (kind : Nat) : Nat :=
  match kind with | 1 => 262144 | 2 => 368640 | 3 => 32768 | 4 => 16384 | 5 => 49152 | 6 => 65536 | 7 => 32768 | _ => 0
/-- An operation of a march on one word: a write or a read, of the background or of its complement (R650). -/
inductive MarchOp where
  | w0 | w1 | r0 | r1
deriving DecidableEq, Repr
/-- The operations of each element of an algorithm (R650). -/
def marchOps (alg : Nat) : List (List MarchOp) :=
  match alg with
  | 0 => [[.w0], [.r0, .w1], [.r1, .w0]]
  | 1 => [[.w0], [.r0, .w1], [.r1, .w0], [.r0, .w1], [.r1, .w0], [.r0]]
  | _ => [[.w0], [.r0, .r0, .w0, .r0, .w1], [.r1, .r1, .w1, .r1, .w0], [.r0, .r0, .w0, .r0, .w1], [.r1, .r1, .w1, .r1, .w0], [.r0]]
/-- Operations per word of each element of an algorithm. -/
def marchElems (alg : Nat) : List Nat := (marchOps alg).map List.length
/-- Bit j of word a of a data background: SOLID, CHECKER, COLUMN, ROW (R651). -/
def background (code a j : Nat) : Bool :=
  match code with | 0 => false | 1 => (j + a) % 2 = 1 | 2 => j % 2 = 1 | _ => a % 2 = 1
/-- The value that operation `op` of an element of the march `alg` expects in bit j of word a; none where it is no read (R650, R651). -/
def marchExpects (alg : Byte) (elem op a j : Nat) : Option Bool :=
  match ((marchOps (bits alg 1 0)).getD elem []).getD op .w0 with
  | .r0 => some (background (bits alg 3 2) a j)
  | .r1 => some !(background (bits alg 3 2) a j)
  | .w0 | .w1 => none
/-- Elements complete after some operations on n words. (DEDUCED, log 91) -/
def elemsDone (n ops : Nat) : List Nat → Nat
  | [] => 0
  | e :: t => if e * n ≤ ops then 1 + elemsDone n (ops - e * n) t else 0
/-- OPS_EXPECTED of the running test. -/
def Bist.expected (b : Bist) : Nat := (marchElems (bits b.runAlg 1 0)).sum * targetWords (tgKind b.runTarget)
/-- The verdict (R656). -/
def verdict (ops expected fails : Nat) : Nat := if ops = expected then (if fails = 0 then 1 else 2) else 3
/-- The completion record (R655). -/
def Bist.completion (b : Bist) (ops : Nat) (signature : Word) : List Byte :=
  let elems := marchElems (bits b.runAlg 1 0)
  leBytes 4 b.runTarget.toNat ++ leBytes 1 b.runAlg.toNat ++ leBytes 1 (elemsDone (targetWords (tgKind b.runTarget)) ops elems) ++ leBytes 1 elems.length ++
    leBytes 1 (verdict ops b.expected b.fails) ++ leBytes 8 ops ++ leBytes 8 b.expected ++ leBytes 4 signature.toNat ++ leBytes 4 b.fails

/-! ## Restore and results (R654, R659, R660) -/

/-- The lines of a physical tile hold the fill of R335 again. -/
def fillTile (s : State) (w : BitVec 32) : State :=
  let c := tgIndex w
  let users := (s.tileUsers (tgDie w) c).map fun u => lineId u.1 (262144 * (u.2 - 1))
  let spans := if users.isEmpty && tgDie w = 4 then [524288 * (512 + c)] else users
  s.onStk fun k => { k with lines := k.lines.filter fun e => spans.all fun lo => decide (e.1 < lo) || decide (lo + 262144 ≤ e.1) }
/-- The hand stores of a plot are cleared, and every hand enters EMPTY. -/
def clearHands (s : State) (p : Nat) : State :=
  s.onFab fun f => (List.range 8).foldl (fun f h =>
    let f := (f.clearStore p h).clearDiff p h
    f.setHand p h { f.hand p h with state := .empty, ff := 0, arrival := 0, timed := 0 }) f
/-- What the target's restore leaves in it (R654). -/
def restoreTarget (s : State) (w : BitVec 32) : State :=
  let p := tgIndex w
  match tgKind w with
  | 1 => fillTile s w
  | 2 => clearHands s p
  | 3 => s.onFab fun f => (List.range 64).foldl (fun f k => f.setBm p k { f.bm p k with tbusy := false }.clear) f
  | 5 => s.onEng fun e => { e with
      imem := e.imem.filter fun c => c.1 / imemSize != p, imErr := e.imErr.filter fun c => 4 * c.1 / imemSize != p
      dmem := e.dmem.filter fun c => c.1 / dmemSize != p, dmErr := e.dmErr.filter fun c => 4 * c.1 / dmemSize != p }
  | _ => s
/-- What a verdict changes in the fallow map: a TILE that fails is recorded, a MARCH_SS PASS in Test mode removes the record, and HAND_STORE that fails fallows its plot. -/
def verdictMap (s : State) (w : BitVec 32) (alg verdict : Nat) : State :=
  let t := 256 * tgDie w + tgIndex w
  if tgKind w = 1 && verdict = 2 then s.onMap fun m => if m.failedTiles.contains t then m else { m with failedTiles := insertNat t m.failedTiles }
  else if tgKind w = 1 && verdict = 1 && alg = 2 && s.aon.mode == some .test then s.onMap fun m => { m with failedTiles := m.failedTiles.filter (· != t) }
  else if tgKind w = 2 && verdict = 2 then sweepSections (fallowPlot s (tgIndex w))
  else s
/-- A test ends (R654): its record goes out on BIST_LOG, the restore begins, matching grants return to 0, and the verdict acts. The record waits while BIST_LOG has no room. (DEDUCED, log 91) -/
def endTest (s : State) (ops : Nat) (signature : Word) : State :=
  let b := s.mc.bist
  let l := b.completion ops signature
  match (s.net.queue 40962).packPacket 2 l with
  | none => s
  | some q =>
    let s := s.onNet fun n => n.setQueue 40962 q
    let s := s.onMc fun m => { m with bist := { m.bist with
      state := 2, aborting := false, record := l, ended := s.aon.now
      qgrant := allSeats.foldl (fun l k => if tget 0 l k = b.runTarget then tput 0 l k 0 else l) m.bist.qgrant } }
    verdictMap (restoreTarget s b.runTarget) b.runTarget (bits b.runAlg 1 0) (verdict ops b.expected b.fails)

/-! ## Commands -/

/-- SELF_TEST_START (R649, R652, R657): the test that a turn has ordered begins; limits that fail end it at once with OPS_DONE 0. The times of operations that never were are open. (DEDUCED, log 91) -/
def execSelfTestStart (lim : TestLimits) (s : State) : Out :=
  match takeOrder .testStart s.mc.orders with
  | none => .next s
  | some rest =>
    let s := s.onMc fun m => { m with orders := rest }
    let b := s.mc.bist
    if !s.clocksOn || b.state = 1 || b.state = 2 then .next s
    else
      let cause := if !inRange 400000 800000 lim.clockKhz then 2 else if !inRange 1000 1100 lim.vmMilli then 3 else 0
      let t := if cause = 0 then s.aon.now else Config.freeNat s.aon.free
      let s := s.onMc fun m => { m with bist := { m.bist with
        state := 1, runTarget := b.target, runAlg := b.alg, fails := 0, log := [], lost := 0, cause := cause, aborting := false, started := t } }
      let s := if tgKind b.target = 3 then s.onFab fun f => (List.range 64).foldl (fun f k => f.setBm (tgIndex b.target) k { f.bm (tgIndex b.target) k with tbusy := true }) f else s
      if cause = 0 then .next s
      else .next ((endTest s 0 0).onMc fun m => { m with bist := { m.bist with ended := t } }).drawn
/-- SELF_TEST_ABORT (R658): the dealer's ABORT, at the turn. -/
def execSelfTestAbort (s : State) : Out :=
  match takeOrder .testAbort s.mc.orders with
  | none => .next s
  | some rest => .next (abortTest (s.onMc fun m => { m with orders := rest }) 1)
/-- A fail log entry (R653). -/
def failWord (e : FailEntry) (target : BitVec 32) : BitVec 128 :=
  BitVec.ofNat 128 (target.toNat * 2 ^ 96 + e.addr.toNat * 2 ^ 72 + e.bitNo.toNat * 2 ^ 62 + (if e.expected then 2 ^ 61 else 0) + (if e.observed then 2 ^ 60 else 0)
    + e.element.toNat * 2 ^ 57 + e.op.toNat * 2 ^ 54 + e.opnum.toNat)
/-- An entry names a failing bit of a read of the running march: the value that its background gives is expected, the other observed (R650, R651, R653). -/
def Bist.reads (b : Bist) (e : FailEntry) : Bool :=
  marchExpects b.runAlg e.element.toNat e.op.toNat e.addr.toNat e.bitNo.toNat == some e.expected && e.observed != e.expected
    && decide (e.addr.toNat < targetWords (tgKind b.runTarget))
/-- BIST_FAIL_LOG (R653): one failing bit is sent and entered, or counted beyond 4,096; the march waits while BIST_LOG has no room. (DEDUCED, log 91) -/
def execBistFailLog (e : FailEntry) (s : State) : Out :=
  let b := s.mc.bist
  if b.state != 1 || !b.reads e then .next s
  else
    let w := failWord e b.runTarget
    match (s.net.queue 40962).packPacket 2 (leBytes 16 w.toNat) with
    | none => .next s
    | some q =>
      let s := s.onNet fun n => n.setQueue 40962 q
      .next (s.onMc fun m => { m with bist := { b with
        fails := sat32 (b.fails + 1)
        log := if b.log.length < 4096 then b.log ++ [w] else b.log
        lost := if b.log.length < 4096 then b.lost else sat32 (b.lost + 1) } })
/-- SELF_TEST_END (R654–R656): the last operation completes, or an aborted march stops at an operation boundary. (DEDUCED, log 91) -/
def execSelfTestEnd (opsDone : Nat) (elems : Nat) (signature : Word) (s : State) : Out :=
  let b := s.mc.bist
  let fits := decide (opsDone ≤ b.expected) && (b.aborting || opsDone = b.expected) &&
    elems = elemsDone (targetWords (tgKind b.runTarget)) opsDone (marchElems (bits b.runAlg 1 0))
  if b.state = 1 && fits then .next (endTest s opsDone signature) else .next s
/-- SELF_TEST_RESTORE_DONE (R654): STATE reads DONE. -/
def execSelfTestRestoreDone (s : State) : Out :=
  if s.mc.bist.state = 2 then .next (s.onMc fun m => { m with bist := { m.bist with state := 3 } }) else .next s

/-! ## RECLAIM (R660) -/

/-- The first plot that a RECLAIM has ordered. -/
def takeReclaim : List Order → Option (Nat × List Order)
  | [] => none
  | o :: t => match o with
    | .reclaim p => some (p, t)
    | _ => (takeReclaim t).map fun x => (x.1, o :: x.2)
/-- RECLAIM_RESULT. (DEDUCED, log 92) -/
def State.reclaimed (s : State) (r : Nat) : State := s.onMc fun m => { m with bist := { m.bist with reclaimResult := r } }
/-- A fallowed plot is checked: its bonds, with spares mapped, then MARCH_CM on its hand stores, which leaves them cleared. (DEDUCED, log 92) -/
def reclaimPlot (s : State) (p : Nat) (groups : List Nat) (marchOk : Bool) : State :=
  let used := tget [] s.nv.map.bonds p
  let bad := groups.any used.contains || groups.eraseDups.length != groups.length
  let free := groups.eraseDups.filter fun g => !used.contains g
  let s := s.onMap fun m => { m with bonds := tput [] m.bonds p (free ++ used) }
  if bad then s.reclaimed 2
  else if !marchOk then s.reclaimed 4
  else (clearHands (s.onMap fun m => { m with plots := m.plots.filter (· != p) }) p).reclaimed 1
/-- The down riser of a plot is checked, every lane: with a spare for each that fails it is up again at full width. (DEDUCED, log 92) -/
def reclaimRiser (s : State) (p : Nat) (lanes : List Nat) : State :=
  let old := s.nv.map.riser p
  let m := lanes.foldl (fun (m : RiserMap) l => (m.laneFails l).1) { tileMap := old.tileMap }
  if m.rstate = 0 then (s.onMap fun x => x.setRiser p m).reclaimed 1 else s.reclaimed 3
/-- RECLAIM (R660): the turn has ordered it, in Test mode; the findings are the bonds or lanes of the plot that fail their check. (DEDUCED, log 92) -/
def execReclaim (findings : List Finding) (marchOk : Bool) (s : State) : Out :=
  match takeReclaim s.mc.orders with
  | none => .next s
  | some (p, rest) =>
    let s := s.onMc fun m => { m with orders := rest }
    if s.aon.mode != some .test then .next s
    else if s.plotFallowed p then
      .next (reclaimPlot s p (findings.filterMap fun f => match f with | .cfgBond q g => if q.val = p then some g.val else none | _ => none) marchOk)
    else if (s.nv.map.riser p).rstate = 3 then
      .next (reclaimRiser s p (findings.filterMap fun f => match f with | .riserLane q l => if q.val = p then some l.val else none | _ => none))
    else .next (s.reclaimed 0)

end Sys2Proof.Machine
end

