-- ==== Sys2Proof/Machine/IsaAlu.lean ====
section
/-! DEFINITION. The arithmetic, bit-field, jump and branch instructions of the engines, TRAP and ILLEGAL (R271–R273). -/

namespace Sys2Proof.Machine

/-! ## Values (R272, R273) -/

/-- The value of a three-register operation. -/
def alu3 (f : Alu3) (a b : Word) : Word :=
  match f with
  | .add => a + b
  | .sub => a - b
  | .and => a &&& b
  | .or => a ||| b
  | .xor => a ^^^ b
  | .slt => if a.toInt < b.toInt then 1 else 0
  | .sltu => if a.toNat < b.toNat then 1 else 0
  | .sll => a <<< (b.toNat % 32)
  | .srl => a >>> (b.toNat % 32)
  | .sra => a.sshiftRight (b.toNat % 32)
  | .mul => a * b
  | .mulh => BitVec.ofInt 32 (a.toInt * b.toInt / 4294967296)
  | .mulhu => BitVec.ofNat 32 (a.toNat * b.toNat / 4294967296)
/-- Leading zero bits of the low `n` bits. -/
def clzBits (a : Word) : Nat → Nat
  | 0 => 0
  | n + 1 => if a.getLsbD n then 0 else 1 + clzBits a n
def popc (a : Word) : Nat := popNat 32 a.toNat
/-- Shift a CRC-32C register n bits. -/
def crcBits (c : Word) : Nat → Word
  | 0 => c
  | n + 1 => crcBits (if c.getLsbD 0 then (c >>> 1) ^^^ 0x82F63B78 else c >>> 1) n
/-- CRC-32C over n bytes of b, byte 0 first. -/
def crcStep (c b : Word) : Nat → Word
  | 0 => c
  | n + 1 => crcStep (crcBits (c ^^^ (b &&& 0xFF)) 8) (b >>> 8) n
/-- The 64-bit hash step. -/
def hashStep (s : BitVec 64) (a : Word) : BitVec 64 :=
  let x := (s ^^^ a.setWidth 64) * 0xa3c59ac2f11d4b97
  x ^^^ (x >>> 31)
def shiftVal (f : ShiftOp) (a : Word) (n : Nat) : Word :=
  match f with
  | .slli => a <<< n | .srli => a >>> n | .srai => a.sshiftRight n | .rori => a.rotateRight n
/-- Bits pos to pos + len − 1 of a; bits beyond bit 31 read 0. -/
def bfx (a : Word) (pos len : Nat) : Word := BitVec.ofNat 32 (a.toNat >>> pos % 2 ^ len)
/-- Bits 0 to len − 1 of a put at pos of d; positions beyond 31 are dropped. -/
def bfi (d a : Word) (pos len : Nat) : Word :=
  let m : Word := BitVec.ofNat 32 ((2 ^ len - 1) <<< pos)
  (d &&& ~~~m) ||| (BitVec.ofNat 32 ((a.toNat % 2 ^ len) <<< pos))
/-- Values of the immediate ALU instructions. -/
def immVal (f : ImmOp) (a : Word) (v : BitVec 16) : Word :=
  match f with
  | .addi => a + sext16 v | .andi => a &&& zext16 v | .ori => a ||| zext16 v | .xori => a ^^^ sext16 v
  | _ => a
def branchHolds (f : BranchOp) (a b : Word) : Bool :=
  match f with
  | .beq => a == b | .bne => a != b | .blt => decide (a.toInt < b.toInt) | .bge => decide (b.toInt ≤ a.toInt)

/-! ## Shared forms -/

def runAlu (s : State) (p h : Nat) (f : Alu3) (rd ra rb : RegIx) : State :=
  engStep s p h (.alu f rd ra rb) fun s t => retireReg s p h t rd (alu3 f (t.reg ra) (t.reg rb)) []
def runShift (s : State) (p h : Nat) (f : ShiftOp) (rd ra : RegIx) (sh : BitVec 5) : State :=
  engStep s p h (.shift f rd ra sh) fun s t => retireReg s p h t rd (shiftVal f (t.reg ra) sh.toNat) []
def runImm (s : State) (p h : Nat) (f : ImmOp) (rd ra : RegIx) (v : BitVec 16) : State :=
  engStep s p h (.imm f rd ra v) fun s t => retireReg s p h t rd (immVal f (t.reg ra) v) []
/-- A jump with its target: the target buffer learns it; `wrong` tells a misprediction. -/
def jumpTo (s : State) (p h : Nat) (t : Thread) (target : Word) (wrong : Bool) : EngEnd :=
  let seat := (s.fab.handOwner p h).getD 0
  .retire (s.onEng fun e => (e.setThread p h t).setEngine p ((e.engine p).learn t.pc.toNat seat target.toNat (Config.timing s.aon.free 400)))
    target ([0x02, 0x03] ++ if wrong then [0x04] else []) true
/-- A compare and branch: pc + 4 × offset16 when it holds. -/
def runBranch (s : State) (p h : Nat) (f : BranchOp) (ra rb : RegIx) (off : BitVec 16) : State :=
  engStep s p h (.branch f ra rb off) fun s t =>
    let taken := branchHolds f (t.reg ra) (t.reg rb)
    let pc := t.pc.toNat
    let wrong := decide (2 ≤ (s.eng.engine p).bimodalAt pc) != taken
    let s := s.onEng fun e => e.setEngine p ((e.engine p).train pc taken)
    if taken then jumpTo s p h t (t.pc + 4 * sext16 off) wrong
    else .retire s (t.pc + 4) ([0x02] ++ if wrong then [0x04] else []) false

/-! ## Meanings -/

def execAdd (p : PlotIx) (h : HandIx) (rd ra rb : RegIx) (s : State) : Out := .next (runAlu s p.val h.val .add rd ra rb)
def execSub (p : PlotIx) (h : HandIx) (rd ra rb : RegIx) (s : State) : Out := .next (runAlu s p.val h.val .sub rd ra rb)
def execAnd (p : PlotIx) (h : HandIx) (rd ra rb : RegIx) (s : State) : Out := .next (runAlu s p.val h.val .and rd ra rb)
def execOr (p : PlotIx) (h : HandIx) (rd ra rb : RegIx) (s : State) : Out := .next (runAlu s p.val h.val .or rd ra rb)
def execXor (p : PlotIx) (h : HandIx) (rd ra rb : RegIx) (s : State) : Out := .next (runAlu s p.val h.val .xor rd ra rb)
def execSlt (p : PlotIx) (h : HandIx) (rd ra rb : RegIx) (s : State) : Out := .next (runAlu s p.val h.val .slt rd ra rb)
def execSltu (p : PlotIx) (h : HandIx) (rd ra rb : RegIx) (s : State) : Out := .next (runAlu s p.val h.val .sltu rd ra rb)
def execSll (p : PlotIx) (h : HandIx) (rd ra rb : RegIx) (s : State) : Out := .next (runAlu s p.val h.val .sll rd ra rb)
def execSrl (p : PlotIx) (h : HandIx) (rd ra rb : RegIx) (s : State) : Out := .next (runAlu s p.val h.val .srl rd ra rb)
def execSra (p : PlotIx) (h : HandIx) (rd ra rb : RegIx) (s : State) : Out := .next (runAlu s p.val h.val .sra rd ra rb)
def execMul (p : PlotIx) (h : HandIx) (rd ra rb : RegIx) (s : State) : Out := .next (runAlu s p.val h.val .mul rd ra rb)
def execMulh (p : PlotIx) (h : HandIx) (rd ra rb : RegIx) (s : State) : Out := .next (runAlu s p.val h.val .mulh rd ra rb)
def execMulhu (p : PlotIx) (h : HandIx) (rd ra rb : RegIx) (s : State) : Out := .next (runAlu s p.val h.val .mulhu rd ra rb)

def execClz (p : PlotIx) (h : HandIx) (rd ra : RegIx) (s : State) : Out :=
  .next (engStep s p.val h.val (.clz rd ra) fun s t => retireReg s p.val h.val t rd (BitVec.ofNat 32 (clzBits (t.reg ra) 32)) [])
def execPopc (p : PlotIx) (h : HandIx) (rd ra : RegIx) (s : State) : Out :=
  .next (engStep s p.val h.val (.popc rd ra) fun s t => retireReg s p.val h.val t rd (BitVec.ofNat 32 (popc (t.reg ra))) [])
/-- CRC over n + 1 bytes. -/
def execCrc (p : PlotIx) (h : HandIx) (rd ra rb : RegIx) (n : Fin 4) (s : State) : Out :=
  .next (engStep s p.val h.val (.crc n rd ra rb) fun s t => retireReg s p.val h.val t rd (crcStep (t.reg ra) (t.reg rb) (n.val + 1)) [])
/-- HASH: rd is even; g[rd] takes the low half and g[rd+1] the high half. -/
def execHash (p : PlotIx) (h : HandIx) (rd ra : RegIx) (s : State) : Out :=
  .next (engStep s p.val h.val (.hash rd ra) fun s t =>
    let hi : RegIx := rd + 1
    let x := hashStep (BitVec.ofNat 64 ((t.reg hi).toNat * 4294967296 + (t.reg rd).toNat)) (t.reg ra)
    .retire (s.onEng fun e => e.setThread p.val h.val ((t.setReg rd (x.setWidth 32)).setReg hi ((x >>> 32).setWidth 32))) (t.pc + 4) [] false)

def execSlli (p : PlotIx) (h : HandIx) (rd ra : RegIx) (sh : BitVec 5) (s : State) : Out := .next (runShift s p.val h.val .slli rd ra sh)
def execSrli (p : PlotIx) (h : HandIx) (rd ra : RegIx) (sh : BitVec 5) (s : State) : Out := .next (runShift s p.val h.val .srli rd ra sh)
def execSrai (p : PlotIx) (h : HandIx) (rd ra : RegIx) (sh : BitVec 5) (s : State) : Out := .next (runShift s p.val h.val .srai rd ra sh)
def execRori (p : PlotIx) (h : HandIx) (rd ra : RegIx) (sh : BitVec 5) (s : State) : Out := .next (runShift s p.val h.val .rori rd ra sh)
def execAddi (p : PlotIx) (h : HandIx) (rd ra : RegIx) (imm : BitVec 16) (s : State) : Out := .next (runImm s p.val h.val .addi rd ra imm)
def execAndi (p : PlotIx) (h : HandIx) (rd ra : RegIx) (imm : BitVec 16) (s : State) : Out := .next (runImm s p.val h.val .andi rd ra imm)
def execOri (p : PlotIx) (h : HandIx) (rd ra : RegIx) (imm : BitVec 16) (s : State) : Out := .next (runImm s p.val h.val .ori rd ra imm)
def execXori (p : PlotIx) (h : HandIx) (rd ra : RegIx) (imm : BitVec 16) (s : State) : Out := .next (runImm s p.val h.val .xori rd ra imm)
def execLui (p : PlotIx) (h : HandIx) (rd : RegIx) (imm : BitVec 16) (s : State) : Out :=
  .next (engStep s p.val h.val (.lui rd imm) fun s t => retireReg s p.val h.val t rd (zext16 imm <<< 16) [])
/-- BFX over len + 1 bits. -/
def execBfx (p : PlotIx) (h : HandIx) (rd ra : RegIx) (pos len : BitVec 5) (s : State) : Out :=
  .next (engStep s p.val h.val (.bf false rd ra pos len) fun s t => retireReg s p.val h.val t rd (bfx (t.reg ra) pos.toNat (len.toNat + 1)) [])
/-- BFI over len + 1 bits. -/
def execBfi (p : PlotIx) (h : HandIx) (rd ra : RegIx) (pos len : BitVec 5) (s : State) : Out :=
  .next (engStep s p.val h.val (.bf true rd ra pos len) fun s t => retireReg s p.val h.val t rd (bfi (t.reg rd) (t.reg ra) pos.toNat (len.toNat + 1)) [])

def execJ (p : PlotIx) (h : HandIx) (off : BitVec 26) (s : State) : Out :=
  .next (engStep s p.val h.val (.j off) fun s t => jumpTo s p.val h.val t (t.pc + 4 * off.signExtend 32) false)
def execJal (p : PlotIx) (h : HandIx) (off : BitVec 26) (s : State) : Out :=
  .next (engStep s p.val h.val (.jal off) fun s t => jumpTo s p.val h.val (t.setReg 31 (t.pc + 4)) (t.pc + 4 * off.signExtend 32) false)
/-- JR: a target that is not a multiple of 4 traps at the JR, with that address. -/
def execJr (p : PlotIx) (h : HandIx) (ra : RegIx) (s : State) : Out :=
  .next (engStep s p.val h.val (.jr ra) fun s t =>
    let v := t.reg ra
    if v.toNat % 4 ≠ 0 then .trap s causeAlign 0 v.toNat
    else
      let seen := (s.eng.engine p.val).target t.pc.toNat ((s.fab.handOwner p.val h.val).getD 0)
      jumpTo s p.val h.val t v (match seen with | some x => x != v.toNat | none => false))
def execBeq (p : PlotIx) (h : HandIx) (ra rb : RegIx) (off : BitVec 16) (s : State) : Out := .next (runBranch s p.val h.val .beq ra rb off)
def execBne (p : PlotIx) (h : HandIx) (ra rb : RegIx) (off : BitVec 16) (s : State) : Out := .next (runBranch s p.val h.val .bne ra rb off)
def execBlt (p : PlotIx) (h : HandIx) (ra rb : RegIx) (off : BitVec 16) (s : State) : Out := .next (runBranch s p.val h.val .blt ra rb off)
def execBge (p : PlotIx) (h : HandIx) (ra rb : RegIx) (off : BitVec 16) (s : State) : Out := .next (runBranch s p.val h.val .bge ra rb off)

/-- TRAP (R272): cause TRAP_INSN with the code in TRAP_INFO. -/
def execTrap (p : PlotIx) (h : HandIx) (code : BitVec 16) (s : State) : Out :=
  .next (engStep s p.val h.val (.trap code) fun s _ => .trap s causeTrap code.toNat 0)

/-- ILLEGAL (R250, R271): the fetched word, with the upsets it has met, has a reserved encoding; a fetch that the seat may not make, or whose word cannot be corrected, traps as such. -/
def execIllegal (p : PlotIx) (h : HandIx) (word : Word) (upset : BitVec 39) (s : State) : Out :=
  let t := s.eng.thread p.val h.val
  if !s.threadRuns p.val h.val then .next s
  else
    let s := if upset = 0 || 131072 ≤ t.pc.toNat then s else s.onEng fun e => e.setImErr p.val t.pc.toNat (e.imErrAt p.val t.pc.toNat ^^^ upset)
    match fetchTrap s p.val h.val t.pc with
    | some (c, info) => .next ((EngEnd.trap s c info t.pc.toNat).finish p.val h.val t.pc.toNat 0)
    | none =>
      let w := fetchWord s p.val t.pc
      if w = word && (decodeEng w).isNone then
        .next (((EngEnd.trap s causeIllegal 0 0).counted p.val (fetchCorr s p.val t.pc)).finish p.val h.val t.pc.toNat w)
      else .next s

end Sys2Proof.Machine
end

