-- ==== Sys2Proof/Machine/IsaQueue.lean ====
section
/-! DEFINITION. Queue instructions and WAIT of the engines (R275–R281, R286–R288). -/

namespace Sys2Proof.Machine

/-! ## Buffers (R276) -/

/-- The 32 bytes of a queue instruction's buffer: a trap, or the address. -/
def bufferAddr (s : State) (p h : Nat) (a : Word) : Except (Nat × Nat) Nat :=
  if a.toNat % 32 ≠ 0 then .error (causeAlign, a.toNat)
  else if a.toNat < 0x10000 && ldbMine s p h (a.toNat / 4096) then .ok a.toNat
  else .error (causeLocal, a.toNat)

/-- QPUSH (R275–R277, R280, R281). (DEDUCED, log 61) -/
def execQpush (p : PlotIx) (h : HandIx) (rd rq ra : RegIx) (s : State) : Out :=
  .next (engStep s p.val h.val (.qpush rd rq ra) fun s t =>
    let w := t.reg rq
    let q := qNum w
    if qWordBad w then .trap s causeIllegal 0 0
    else
      let send := fun (go : State → BitVec 256 → EngEnd) => match bufferAddr s p.val h.val (t.reg ra) with
        | .error (c, a) => .trap s c 0 a
        | .ok a => match readLocal s.eng p.val a 8 with
          | (_, corr, some bad) => .trap (countMemCorr s p.val corr) causeBus respUncorr bad
          | (ws, corr, none) => go (countMemCorr s p.val corr) (ofWords ws)
      if q = scratchQueue then
        if 16 ≤ scratchOut s p.val h.val then .wait s
        else send fun s d =>
          let k := 8 * p.val + h.val
          let s := s.onNet fun n => n.setThreadChan k { n.threadChanAt k with reqs := (n.threadChanAt k).reqs ++ [{ word := d }] }
          retireReg s p.val h.val t rd (BitVec.ofNat 32 (16 - scratchOut s p.val h.val)) [0x08]
      else match threadProd s p.val h.val q with
        | none => .trap s causeQueue q 0
        | some i =>
          if ((s.net.queue q).prod i).credits ≤ 0 then .wait s
          else send fun s d =>
            let r := ((s.net.queue q).push i d (qRank w)).1
            retireReg (s.onNet fun n => n.setQueue q r) p.val h.val t rd (BitVec.ofInt 32 (r.prod i).credits) [0x08])

/-- An instruction of the producer end: it acts on the queue and retires. -/
def prodInsn (s : State) (p h : Nat) (t : Thread) (w : Word) (act : Queue → Nat → Queue) (event : Queue → Nat → List Nat) : EngEnd :=
  let q := qNum w
  if qWordBad w then .trap s causeIllegal 0 0
  else match (if q = scratchQueue then none else threadProd s p h q) with
    | none => .trap s causeQueue q 0
    | some i =>
      let x := s.net.queue q
      .retire (s.onNet fun n => n.setQueue q (act x i)) (t.pc + 4) (event x i) false
/-- QCOMMIT (R203, R276): does nothing with no open packet; the last word of a discarded packet ends its discarding (R215). (DEDUCED, log 61) -/
def execQcommit (p : PlotIx) (h : HandIx) (rq ra : RegIx) (s : State) : Out :=
  .next (engStep s p.val h.val (.qcommit rq ra) fun s t =>
    prodInsn s p.val h.val t (t.reg rq) (fun x i => (x.commit i (bits (t.reg ra) 4 0)).endDiscard i)
      fun x i => if (x.prod i).openWords.isEmpty then [] else [0x0B])
/-- QABORT (R212, R276). (DEDUCED, log 61) -/
def execQabort (p : PlotIx) (h : HandIx) (rq : RegIx) (s : State) : Out :=
  .next (engStep s p.val h.val (.qabort rq) fun s t =>
    prodInsn s p.val h.val t (t.reg rq) (fun x i => (x.rewindOpen i 0).endDiscard i)
      fun x i => if (x.prod i).openWords.isEmpty then [] else [0x0C])

/-- QPOP and QPEEK (R204, R276, R278, R281). -/
def popInsn (s : State) (p h : Nat) (t : Thread) (rd : RegIx) (w a : Word) (take : Bool) : EngEnd :=
  let q := qNum w
  let done := fun (s : State) (v : Word) (word : Bool) => retireReg s p h t rd v (if !take then [] else if word then [0x09] else [0x0A])
  if qWordBad w then .trap s causeIllegal 0 0
  else if q != scratchQueue && !threadCons s p h q then .trap s causeQueue q 0
  else match bufferAddr s p h a with
    | .error (c, x) => .trap s c 0 x
    | .ok b =>
      let put := fun (s : State) (d : BitVec 256) => s.onEng fun e => writeLocal e p b (wordsOf d)
      if q = scratchQueue then
        let k := 8 * p + h
        let c := s.net.threadChanAt k
        match c.reps with
        | [] => done s 0x10000 false
        | d :: rest => done (put (if take then s.onNet fun n => n.setThreadChan k { c with reps := rest } else s) d) 0x0060 true
      else
        let x := s.net.queue q
        match x.front, x.pop with
        | some d, some r =>
          if x.runs then done (put (if take then s.onNet fun n => n.setQueue q r.2 else s) d.data) (d.side.setWidth 32) true
          else done s 0x10000 false
        | _, _ => done s 0x10000 false
def execQpop (p : PlotIx) (h : HandIx) (rd rq ra : RegIx) (s : State) : Out :=
  .next (engStep s p.val h.val (.qpop rd rq ra) fun s t => popInsn s p.val h.val t rd (t.reg rq) (t.reg ra) true)
def execQpeek (p : PlotIx) (h : HandIx) (rd rq ra : RegIx) (s : State) : Out :=
  .next (engStep s p.val h.val (.qpeek rd rq ra) fun s t => popInsn s p.val h.val t rd (t.reg rq) (t.reg ra) false)
/-- QDROP (R219, R276). -/
def execQdrop (p : PlotIx) (h : HandIx) (rq : RegIx) (s : State) : Out :=
  .next (engStep s p.val h.val (.qdrop rq) fun s t =>
    let q := qNum (t.reg rq)
    if qWordBad (t.reg rq) then .trap s causeIllegal 0 0
    else if q = scratchQueue || !threadCons s p.val h.val q then .trap s causeQueue q 0
    else .retire (s.onNet fun n => n.setQueue q (n.queue q).drop) (t.pc + 4) [] false)

/-- QLEVEL (R279, R281, R668, R670): selectors 4 and 5 clear what they show, unless the same edge sets it. -/
def execQlevel (p : PlotIx) (h : HandIx) (rd rq : RegIx) (sel : Byte) (sameEdgeSet : Bool) (s : State) : Out :=
  .next (engStep s p.val h.val (.qlevel rd rq sel) fun s t =>
    let q := qNum (t.reg rq)
    let n := sel.toNat
    let x := s.net.queue q
    let out := fun (s : State) (v : Int) => retireReg s p.val h.val t rd (BitVec.ofInt 32 v) []
    if qWordBad (t.reg rq) then .trap s causeIllegal 0 0
    else if q = scratchQueue then
      if n = 0 then out s (s.net.threadChanAt (8 * p.val + h.val)).reps.length
      else if n = 1 then out s (16 - scratchOut s p.val h.val)
      else .trap s causeQueue q 0
    else if n = 1 || n = 4 || n = 6 then
      match threadProd s p.val h.val q with
      | none => .trap s causeQueue q 0
      | some i =>
        let y := x.prod i
        if n = 1 then out s y.credits
        else if n = 6 then out s y.openWords.length
        else
          let ep := epThread p.val h.val
          let e := tget (false, 0) x.seen ep
          out (if sameEdgeSet then s else s.onNet fun g => g.setQueue q { x with seen := tput (false, 0) x.seen ep (false, e.2) })
            ((if e.1 then 2147483648 else 0) + e.2)
    else if !threadCons s p.val h.val q then .trap s causeQueue q 0
    else if n = 0 then out s x.level
    else if n = 3 then out s x.crossings
    else out (if n = 5 && !sameEdgeSet then s.onNet fun g => g.setQueue q { x with acts := x.acts ++ [.clear] } else s) (if x.event then 1 else 0))

/-! ## WAIT (R286–R288) -/

/-- The queue, or the scratchpad channel, presents a word to the thread. (DEDUCED, log 61) -/
def presents (s : State) (p h q : Nat) : Bool :=
  if q = scratchQueue then !(s.net.threadChanAt (8 * p + h)).reps.isEmpty
  else threadCons s p h q && (s.net.queue q).runs && (s.net.queue q).front.isSome
/-- The selected conditions that hold, as bits [5:0]. -/
def waitHolds (s : State) (p h : Nat) (t : Thread) (q mask : Nat) : Nat :=
  let space := if q = scratchQueue then decide (scratchOut s p h < 16)
    else match threadProd s p h q with | some i => decide (0 < ((s.net.queue q).prod i).credits) | none => false
  let list := (List.range 8).any fun k => let w := tget 0 t.watch k; w.getLsbD 31 && presents s p h (bits w 15 0)
  let c := fun i (b : Bool) => if mask.testBit i && b then 2 ^ i else 0
  c 0 (presents s p h q) + c 1 space + c 2 (q != scratchQueue && threadCons s p h q && (s.net.queue q).event) + c 3 list + c 4 t.kevent
    + c 5 (decide (t.tcmp ≤ s.aon.now))
/-- The named queue carries the thread as an endpoint of the kinds that the mask needs. -/
def waitRights (s : State) (p h q mask : Nat) : Bool :=
  (!mask.testBit 0 || q = scratchQueue || threadCons s p h q) && (!mask.testBit 1 || q = scratchQueue || (threadProd s p h q).isSome) &&
    (!mask.testBit 2 || (q != scratchQueue && threadCons s p h q))
/-- The WAIT retires with what holds; a reported KITTY clears the event, unless the same edge sets it (R668). -/
def waitDone (s : State) (p h : Nat) (t : Thread) (rd : RegIx) (holds : Nat) (unbound sameEdgeSet : Bool) : EngEnd :=
  let t := { t with state := .running, waitRec := none, kevent := if holds.testBit 4 && !sameEdgeSet then false else t.kevent }
  retireReg s p h t rd (BitVec.ofNat 32 (holds + if unbound then 64 else 0)) [0x0F]
def execWait (p : PlotIx) (h : HandIx) (rd ra : RegIx) (mask : BitVec 16) (s : State) : Out :=
  .next (engStep s p.val h.val (.wait rd ra mask) fun s t =>
    let m := mask.toNat
    let w := t.reg ra
    let q := qNum w
    if m % 8 != 0 && qWordBad w then .trap s causeIllegal 0 0
    else if !waitRights s p.val h.val q m then .trap s causeQueue q 0
    else
      let holds := waitHolds s p.val h.val t q m
      if holds != 0 then waitDone s p.val h.val t rd holds false false
      else .wait (s.onEng fun e => (e.setThread p.val h.val { t with
        state := .waiting, waitRec := some { rd := rd.val, queue := if m % 8 = 0 then 0 else w, mask := m } }).regate p.val))

/-- WAIT_WAKE (R287, R288, R525): a selected condition has come to hold, or the named queue has been unbound, and the WAIT retires. -/
def execWaitWake (p : PlotIx) (h : HandIx) (sameEdgeSet : Bool) (s : State) : Out :=
  let t := s.eng.thread p.val h.val
  match t.waitRec with
  | none => .next s
  | some r =>
    let holds := waitHolds s p.val h.val t (qNum r.queue) r.mask
    if t.state != .waiting || !s.clocksOn || s.net.dieDown.contains (dieOf p.val) || (holds = 0 && !r.unbound) then .next s
    else
      let w := fetchWord s p.val t.pc
      let s := ((waitDone s p.val h.val t (Fin.ofNat 32 r.rd) holds r.unbound sameEdgeSet).counted p.val (fetchCorr s p.val t.pc)).finish p.val h.val t.pc.toNat w
      .next (s.onEng fun e => e.regate p.val)

end Sys2Proof.Machine
end

