-- ==== Sys2Proof/Machine/Jtag.lean ====
section
/-! DEFINITION. The JTAG TAP: boundary scan, memory access and debug (R381, R662–R664). -/

namespace Sys2Proof.Machine

/-- The instruction register takes an instruction, and the register that it selects captures a value. (DEDUCED, log 93) -/
def State.tap (s : State) (ir : Byte) (dr : Nat) : State := s.onMc fun m => { m with jtag := { m.jtag with ir := ir, dr := dr } }
/-- Modes in which the instructions that act on the balls take effect (R663). -/
def State.scanAllowed (s : State) : Bool :=
  s.aon.powered && match s.aon.mode with
  | none | some .fallow | some .recovery | some .zeroised | some .test => true
  | _ => false
/-- The instruction that governs the balls at present: one of EXTEST, HIGHZ, CLAMP, EXTEST_PULSE and EXTEST_TRAIN while it takes effect; otherwise the device drives them. -/
def State.scanDrives (s : State) : Option Byte :=
  if s.scanAllowed && inRange 3 7 s.mc.jtag.ir.toNat then some s.mc.jtag.ir else none
/-- EXTEST_PULSE or EXTEST_TRAIN powers the PMA: in Fallow and Recovery while monitors 3 and 4 find VDDA_LINK and VDDH_LINK in range (R663). -/
def State.scanPma (s : State) : Bool :=
  (s.scanDrives = some 6 || s.scanDrives = some 7) && (s.aon.mode == some .fallow || s.aon.mode == some .recovery) &&
    [2, 3].all fun k => (tget (some 0, 0) s.mc.hk.monitors k).2 = 0
/-- A boundary-scan instruction is loaded. While it takes effect the boundary register captures the pins, in an order of cells that the spec leaves open; otherwise it acts as BYPASS. (DEDUCED, log 93) -/
def scanLoad (s : State) (ir : Byte) (boundary : Bool) : Out :=
  if !s.aon.powered then .next s
  else if s.scanAllowed && boundary then .next (s.tap ir (Config.freeNat s.aon.free)).drawn
  else .next (s.tap ir 0)
/-- IDCODE (R662). -/
def execIdcode (s : State) : Out := if s.aon.powered then .next (s.tap 0x01 0x1C512153) else .next s
/-- SAMPLE_PRELOAD (R662): the pins are captured and the boundary register's cells are loaded, in every state and mode. -/
def execSamplePreload (cells : List Bool) (s : State) : Out :=
  if !s.aon.powered then .next s
  else .next ((s.tap 0x02 (Config.freeNat s.aon.free)).onMc fun m => { m with jtag := { m.jtag with boundary := cells } }).drawn
/-- EXTEST (R663). -/
def execExtest (s : State) : Out := scanLoad s 0x03 true
/-- HIGHZ (R663): the outputs are at high impedance, and the bypass register is selected. -/
def execHighz (s : State) : Out := scanLoad s 0x04 false
/-- CLAMP (R663): the boundary register drives the outputs, and the bypass register is selected. -/
def execClamp (s : State) : Out := scanLoad s 0x05 false
/-- EXTEST_PULSE (R663). -/
def execExtestPulse (s : State) : Out := scanLoad s 0x06 true
/-- EXTEST_TRAIN (R663). -/
def execExtestTrain (s : State) : Out := scanLoad s 0x07 true
/-- BYPASS (R662). -/
def execBypass (s : State) : Out := if s.aon.powered then .next (s.tap 0xFF 0) else .next s
/-- MEMACC (R381): one line is read or written whole, under the rights of JTAG memory access; the request waits while the channel engine takes none. (DEDUCED, log 93) -/
def execMemacc (we : Bool) (p : PlotIx) (line : BitVec 19) (data : BitVec 512) (upset : BitVec 640) (s : State) : Out :=
  if !s.aon.powered then .next s
  else
    let s := s.tap 0x10 0
    if we then execFullLineWrite p .jtag line data s else execLineRead p .jtag line upset s
/-- DEBUG (R664): BYPASS outside Test mode in MANUFACTURE and SERVICE. There it reaches MC firmware state and resources at addresses that the spec does not give, and the model refuses it. (DESIGN CHOICE, log 21) -/
def execDebug (_addr : Nat) (_we : Bool) (_value : Word) (s : State) : Out :=
  if !s.aon.powered then .next s
  else if s.aon.mode == some .test && (s.nv.life == .manufacture || s.nv.life == .service) then .refused .debugTarget
  else .next (s.tap 0x11 0)

end Sys2Proof.Machine
end

