-- ==== Sys2Proof/Machine/Dispatch.lean ====
section
/-! DEFINITION. What each command does: one arm per row of the table of operations and events. -/

namespace Sys2Proof.Machine

def exec (i : Instr) (s : State) : Host.Outcome State Fault Refusal :=
  match i with
  | .powerOn env => Sys2Proof.Machine.execPowerOn env s
  | .resetN lowNs env => Sys2Proof.Machine.execResetN lowNs env s
  | .powerLoss => Sys2Proof.Machine.execPowerLoss s
  | .tamper source => Sys2Proof.Machine.execTamper source s
  | .trstN => Sys2Proof.Machine.execTrstN s
  | .autoriseRise env => Sys2Proof.Machine.execAutoriseRise env s
  | .softStartFail rail => Sys2Proof.Machine.execSoftStartFail rail s
  | .sowingEnd => Sys2Proof.Machine.execSowingEnd s
  | .sowingFinalTimeout => Sys2Proof.Machine.execSowingFinalTimeout s
  | .trainingSlotEnd => Sys2Proof.Machine.execTrainingSlotEnd s
  | .bindingTick => Sys2Proof.Machine.execBindingTick s
  | .bootFlashRead addr len => Sys2Proof.Machine.execBootFlashRead addr len s
  | .narrowWordPush q data last => Sys2Proof.Machine.execNarrowWordPush q data last s
  | .sspiStatus => Sys2Proof.Machine.execSspiStatus s
  | .sspiErase frame => Sys2Proof.Machine.execSspiErase frame s
  | .sspiWrite frame => Sys2Proof.Machine.execSspiWrite frame s
  | .sspiVerify frame => Sys2Proof.Machine.execSspiVerify frame s
  | .sspiRestart frame env => Sys2Proof.Machine.execSspiRestart frame env s
  | .sspiReservedCommand frame => Sys2Proof.Machine.execSspiReservedCommand frame s
  | .housekeepingRound env => Sys2Proof.Machine.execHousekeepingRound env s
  | .bondSpared p group => Sys2Proof.Machine.execBondSpared p group s
  | .wearLedgerSave => Sys2Proof.Machine.execWearLedgerSave s
  | .limpAutoEntry => Sys2Proof.Machine.execLimpAutoEntry s
  | .ioNominalVoltageFix b => Sys2Proof.Machine.execIoNominalVoltageFix b s
  | .tempFrame counts => Sys2Proof.Machine.execTempFrame counts s
  | .currentLimitSkip rail milliamps => Sys2Proof.Machine.execCurrentLimitSkip rail milliamps s
  | .feedDomainReset d => Sys2Proof.Machine.execFeedDomainReset d s
  | .feedRetrainDone d => Sys2Proof.Machine.execFeedRetrainDone d s
  | .dieReset d => Sys2Proof.Machine.execDieReset d s
  | .dieResetRelease d => Sys2Proof.Machine.execDieResetRelease d s
  | .slotBoundary p => Sys2Proof.Machine.execSlotBoundary p s
  | .handCall p slot edge => Sys2Proof.Machine.execHandCall p slot edge s
  | .contention p h kind rowcol pos track drivers edge => Sys2Proof.Machine.execContention p h kind rowcol pos track drivers edge s
  | .configPatrol upsets => Sys2Proof.Machine.execConfigPatrol upsets s
  | .handSection seat bytes => Sys2Proof.Machine.execHandSection seat bytes s
  | .handSowingStart p h => Sys2Proof.Machine.execHandSowingStart p h s
  | .handSowingEnd p h head body tag => Sys2Proof.Machine.execHandSowingEnd p h head body tag s
  | .bmSection seat head body tag => Sys2Proof.Machine.execBmSection seat head body tag s
  | .engineSection seat head body tag => Sys2Proof.Machine.execEngineSection seat head body tag s
  | .stagingSection seat head body tag => Sys2Proof.Machine.execStagingSection seat head body tag s
  | .seedImageHeader seat src hdr => Sys2Proof.Machine.execSeedImageHeader seat src hdr s
  | .handWipeDone p h => Sys2Proof.Machine.execHandWipeDone p h s
  | .bmClearDone p k => Sys2Proof.Machine.execBmClearDone p k s
  | .bmRead a k portB addr other upset => Sys2Proof.Machine.execBmRead a k portB addr other upset s
  | .bmWrite a k portB w other => Sys2Proof.Machine.execBmWrite a k portB w other s
  | .kittyWrite a reg data be => Sys2Proof.Machine.execKittyWrite a reg data be s
  | .kittyRead a reg => Sys2Proof.Machine.execKittyRead a reg s
  | .qoPush a qp sel data rank => Sys2Proof.Machine.execQoPush a qp sel data rank s
  | .qoLast a qp sel data rank vb => Sys2Proof.Machine.execQoLast a qp sel data rank vb s
  | .qoAbort a qp sel => Sys2Proof.Machine.execQoAbort a qp sel s
  | .qiPop a qp sel => Sys2Proof.Machine.execQiPop a qp sel s
  | .qiDrop a qp sel => Sys2Proof.Machine.execQiDrop a qp sel s
  | .qiWmclr a qp sel sameEdgeSet => Sys2Proof.Machine.execQiWmclr a qp sel sameEdgeSet s
  | .packetVisible x => Sys2Proof.Machine.execPacketVisible x s
  | .rewindArrival x => Sys2Proof.Machine.execRewindArrival x s
  | .creditReturn x => Sys2Proof.Machine.execCreditReturn x s
  | .queueBindDone q => Sys2Proof.Machine.execQueueBindDone q s
  | .scratchRead r coll upset => Sys2Proof.Machine.execScratchRead r coll upset s
  | .scratchWrite r coll upset => Sys2Proof.Machine.execScratchWrite r coll upset s
  | .scratchBlockFillDone k => Sys2Proof.Machine.execScratchBlockFillDone k s
  | .securePartitionFillDone => Sys2Proof.Machine.execSecurePartitionFillDone s
  | .memPortRequest a we line be data tag => Sys2Proof.Machine.execMemPortRequest a we line be data tag s
  | .msPop a => Sys2Proof.Machine.execMsPop a s
  | .lineRead p src line upset => Sys2Proof.Machine.execLineRead p src line upset s
  | .fullLineWrite p src line data => Sys2Proof.Machine.execFullLineWrite p src line data s
  | .partialLineWrite p src line be data => Sys2Proof.Machine.execPartialLineWrite p src line be data s
  | .writeCombineTimeout p line upset => Sys2Proof.Machine.execWriteCombineTimeout p line upset s
  | .commandRetry x crcOk => Sys2Proof.Machine.execCommandRetry x crcOk s
  | .riserLaneCheck p failed => Sys2Proof.Machine.execRiserLaneCheck p failed s
  | .memRefresh die => Sys2Proof.Machine.execMemRefresh die s
  | .memPatrolRead p upset => Sys2Proof.Machine.execMemPatrolRead p upset s
  | .regionWipeDone p r => Sys2Proof.Machine.execRegionWipeDone p r s
  | .tileCopyDone p => Sys2Proof.Machine.execTileCopyDone p s
  | .dieMapDone d => Sys2Proof.Machine.execDieMapDone d s
  | .nextEntry r => Sys2Proof.Machine.execNextEntry r s
  | .smsWrite r => Sys2Proof.Machine.execSmsWrite r s
  | .keySlotLoad p r => Sys2Proof.Machine.execKeySlotLoad p r s
  | .rekeyFlip p r => Sys2Proof.Machine.execRekeyFlip p r s
  | .rekeyPassEnd p r => Sys2Proof.Machine.execRekeyPassEnd p r s
  | .holdTimeout p r => Sys2Proof.Machine.execHoldTimeout p r s
  | .sealFrameRx n tag => Sys2Proof.Machine.execSealFrameRx n tag s
  | .linkUp n => Sys2Proof.Machine.execLinkUp n s
  | .lockLoss n => Sys2Proof.Machine.execLockLoss n s
  | .linkReacquire n => Sys2Proof.Machine.execLinkReacquire n s
  | .portWakeDone n => Sys2Proof.Machine.execPortWakeDone n s
  | .steeringLookup n bytes => Sys2Proof.Machine.execSteeringLookup n bytes s
  | .packetRxEnd n e => Sys2Proof.Machine.execPacketRxEnd n e s
  | .streamRxPacket n bytes => Sys2Proof.Machine.execStreamRxPacket n bytes s
  | .packetTxStart n => Sys2Proof.Machine.execPacketTxStart n s
  | .packetTxEnd n => Sys2Proof.Machine.execPacketTxEnd n s
  | .bulkWrite c => Sys2Proof.Machine.execBulkWrite c s
  | .bulkReadReq c => Sys2Proof.Machine.execBulkReadReq c s
  | .bulkBadRequest c => Sys2Proof.Machine.execBulkBadRequest c s
  | .canFrameIgnored why => Sys2Proof.Machine.execCanFrameIgnored why s
  | .read r => Sys2Proof.Machine.execRead r s
  | .write r => Sys2Proof.Machine.execWrite r s
  | .stage r => Sys2Proof.Machine.execStage r s
  | .check r => Sys2Proof.Machine.execCheck r s
  | .turn r => Sys2Proof.Machine.execTurn r s
  | .discard r => Sys2Proof.Machine.execDiscard r s
  | .segRead r => Sys2Proof.Machine.execSegRead r s
  | .segWrite r => Sys2Proof.Machine.execSegWrite r s
  | .segData r sigOk pointsOk => Sys2Proof.Machine.execSegData r sigOk pointsOk s
  | .segAck r => Sys2Proof.Machine.execSegAck r s
  | .segTransferTimeout seat => Sys2Proof.Machine.execSegTransferTimeout seat s
  | .winRead r => Sys2Proof.Machine.execWinRead r s
  | .winWrite r => Sys2Proof.Machine.execWinWrite r s
  | .sessionOpenQh o pointOk => Sys2Proof.Machine.execSessionOpenQh o pointOk s
  | .sessionOpenSigh o sigOk => Sys2Proof.Machine.execSessionOpenSigh o sigOk s
  | .sessionOpenTimeout seat => Sys2Proof.Machine.execSessionOpenTimeout seat s
  | .sessionClose r => Sys2Proof.Machine.execSessionClose r s
  | .ping r => Sys2Proof.Machine.execPing r s
  | .attnAck r => Sys2Proof.Machine.execAttnAck r s
  | .reservedFunc r func => Sys2Proof.Machine.execReservedFunc r func s
  | .turnApply => Sys2Proof.Machine.execTurnApply s
  | .mcDictionaryRequest seat j => Sys2Proof.Machine.execMcDictionaryRequest seat j s
  | .userAttention seat => Sys2Proof.Machine.execUserAttention seat s
  | .go p h => Sys2Proof.Machine.execGo p h s
  | .park p h => Sys2Proof.Machine.execPark p h s
  | .handRestart p h => Sys2Proof.Machine.execHandRestart p h s
  | .threadStart p h => Sys2Proof.Machine.execThreadStart p h s
  | .threadStop p h => Sys2Proof.Machine.execThreadStop p h s
  | .threadContinue p h => Sys2Proof.Machine.execThreadContinue p h s
  | .rkreq p r => Sys2Proof.Machine.execRkreq p r s
  | .kchg n => Sys2Proof.Machine.execKchg n s
  | .step => Sys2Proof.Machine.execStep s
  | .offset => Sys2Proof.Machine.execOffset s
  | .requestFallow => Sys2Proof.Machine.execRequestFallow s
  | .requestField => Sys2Proof.Machine.execRequestField s
  | .requestRetention => Sys2Proof.Machine.execRequestRetention s
  | .retentionEntryDone => Sys2Proof.Machine.execRetentionEntryDone s
  | .retentionExitDone => Sys2Proof.Machine.execRetentionExitDone s
  | .requestLimp => Sys2Proof.Machine.execRequestLimp s
  | .requestTest => Sys2Proof.Machine.execRequestTest s
  | .rise env => Sys2Proof.Machine.execRise env s
  | .restart env => Sys2Proof.Machine.execRestart env s
  | .dieResetRequest => Sys2Proof.Machine.execDieResetRequest s
  | .pllLock pll => Sys2Proof.Machine.execPllLock pll s
  | .pllGroupStop g => Sys2Proof.Machine.execPllGroupStop g s
  | .epllStop k => Sys2Proof.Machine.execEpllStop k s
  | .epllTimerStart p h => Sys2Proof.Machine.execEpllTimerStart p h s
  | .add p h rd ra rb => Sys2Proof.Machine.execAdd p h rd ra rb s
  | .sub p h rd ra rb => Sys2Proof.Machine.execSub p h rd ra rb s
  | .and p h rd ra rb => Sys2Proof.Machine.execAnd p h rd ra rb s
  | .or p h rd ra rb => Sys2Proof.Machine.execOr p h rd ra rb s
  | .xor p h rd ra rb => Sys2Proof.Machine.execXor p h rd ra rb s
  | .slt p h rd ra rb => Sys2Proof.Machine.execSlt p h rd ra rb s
  | .sltu p h rd ra rb => Sys2Proof.Machine.execSltu p h rd ra rb s
  | .sll p h rd ra rb => Sys2Proof.Machine.execSll p h rd ra rb s
  | .srl p h rd ra rb => Sys2Proof.Machine.execSrl p h rd ra rb s
  | .sra p h rd ra rb => Sys2Proof.Machine.execSra p h rd ra rb s
  | .mul p h rd ra rb => Sys2Proof.Machine.execMul p h rd ra rb s
  | .mulh p h rd ra rb => Sys2Proof.Machine.execMulh p h rd ra rb s
  | .mulhu p h rd ra rb => Sys2Proof.Machine.execMulhu p h rd ra rb s
  | .clz p h rd ra => Sys2Proof.Machine.execClz p h rd ra s
  | .popc p h rd ra => Sys2Proof.Machine.execPopc p h rd ra s
  | .crc p h rd ra rb n => Sys2Proof.Machine.execCrc p h rd ra rb n s
  | .hash p h rd ra => Sys2Proof.Machine.execHash p h rd ra s
  | .slli p h rd ra sh => Sys2Proof.Machine.execSlli p h rd ra sh s
  | .srli p h rd ra sh => Sys2Proof.Machine.execSrli p h rd ra sh s
  | .srai p h rd ra sh => Sys2Proof.Machine.execSrai p h rd ra sh s
  | .rori p h rd ra sh => Sys2Proof.Machine.execRori p h rd ra sh s
  | .addi p h rd ra imm => Sys2Proof.Machine.execAddi p h rd ra imm s
  | .andi p h rd ra imm => Sys2Proof.Machine.execAndi p h rd ra imm s
  | .ori p h rd ra imm => Sys2Proof.Machine.execOri p h rd ra imm s
  | .xori p h rd ra imm => Sys2Proof.Machine.execXori p h rd ra imm s
  | .lui p h rd imm => Sys2Proof.Machine.execLui p h rd imm s
  | .bfx p h rd ra pos len => Sys2Proof.Machine.execBfx p h rd ra pos len s
  | .bfi p h rd ra pos len => Sys2Proof.Machine.execBfi p h rd ra pos len s
  | .ldL p h rd ra imm upset => Sys2Proof.Machine.execLdL p h rd ra imm upset s
  | .timeNsRead p h rd ra imm => Sys2Proof.Machine.execTimeNsRead p h rd ra imm s
  | .stL p h rs ra imm => Sys2Proof.Machine.execStL p h rs ra imm s
  | .ldM p h rd ra imm => Sys2Proof.Machine.execLdM p h rd ra imm s
  | .stM p h rs ra imm => Sys2Proof.Machine.execStM p h rs ra imm s
  | .ldmMissResponse p h upset => Sys2Proof.Machine.execLdmMissResponse p h upset s
  | .stmFillResponse p h upset => Sys2Proof.Machine.execStmFillResponse p h upset s
  | .cacheWriteback p set way => Sys2Proof.Machine.execCacheWriteback p set way s
  | .qpush p h rd rq ra => Sys2Proof.Machine.execQpush p h rd rq ra s
  | .qcommit p h rq ra => Sys2Proof.Machine.execQcommit p h rq ra s
  | .qabort p h rq => Sys2Proof.Machine.execQabort p h rq s
  | .qpop p h rd rq ra => Sys2Proof.Machine.execQpop p h rd rq ra s
  | .qpeek p h rd rq ra => Sys2Proof.Machine.execQpeek p h rd rq ra s
  | .qdrop p h rq => Sys2Proof.Machine.execQdrop p h rq s
  | .qlevel p h rd rq sel sameEdgeSet => Sys2Proof.Machine.execQlevel p h rd rq sel sameEdgeSet s
  | .krd p h rd ra imm => Sys2Proof.Machine.execKrd p h rd ra imm s
  | .kwr p h rs ra imm => Sys2Proof.Machine.execKwr p h rs ra imm s
  | .callh p h ra imm => Sys2Proof.Machine.execCallh p h ra imm s
  | .rdpmc p h rd sel => Sys2Proof.Machine.execRdpmc p h rd sel s
  | .wait p h rd ra mask => Sys2Proof.Machine.execWait p h rd ra mask s
  | .waitWake p h sameEdgeSet => Sys2Proof.Machine.execWaitWake p h sameEdgeSet s
  | .fence p h what => Sys2Proof.Machine.execFence p h what s
  | .trap p h code => Sys2Proof.Machine.execTrap p h code s
  | .illegal p h word upset => Sys2Proof.Machine.execIllegal p h word upset s
  | .j p h off => Sys2Proof.Machine.execJ p h off s
  | .jal p h off => Sys2Proof.Machine.execJal p h off s
  | .jr p h ra => Sys2Proof.Machine.execJr p h ra s
  | .beq p h ra rb off => Sys2Proof.Machine.execBeq p h ra rb off s
  | .bne p h ra rb off => Sys2Proof.Machine.execBne p h ra rb off s
  | .blt p h ra rb off => Sys2Proof.Machine.execBlt p h ra rb off s
  | .bge p h ra rb off => Sys2Proof.Machine.execBge p h ra rb off s
  | .imbLdbFillDone p ldb k => Sys2Proof.Machine.execImbLdbFillDone p ldb k s
  | .snap seat => Sys2Proof.Machine.execSnap seat s
  | .snapshot => Sys2Proof.Machine.execSnapshot s
  | .snapshotImageWritten seat => Sys2Proof.Machine.execSnapshotImageWritten seat s
  | .pmcClear seat k => Sys2Proof.Machine.execPmcClear seat k s
  | .pmcOvfclr seat k sameEdgeSet => Sys2Proof.Machine.execPmcOvfclr seat k sameEdgeSet s
  | .provision => Sys2Proof.Machine.execProvision s
  | .enterService => Sys2Proof.Machine.execEnterService s
  | .leaveService => Sys2Proof.Machine.execLeaveService s
  | .decommission => Sys2Proof.Machine.execDecommission s
  | .selfTestStart lim => Sys2Proof.Machine.execSelfTestStart lim s
  | .selfTestAbort => Sys2Proof.Machine.execSelfTestAbort s
  | .bistFailLog e => Sys2Proof.Machine.execBistFailLog e s
  | .selfTestEnd opsDone elemsDone signature => Sys2Proof.Machine.execSelfTestEnd opsDone elemsDone signature s
  | .selfTestRestoreDone => Sys2Proof.Machine.execSelfTestRestoreDone s
  | .reclaim findings marchOk => Sys2Proof.Machine.execReclaim findings marchOk s
  | .idcode => Sys2Proof.Machine.execIdcode s
  | .samplePreload cells => Sys2Proof.Machine.execSamplePreload cells s
  | .extest => Sys2Proof.Machine.execExtest s
  | .highz => Sys2Proof.Machine.execHighz s
  | .clamp => Sys2Proof.Machine.execClamp s
  | .extestPulse => Sys2Proof.Machine.execExtestPulse s
  | .extestTrain => Sys2Proof.Machine.execExtestTrain s
  | .memacc we p line data upset => Sys2Proof.Machine.execMemacc we p line data upset s
  | .debug addr we value => Sys2Proof.Machine.execDebug addr we value s
  | .bypass => Sys2Proof.Machine.execBypass s
  | .continuousTestFail code => Sys2Proof.Machine.execContinuousTestFail code s
  | .turnWindowStart => Sys2Proof.Machine.execTurnWindowStart s
  | .popActsAtStore q => Sys2Proof.Machine.execPopActsAtStore q s
  | .rekeyPassLine p r upset => Sys2Proof.Machine.execRekeyPassLine p r upset s
  | .tileCopyLine p upset => Sys2Proof.Machine.execTileCopyLine p upset s

end Sys2Proof.Machine
end

