-- ==== Sys2Proof/Safety.lean ====
section
/-! DEFINITION. What a safe run is, in the terms that claims use: no fault and no refusal, memories in their one canonical form, OTP that only gains bits. -/

namespace Sys2Proof.Machine

/-- The command or step goes on: neither a fault nor a refusal. -/
def GoesOn (o : Out) : Prop := ∃ t, o = .next t

/-- Stacked lines in canonical form: line identifiers strictly rising, and no listed line holds the fill that an unlisted one reads as. -/
def linesWf : List (Nat × BitVec 640) → Bool
  | [] => true
  | [e] => decide (e.2 ≠ lineFill e.1)
  | e :: f :: t => decide (e.2 ≠ lineFill e.1) && decide (e.1 < f.1) && linesWf (f :: t)
/-- Every memory of the device is in its canonical form: scratchpad, instruction and local data memories, stacked lines, hand stores, rotation tables, boot flash. -/
def Memory.wf (s : State) : Bool :=
  twf 0 s.net.scr.cells && twf 0 s.eng.imem && twf 0 s.eng.dmem && linesWf s.stk.lines && twf 0 s.fab.cfg && twf slotReset s.fab.slots && twf 0xFF s.nv.flash

/-- OTP between two states: SVC_COUNT stays within its 64 bits, one-way bits are never lost, and what Nizia writes does not change (R635). -/
def Nv.otpKept (n m : Nv) : Prop :=
  m.lcMfg = n.lcMfg ∧ (n.lcOwn = true → m.lcOwn = true) ∧ (n.lcDecom = true → m.lcDecom = true) ∧ n.svcCount ≤ m.svcCount ∧ m.svcCount ≤ 64 ∧
    m.duk = n.duk ∧ m.serial = n.serial ∧ m.provHash = n.provHash ∧ m.idkeyX = n.idkeyX ∧ m.idkeyY = n.idkeyY ∧ m.fwKeyHash = n.fwKeyHash

/-- What every life-cycle transition wipes (R644): sessions, staging sets, turns and secrets, and on a powered stack every key store and link key, with the secure partition's fill begun. Sealed regions stay sealed, and the mode stays. -/
def lifeWiped (s t : State) : Prop :=
  (∀ k < 8, (t.seat k).isOpen = false ∧ (t.seat k).staged = [] ∧ (t.seat k).turn = none ∧ (t.seat k).sms = none ∧ (t.seat k).smr = none ∧ (t.seat k).credX = (s.seat k).credX) ∧
    t.nv.smsCopy = [] ∧ t.nv.map = s.nv.map ∧ t.nv.wearSaved = s.nv.wearSaved ∧ t.aon.mode = s.aon.mode ∧
    (s.stackHeld = true → (∀ p r, (t.stk.region p r).key0 = none ∧ (t.stk.region p r).key1 = none ∧ (t.stk.region p r).isSealed = (s.stk.region p r).isSealed) ∧
      (∀ n, (t.lnk.port n).lk0 = none) ∧ t.net.scr.secFilling = true)

/-! ## Engine instructions -/

/-- Thread h of plot p executes i at the next retirement: it runs, its seat may fetch the word at its PC, and the word is i's with no reserved operand value. -/
def State.executes (s : State) (p h : Nat) (i : EngInsn) : Prop :=
  s.threadRuns p h = true ∧ fetchTrap s p h (s.eng.thread p h).pc = none ∧ fetchWord s p (s.eng.thread p h).pc = encodeEng i ∧ legalEng i = true
/-- The thread's seat samples no instructions, or the thread has no seat. -/
def State.unsampled (s : State) (p h : Nat) : Prop := ∀ k, s.fab.handOwner p h = some k → sampleOn (s.mc.snap k).sample = false
/-- What every retirement leaves alone: everything but the engines, the queues and the fabric's records, other plots' engines, other threads, instruction memory. -/
def engineFrame (s t : State) (p h : Nat) : Prop :=
  t = { s with eng := t.eng, net := t.net, fab := t.fab, aon := { s.aon with free := s.aon.free + 1 } } ∧
    (∀ k, k ≠ 8 * p + h → tget ({} : Thread) t.eng.threads k = tget {} s.eng.threads k) ∧ (∀ j, j ≠ p → t.eng.engine j = s.eng.engine j) ∧
    t.eng.imem = s.eng.imem ∧ t.eng.imErr = s.eng.imErr ∧ t.eng.eplls = s.eng.eplls ∧ t.net.narrow = s.net.narrow
/-- The instruction has retired with the thread as x, and nothing but general and control registers has changed beside the records. -/
def registersOnly (s t : State) (p h : Nat) (x : Thread) : Prop :=
  engineFrame s t p h ∧ t.eng.thread p h = { x with miss := none, fencing := false, fenceLost := none } ∧ t.fab = s.fab ∧ t.eng.dmem = s.eng.dmem ∧
    t.net = { s.net with queues := t.net.queues } ∧ (∀ q, q / 64 ≠ p → t.net.queue q = s.net.queue q) ∧ (s.unsampled p h → t.net = s.net)
/-- The thread has trapped with a cause, TRAP_INFO and TRAP_ADDR, and `e` is the attention that it raised. -/
def trappedWith (s t : State) (p h : Nat) (cause info : Nat) (addr : Word) (e : Event) : Prop :=
  t.eng.thread p h = { s.eng.thread p h with
      state := .trapped, trapCause := BitVec.ofNat 8 cause, trapInfo := BitVec.ofNat 16 info, trapPc := (s.eng.thread p h).pc.setWidth 17, trapAddr := addr
      miss := none, fencing := false, fenceLost := none } ∧
    t.seats = raiseIn s.nv s.aon.now s.seats e ∧ t.fab = s.fab ∧ t.eng.dmem = s.eng.dmem ∧ t.stk = s.stk ∧ t.nv = s.nv ∧
    ∀ k, k ≠ 8 * p + h → tget ({} : Thread) t.eng.threads k = tget {} s.eng.threads k

/-! ## Requests over the bus -/

/-- A request of an open session, for function `func`, passes admission, and u is the state that its operation meets: the session's counter has moved on, and no reply is out. -/
def admitted (s : State) (r : Req) (func : Nat) (u : State) : Prop :=
  s.busUp = true ∧ r.node = s.aon.node ∧ r.short = false ∧ s.aon.failedTest = 0 ∧ (s.seat r.seat.val).isOpen = true ∧
    ∃ d : Nat, s.authOf r func = some d ∧ u = s.clearOut.onSeat r.seat.val fun x => { x with reqCtr := x.reqCtr + d + 1 }
/-- The request repeats no transaction, and none runs. -/
def fresh (s : State) (r : Req) : Prop :=
  (∀ l, (s.seat r.seat.val).last = some l → l.seq ≠ r.seq) ∧ (s.seat r.seat.val).running = none ∧ (s.seat r.seat.val).seg = none
/-- The one frame out is the request's reply with these fields, tagged under the session that the request met. -/
def answered (u t : State) (r : Req) (func err aux : Nat) (data : List Byte) : Prop :=
  ∃ status : Byte, t.mc.out = [Reply.tagged
    { seat := r.seat.val, prio := r.prio, seq := r.seq, func := BitVec.ofNat 8 func, status := status, error := BitVec.ofNat 8 err, aux := BitVec.ofNat 16 aux, data := data }
    (u.seat r.seat.val).krep u.aon.node.toNat (u.seat r.seat.val).repCtr]

end Sys2Proof.Machine
end

