-- ==== Sys2Proof/Certificates/Slice0/Obligations.lean ====
section
/-! DEFINITION. The statements for the provers: what each family of commands does, from the numbered rules of the spec; a statement that rests on a choice of the model says so. -/

open Sys2Proof Sys2Proof.Machine

/-! ## Start-up, modes, the service port -/

/-- A step takes the command at the front of the queue and is its effect on the state with the queue's rest; with nothing queued it is one tick of the time base (the model's choice, log entry 1). -/
def Obligations.StepRunsFrontCommand : Prop :=
  ∀ (c : Instr) (s : State), step { s with pending := c :: s.pending } = exec c s ∧ (s.pending = [] → step s = .next (tick s))

/-- One AON tick adds 250 ns, corrected by FREQ_ADJ in units of 2^-40 with the fraction carried, and the counter stays at its largest value (R431, R432). That the tick is the step of an empty queue is the model's choice (log entry 1). -/
def Obligations.TickAdvancesTimeBase : Prop :=
  ∀ s : State, s.pending = [] → s.aon.powered = true →
    ∃ t, step s = .next t ∧ t = { s with aon := t.aon } ∧ t.aon = { s.aon with now := t.aon.now, rem := t.aon.rem } ∧
      ((t.aon.now : Int) < maxTime →
        1099511627776 * ((t.aon.now : Int) - s.aon.now) + t.aon.rem = (s.aon.rem : Int) + 250 * (1099511627776 + s.aon.freqAdj.toInt)) ∧
      t.aon.rem < 1099511627776 ∧ (s.aon.now ≤ maxTime → t.aon.now ≤ maxTime)

/-- What the spec states for the state before VDD_AON is first valid: no mode, no session, every hand EMPTY, thread UNOWNED and queue without owner, slot words 0x00808000 with LEN 64, and the object defaults. OTP and MRAM contents are the model's own (log entry 3). -/
def Obligations.ResetLeavesDefaults : Prop :=
  let s := State.reset
  s.pending = [] ∧ s.aon.powered = false ∧ s.aon.mode = none ∧ s.aon.now = 0 ∧
    (∀ k, (s.seat k).isOpen = false ∧ (s.seat k).staged = [] ∧ (s.seat k).turn = none ∧ (s.seat k).powerMw = 0 ∧ (s.seat k).pend = 0) ∧
    (∀ p h, (s.fab.hand p h).state = .empty ∧ s.fab.handOwner p h = none ∧ (s.eng.thread p h).state = .unowned) ∧
    (∀ p k, s.fab.slot p k = 0x00808000 ∧ (s.fab.plot p).len = 64 ∧ s.fab.kittyReg p k = 0 ∧ s.fab.bmOwner p k = none) ∧
    (∀ q, qdOwner (s.net.queue q).dir = none ∧ qdEnable (s.net.queue q).dir = false) ∧
    (∀ p r, s.stk.regionOwner p r = none ∧ (s.stk.region p r).isSealed = false) ∧
    (∀ n, (s.lnk.port n).link = .off ∧ (s.lnk.port n).setup = 0x000C0000 ∧ (s.lnk.port n).eq = 0x80022280 ∧ (s.lnk.port n).defq = 0xFFFF) ∧
    s.stk.retireThresh = 4 ∧ s.stk.patrolH = 24 ∧ s.mc.hk.period = 4 ∧ s.mc.hk.horizon = 64 ∧ s.mc.bist.alg = 0x02 ∧ s.mc.bist.bclk = 800000 ∧
    s.mc.jtag.dr = 0x1C512153

/-- What the two invariants need holds at reset: the memories are in canonical form, and SVC_COUNT is within its 64 bits. -/
def Obligations.ResetMeetsInvariants : Prop := Memory.wf State.reset = true ∧ Nv.otpKept State.reset.nv State.reset.nv

/-- R635: whatever is commanded, the one-way bits of OTP only gain bits, SVC_COUNT stays within 64, and what Nizia writes stays as it is. -/
def Obligations.OtpOnlyGainsBits : Prop :=
  ∀ s t : State, s.nv.svcCount ≤ 64 → step s = .next t → s.nv.otpKept t.nv

/-- POWER_ON with every test passing (R543–R549, R643): DECOMMISSIONED boots to Zeroised; otherwise slot A runs when it is valid, else slot B, else the device is in Recovery; an interrupted life-cycle change is settled. -/
def Obligations.PowerOnBoots : Prop :=
  ∀ (env : BootEnv) (s : State), s.aon.powered = false → env.testFail = 0 →
    ∃ t, exec (.powerOn env) s = .next t ∧ t.aon.powered = true ∧ t.aon.now = 0 ∧ t.aon.node = env.node ∧ t.seats = [] ∧ t.pending = s.pending ∧
      t.nv = (if s.nv.lcPending then { s.nv with smsCopy := [], lcPending := false } else s.nv) ∧
      (t.nv.life = .decommissioned → t.aon.mode = some .zeroised) ∧
      (t.nv.life ≠ .decommissioned → t.nv.slotValid 0 = true → t.aon.mode = some .fallow ∧ t.aon.fwSlot = 0 ∧ t.aon.fwVersion = t.nv.slotVersion 0) ∧
      (t.nv.life ≠ .decommissioned → t.nv.slotValid 0 = false → t.nv.slotValid 1 = true →
        t.aon.mode = some .fallow ∧ t.aon.fwSlot = 1 ∧ t.aon.fwVersion = t.nv.slotVersion 1) ∧
      (t.nv.life ≠ .decommissioned → t.nv.slotValid 0 = false → t.nv.slotValid 1 = false → t.aon.mode = some .recovery)

/-- R397: a device whose start-up test fails twice is held in Fallow with the code shown, and no automatic rise is due. -/
def Obligations.FailedTestHoldsFallow : Prop :=
  ∀ (env : BootEnv) (s : State), s.aon.powered = false → 1 ≤ env.testFail.toNat → env.testFail.toNat ≤ 10 → s.nv.life ≠ .decommissioned →
    ∃ t, exec (.powerOn env) s = .next t ∧ t.aon.mode = some .fallow ∧ t.aon.failedTest = env.testFail ∧ t.aon.autoDue = false

/-- R530: a low pulse of RESET_N of 2 µs or more leaves what a power cycle leaves, except that the TAP is not reset (R662); one of 0.5 µs or less is ignored, and one between does the one or the other (R693). The draw counter of free values is the model's own and advances. -/
def Obligations.ResetPulseRestarts : Prop :=
  ∀ (lowNs : Nat) (env : BootEnv) (s : State), s.aon.powered = true →
    (2000 ≤ lowNs → ∃ t u, exec (.resetN lowNs env) s = .next t ∧ exec (.powerOn env) { s with aon := { s.aon with powered := false } } = .next u ∧
      t = { u with mc := { u.mc with jtag := s.mc.jtag }, aon := { u.aon with free := u.aon.free + 1 } }) ∧
    (lowNs ≤ 500 → exec (.resetN lowNs env) s = .next { s with aon := { s.aon with free := s.aon.free + 1 } }) ∧
    (500 < lowNs → lowNs < 2000 → exec (.resetN lowNs env) s = .next { s with aon := { s.aon with free := s.aon.free + 1 } } ∨
      exec (.resetN lowNs env) s = exec (.resetN 2000 env) s)

/-- A loss of VDD_AON leaves OTP and MRAM and nothing else (R666, R676); TRST_N resets the TAP and nothing else (R662). The queue of commands and the draw counter are the model's own and stay. -/
def Obligations.PowerLossKeepsOtpAndMram : Prop :=
  ∀ s : State, exec .powerLoss s = .next { State.reset with nv := s.nv, pending := s.pending, aon := { State.reset.aon with free := s.aon.free } } ∧
    exec .trstN s = .next { s with mc := { s.mc with jtag := State.reset.mc.jtag } }

/-- R645, R646, R544: every firing is counted, saturating, and recorded with its time. An armed source zeroises: keys and secrets are gone, sessions are ended, sets and turns are discarded, and a powered stack is down. That a source that is not armed changes nothing more is the model's choice where it leaves the secure partition (log 102). -/
def Obligations.TamperZeroisesWhenArmed : Prop :=
  ∀ (source : Fin 7) (s : State), s.mcUp = true →
    let counted := { s.nv with tamperCount := min 4294967295 (s.nv.tamperCount + 1), tamperLastCode := source.val + 1, tamperLastTime := s.aon.now }
    let armed := (s.nv.life = .owned ∨ s.nv.life = .service) ∧ (2 ≤ source.val ∨ s.nv.tamperEn.getLsbD source.val = true)
    (¬armed → exec (.tamper source) s = .next { s with nv := counted }) ∧
    (armed → ∃ t, exec (.tamper source) s = .next t ∧ t.aon.mode = some .zeroised ∧ t.nv.tamperCount = counted.tamperCount ∧
      t.nv.tamperLastCode = counted.tamperLastCode ∧ t.nv.tamperLastTime = counted.tamperLastTime ∧ t.nv.smsCopy = [] ∧
      (∀ k, (t.seat k).isOpen = false ∧ (t.seat k).sms = none ∧ (t.seat k).smr = none ∧ (t.seat k).staged = [] ∧ (t.seat k).turn = none) ∧
      (s.stackHeld = true → t.stk.regions = [] ∧ t.stk.lines = [] ∧ t.lnk.ports = [] ∧ t.net.scr = {} ∧ t.fab.cfg = [] ∧ t.stackHeld = false))

/-- R553–R558, R533, R596, R602: with no failed test, AUTORISE, an ordered RISE and an ordered RESTART raise the stack from Fallow into step 7 of Sowing, with every rail regulating at step 0, whatever the checks of step 5 find. A RISE does not leave the state that a thermal shutdown sets, and a RESTART does; after a failed test no order leaves Fallow (R397). -/
def Obligations.RiseReachesSowing : Prop :=
  ∀ (env : RiseEnv) (s : State) (rest : List Order), s.aon.mode = some .fallow →
    let risen := fun (t : State) => t.aon.mode = some .sowing ∧ t.aon.step = 7 ∧ t.aon.thermalLatch = false ∧ t.aon.autoDue = false ∧ t.aon.failedTest = 0 ∧
      t.mc.hk.failedRail = 0 ∧ ∀ k < 5, (t.mc.hk.rail k).state = 2 ∧ (t.mc.hk.rail k).step = 0
    let taken := { s with mc := { s.mc with orders := rest } }
    (s.aon.autoDue = true → s.aon.failedTest = 0 → s.aon.thermalLatch = false → s.supplyOut = false → ∃ t, exec (.autoriseRise env) s = .next t ∧ risen t ∧ t.mc.orders = s.mc.orders) ∧
    (takeOrder .rise s.mc.orders = some rest →
      (s.aon.failedTest = 0 → s.aon.thermalLatch = false → ∃ t, exec (.rise env) s = .next t ∧ risen t ∧ t.mc.orders = rest) ∧
      (s.aon.failedTest ≠ 0 ∨ s.aon.thermalLatch = true → exec (.rise env) s = .next taken)) ∧
    (takeOrder .restart s.mc.orders = some rest →
      (s.aon.failedTest = 0 → ∃ t, exec (.restart env) s = .next t ∧ risen t ∧ t.mc.orders = rest) ∧
      (s.aon.failedTest ≠ 0 → exec (.restart env) s = .next taken))

/-- R555: the rise that is due fails at a rail, which FAILED_RAIL and the rail's FAULT state show, and the device stays in Fallow. R532: an ordered REQUEST 0 powers the stack down: everything on it is lost, sessions and staging sets stay, MRAM keeps a copy of each memory secret held, and the wear ledger is saved (R611). R397: a continuous test that fails holds the device in Fallow. -/
def Obligations.StackGoesDownIntoFallow : Prop :=
  ∀ (s : State) (rest : List Order),
    let lost := fun (t : State) => t.aon.mode = some .fallow ∧ t.eng = {} ∧ t.lnk = {} ∧ t.stk.regions = [] ∧ t.stk.lines = [] ∧ t.fab.hands = [] ∧
      t.nv = { s.nv with wearSaved := s.mc.hk.wear, smsCopy := t.nv.smsCopy } ∧
      (∀ k < 8, tget none t.nv.smsCopy k = if (s.seat k).sms = none then tget none s.nv.smsCopy k else (s.seat k).sms) ∧ ∀ k, (t.seat k).isOpen = (s.seat k).isOpen ∧ (t.seat k).staged = (s.seat k).staged ∧ (t.seat k).sms = none
    (∀ rail : Fin 5, s.aon.mode = some .fallow → takeOrder .rise s.mc.orders = some rest →
      ∃ t, exec (.softStartFail rail) s = .next t ∧ t.aon.mode = some .fallow ∧ t.mc.hk.failedRail = rail.val + 1 ∧ (t.mc.hk.rail rail.val).state = 5 ∧ t.mc.orders = rest) ∧
    (takeOrder (.request 0) s.mc.orders = some rest → s.stackHeld = true → ∃ t, exec .requestFallow s = .next t ∧ lost t) ∧
    (∀ code : Fin 3, s.mcUp = true → s.stackHeld = true →
      ∃ t, exec (.continuousTestFail code) s = .next t ∧ lost t ∧ t.aon.failedTest.toNat = 0x0101 + code.val)

/-- R574, R575, R578: step 7 ends when its conditions hold, and the finished seats are loaded; 10 s after the dealer's FINAL image the wait is over; step 8 takes its groups one after another; the binding tick brings the device into Field. -/
def Obligations.StartUpReachesField : Prop :=
  ∀ s : State,
    (s.sowingOver = true → ∃ t, exec .sowingEnd s = .next t ∧ (t.aon.step = 8 ∨ t.aon.step = 9) ∧ t.aon.mode = some .sowing ∧ ∀ k < 8, s.finished k = true → (t.seat k).loaded = true) ∧
    (s.step7 = true → (s.seat 0).finalDone = true → exec .sowingFinalTimeout s = .next { s with aon := { s.aon with finalTimeout := true } }) ∧
    (s.aon.mode = some .sowing → s.aon.step = 8 → s.nextGroup (s.aon.trainGroup + 1) = none →
      ∃ t, exec .trainingSlotEnd s = .next t ∧ t = { s with aon := { s.aon with step := 9, trainGroup := 0 }, fab := { s.fab with fplls := t.fab.fplls }, eng := { s.eng with eplls := t.eng.eplls } }) ∧
    (∀ g, s.aon.mode = some .sowing → s.aon.step = 8 → s.nextGroup (s.aon.trainGroup + 1) = some g →
      ∃ t, exec .trainingSlotEnd s = .next t ∧ t.aon.trainGroup = g ∧ t.aon.step = 8) ∧
    (s.aon.mode = some .sowing → s.aon.step = 9 → ∃ t, exec .bindingTick s = .next t ∧ t.aon.mode = some .field ∧ t.aon.step = 0 ∧ t.mc.window = false)

/-- R546: a boot-flash read of 4 to 16,384 bytes becomes one packet on BOOT_LOAD, its bytes in address order. R550, R551: STATUS shifts out the 16-byte record in every mode. -/
def Obligations.FlashReadsAndStatusRecord : Prop :=
  ∀ s : State,
    (∀ (addr : BitVec 32) (len : Nat) (q : Queue), s.mcUp = true → 4 ≤ len → len ≤ 16384 → addr.toNat + len ≤ 2 ^ 32 →
      (s.net.queue 40960).packPacket 0 (s.nv.flashBytes addr.toNat len) = some q →
      exec (.bootFlashRead addr len) s = .next { s with net := s.net.setQueue 40960 q }) ∧
    (s.aon.powered = true → ∃ l, exec .sspiStatus s = .next { s with mc := { s.mc with sspi := { s.mc.sspi with out := l } } } ∧ l.length = 16 ∧
      byteAt l 0 = BitVec.ofNat 8 (match s.aon.mode with | some m => m.code | none => 0xFF) ∧ byteAt l 1 = BitVec.ofNat 8 s.nv.life.code ∧
      byteAt l 3 = s.mc.sspi.result ∧ leField l 4 4 = s.aon.fwVersion.toNat ∧ leField l 8 4 = s.mc.sspi.next.toNat ∧ leField l 12 4 = 0)

/-- R551, R552: in Recovery, ERASE leaves every byte of the slot 0xFF, WRITE writes its data at OFFSET and sets NEXT, VERIFY gives OK or CHECK_FAILED, and RESTART after a good VERIFY leaves what a restart leaves; no other flash byte changes. Every frame becomes one packet on SSPI_IN. -/
def Obligations.ServicePortWorksInRecovery : Prop :=
  ∀ (s : State) (frame : List Byte) (k a : Nat) (q : Queue), s.aon.powered = true → s.aon.mode = some .recovery → 8 ≤ frame.length → frame.length ≤ 16384 →
    sspiSlot frame = some k → s.nv.slotAddr k = some a → (s.net.queue 40961).packPacket 1 frame = some q →
    (byteAt frame 0 = 2 → ∃ t, exec (.sspiErase frame) s = .next t ∧ t.mc.sspi.result = 0 ∧ t.net = s.net.setQueue 40961 q ∧
      ∀ i, t.nv.flashByte i = if a ≤ i ∧ i < a + 8392704 then 0xFF else s.nv.flashByte i) ∧
    (byteAt frame 0 = 3 → leField frame 4 4 + (frame.length - 8) ≤ 8392704 → ∃ t, exec (.sspiWrite frame) s = .next t ∧ t.mc.sspi.result = 0 ∧
      t.net = s.net.setQueue 40961 q ∧ t.mc.sspi.next.toNat = leField frame 4 4 + (frame.length - 8) ∧
      ∀ i, t.nv.flashByte i = if a + leField frame 4 4 ≤ i ∧ i < a + leField frame 4 4 + (frame.length - 8) then byteAt frame (8 + (i - (a + leField frame 4 4))) else s.nv.flashByte i) ∧
    (byteAt frame 0 = 4 → ∃ t, exec (.sspiVerify frame) s = .next t ∧ t.mc.sspi.verified = s.nv.slotValid k ∧
      t.mc.sspi.result = (if s.nv.slotValid k then 0x00 else 0x09) ∧ t.nv = s.nv ∧ t.net = s.net.setQueue 40961 q) ∧
    (∀ env : BootEnv, byteAt frame 0 = 5 → s.mc.sspi.verified = true → ∃ u, exec (.powerOn env) { s with aon := { s.aon with powered := false } } = .next u ∧
      exec (.sspiRestart frame env) s = .next { u with mc := { u.mc with jtag := s.mc.jtag } }) ∧
    (∀ env : BootEnv, byteAt frame 0 = 5 → s.mc.sspi.verified = false → ∃ t, exec (.sspiRestart frame env) s = .next t ∧ t.mc.sspi.result = 0x06 ∧ t.aon = s.aon)

/-- R550–R552: outside Recovery the four commands set RESULT to LIFECYCLE and change nothing else but SSPI_IN; a reserved CMD sets RANGE in every mode; a frame of fewer than 8 bytes sets TYPE_LENGTH and becomes no packet. -/
def Obligations.ServicePortRefusals : Prop :=
  ∀ (s : State) (frame : List Byte) (env : BootEnv) (q : Queue), s.mcUp = true →
    let result := fun (n : Net) (e : Byte) => Host.Outcome.next { s with net := n, mc := { s.mc with sspi := { s.mc.sspi with result := e } } }
    (8 ≤ frame.length → frame.length ≤ 16384 → (s.net.queue 40961).packPacket 1 frame = some q →
      let n := s.net.setQueue 40961 q
      (s.aon.mode ≠ some .recovery →
        (byteAt frame 0 = 2 → exec (.sspiErase frame) s = result n 0x0D) ∧ (byteAt frame 0 = 3 → exec (.sspiWrite frame) s = result n 0x0D) ∧
        (byteAt frame 0 = 4 → exec (.sspiVerify frame) s = result n 0x0D) ∧ (byteAt frame 0 = 5 → exec (.sspiRestart frame env) s = result n 0x0D)) ∧
      (byteAt frame 0 = 0 ∨ 6 ≤ (byteAt frame 0).toNat → exec (.sspiReservedCommand frame) s = result n 0x05)) ∧
    (frame.length < 8 → byteAt frame 0 = 2 → exec (.sspiErase frame) s = result s.net 0x04)

/-! ## Life cycle, housekeeping, resets, self-test, boundary scan -/

/-- R635, R638, R639, R642, R644: a token that has passed makes its transition: PROVISION burns the owner's fields and replaces the seat-0 credential, ENTER_SERVICE and LEAVE_SERVICE burn one more bit of SVC_COUNT, and each makes the wipes. -/
def Obligations.LifeCycleTransitions : Prop :=
  ∀ (s : State) (tok : Token) (rest : List Order), s.mcUp = true →
    (takeLife 1 s.mc.orders = some (tok, rest) → s.nv.life = .manufacture → ∃ t, exec .provision s = .next t ∧ lifeWiped s t ∧ t.nv.lcOwn = true ∧ t.nv.svcCount = s.nv.svcCount ∧
      t.nv.ownerRoot = tok.ownerRoot ∧ t.nv.fwFloor = tok.fwFloor ∧ t.nv.holdPulls = tok.holdPulls ∧ t.nv.tamperEn = tok.tamperEn ∧ t.nv.cred0X = tok.seat0X ∧ t.nv.cred0Y = tok.seat0Y) ∧
    (takeLife 2 s.mc.orders = some (tok, rest) → s.nv.life = .owned → s.nv.svcCount < 64 →
      ∃ t, exec .enterService s = .next t ∧ lifeWiped s t ∧ t.nv.svcCount = s.nv.svcCount + 1 ∧ t.nv.life = .service) ∧
    (takeLife 3 s.mc.orders = some (tok, rest) → s.nv.life = .service → s.nv.svcCount < 64 →
      ∃ t, exec .leaveService s = .next t ∧ lifeWiped s t ∧ t.nv.svcCount = s.nv.svcCount + 1 ∧ t.nv.life = .owned)

/-- R639, R642, R544: a DECOMMISSION token retires the device from MANUFACTURE, OWNED or SERVICE: it is DECOMMISSIONED and in Zeroised, without sessions, secrets or stack power. -/
def Obligations.DecommissionRetires : Prop :=
  ∀ (s : State) (tok : Token) (rest : List Order), s.mcUp = true → takeLife 4 s.mc.orders = some (tok, rest) →
    (s.nv.life = .manufacture ∨ s.nv.life = .owned ∨ s.nv.life = .service) →
    ∃ t, exec .decommission s = .next t ∧ t.nv.life = .decommissioned ∧ t.aon.mode = some .zeroised ∧ t.stackHeld = false ∧ t.nv.smsCopy = [] ∧
      ∀ k, (t.seat k).isOpen = false ∧ (t.seat k).sms = none ∧ (t.seat k).staged = [] ∧ (t.seat k).turn = none

/-- R592: HOTTEST is the highest valid reading of the round over all 64 sensors. R586, R611: a round publishes the readings of its frame with the start time, and increments ROUNDS; after every 256th the ledger is due for MRAM. -/
def Obligations.RoundPublishesItsRecord : Prop :=
  ∀ (env : RoundEnv) (s : State), s.mcUp = true →
    ∃ t, exec (.housekeepingRound env) s = .next t ∧ t.mc.hk.rounds = (s.mc.hk.rounds + 1) % 4294967296 ∧ t.mc.hk.roundTime = s.aon.now ∧
      t.mc.hk.temps = s.mc.hk.frameTemps ∧ t.mc.hk.railRec = t.mc.hk.rails ∧ (∀ x, t.mc.hk.hottest = some x ↔
        (∃ j < 64, tget none s.mc.hk.frameTemps j = some x) ∧ ∀ j < 64, ∀ y, tget none s.mc.hk.frameTemps j = some y → y ≤ x) ∧
      ((s.mc.hk.rounds + 1) % 256 = 0 → t.mc.hk.ledgerDue = true) ∧ t.aon.now = s.aon.now

/-- R599, R540: the governor changes every powered rail at the end of a round, by the highest valid reading of its sensors (115 °C when they have all failed, R591), and steps it so. In Limp a stack rail is held at step 15. Otherwise a prediction at or above 115 °C raises the step by one up to 15 and clears the calm count, and 64 calm rounds lower it by one. -/
def Obligations.GovernorStepsRails : Prop :=
  (∀ (env : RoundEnv) (s t : State), s.mcUp = true → s.stackHeld = true → exec (.housekeepingRound env) s = .next t → t.stackHeld = true →
    ∀ k < 5, let x := match hottestOf s.mc.hk.frameTemps (railSensors k) with | some m => m.2 | none => 29440
      let n := (s.mc.hk.rail k).govern (s.limp && decide (k < 4)) s.mc.hk.horizon s.aon.now x
      (t.mc.hk.rail k).step = n.step ∧ (t.mc.hk.rail k).calm = n.calm ∧ (t.mc.hk.rail k).hist = n.hist) ∧
  ∀ (r : Rail) (h start : Nat) (x : Int),
    let hist := ((start, x) :: r.hist).take 8
    (r.govern true h start x).step = 15 ∧ (r.govern true h start x).calm = 0 ∧
      (predictsHot hist h = true → (r.govern false h start x).step = min (r.step + 1) 15 ∧ (r.govern false h start x).calm = 0) ∧
      (predictsHot hist h = false → predictsHot hist (2 * h) = true → (r.govern false h start x).step = r.step ∧ (r.govern false h start x).calm = 0) ∧
      (predictsHot hist h = false → predictsHot hist (2 * h) = false → r.calm + 1 < 64 → (r.govern false h start x).step = r.step ∧ (r.govern false h start x).calm = r.calm + 1) ∧
      (predictsHot hist h = false → predictsHot hist (2 * h) = false → r.calm + 1 = 64 → (r.govern false h start x).step = r.step - 1 ∧ (r.govern false h start x).calm = 0) ∧
      (∀ t7 x7, hist[7]? = some (t7, x7) → t7 < start →
        (predictsHot hist h = true ↔ (29440 : Int) * ((start : Int) - t7) ≤ x * ((start : Int) - t7) + (x - x7) * (h * 1000000))) ∧
      (hist.length < 8 → (predictsHot hist h = true ↔ 29440 ≤ x))

/-- R611, R700, R303: the ledger due is written to MRAM; a bank's voltage is fixed after 4 rounds in one range; a memory die refreshes every 32 ms while a sensor of it reads more than 85 °C, and every 64 ms while all four read at most that. -/
def Obligations.LedgerBanksAndRefresh : Prop :=
  ∀ s : State,
    (s.aon.powered = true → s.mc.hk.ledgerDue = true →
      exec .wearLedgerSave s = .next { s with nv := { s.nv with wearSaved := s.mc.hk.wear }, mc := { s.mc with hk := { s.mc.hk with ledgerDue := false } } }) ∧
    (∀ b : Fin 32, s.aon.powered = true → (s.fab.bank b.val).nominal = 0 → 4 ≤ (s.fab.bank b.val).candRounds →
      ∃ t, exec (.ioNominalVoltageFix b) s = .next t ∧ t = { s with fab := { s.fab with banks := t.fab.banks } } ∧
        t.fab.bank b.val = { s.fab.bank b.val with nominal := (s.fab.bank b.val).cand, outRounds := 0 } ∧ ∀ c, c ≠ b.val → t.fab.bank c = s.fab.bank c) ∧
    (∀ die : Fin 5, s.stackOn = true →
      ∃ t, exec (.memRefresh die) s = .next t ∧ t = { s with aon := { s.aon with free := s.aon.free + 1 }, stk := { s.stk with refresh := t.stk.refresh } } ∧
        ((∃ q < 4, ∃ x, tget none s.mc.hk.frameTemps (44 + 4 * die.val + q) = some x ∧ 21760 < x) → tget 0 t.stk.refresh die.val = 32) ∧
        ((∀ q < 4, ∃ x, tget none s.mc.hk.frameTemps (44 + 4 * die.val + q) = some x ∧ x ≤ 21760) → tget 0 t.stk.refresh die.val = 64))

/-- R588, R590, R591, R593–R595: a frame takes every powered sensor's reading. A reading at or above 115 °C in Fallow or with the stack powered leaves the device in Fallow with the stack down and the state of R533 set; without one and with no failed die nothing else changes. -/
def Obligations.HotFrameShutsDown : Prop :=
  ∀ (counts : List Nat) (s : State), s.mcUp = true →
    let temps := (List.range 64).foldl (fun l k => tput none l k (if k < 16 || s.stackHeld then reading (s.nv.fuse k) (counts.getD k 0) else none)) []
    (frameCause temps s.stackHeld = none → exec (.tempFrame counts) s = .next { s with mc := { s.mc with hk := { s.mc.hk with frameTemps := temps } } }) ∧
    ((∃ k < 64, ∃ x, tget none temps k = some x ∧ 29440 ≤ x) → (s.stackHeld = true ∨ s.aon.mode = some .fallow) →
      ∃ t, exec (.tempFrame counts) s = .next t ∧ t.aon.mode = some .fallow ∧ t.aon.thermalLatch = true ∧ t.stackHeld = false ∧ t.mc.hk.frameTemps = temps)

/-- R600: each microsecond the skip count of a powered rail rises by one, up to 15, while the current is above the limit of its step, and falls by one while it is below 95 % of it; 1 ms above the limit at j = 15 starts the shutdown. -/
def Obligations.CurrentLimitSkipsEdges : Prop :=
  ∀ (rail : Fin 5) (ma : Nat) (s : State), s.stackHeld = true → (s.mc.hk.rail rail.val).state = 2 ∨ (s.mc.hk.rail rail.val).state = 4 →
    let r := s.mc.hk.rail rail.val
    let limit := railLimit rail.val r.step
    (limit < ma → r.skip < 15 → ∃ t, exec (.currentLimitSkip rail ma) s = .next t ∧ t = { s with mc := { s.mc with hk := { s.mc.hk with rails := t.mc.hk.rails } } } ∧
      (t.mc.hk.rail rail.val).skip = r.skip + 1 ∧ (t.mc.hk.rail rail.val).state = 4 ∧ ∀ k, k ≠ rail.val → t.mc.hk.rail k = s.mc.hk.rail k) ∧
    (100 * ma < 95 * limit → ∃ t, exec (.currentLimitSkip rail ma) s = .next t ∧ t = { s with mc := { s.mc with hk := { s.mc.hk with rails := t.mc.hk.rails } } } ∧
      (t.mc.hk.rail rail.val).skip = r.skip - 1 ∧ ∀ k, k ≠ rail.val → t.mc.hk.rail k = s.mc.hk.rail k) ∧
    (limit < ma → r.skip = 15 → r.overUs = 999 → ∃ t, exec (.currentLimitSkip rail ma) s = .next t ∧ t.aon.mode = some .fallow ∧ t.stackHeld = false ∧
      t.aon.thermalLatch = true ∧ (t.mc.hk.rail rail.val).state = 5)

/-- R535–R537: an ordered REQUEST 3 begins the entry into Retention; when nothing is left to drain the PLLs are unlocked and the rails hold; an ordered REQUEST 2 begins the exit, whose end is in Field with the PLLs that run locked again. -/
def Obligations.RetentionEntryAndExit : Prop :=
  ∀ (s : State) (rest : List Order),
    (takeOrder (.request 3) s.mc.orders = some rest → s.aon.mode = some .field → s.aon.moving = false →
      ∃ t, exec .requestRetention s = .next t ∧ t.aon.mode = some .field ∧ t.aon.moving = true ∧ t.mc.orders = rest ∧ t.stk = s.stk ∧ t.nv = s.nv) ∧
    (s.aon.mode = some .field → s.aon.moving = true → (∀ e ∈ s.fab.hands, e.2.memReq = []) → (∀ e ∈ s.stk.risers, e.2.wc = []) →
      (∀ e ∈ s.stk.regions, e.2.heldWrites = [] ∧ e.2.wiping = false) →
      ∃ t, exec .retentionEntryDone s = .next t ∧ t.aon.mode = some .retention ∧ t.aon.moving = false ∧ (∀ k < 5, (t.mc.hk.rail k).state = 3) ∧
        (∀ k < 8, (t.fab.fpll k).locked = false) ∧ (∀ k < 4, (t.eng.epll k).locked = false) ∧ t.stk.lines = s.stk.lines ∧ t.eng.threads = s.eng.threads ∧ t.fab.hands = s.fab.hands) ∧
    (takeOrder (.request 2) s.mc.orders = some rest → s.aon.mode = some .retention → s.aon.moving = false →
      exec .requestField s = .next { s with mc := { s.mc with orders := rest }, aon := { s.aon with moving := true } }) ∧
    (s.aon.mode = some .retention → s.aon.moving = true → ∃ t, exec .retentionExitDone s = .next t ∧ t.aon.mode = some .field ∧ t.aon.moving = false ∧
      (∀ k < 8, (t.fab.fpll k).locked = (s.fab.fpll k).running) ∧ (∀ k < 5, (t.mc.hk.rail k).state = 2) ∧ t.stk = s.stk)

/-- R538–R542: entry to Limp by the dealer or after 256 rounds at step 15 holds every running or waiting thread without its mark; REQUEST 2 lets held threads go on; an ordered REQUEST 5 enters Test with every I/O bank in its hold state. -/
def Obligations.LimpAndTestEntry : Prop :=
  ∀ (s : State) (rest : List Order), s.aon.moving = false →
    let held := fun (t : State) => t.aon.mode = some .limp ∧ t.mc.hk.limpArmed = false ∧
      (∀ p h, (s.eng.thread p h).ess = false → (s.eng.thread p h).state = .running ∨ (s.eng.thread p h).state = .waiting →
        (t.eng.thread p h).state = .held ∧ (t.eng.thread p h).heldState = (s.eng.thread p h).state ∧ (t.eng.thread p h).pc = (s.eng.thread p h).pc) ∧
      (∀ p h, (s.eng.thread p h).ess = true → t.eng.thread p h = s.eng.thread p h)
    (takeOrder (.request 4) s.mc.orders = some rest → s.aon.mode = some .field → ∃ t, exec .requestLimp s = .next t ∧ held t ∧ t.mc.orders = rest) ∧
    (s.mc.hk.limpArmed = true → s.aon.mode = some .field → ∃ t, exec .limpAutoEntry s = .next t ∧ held t) ∧
    (takeOrder (.request 2) s.mc.orders = some rest → s.aon.mode = some .limp → ∃ t, exec .requestField s = .next t ∧ t.aon.mode = some .field ∧
      (s.eng.threads.Pairwise (fun a b => a.1 < b.1) → ∀ p h, (s.eng.thread p h).state = .held → (t.eng.thread p h).state = (s.eng.thread p h).heldState ∧ (t.eng.thread p h).pc = (s.eng.thread p h).pc)) ∧
    (takeOrder (.request 5) s.mc.orders = some rest → s.aon.mode = some .field → ∃ t, exec .requestTest s = .next t ∧ t.aon.mode = some .test ∧ ∀ b, (t.fab.bank b).released = false)

/-- R36–R38, R40–R43, R245: a feed-domain reset takes the domain out of service until it has retrained; a die reset, by the MC or by the dealer's order, leaves every owned thread of the die STOPPED at its reset values, its kitty registers 0, and hand stores, instruction memories and stacked lines as they were, until it is released. -/
def Obligations.FeedAndDieResets : Prop :=
  ∀ s : State,
    let reset := fun (t : State) (d : Nat) => t.net.dieDown.contains d = true ∧
      (∀ p h, p < 512 → h < 8 → p / 256 = d → (s.eng.thread p h).state ≠ .unowned → (t.eng.thread p h).state = .stopped ∧ (t.eng.thread p h).pc = 0 ∧ (t.eng.thread p h).regs = []) ∧
      (∀ p k, p < 512 → k < 2048 → p / 256 = d → t.fab.kittyReg p k = 0) ∧ t.eng.imem = s.eng.imem ∧ t.fab.cfg = s.fab.cfg ∧ t.stk.lines = s.stk.lines
    (∀ d : Fin 7, s.stackHeld = true → ∃ t, exec (.feedDomainReset d) s = .next t ∧ t.net.feedDown.contains d.val = true ∧ t.net.dieDown = s.net.dieDown ∧ t.fab.cfg = s.fab.cfg) ∧
    (∀ d : Fin 7, s.net.feedDown.contains d.val = true → ∃ t, exec (.feedRetrainDone d) s = .next t ∧ t.net.feedDown = s.net.feedDown.filter (· ≠ d.val) ∧ t = { s with net := t.net }) ∧
    (∀ d : Fin 2, s.dieMayReset = true → ∃ t, exec (.dieReset d) s = .next t ∧ reset t d.val) ∧
    (∀ (d : Fin 2) (rest : List Order), s.dieMayReset = true → s.mc.orders = .dieReset d.val :: rest →
      ∃ t, exec .dieResetRequest s = .next t ∧ reset t d.val ∧ t.mc.orders = rest) ∧
    (∀ d : Fin 2, exec (.dieResetRelease d) s = .next { s with net := { s.net with dieDown := s.net.dieDown.filter (· ≠ d.val) } })

/-- R651, R652, R653, R658: an ordered test whose limits hold begins on TARGET with an empty log; a failing bit sends one packet on BIST_LOG and is entered, or counts as lost beyond 4,096; a read of the march expects the bit of the word's background, or its complement, and an entry that names no failing read changes nothing; an ordered ABORT aborts the running test with cause DEALER. -/
def Obligations.SelfTestRuns : Prop :=
  ∀ (s : State) (rest : List Order),
    (∀ lim : TestLimits, takeOrder .testStart s.mc.orders = some rest → s.clocksOn = true → s.mc.bist.state ≠ 1 → s.mc.bist.state ≠ 2 →
      400000 ≤ lim.clockKhz → lim.clockKhz ≤ 800000 → 1000 ≤ lim.vmMilli → lim.vmMilli ≤ 1100 →
      ∃ t, exec (.selfTestStart lim) s = .next t ∧ t.mc.orders = rest ∧ t.mc.bist.state = 1 ∧ t.mc.bist.runTarget = s.mc.bist.target ∧ t.mc.bist.runAlg = s.mc.bist.alg ∧
        t.mc.bist.log = [] ∧ t.mc.bist.lost = 0 ∧ t.mc.bist.started = s.aon.now ∧ t.mc.bist.record = s.mc.bist.record) ∧
    (∀ (lim : TestLimits), takeOrder .testStart s.mc.orders = some rest → s.clocksOn = true → targetOk s.mc.bist.target = true → s.mc.bist.state ≠ 1 → s.mc.bist.state ≠ 2 → lim.clockKhz < 400000 →
      (∀ l : List Byte, l.length = 32 → ((s.net.queue 40962).packPacket 2 l).isSome = true) →
      ∃ t, exec (.selfTestStart lim) s = .next t ∧ t.mc.bist.state = 2 ∧ t.mc.bist.cause = 2 ∧ leField t.mc.bist.record 8 8 = 0 ∧ byteAt t.mc.bist.record 7 = 3) ∧
    (takeOrder .testAbort s.mc.orders = some rest → s.mc.bist.state = 1 → s.mc.bist.aborting = false →
      exec .selfTestAbort s = .next { s with mc := { s.mc with orders := rest, bist := { s.mc.bist with aborting := true, cause := 1 } } }) ∧
    (∀ (e : FailEntry) (q : Queue), s.mc.bist.state = 1 → s.mc.bist.reads e = true → (s.net.queue 40962).packPacket 2 (leBytes 16 (failWord e s.mc.bist.runTarget).toNat) = some q →
      exec (.bistFailLog e) s = .next { s with
        net := s.net.setQueue 40962 q
        mc := { s.mc with bist := { s.mc.bist with
          fails := sat32 (s.mc.bist.fails + 1)
          log := if s.mc.bist.log.length < 4096 then s.mc.bist.log ++ [failWord e s.mc.bist.runTarget] else s.mc.bist.log
          lost := if s.mc.bist.log.length < 4096 then s.mc.bist.lost else sat32 (s.mc.bist.lost + 1) } } }) ∧
    (∀ e : FailEntry, s.mc.bist.reads e = false → exec (.bistFailLog e) s = .next s) ∧
    (∀ (e : FailEntry) (a j : Nat), a = e.addr.toNat → j = e.bitNo.toNat → s.mc.bist.reads e = true →
      let plain := match bits s.mc.bist.runAlg 3 2 with | 0 => false | 1 => decide ((j + a) % 2 = 1) | 2 => decide (j % 2 = 1) | _ => decide (a % 2 = 1)
      let op := ((marchOps (bits s.mc.bist.runAlg 1 0)).getD e.element.toNat []).getD e.op.toNat .w0
      (op = .r0 ∨ op = .r1) ∧ e.expected = (if op = .r0 then plain else !plain) ∧ e.observed ≠ e.expected)

/-- R654–R656, R659, R660: a march that completes, or that has been aborted, ends with its record and verdict; STATE reads FILLING, then DONE; a TILE that fails is recorded in the fallow map; an ordered RECLAIM whose checks pass removes the plot's entry. -/
def Obligations.SelfTestEndsAndReclaims : Prop :=
  ∀ (s : State),
    (∀ (ops elems : Nat) (sig : Word) (q : Queue), s.mc.bist.state = 1 → ops ≤ s.mc.bist.expected → (s.mc.bist.aborting = true ∨ ops = s.mc.bist.expected) →
      elems = elemsDone (targetWords (tgKind s.mc.bist.runTarget)) ops (marchElems (bits s.mc.bist.runAlg 1 0)) →
      (s.net.queue 40962).packPacket 2 (s.mc.bist.completion ops sig) = some q →
      ∃ t, exec (.selfTestEnd ops elems sig) s = .next t ∧ t.mc.bist.state = 2 ∧ t.mc.bist.record = s.mc.bist.completion ops sig ∧ t.mc.bist.ended = s.aon.now ∧
        (∀ k < 8, tget 0 t.mc.bist.qgrant k = if tget 0 s.mc.bist.qgrant k = s.mc.bist.runTarget then 0 else tget 0 s.mc.bist.qgrant k) ∧
        byteAt t.mc.bist.record 7 = (if ops = s.mc.bist.expected then (if s.mc.bist.fails = 0 then 1 else 2) else 3) ∧
        (tgKind s.mc.bist.runTarget = 1 → ops = s.mc.bist.expected → 0 < s.mc.bist.fails →
          t.nv.map.failedTiles.contains (256 * tgDie s.mc.bist.runTarget + tgIndex s.mc.bist.runTarget) = true)) ∧
    (s.mc.bist.state = 2 → exec .selfTestRestoreDone s = .next { s with mc := { s.mc with bist := { s.mc.bist with state := 3 } } }) ∧
    (∀ (p : Nat) (rest : List Order), takeReclaim s.mc.orders = some (p, rest) → s.aon.mode = some .test → s.plotFallowed p = true →
      ∃ t, exec (.reclaim [] true) s = .next t ∧ t.mc.bist.reclaimResult = 1 ∧ t.plotFallowed p = false ∧ (∀ h < 8, (t.fab.hand p h).state = .empty) ∧ t.mc.orders = rest)

/-- R662, R663: IDCODE, SAMPLE/PRELOAD and BYPASS act in every mode; EXTEST, HIGHZ, CLAMP, EXTEST_PULSE and EXTEST_TRAIN govern the balls only in no mode, Fallow, Recovery, Zeroised and Test. -/
def Obligations.BoundaryScan : Prop :=
  ∀ s : State, s.aon.powered = true →
    let load := fun (ir : Byte) (dr : Nat) => { s.mc.jtag with ir := ir, dr := dr }
    let others := fun (t : State) => t = { s with mc := { s.mc with jtag := t.mc.jtag }, aon := { s.aon with free := t.aon.free } }
    let allowed := s.aon.mode = none ∨ s.aon.mode = some .fallow ∨ s.aon.mode = some .recovery ∨ s.aon.mode = some .zeroised ∨ s.aon.mode = some .test
    let governs := fun (c : Instr) (ir : Byte) => ∃ t, exec c s = .next t ∧ others t ∧ t.mc.jtag.ir = ir ∧ (allowed → t.scanDrives = some ir) ∧ (¬allowed → t.scanDrives = none ∧ t.mc.jtag.dr = 0)
    exec .idcode s = .next { s with mc := { s.mc with jtag := load 0x01 0x1C512153 } } ∧
    exec .bypass s = .next { s with mc := { s.mc with jtag := load 0xFF 0 } } ∧
    (∀ cells, ∃ t, exec (.samplePreload cells) s = .next t ∧ others t ∧ t.mc.jtag.ir = 0x02 ∧ t.mc.jtag.boundary = cells ∧ t.scanDrives = none) ∧
    governs .extest 0x03 ∧ governs .highz 0x04 ∧ governs .clamp 0x05 ∧ governs .extestPulse 0x06 ∧ governs .extestTrain 0x07

/-- R381, R664: MEMACC outside MANUFACTURE and SERVICE, or on a sealed region, is answered PROTECTED or with a refusal that ranks above it and changes no line; DEBUG acts as BYPASS outside Test mode in MANUFACTURE and SERVICE, and there, where the spec gives neither its addresses nor its effect, the model refuses it. -/
def Obligations.JtagMemoryAccessAndDebug : Prop :=
  ∀ s : State, s.aon.powered = true →
    (∀ (we : Bool) (p : PlotIx) (line : BitVec 19) (data : BitVec 512) (upset : BitVec 640), s.lineBusy p.val line.toNat .jtag = false → (s.stk.riser p.val).waiting = [] →
      ((s.nv.life ≠ .manufacture ∧ s.nv.life ≠ .service) ∨ (s.stk.region p.val (lineRegion line.toNat)).isSealed = true ∧ (s.stk.regionOwner p.val (lineRegion line.toNat)).isSome = true) →
      ∃ t, exec (.memacc we p line data upset) s = .next t ∧ t.mc.jtag.resp ≠ 0 ∧ t.stk.lines = s.stk.lines ∧ t.stk.log = s.stk.log) ∧
    (∀ (p : PlotIx) (line : BitVec 19) (data : BitVec 512), s.lineBusy p.val line.toNat .jtag = false → s.refusals p.val line.toNat .jtag none true = [] →
      (s.stk.riser p.val).waiting = [] → (s.stk.riser p.val).wc = [] → (s.stk.region p.val (lineRegion line.toNat)).isSealed = false →
      ∃ t, exec (.memacc true p line data 0) s = .next t ∧ t.mc.jtag.resp = 0 ∧ t.stk.line (lineId p.val line.toNat) = openLine (lineId p.val line.toNat) data ∧
        ∀ k, k ≠ lineId p.val line.toNat → t.stk.line k = s.stk.line k) ∧
    (∀ addr we v, ¬(s.aon.mode = some .test ∧ (s.nv.life = .manufacture ∨ s.nv.life = .service)) →
      exec (.debug addr we v) s = .next { s with mc := { s.mc with jtag := { s.mc.jtag with ir := 0x11, dr := 0 } } }) ∧
    (∀ addr we v, s.aon.mode = some .test → s.nv.life = .manufacture ∨ s.nv.life = .service → exec (.debug addr we v) s = .refused .debugTarget)

/-! ## Fabric and queues -/

/-- R112–R114, R119: at a boundary of a clocked plot the edges of the running slot's dwell have passed, and the next slot in order, or the slot of a call accepted at least two edges before, starts with the word that the table holds; a hand runs in it only when the word names it, it is LIVE, its owner is the slot's owner, its plot is not fallowed, and in Limp it is marked. -/
def Obligations.SlotBoundaryStartsNextSlot : Prop :=
  ∀ (p : PlotIx) (s : State), s.plotClocked p.val = true → (s.fab.yoked p.val = false ∨ p.val < 256) →
    (s.fab.plot p.val).engCalls = [] → (s.fab.plot (pairOf p.val)).engCalls = [] →
    let x := s.fab.plot p.val
    let m := x.start + dwellOf x.word
    ∃ t, exec (.slotBoundary p) s = .next t ∧ t = { s with fab := t.fab, aon := { s.aon with free := t.aon.free } } ∧
      t.fab.slots = s.fab.slots ∧ t.fab.cfg = s.fab.cfg ∧ (t.fab.plot p.val).start = m ∧ (t.fab.plot p.val).now = 0 ∧ (t.fab.plot p.val).word = s.fab.slot p.val (t.fab.plot p.val).cur ∧
      (x.call = none → (t.fab.plot p.val).cur = (x.cur + 1) % x.len ∧ (t.fab.plot p.val).call = none) ∧
      (∀ c, x.call = some c → c.edge + 2 ≤ m → (t.fab.plot p.val).cur = c.slot ∧ (t.fab.plot p.val).call = none) ∧
      (∀ c, x.call = some c → m < c.edge + 2 → (t.fab.plot p.val).cur = (x.cur + 1) % x.len ∧ (t.fab.plot p.val).call = some c) ∧
      (∀ h, (t.fab.plot p.val).live = some h → (t.fab.plot p.val).word.getLsbD 15 = false ∧ bits (t.fab.plot p.val).word 10 8 = h ∧
        (t.fab.hand p.val h).state = .live ∧ (slotOwner (t.fab.plot p.val).word).isSome = true ∧ slotOwner (t.fab.plot p.val).word = t.fab.handOwner p.val h ∧
        s.plotFallowed p.val = false ∧ (s.limp = true → (t.fab.hand p.val h).ess = true))

/-- R117, R118, R123: at an edge at which hand h is live and its call port asks for a slot, the sequencer refuses the call when CALL_SLOT is not below LEN, when that slot is unowned, or when its owner is not the owner of hand h, and the refused-call counter counts it; it accepts the call when none is outstanding, and otherwise the lost-call counter counts it, but for a call of a higher plot at the same edge, which is lost instead. Without CALL_V nothing is called. -/
def Obligations.HandCallOutcomes : Prop :=
  ∀ (p : PlotIx) (h : Nat) (slot : BitVec 6) (edge : Nat) (s u : State), s.atEdge p.val edge = some (u, h) →
    let x := u.fab.plot p.val
    let q := u.fab.seqPlot p.val
    let asked := x.field 4166 1 = 1 ∧ x.field 4160 6 = slot.toNat
    let legal := slot.toNat < u.fab.lenOf q ∧ slotOwner (u.fab.slot q slot.toNat) ≠ none ∧ slotOwner (u.fab.slot q slot.toNat) = u.fab.handOwner p.val h
    let mine : Call := { slot := slot.toNat, edge := edge, port := p.val }
    let plotsOnly := fun (t : State) (ps : List Nat) => t = { u with fab := { u.fab with plots := t.fab.plots } } ∧ ∀ j, ps.contains j = false → t.fab.plot j = u.fab.plot j
    (asked → ¬legal → ∃ t, exec (.handCall p slot edge) s = .next t ∧ plotsOnly t [p.val] ∧
      t.fab.plot p.val = { x.done 4166 with refusedCalls := min 4294967295 (x.refusedCalls + 1) }) ∧
    (asked → legal → (u.fab.plot q).call = none → ∃ t, exec (.handCall p slot edge) s = .next t ∧ plotsOnly t [p.val, q] ∧ (t.fab.plot q).call = some mine ∧
      (t.fab.plot p.val).lostCalls = x.lostCalls ∧ (t.fab.plot p.val).refusedCalls = x.refusedCalls) ∧
    (∀ c, asked → legal → (u.fab.plot q).call = some c → ¬(c.edge = edge ∧ p.val < c.port) → ∃ t, exec (.handCall p slot edge) s = .next t ∧ plotsOnly t [p.val] ∧
      t.fab.plot p.val = { x.done 4166 with lostCalls := min 4294967295 (x.lostCalls + 1) }) ∧
    (∀ c, asked → legal → (u.fab.plot q).call = some c → c.edge = edge → p.val < c.port → ∃ t, exec (.handCall p slot edge) s = .next t ∧ plotsOnly t [p.val, q, c.port] ∧
      (t.fab.plot q).call = some mine ∧ (t.fab.plot c.port).lostCalls = min 4294967295 ((u.fab.plot c.port).lostCalls + 1)) ∧
    (x.field 4166 1 = 0 → exec (.handCall p slot edge) s = .next u)

/-- R105–R107: an ordered GO, PARK or RESTART of a hand in a state that the command fits, where the plot's clock has edges and runs or is ungated by the command: GO starts a SOWN hand from its initial values and cleared arrival registers and lets a PARKED one go on with its bank, PARK stops a LIVE hand, RESTART starts a LIVE or PARKED hand again. Owners, stores and tables stay. Where no edge comes the order waits. -/
def Obligations.HandCommands : Prop :=
  ∀ (p : PlotIx) (h : HandIx) (s : State) (rest : List Order),
    let q := s.fab.seqPlot p.val
    let x := s.fab.hand p.val h.val
    let edges := fun (cmd : Nat) => s.plotEdges q = true ∧ ((s.fab.plot q).gated = false ∨ (s.fab.handCmd p.val h.val cmd).namesLive q = true)
    let kept := fun (t : State) => t = { s with mc := { s.mc with orders := rest }, fab := t.fab, aon := { s.aon with free := t.aon.free } } ∧
      t.fab.cfg = s.fab.cfg ∧ t.fab.slots = s.fab.slots ∧ (t.fab.hand p.val h.val).own = x.own
    let fresh := fun (t : State) => (t.fab.hand p.val h.val).state = .live ∧ (t.fab.hand p.val h.val).ff = initBank (s.fab.storeOf p.val h.val) ∧ (t.fab.hand p.val h.val).arrival = 0
    (takeOrder (.hand p.val h.val 1) s.mc.orders = some rest → edges 1 →
      (x.state = .sown → ∃ t, exec (.go p h) s = .next t ∧ kept t ∧ fresh t) ∧
      (x.state = .parked → ∃ t, exec (.go p h) s = .next t ∧ kept t ∧ (t.fab.hand p.val h.val).state = .live ∧ (t.fab.hand p.val h.val).ff = x.ff)) ∧
    (takeOrder (.hand p.val h.val 2) s.mc.orders = some rest → edges 2 → x.state = .live →
      ∃ t, exec (.park p h) s = .next t ∧ kept t ∧ (t.fab.hand p.val h.val).state = .parked) ∧
    (takeOrder (.hand p.val h.val 3) s.mc.orders = some rest → edges 3 → x.state = .live ∨ x.state = .parked →
      ∃ t, exec (.handRestart p h) s = .next t ∧ kept t ∧ fresh t) ∧
    (s.plotEdges q = false → exec (.go p h) s = .next s ∧ exec (.park p h) s = .next s ∧ exec (.handRestart p h) s = .next s)

/-- R76–R79: a contention sensor that fires at an edge still to come of the running slot of a live hand that drives the wire freezes that hand, leaves its store as it was and the rest of its slot idle; its drivers on the wire stay disabled until the slot ends; a hand of the paired plot that does not drive the wire keeps its state, and every owner. -/
def Obligations.ContentionFreezes : Prop :=
  ∀ (p : PlotIx) (h : HandIx) (kind : Fin 3) (rowcol pos : Fin 16) (track : Fin 32) (drivers : BitVec 5) (edge : Nat) (s : State),
    let x := s.fab.plot p.val
    let pos' := if kind.val = 2 then pos.val else 0
    let tr := if kind.val = 2 then track.val else track.val % 16
    let q := pairOf p.val
    s.liveHand p.val = some h.val → s.fab.drivesWire p.val h.val kind.val rowcol.val pos' tr = true →
    s.fab.edgeOf p.val < edge → edge ≤ x.start + dwellOf x.word →
    ∃ t, exec (.contention p h kind rowcol pos track drivers edge) s = .next t ∧
      t = { s with fab := t.fab, net := t.net, seats := t.seats, aon := { s.aon with free := t.aon.free } } ∧
      (t.fab.hand p.val h.val).state = .frozen ∧ t.fab.cfg = s.fab.cfg ∧ (∀ j g, (t.fab.hand j g).own = (s.fab.hand j g).own) ∧
      (t.fab.plot p.val).idleRest = true ∧ (t.fab.plot p.val).disabled.contains (wireNo kind.val rowcol.val pos' tr) = true ∧
      (∀ g < 8, s.fab.drivesWire q g kind.val rowcol.val pos' tr = false ∨ kind.val ≠ 2 → (t.fab.hand q g).state = (s.fab.hand q g).state)

/-- R146, R149, R126: the patrol advances by one word and never changes a stored configuration bit; a bond group's failure is spared at the slot boundary and recorded in the fallow map; the end of a wipe lets the hand be sown. -/
def Obligations.PatrolBondsAndWipes : Prop :=
  ∀ s : State,
    (∀ upsets, s.clocksOn = true → ∃ t, exec (.configPatrol upsets) s = .next t ∧ t.fab.patrol = (s.fab.patrol + 1) % 368640 ∧ t.fab.cfg = s.fab.cfg ∧ t.nv = s.nv ∧ t.eng = s.eng ∧ t.stk = s.stk) ∧
    (∀ (p : PlotIx) (g : Fin 11520) (b : BitVec 8), s.clocksOn = true → (s.fab.plot p.val).bondsDue.find? (fun b => b.1 = g.val) = some (g.val, b) →
      ∃ t, exec (.bondSpared p g) s = .next t ∧ tget [] t.nv.map.bonds p.val = g.val :: tget [] s.nv.map.bonds p.val ∧ t.nv = { s.nv with map := { s.nv.map with bonds := t.nv.map.bonds } } ∧
        (t.fab.plot p.val).bondsDue = (s.fab.plot p.val).bondsDue.filter (fun b => b.1 != g.val) ∧ t.fab.hands = s.fab.hands) ∧
    (∀ (p : PlotIx) (h : HandIx), ∃ t, exec (.handWipeDone p h) s = .next t ∧ t = { s with fab := { s.fab with hands := t.fab.hands } } ∧
      t.fab.hand p.val h.val = { s.fab.hand p.val h.val with wiping := false } ∧ ∀ j g, 8 * j + g ≠ 8 * p.val + h.val → t.fab.hand j g = s.fab.hand j g)

/-- R288, R521, R522, R525: a running PLL of a powered stack reaches lock; a group with nothing ungated and no turn pending stops, and so does an engine PLL with no engine ungated and no transfer outstanding; a WAIT that includes TIMER starts its engine PLL. -/
def Obligations.PllsLockStopAndStart : Prop :=
  ∀ s : State, s.clocksOn = true →
    (∀ k : Fin 8, (s.fab.fpll k.val).running = true → ∃ t, exec (.pllLock (.fabric k)) s = .next t ∧ t = { s with fab := { s.fab with fplls := t.fab.fplls } } ∧
      t.fab.fpll k.val = { s.fab.fpll k.val with locked := true } ∧ ∀ j, j ≠ k.val → t.fab.fpll j = s.fab.fpll j) ∧
    (∀ k : Fin 4, (s.eng.epll k.val).running = true → ∃ t, exec (.pllLock (.engine k)) s = .next t ∧ t = { s with eng := { s.eng with eplls := t.eng.eplls } } ∧
      t.eng.epll k.val = { s.eng.epll k.val with locked := true }) ∧
    (∀ k : Fin 128, (s.lnk.quad k.val).pllRunning = true → ∃ t, exec (.pllLock (.quad k)) s = .next t ∧ t = { s with lnk := { s.lnk with quads := t.lnk.quads } } ∧
      t.lnk.quad k.val = { s.lnk.quad k.val with pllLocked := true }) ∧
    (∀ g : Fin 8, s.pllTurns = [] → (∀ p < 512, (s.fab.fpll (fpllOf p)).group = g.val → (s.fab.plot p).gated = true) → ∃ t, exec (.pllGroupStop g) s = .next t ∧ t = { s with fab := { s.fab with fplls := t.fab.fplls } } ∧
      ∀ k < 8, (s.fab.fpll k).group = g.val → (t.fab.fpll k).running = false ∧ (t.fab.fpll k).locked = false) ∧
    (∀ k : Fin 4, (∀ p < 512, epllOf p = k.val → s.engineIdle p = true) → ∃ t, exec (.epllStop k) s = .next t ∧ (t.eng.epll k.val).running = false ∧ t.fab = s.fab ∧ t.nv = s.nv) ∧
    (∀ (p : PlotIx) (h : HandIx) (w : WaitRec), (s.eng.thread p.val h.val).state = .waiting → (s.eng.thread p.val h.val).waitRec = some w → w.mask.testBit 5 = true →
      (s.eng.epll (epllOf p.val)).running = false → (s.eng.thread p.val h.val).tcmp ≤ s.aon.now + 20000 →
      ∃ t, exec (.epllTimerStart p h) s = .next t ∧ (t.eng.epll (epllOf p.val)).running = true ∧ (t.eng.epll (epllOf p.val)).locked = false ∧ t.fab = s.fab ∧ t.eng.threads = s.eng.threads)

/-- R154, R157–R160, R162, R165: at an edge with a hand of the memory's owner live, a write that the port captured, with the other port idle, stores the element; a captured read presents the element read, at once without the output register; and the end of a clear opens the memory. That the edges of a clock pass together up to the edge of the row is the model's choice (log entry 105). -/
def Obligations.BlockMemoryPorts : Prop :=
  (∀ (p : PlotIx) (k : Fin 64) (portB : Bool) (edge h : Nat) (s u : State), s.atEdge p.val edge = some (u, h) → bmOpen u p.val h k.val = true →
    let m := u.fab.bm p.val k.val
    let x := u.fab.plot p.val
    let b := bmPort k.val portB
    let others := fun (t : State) => ∀ j, j ≠ 64 * p.val + k.val → tget ({} : Bm) t.fab.bms j = tget {} u.fab.bms j
    (∀ w : BmW, x.bmWrites k.val portB = some w → x.bmWrites k.val (!portB) = none → portWrites m portB = true →
      ∃ t, exec (.bmWrite ⟨p, edge⟩ k portB w none) s = .next t ∧ t = { u with fab := t.fab } ∧ others t ∧ (t.fab.bm p.val k.val).bits = (m.write (bmWidth m portB) w).bits ∧
        t.fab.cfg = u.fab.cfg ∧ t.fab.hands = u.fab.hands) ∧
    (∀ addr, x.field b 2 = 1 → x.field (b + 10) 15 = addr → x.bmWrites k.val (!portB) = none → portReads m portB = true → (if portB then bmOregB m.word else bmOregA m.word) = false →
      ∃ t, exec (.bmRead ⟨p, edge⟩ k portB addr none 0) s = .next t ∧ others t ∧ (t.fab.bm p.val k.val).bits = m.bits ∧ t.fab.cfg = u.fab.cfg ∧ t.fab.hands = u.fab.hands ∧
        (if portB then (t.fab.bm p.val k.val).doutB else (t.fab.bm p.val k.val).doutA) = (m.readElem (bmWidth m portB) addr).1)) ∧
  ∀ (p : PlotIx) (k : Fin 64) (s : State), ∃ t, exec (.bmClearDone p k) s = .next t ∧ t = { s with fab := { s.fab with bms := t.fab.bms } } ∧
    (∀ j, j ≠ 64 * p.val + k.val → tget ({} : Bm) t.fab.bms j = tget {} s.fab.bms j) ∧ t.fab.bm p.val k.val = { s.fab.bm p.val k.val with clearing := false }

/-- R142, R143: at an edge with hand h live, a captured write to a block of its seat puts the enabled bytes into the register, and a captured read takes the value from before a write of the same edge for the port to present; an access to another block changes no register, is counted, and reads 0. -/
def Obligations.KittyPorts : Prop :=
  ∀ (p : PlotIx) (reg : BitVec 11) (edge h : Nat) (s u : State), s.atEdge p.val edge = some (u, h) →
    let x := u.fab.plot p.val
    let r := reg.toNat
    (∀ (data : Word) (be : BitVec 4), x.writesKitty r data be = true →
      (kittyAllowed u p.val h r = true → ∃ t, exec (.kittyWrite ⟨p, edge⟩ reg data be) s = .next t ∧ t.fab.kittyReg p.val r = mergeWord (u.fab.kittyReg p.val r) data be ∧
        (∀ j, j ≠ 2048 * p.val + r → tget 0 t.fab.kitty j = tget 0 u.fab.kitty j) ∧ t.fab.hands = u.fab.hands ∧
        t.fab.plot p.val = { x.done 4150 with kittyLast := some { reg := r, old := u.fab.kittyReg p.val r, data := data, be := be } }) ∧
      (kittyAllowed u p.val h r = false → ∃ t, exec (.kittyWrite ⟨p, edge⟩ reg data be) s = .next t ∧ t.fab.kitty = u.fab.kitty ∧ t.fab.hands = u.fab.hands ∧
        t.fab.plot p.val = { x.done 4150 with kittyRefusals := min 4294967295 (x.kittyRefusals + 1) })) ∧
    (x.field 4096 11 = r → ∃ t, exec (.kittyRead ⟨p, edge⟩ reg) s = .next t ∧ t.fab.kitty = u.fab.kitty ∧ t.fab.hands = u.fab.hands ∧
      (kittyAllowed u p.val h r = false → (t.fab.plot p.val).kittyNext = 0) ∧
      (kittyAllowed u p.val h r = true → (∀ w, x.kittyLast = some w → w.reg = r → (t.fab.plot p.val).kittyNext = w.old) ∧
        ((∀ w, x.kittyLast = some w → w.reg ≠ r) → (t.fab.plot p.val).kittyNext = u.fab.kittyReg p.val r)))

/-- R202, R203, R205, R207, R209, R212, R229: at an edge with hand h live, a captured push with credit appends its word to the open packet and takes one credit; one without credit rewinds the packet with cause NOCREDIT, which QO_RW shows; a last word commits the packet, which is then on its way to the store, and is charged the rest of its last page; ABORT rewinds the open packet and counts it under cause 0. -/
def Obligations.HandQueueProducers : Prop :=
  ∀ (p : PlotIx) (qp : Fin 8) (sel : Fin 4) (h q i edge : Nat) (s u : State), s.atEdge p.val edge = some (u, h) → u.fab.toScratch p.val h qp.val sel.val = false →
    u.net.prodQueue (epHand p.val h qp.val sel.val) = some (q, i) →
    let x := u.net.queue q
    let pr := x.prod i
    let port := u.fab.plot p.val
    let queueOnly := fun (t : State) (y : Plot) => t = { u with net := t.net, fab := u.fab.setPlot p.val y } ∧ ∀ j, j ≠ q → t.net.queue j = u.net.queue j
    (∀ (data : BitVec 256) (rank : BitVec 3), port.pushes qp.val sel.val data rank.toNat none = true → pr.discarding = false → pr.openWords.length ≤ qdMaxlen x.dir →
      (0 < pr.credits → ∃ t, exec (.qoPush ⟨p, edge⟩ qp sel data rank) s = .next t ∧ queueOnly t (port.done (512 * qp.val)) ∧
        ((t.net.queue q).prod i).openWords = pr.openWords ++ [data] ∧ ((t.net.queue q).prod i).credits = pr.credits - 1 ∧ (t.net.queue q).flight = x.flight) ∧
      (pr.credits ≤ 0 → ∃ t, exec (.qoPush ⟨p, edge⟩ qp sel data rank) s = .next t ∧ (∀ j, j ≠ q → t.net.queue j = u.net.queue j) ∧ ((t.net.queue q).prod i).openWords = [] ∧
        tget 0 (t.net.queue q).rw 4 = min 4294967295 (tget 0 x.rw 4 + 1) ∧ (t.fab.hand p.val h).qoRw = (u.fab.hand p.val h).qoRw ++ [4 * qp.val + sel.val])) ∧
    (∀ (data : BitVec 256) (rank : BitVec 3) (vb : BitVec 5), port.pushes qp.val sel.val data rank.toNat (some vb.toNat) = true → pr.discarding = false → pr.openWords.length ≤ qdMaxlen x.dir → 0 < pr.credits →
      ∃ t pkt, exec (.qoLast ⟨p, edge⟩ qp sel data rank vb) s = .next t ∧ queueOnly t (port.done (512 * qp.val)) ∧
        ((t.net.queue q).prod i).openWords = [] ∧ ((t.net.queue q).prod i).credits = pr.credits - 1 - ((64 - (pr.openWords.length + 1) % 64) % 64 : Nat) ∧
        (t.net.queue q).flight = x.flight ++ [.commit pkt] ∧ pkt.prod = i ∧ pkt.words.map (·.data) = pr.openWords ++ [data] ∧ pkt.rank = (if pr.openWords.isEmpty then rank.toNat else pr.openRank)) ∧
    (port.aborts qp.val sel.val = true → pr.openWords ≠ [] → ∃ t, exec (.qoAbort ⟨p, edge⟩ qp sel) s = .next t ∧ queueOnly t ((port.done (512 * qp.val + 268)).done (512 * qp.val)) ∧
      ((t.net.queue q).prod i).openWords = [] ∧ tget 0 (t.net.queue q).rw 0 = min 4294967295 (tget 0 x.rw 0 + 1) ∧ (t.net.queue q).flight = x.flight ++ [.rewind i pr.openWords.length])

/-- R204, R218, R219, R223, R231: at an edge with hand h live, a captured pop delivers the next word of the packet being read, or of the oldest visible packet of the highest rank; DROP gives up the rest of the packet being read; WMCLR is on its way to the store unless a crossing on the same edge wins. -/
def Obligations.HandQueueConsumers : Prop :=
  ∀ (p : PlotIx) (qp : Fin 8) (sel : Fin 4) (h q edge : Nat) (s u : State), s.atEdge p.val edge = some (u, h) → u.fab.toScratch p.val h qp.val sel.val = false →
    u.net.consQueue (epHand p.val h qp.val sel.val) = some q → (u.net.queue q).runs = true →
    let x := u.net.queue q
    let port := u.fab.plot p.val
    let queueOnly := fun (t : State) (n : Nat) => t = { u with net := t.net, fab := u.fab.setPlot p.val (port.done (512 * qp.val + n)) } ∧ ∀ j, j ≠ q → t.net.queue j = u.net.queue j
    (∀ pkt w l, port.pops qp.val sel.val = true → x.current = some pkt → pkt.words = w :: l →
      ∃ t, exec (.qiPop ⟨p, edge⟩ qp sel) s = .next t ∧ queueOnly t 271 ∧
        (t.net.queue q).wordsDelivered = (x.wordsDelivered + 1) % 281474976710656 ∧ (t.net.queue q).reading = (if l.isEmpty then none else some { pkt with words := l, popped := pkt.popped + 1 }) ∧
        (t.net.queue q).acts.length = x.acts.length + 1) ∧
    (∀ pkt, port.drops qp.val sel.val = true → x.reading = some pkt → ∃ t, exec (.qiDrop ⟨p, edge⟩ qp sel) s = .next t ∧ queueOnly t 272 ∧ (t.net.queue q).reading = none ∧
      (t.net.queue q).dropped = min 4294967295 (x.dropped + 1) ∧ (t.net.queue q).visible = x.visible) ∧
    (port.clears qp.val sel.val = true → (∃ t, exec (.qiWmclr ⟨p, edge⟩ qp sel false) s = .next t ∧ queueOnly t (273 + sel.val) ∧ (t.net.queue q).acts = x.acts ++ [.clear] ∧ (t.net.queue q).visible = x.visible) ∧
      ∃ t, exec (.qiWmclr ⟨p, edge⟩ qp sel true) s = .next t ∧ queueOnly t (273 + sel.val) ∧ t.net.queue q = x)

/-- R204, R206, R210, R214, R221, R227: in a running queue of a powered store the first that a producer has sent and not yet delivered arrives: a committed packet becomes visible and counts towards the level, a rewind's credits start back, and what other producers have sent stays on its way; the oldest credits reach their producer up to its share, and a pop's act lowers the level by its word. -/
def Obligations.QueueNetworkEvents : Prop :=
  ∀ (q : BitVec 16) (i : Fin 8) (s : State), s.storeOn q.toNat = true → (s.net.queue q.toNat).runs = true → ¬(40960 ≤ q.toNat ∧ q.toNat ≤ 40975) →
    let x := s.net.queue q.toNat
    let y := fun (t : State) => t.net.queue q.toNat
    let others := fun (t : State) => t = { s with net := t.net } ∧ ∀ j, j ≠ q.toNat → t.net.queue j = s.net.queue j
    (∀ (before : List Sent) (pkt : Pkt) (l : List Sent), x.flight = before ++ .commit pkt :: l → (∀ e ∈ before, e.from ≠ i.val) → pkt.prod = i.val →
      ∃ t, exec (.packetVisible ⟨q, i⟩) s = .next t ∧ others t ∧ (y t).flight = before ++ l ∧ (y t).visible = x.visible ++ [pkt] ∧ (y t).level = x.level + pkt.words.length ∧
        (qdWm x.dir ≠ 0 → x.level < qdWm x.dir → qdWm x.dir ≤ x.level + pkt.words.length → (y t).event = true ∧ (y t).crossings = min 65535 (x.crossings + 1))) ∧
    (∀ (before : List Sent) (n : Nat) (l : List Sent), x.flight = before ++ .rewind i.val n :: l → (∀ e ∈ before, e.from ≠ i.val) →
      (∃ t, exec (.rewindArrival ⟨q, i⟩) s = .next t ∧ others t ∧ y t = { x with flight := before ++ l, returns := x.returns ++ [(i.val, n)] }) ∧
      ∃ t, exec (.packetVisible ⟨q, i⟩) s = .next t ∧ others t ∧ y t = x) ∧
    (∀ (before : List (Nat × Nat)) (n : Nat) (l : List (Nat × Nat)), x.returns = before ++ (i.val, n) :: l → (∀ e ∈ before, e.1 ≠ i.val) →
      ∃ t, exec (.creditReturn ⟨q, i⟩) s = .next t ∧ others t ∧ ((y t).prod i.val).credits = min (qdShare x.dir : Int) ((x.prod i.val).credits + n) ∧ (y t).returns = before ++ l) ∧
    (∀ k n l, x.acts = .pop k n :: l → ∃ t, exec (.popActsAtStore q) s = .next t ∧ others t ∧ (y t).acts = l ∧ (y t).level = x.level - 1 ∧
      (y t).returns = if n = 0 then x.returns else x.returns ++ [(k, n)])

/-- R43, R195, R197, R233: an enabled queue whose path is in service is bound, each producer with its share less what its packets still hold as initial credits; the first narrow word of a queue word on BOOT_LOAD, given credit, opens the word. -/
def Obligations.BindingAndNarrowWords : Prop :=
  ∀ s : State,
    (∀ q : BitVec 16, let x := s.net.queue q.toNat
      s.clocksOn = true → qdEnable x.dir = true → x.bound = false → qdPack x.dir = false → s.net.feedDown = [] → s.net.dieDown = [] →
      ∃ t, exec (.queueBindDone q) s = .next t ∧ t = { s with net := t.net } ∧ (t.net.queue q.toNat).bound = true ∧
        (∀ i ≤ qdNprod x.dir, ((t.net.queue q.toNat).prod i).credits = (qdShare x.dir : Int) - x.heldWords i - (x.prod i).openWords.length ∧ ((t.net.queue q.toNat).prod i).openWords = (x.prod i).openWords) ∧
        (t.net.queue q.toNat).visible = x.visible ∧ ∀ j, j ≠ q.toNat → t.net.queue j = s.net.queue j) ∧
    (∀ data : Word, let x := s.net.queue 40960
      s.mcUp = true → x.runs = true → tget [] s.net.narrow 0 = [] → (x.prod 0).discarding = false → 0 < (x.prod 0).credits → (x.prod 0).openWords.length ≤ qdMaxlen x.dir →
      ∃ t, exec (.narrowWordPush 0 data none) s = .next t ∧ t = { s with net := t.net } ∧ ((t.net.queue 40960).prod 0).openWords = (x.prod 0).openWords ++ [BitVec.ofNat 256 data.toNat] ∧
        ((t.net.queue 40960).prod 0).credits = (x.prod 0).credits - 1 ∧ tget [] t.net.narrow 0 = [data])

/-- R172, R174–R176, R179–R182: the oldest request of a hand's channel, with none older on the plot's other channels, to a word of its seat that is not being filled is performed alone and answered: a write stores its bytes in its lanes, rotated when it is partial, and no other byte; a read changes none; a word that the seat does not own is answered PROTECTED and changes nothing. The fills of a block and of the secure partition end. -/
def Obligations.ScratchpadRequests : Prop :=
  ∀ (p : PlotIx) (h : HandIx) (qp : Fin 8) (r : ScrReq) (rest : List ScrReq) (s : State),
    let k := handChanIx p.val h.val qp.val
    let c := s.net.handChanAt k
    let req := r.word
    let w := srWaddr req
    let replied := fun (t : State) (rep : BitVec 256) => (t.net.handChanAt k).reqs = rest ∧ (t.net.handChanAt k).reps = c.reps ++ [rep]
    (s.clocksOn = true → c.reqs = r :: rest → r.done = none → (∀ x ∈ rest, x.done = none) → c.skip = 0 → s.feedCut p.val = false → s.olderOnPort k r = false →
      (srOp req = 1 → s.net.scr.allows (s.fab.handOwner p.val h.val) w = true → s.net.scr.held w = false → srFull req = true ∨ s.net.scr.errAt w = 0 →
        ∃ t, exec (.scratchWrite (.hand p h qp) .alone 0) s = .next t ∧ t = { s with net := t.net } ∧ replied t (scratchReply req 0 false []) ∧
          (∀ a, a < 16 * w ∨ 16 * w + 16 ≤ a → t.net.scr.byte a = s.net.scr.byte a) ∧
          (srFull req = true → ∀ i < 16, t.net.scr.byte (16 * w + i) = srByte req i) ∧
          (srFull req = false → (∀ i < srLen req, t.net.scr.byte (16 * w + (srRot req + i) % 16) = srByte req i) ∧
            ∀ j < 16, (∀ i < srLen req, j ≠ (srRot req + i) % 16) → t.net.scr.byte (16 * w + j) = s.net.scr.byte (16 * w + j))) ∧
      (srOp req = 0 → s.net.scr.allows (s.fab.handOwner p.val h.val) w = true → s.net.scr.held w = false → s.net.scr.errAt w = 0 →
        ∃ t, exec (.scratchRead (.hand p h qp) .alone 0) s = .next t ∧ t = { s with net := t.net } ∧ t.net.scr = s.net.scr ∧
          replied t (scratchReply req 0 false ((lanesOf (srFull req) (srRot req) (srLen req)).map fun i => s.net.scr.lane w i))) ∧
      (s.net.scr.allows (s.fab.handOwner p.val h.val) w = false → srOp req = 1 →
        ∃ t, exec (.scratchWrite (.hand p h qp) .alone 0) s = .next t ∧ t.net.scr = s.net.scr ∧ replied t (scratchReply req 3 false []))) ∧
    (∀ b : Fin 992, s.mc.heldFill = [] →
      exec (.scratchBlockFillDone b) s = .next { s with net := { s.net with scr := { s.net.scr with filling := s.net.scr.filling.filter (· ≠ b.val) } } }) ∧
    exec .securePartitionFillDone s = .next { s with net := { s.net with scr := { s.net.scr with secFilling := false } } }

/-! ## Engine arithmetic, control flow, memory -/

/-- R248, R272: a thread that executes a three-register operation retires with its result in rd, which is discarded when rd is g0, and goes on at pc + 4; no other register, thread, memory or queue changes, but for the record of a tagged instruction. -/
def Obligations.EngineThreeRegister : Prop :=
  ∀ (p : PlotIx) (h : HandIx) (rd ra rb : RegIx) (s : State),
    let x := s.eng.thread p.val h.val
    let a := x.reg ra
    let b := x.reg rb
    let gives := fun (f : Alu3) (c : Instr) (v : Word) => s.executes p.val h.val (.alu f rd ra rb) →
      ∃ t, exec c s = .next t ∧ registersOnly s t p.val h.val { x.setReg rd v with pc := x.pc + 4 }
    gives .add (.add p h rd ra rb) (a + b) ∧ gives .sub (.sub p h rd ra rb) (a - b) ∧ gives .and (.and p h rd ra rb) (a &&& b) ∧
      gives .or (.or p h rd ra rb) (a ||| b) ∧ gives .xor (.xor p h rd ra rb) (a ^^^ b) ∧
      gives .slt (.slt p h rd ra rb) (if a.toInt < b.toInt then 1 else 0) ∧ gives .sltu (.sltu p h rd ra rb) (if a.toNat < b.toNat then 1 else 0) ∧
      gives .sll (.sll p h rd ra rb) (a <<< (b.toNat % 32)) ∧ gives .srl (.srl p h rd ra rb) (a >>> (b.toNat % 32)) ∧
      gives .sra (.sra p h rd ra rb) (a.sshiftRight (b.toNat % 32)) ∧ gives .mul (.mul p h rd ra rb) (a * b) ∧
      gives .mulh (.mulh p h rd ra rb) ((a.signExtend 64 * b.signExtend 64).extractLsb' 32 32) ∧
      gives .mulhu (.mulhu p h rd ra rb) ((a.setWidth 64 * b.setWidth 64).extractLsb' 32 32)

/-- R272, R273: the immediate, shift, bit-field and bit-counting operations, CRC and HASH retire with their results in rd, HASH in rd and rd + 1, and go on at pc + 4; no other register, thread, memory or queue changes, but for the record of a tagged instruction. -/
def Obligations.EngineImmediatesAndBits : Prop :=
  ∀ (p : PlotIx) (h : HandIx) (rd ra rb : RegIx) (imm : BitVec 16) (sh pos len : BitVec 5) (n : Fin 4) (s : State),
    let x := s.eng.thread p.val h.val
    let a := x.reg ra
    let bits8 := fun (c : Word) => (List.range 8).foldl (fun (c : Word) _ => if c.getLsbD 0 then (c >>> 1) ^^^ 0x82F63B78 else c >>> 1) c
    let gives := fun (i : EngInsn) (c : Instr) (v : Word) => s.executes p.val h.val i →
      ∃ t, exec c s = .next t ∧ registersOnly s t p.val h.val { x.setReg rd v with pc := x.pc + 4 }
    gives (.imm .addi rd ra imm) (.addi p h rd ra imm) (a + imm.signExtend 32) ∧ gives (.imm .andi rd ra imm) (.andi p h rd ra imm) (a &&& imm.setWidth 32) ∧
      gives (.imm .ori rd ra imm) (.ori p h rd ra imm) (a ||| imm.setWidth 32) ∧ gives (.imm .xori rd ra imm) (.xori p h rd ra imm) (a ^^^ imm.signExtend 32) ∧
      gives (.lui rd imm) (.lui p h rd imm) (BitVec.ofNat 32 (65536 * imm.toNat)) ∧
      gives (.shift .slli rd ra sh) (.slli p h rd ra sh) (a <<< sh.toNat) ∧ gives (.shift .srli rd ra sh) (.srli p h rd ra sh) (a >>> sh.toNat) ∧
      gives (.shift .srai rd ra sh) (.srai p h rd ra sh) (a.sshiftRight sh.toNat) ∧ gives (.shift .rori rd ra sh) (.rori p h rd ra sh) (a.rotateRight sh.toNat) ∧
      (∃ v : Word, v.toNat ≤ 32 ∧ a.toNat < 2 ^ (32 - v.toNat) ∧ (v.toNat < 32 → 2 ^ (31 - v.toNat) ≤ a.toNat) ∧ gives (.clz rd ra) (.clz p h rd ra) v) ∧
      gives (.popc rd ra) (.popc p h rd ra) (BitVec.ofNat 32 ((List.range 32).filter fun i => a.getLsbD i).length) ∧
      gives (.crc n rd ra rb) (.crc p h rd ra rb n) ((List.range (n.val + 1)).foldl (fun c i => bits8 (c ^^^ ((x.reg rb >>> (8 * i)) &&& 0xFF))) a) ∧
      (∃ v : Word, (∀ i < 32, v.getLsbD i = (decide (i ≤ len.toNat) && a.getLsbD (pos.toNat + i))) ∧ gives (.bf false rd ra pos len) (.bfx p h rd ra pos len) v) ∧
      (∃ v : Word, (∀ i < 32, v.getLsbD i = if pos.toNat ≤ i ∧ i ≤ pos.toNat + len.toNat then a.getLsbD (i - pos.toNat) else (x.reg rd).getLsbD i) ∧
        gives (.bf true rd ra pos len) (.bfi p h rd ra pos len) v) ∧
      (s.executes p.val h.val (.hash rd ra) → ∃ (t : State) (m y : BitVec 64), exec (.hash p h rd ra) s = .next t ∧
        m = ((x.reg (rd + 1) ++ x.reg rd) ^^^ a.setWidth 64) * 0xa3c59ac2f11d4b97 ∧ y = m ^^^ (m >>> 31) ∧
        registersOnly s t p.val h.val { (x.setReg rd (y.setWidth 32)).setReg (rd + 1) (y.extractLsb' 32 32) with pc := x.pc + 4 })

/-- R272, R289, R290: jumps and branches go on where the rule says; JAL leaves pc + 4 in g31; a JR to a value that is no multiple of 4 traps ALIGN at the JR. TRAP takes the trap TRAP_INSN with its code and class 1 attention, and a reserved encoding the trap ILLEGAL with class 7 attention. -/
def Obligations.EngineControlFlow : Prop :=
  ∀ (p : PlotIx) (h : HandIx) (ra rb : RegIx) (off : BitVec 16) (far : BitVec 26) (s : State) (o : Nat), s.fab.handOwner p.val h.val = some o →
    let x := s.eng.thread p.val h.val
    let a := x.reg ra
    let b := x.reg rb
    let goes := fun (i : EngInsn) (c : Instr) (y : Thread) (pc : Word) => s.executes p.val h.val i →
      ∃ t, exec c s = .next t ∧ registersOnly s t p.val h.val { y with pc := pc }
    let branch := fun (f : BranchOp) (c : Instr) (holds : Prop) =>
      (holds → goes (.branch f ra rb off) c x (x.pc + 4 * off.signExtend 32)) ∧ (¬holds → goes (.branch f ra rb off) c x (x.pc + 4))
    goes (.j far) (.j p h far) x (x.pc + 4 * far.signExtend 32) ∧ goes (.jal far) (.jal p h far) (x.setReg 31 (x.pc + 4)) (x.pc + 4 * far.signExtend 32) ∧
      (a.toNat % 4 = 0 → goes (.jr ra) (.jr p h ra) x a) ∧
      (a.toNat % 4 ≠ 0 → s.executes p.val h.val (.jr ra) → ∃ t, exec (.jr p h ra) s = .next t ∧
        trappedWith s t p.val h.val 3 0 a { seat := o, code := 0x0709, index := 0x3200 + p.val, a := 8 * p.val + h.val, b := 3 }) ∧
      branch .beq (.beq p h ra rb off) (a = b) ∧ branch .bne (.bne p h ra rb off) (a ≠ b) ∧
      branch .blt (.blt p h ra rb off) (a.toInt < b.toInt) ∧ branch .bge (.bge p h ra rb off) (b.toInt ≤ a.toInt) ∧
      (s.executes p.val h.val (.trap off) → ∃ t, exec (.trap p h off) s = .next t ∧
        trappedWith s t p.val h.val 0x0A off.toNat 0 { seat := o, code := 0x0102, index := 0x3200 + p.val, a := 8 * p.val + h.val, b := off.toNat }) ∧
      (∀ w, s.threadRuns p.val h.val = true → fetchTrap s p.val h.val x.pc = none → fetchWord s p.val x.pc = w → decodeEng w = none →
        ∃ t, exec (.illegal p h w 0) s = .next t ∧
          trappedWith s t p.val h.val 1 0 0 { seat := o, code := 0x0709, index := 0x3200 + p.val, a := 8 * p.val + h.val, b := 1 })

/-- R247–R249, R253, R263: an aligned LD.L or ST.L of a block that the thread's seat owns reads or writes its word; TIME_NS_READ latches the seconds of an instant within 2 ns of the time base; LD.M and ST.M act on the cached line, and a miss leaves the thread with its miss register waiting; the response stands in the miss register, or the store is done, or it traps BUS with PROTECTED when its region has left the seat, or with the response that its miss register holds; and the fill of a block ends. -/
def Obligations.EngineLoadsAndStores : Prop :=
  ∀ (p : PlotIx) (h : HandIx) (r ra : RegIx) (imm : BitVec 16) (s : State),
    let x := s.eng.thread p.val h.val
    let a := x.reg ra + imm.signExtend 32
    let n := a.toNat
    let owned := n % 4 = 0 ∧ n < 65536 ∧ ldbMine s p.val h.val (n / 4096) = true
    let mine := n % 4 = 0 ∧ n < 33554432 ∧ s.fab.handOwner p.val h.val ≠ none ∧ s.stk.regionOwner p.val (n / 1048576) = s.fab.handOwner p.val h.val
    let e := s.eng.engine p.val
    let answered := ∀ m, x.miss = some m → m.line = n / 64 → m.resp = some 0
    (owned → s.eng.dmErrAt p.val n = 0 → s.executes p.val h.val (.imm .ldL r ra imm) →
      ∃ t, exec (.ldL p h r ra imm 0) s = .next t ∧ registersOnly s t p.val h.val { x.setReg r (s.eng.dmWord p.val n) with pc := x.pc + 4 }) ∧
    (owned → s.executes p.val h.val (.imm .stL r ra imm) →
      ∃ t, exec (.stL p h r ra imm) s = .next t ∧ engineFrame s t p.val h.val ∧ t.eng.dmWord p.val n = x.reg r ∧
        (∀ k, k < 65536 * p.val + n ∨ 65536 * p.val + n + 4 ≤ k → tget 0 t.eng.dmem k = tget 0 s.eng.dmem k) ∧
        (t.eng.thread p.val h.val).pc = x.pc + 4 ∧ (t.eng.thread p.val h.val).regs = x.regs ∧ t.fab = s.fab) ∧
    (a = 0x10014 → s.executes p.val h.val (.imm .stL r ra imm) →
      ∃ t, exec (.stL p h r ra imm) s = .next t ∧ registersOnly s t p.val h.val { x with tcmpNs := x.reg r, pc := x.pc + 4 }) ∧
    (a = 0x10008 → s.executes p.val h.val (.imm .ldL r ra imm) →
      ∃ t i, exec (.timeNsRead p h r ra imm) s = .next t ∧ i ≤ s.aon.now + 2 ∧ s.aon.now ≤ i + 2 ∧
        registersOnly s t p.val h.val { ({ x with timeSl := BitVec.ofNat 32 (i / 1000000000), timeSh := BitVec.ofNat 32 (i / 1000000000 / 4294967296 % 65536) } : Thread).setReg r
          (BitVec.ofNat 32 (i % 1000000000)) with pc := x.pc + 4 }) ∧
    (∀ k c, mine → answered → e.lookup (n / 64) = some (k, c) → s.executes p.val h.val (.imm .ldM r ra imm) →
      ∃ t, exec (.ldM p h r ra imm) s = .next t ∧ registersOnly s t p.val h.val { x.setReg r (BitVec.ofNat 32 (c.data.toNat >>> (8 * (n % 64)))) with pc := x.pc + 4 } ∧
        (t.eng.engine p.val).cache = e.cache) ∧
    (mine → e.lookup (n / 64) = none → x.miss = none →
      (s.executes p.val h.val (.imm .ldM r ra imm) →
        exec (.ldM p h r ra imm) s = .next { s with eng := s.eng.setThread p.val h.val { x with miss := some { line := n / 64, store := false } } }) ∧
      (s.executes p.val h.val (.imm .stM r ra imm) →
        exec (.stM p h r ra imm) s = .next { s with eng := s.eng.setThread p.val h.val { x with miss := some { line := n / 64, store := true } } })) ∧
    (∀ k c, mine → answered → e.lookup (n / 64) = some (k, c) → s.executes p.val h.val (.imm .stM r ra imm) →
      ∃ (t : State) (d : BitVec 512), exec (.stM p h r ra imm) s = .next t ∧ engineFrame s t p.val h.val ∧ (t.eng.engine p.val).cache.lookup k = some { c with data := d, dirty := true, newer := true } ∧
        (∀ i < 512, d.getLsbD i = if 8 * (n % 64) ≤ i ∧ i < 8 * (n % 64) + 32 then (x.reg r).getLsbD (i - 8 * (n % 64)) else c.data.getLsbD i) ∧
        (t.eng.thread p.val h.val).pc = x.pc + 4 ∧ (t.eng.thread p.val h.val).regs = x.regs ∧ t.eng.dmem = s.eng.dmem) ∧
    (∀ m, x.miss = some m → m.store = false → m.resp = none →
      let shows := fun (t u : State) (c : Nat) => t = { u with eng := u.eng.setThread p.val h.val { u.eng.thread p.val h.val with miss := some { m with resp := some c } } }
      ((e.lookup m.line).isSome = true → ∃ t, exec (.ldmMissResponse p h 0) s = .next t ∧ shows t s 0) ∧
      ((e.lookup m.line).isNone = true → s.lineBusy p.val m.line (.engine h) = false →
        (e.wayFor ((s.fab.handOwner p.val h.val).getD 0) (Config.freeNat s.aon.free) m.line).isSome = true →
        let ref := s.refusals p.val m.line (.engine h) (s.fab.handOwner p.val h.val) false
        ref ≠ [] → ∃ t, exec (.ldmMissResponse p h 0) s = .next t ∧ shows t (countRetired s p.val (firstResp ref)) (firstResp ref)) ∧
      (∀ s1 c, fillFor s p.val h.val m.line 0 = some (s1, c) → ∃ t, exec (.ldmMissResponse p h 0) s = .next t ∧ shows t s1 c)) ∧
    (∀ m, x.miss = some m → m.store = true → n % 4 = 0 → n / 64 = m.line → x.state = .running → decodeEng (fetchWord s p.val x.pc) = some (.imm .stM r ra imm) →
      (∀ s1 k c, mine → m.resp = none → fillFor s p.val h.val m.line 0 = some (s1, 0) → (s1.eng.engine p.val).lookup m.line = some (k, c) →
        ∃ t, exec (.stmFillResponse p h 0) s = .next t ∧ (t.eng.thread p.val h.val).pc = x.pc + 4 ∧ (t.eng.thread p.val h.val).miss = none ∧
          ∃ d, (t.eng.engine p.val).cache.lookup k = some { c with data := d, dirty := true, newer := true } ∧ d.extractLsb' (8 * (n % 64)) 32 = x.reg r) ∧
      (∀ o, s.fab.handOwner p.val h.val = some o → s.stk.regionOwner p.val (n / 1048576) ≠ some o →
        ∃ t, exec (.stmFillResponse p h 0) s = .next t ∧
          trappedWith s t p.val h.val 5 3 a { seat := o, code := 0x0709, index := 0x3200 + p.val, a := 8 * p.val + h.val, b := 256 * 3 + 5 }) ∧
      (∀ o c, s.fab.handOwner p.val h.val = some o → mine → m.resp = some c → c ≠ 0 → c < 256 →
        ∃ t, exec (.stmFillResponse p h 0) s = .next t ∧
          trappedWith s t p.val h.val 5 c a { seat := o, code := 0x0709, index := 0x3200 + p.val, a := 8 * p.val + h.val, b := 256 * c + 5 })) ∧
    (∀ (ldb : Bool) (k : Fin 16), ∃ t, exec (.imbLdbFillDone p ldb k) s = .next t ∧ t = { s with eng := { s.eng with engines := t.eng.engines } } ∧
      (t.eng.engine p.val).imbFill = (if ldb then e.imbFill else e.imbFill.filter (· ≠ k.val)) ∧ (t.eng.engine p.val).ldbFill = if ldb then e.ldbFill.filter (· ≠ k.val) else e.ldbFill)

/-! ## Engine queues, kitty, waits, thread commands, encodings -/

/-- R203–R205, R212, R215, R219, R275–R281: QPUSH appends the 32 bytes of its buffer to the open packet, takes a credit and reads the credits left; QCOMMIT commits; QABORT rewinds with cause 0; QPOP and QPEEK write the presented word to the buffer and read its side field, and only QPOP removes it; with nothing presented they read 0x10000; QDROP gives up the rest of a packet; QLEVEL reads what its selector names and clears at 4 and 5. On 0xFFFF a push is a request of the scratchpad channel. -/
def Obligations.EngineQueueInstructions : Prop :=
  ∀ (p : PlotIx) (h : HandIx) (rd rq ra : RegIx) (s : State),
    let x := s.eng.thread p.val h.val
    let w := x.reg rq
    let q := w.toNat % 65536
    let b := (x.reg ra).toNat
    let y := s.net.queue q
    let seen := tget (false, 0) y.seen (epThread p.val h.val)
    let buffer := b % 32 = 0 ∧ b < 65536 ∧ ldbMine s p.val h.val (b / 4096) = true
    let after := fun (z : Thread) => ({ z with pc := x.pc + 4, miss := none, fencing := false, fenceLost := none } : Thread)
    let others := fun (t : State) => engineFrame s t p.val h.val ∧ t.fab = s.fab ∧ (s.unsampled p.val h.val → ∀ k, k ≠ q → t.net.queue k = s.net.queue k)
    let own := fun (t : State) (P : Queue → Prop) => s.unsampled p.val h.val ∨ q / 64 ≠ p.val → P (t.net.queue q)
    w.toNat < 524288 →
    (q ≠ 65535 →
      (∀ i, threadProd s p.val h.val q = some i →
        let z := y.prod i
        (∀ ws corr, 0 < z.credits → z.discarding = false → z.openWords.length ≤ qdMaxlen y.dir → buffer → readLocal s.eng p.val b 8 = (ws, corr, none) →
          s.executes p.val h.val (.qpush rd rq ra) → ∃ t, exec (.qpush p h rd rq ra) s = .next t ∧ others t ∧ t.eng.dmem = s.eng.dmem ∧
            t.eng.thread p.val h.val = after (x.setReg rd (BitVec.ofInt 32 (z.credits - 1))) ∧
            own t fun u => (u.prod i).openWords = z.openWords ++ [ofWords ws] ∧ (u.prod i).credits = z.credits - 1 ∧ u.flight = y.flight) ∧
        (z.openWords ≠ [] → s.executes p.val h.val (.qcommit rq ra) → ∃ t, exec (.qcommit p h rq ra) s = .next t ∧ others t ∧ t.eng.thread p.val h.val = after x ∧
          own t fun u => (u.prod i).openWords = [] ∧ (u.prod i).credits = z.credits - ((64 - z.openWords.length % 64) % 64 : Nat) ∧
            ∃ k, u.flight = y.flight ++ [.commit k] ∧ k.prod = i ∧ k.rank = z.openRank ∧ k.words.map (·.data) = z.openWords) ∧
        (z.openWords ≠ [] → s.executes p.val h.val (.qabort rq) → ∃ t, exec (.qabort p h rq) s = .next t ∧ others t ∧ t.eng.thread p.val h.val = after x ∧
          own t fun u => (u.prod i).openWords = [] ∧ tget 0 u.rw 0 = min 4294967295 (tget 0 y.rw 0 + 1) ∧ u.flight = y.flight ++ [.rewind i z.openWords.length]) ∧
        (s.executes p.val h.val (.qlevel rd rq 1) → ∃ t, exec (.qlevel p h rd rq 1 false) s = .next t ∧ registersOnly s t p.val h.val { x.setReg rd (BitVec.ofInt 32 z.credits) with pc := x.pc + 4 }) ∧
        (s.executes p.val h.val (.qlevel rd rq 6) → ∃ t, exec (.qlevel p h rd rq 6 false) s = .next t ∧ registersOnly s t p.val h.val { x.setReg rd (BitVec.ofNat 32 z.openWords.length) with pc := x.pc + 4 }) ∧
        (s.executes p.val h.val (.qlevel rd rq 4) → ∃ t, exec (.qlevel p h rd rq 4 false) s = .next t ∧ others t ∧
          t.eng.thread p.val h.val = after (x.setReg rd (BitVec.ofNat 32 ((if seen.1 then 2147483648 else 0) + seen.2))) ∧ own t fun u => tget (false, 0) u.seen (epThread p.val h.val) = (false, seen.2))) ∧
      (threadCons s p.val h.val q = true →
        (∀ k v l, buffer → y.runs = true → y.current = some k → k.words = v :: l →
          let filled := fun (t : State) => ∀ i < 8, t.eng.dmWord p.val (b + 4 * i) = v.data.extractLsb' (32 * i) 32
          (s.executes p.val h.val (.qpop rd rq ra) → ∃ t, exec (.qpop p h rd rq ra) s = .next t ∧ others t ∧ filled t ∧ t.eng.thread p.val h.val = after (x.setReg rd (v.side.setWidth 32)) ∧
            own t fun u => u.reading = (if l.isEmpty then none else some { k with words := l, popped := k.popped + 1 }) ∧ u.acts.length = y.acts.length + 1) ∧
          (s.executes p.val h.val (.qpeek rd rq ra) → ∃ t, exec (.qpeek p h rd rq ra) s = .next t ∧ others t ∧ filled t ∧ t.eng.thread p.val h.val = after (x.setReg rd (v.side.setWidth 32)) ∧
            own t fun u => u = y)) ∧
        (buffer → y.current = none → s.executes p.val h.val (.qpop rd rq ra) → ∃ t, exec (.qpop p h rd rq ra) s = .next t ∧ registersOnly s t p.val h.val { x.setReg rd 0x10000 with pc := x.pc + 4 }) ∧
        (∀ k, y.reading = some k → s.executes p.val h.val (.qdrop rq) → ∃ t, exec (.qdrop p h rq) s = .next t ∧ others t ∧ t.eng.thread p.val h.val = after x ∧
          own t fun u => u.reading = none ∧ u.dropped = min 4294967295 (y.dropped + 1) ∧ u.visible = y.visible) ∧
        (s.executes p.val h.val (.qlevel rd rq 0) → ∃ t, exec (.qlevel p h rd rq 0 false) s = .next t ∧ registersOnly s t p.val h.val { x.setReg rd (BitVec.ofNat 32 y.level) with pc := x.pc + 4 }) ∧
        (s.executes p.val h.val (.qlevel rd rq 2) → ∃ t, exec (.qlevel p h rd rq 2 false) s = .next t ∧ registersOnly s t p.val h.val { x.setReg rd (if y.event then 1 else 0) with pc := x.pc + 4 }) ∧
        (s.executes p.val h.val (.qlevel rd rq 3) → ∃ t, exec (.qlevel p h rd rq 3 false) s = .next t ∧ registersOnly s t p.val h.val { x.setReg rd (BitVec.ofNat 32 y.crossings) with pc := x.pc + 4 }) ∧
        (s.executes p.val h.val (.qlevel rd rq 5) → ∃ t, exec (.qlevel p h rd rq 5 false) s = .next t ∧ others t ∧
          t.eng.thread p.val h.val = after (x.setReg rd (if y.event then 1 else 0)) ∧ own t fun u => u.acts = y.acts ++ [.clear]))) ∧
    (∀ ws corr, q = 65535 → scratchOut s p.val h.val < 16 → (s.net.threadChanAt (8 * p.val + h.val)).skip ≤ (s.net.threadChanAt (8 * p.val + h.val)).reqs.length →
      buffer → readLocal s.eng p.val b 8 = (ws, corr, none) → s.executes p.val h.val (.qpush rd rq ra) →
      ∃ t, exec (.qpush p h rd rq ra) s = .next t ∧ engineFrame s t p.val h.val ∧ (t.net.threadChanAt (8 * p.val + h.val)).reqs = (s.net.threadChanAt (8 * p.val + h.val)).reqs ++ [{ word := ofWords ws }] ∧
        t.eng.thread p.val h.val = after (x.setReg rd (BitVec.ofNat 32 (15 - scratchOut s p.val h.val))))

/-- R118, R120, R143–R145, R274, R283–R287, R525: KRD and KWR read and write a kitty register of the seat; CALLH leaves a call that its plot raises at the second fabric edge; RDPMC reads a counter's low half and latches the high half; a WAIT with a condition that holds reports it, and without one leaves the thread WAITING until WAIT_WAKE reports it; a FENCE retires when what it orders has happened, and INV drops the seat's cached lines. -/
def Obligations.EngineKittyCallsAndWaits : Prop :=
  ∀ (p : PlotIx) (h : HandIx) (r ra : RegIx) (imm : BitVec 16) (s : State),
    let x := s.eng.thread p.val h.val
    let n := (x.reg ra + imm.signExtend 32).toNat
    let q := s.fab.seqPlot p.val
    let e := s.eng.engine p.val
    let after := fun (z : Thread) => ({ z with pc := x.pc + 4, miss := none, fencing := false, fenceLost := none } : Thread)
    (n < 2048 → kittyAllowed s p.val h.val n = true →
      (s.executes p.val h.val (.imm .krd r ra imm) → ∃ t, exec (.krd p h r ra imm) s = .next t ∧ registersOnly s t p.val h.val { x.setReg r (s.fab.kittyReg p.val n) with pc := x.pc + 4 }) ∧
      (s.executes p.val h.val (.imm .kwr r ra imm) → ∃ t, exec (.kwr p h r ra imm) s = .next t ∧
        ((∀ w, (s.fab.plot p.val).kittyLast = some w → w.reg ≠ n) → t.fab.kittyReg p.val n = x.reg r) ∧
        (∀ w, (s.fab.plot p.val).kittyLast = some w → w.reg = n → t.fab.kittyReg p.val n = x.reg r ∨ t.fab.kittyReg p.val n = mergeWord (x.reg r) w.data w.be) ∧
        (∀ k, k ≠ 2048 * p.val + n → tget 0 t.fab.kitty k = tget 0 s.fab.kitty k) ∧ (t.eng.thread p.val h.val).pc = x.pc + 4 ∧ (t.eng.thread p.val h.val).regs = x.regs ∧
        t.fab.plots = s.fab.plots ∧ t.eng.dmem = s.eng.dmem ∧ t.stk = s.stk ∧ t.nv = s.nv)) ∧
    (n < s.fab.lenOf q → slotOwner (s.fab.slot q n) ≠ none → slotOwner (s.fab.slot q n) = s.fab.handOwner p.val h.val →
      s.executes p.val h.val (.callh ra imm) → ∃ t, exec (.callh p h ra imm) s = .next t ∧ engineFrame s t p.val h.val ∧ t.eng.thread p.val h.val = after x ∧
        t.fab = { s.fab with plots := t.fab.plots } ∧ t.fab.plot p.val = { s.fab.plot p.val with engCalls := (s.fab.plot p.val).engCalls ++ [(2, h.val, n)] } ∧ ∀ j, j ≠ p.val → t.fab.plot j = s.fab.plot j) ∧
    (∀ seat, s.fab.handOwner p.val h.val = some seat → tget false e.pmcUser seat = true → (imm.toNat < 16 → e.pmcSeat (imm.toNat / 2) = some seat) → s.executes p.val h.val (.rdpmc r imm) →
      ∃ t, exec (.rdpmc p h r imm) s = .next t ∧
        (imm.toNat % 2 = 0 → let v := pmcValue s p.val h.val (imm.toNat / 2)
          registersOnly s t p.val h.val { ({ x with latch := tput 0 x.latch (imm.toNat / 2) (BitVec.ofNat 32 (v / 4294967296)) } : Thread).setReg r (BitVec.ofNat 32 v) with pc := x.pc + 4 }) ∧
        (imm.toNat % 2 = 1 → registersOnly s t p.val h.val { x.setReg r (tget 0 x.latch (imm.toNat / 2)) with pc := x.pc + 4 })) ∧
    (let c := (x.reg ra).toNat % 65536
      let holds := waitHolds s p.val h.val x c imm.toNat
      (imm.toNat % 8 ≠ 0 → (x.reg ra).toNat < 524288) → waitRights s p.val h.val c imm.toNat = true → s.executes p.val h.val (.wait r ra imm) →
      (holds ≠ 0 → ∃ t, exec (.wait p h r ra imm) s = .next t ∧
        registersOnly s t p.val h.val { ({ x with state := .running, waitRec := none, kevent := !holds.testBit 4 && x.kevent } : Thread).setReg r (BitVec.ofNat 32 holds) with pc := x.pc + 4 }) ∧
      (holds = 0 → ∃ t, exec (.wait p h r ra imm) s = .next t ∧ t = { s with eng := t.eng } ∧ t.eng.dmem = s.eng.dmem ∧
        t.eng.thread p.val h.val = { x with state := .waiting, waitRec := some { rd := r.val, queue := if imm.toNat % 8 = 0 then 0 else x.reg ra, mask := imm.toNat } } ∧
        ∀ k, k ≠ 8 * p.val + h.val → tget ({} : Thread) t.eng.threads k = tget {} s.eng.threads k)) ∧
    (∀ w : WaitRec, x.state = .waiting → x.waitRec = some w → s.clocksOn = true → s.net.dieDown.contains (dieOf p.val) = false →
      let holds := waitHolds s p.val h.val x (w.queue.toNat % 65536) w.mask
      holds ≠ 0 ∨ w.unbound = true → ∃ t, exec (.waitWake p h false) s = .next t ∧
        t.eng.thread p.val h.val = after (({ x with state := .running, waitRec := none, kevent := !holds.testBit 4 && x.kevent } : Thread).setReg (Fin.ofNat 32 w.rd)
          (BitVec.ofNat 32 (holds + if w.unbound then 64 else 0))) ∧ (t.eng.epll (epllOf p.val)).running = true ∧ t.fab = s.fab ∧ t.eng.dmem = s.eng.dmem ∧ t.stk = s.stk) ∧
    (∀ what : BitVec 3,
      let mine := fun g => (s.fab.handOwner p.val h.val).isSome && s.stk.regionOwner p.val g == s.fab.handOwner p.val h.val
      s.executes p.val h.val (.fence what) →
      (what.getLsbD 1 = true → e.dirtyFor mine = true → ∃ t, exec (.fence p h what) s = .next t ∧ t.eng.thread p.val h.val = { x with fencing := true } ∧ t = { s with eng := t.eng }) ∧
      ((what.getLsbD 1 = true → e.dirtyFor mine = false ∧ x.fenceLost = none) → what.getLsbD 0 = true → opsArrived s p.val h.val = false →
        ∃ t, exec (.fence p h what) s = .next t ∧ t.eng.thread p.val h.val = { x with fencing := x.fencing || what.getLsbD 1 } ∧ t = { s with eng := t.eng }) ∧
      ((what.getLsbD 1 = true → e.dirtyFor mine = false ∧ x.fenceLost = none) → (what.getLsbD 0 = true → opsArrived s p.val h.val = true) →
        ∃ t, exec (.fence p h what) s = .next t ∧ registersOnly s t p.val h.val { x with pc := x.pc + 4 } ∧
          (t.eng.engine p.val).cache = if what.getLsbD 2 then e.cache.filter fun c => !mine (lineRegion c.2.line) else e.cache))

/-- R241–R243, R539: an ordered START of a halted thread begins at the ordered PC with every register 0 and no trap, CONTINUE goes on at the ordered PC with its registers, STOP halts it; a thread without the mark is held in Limp. A command that does not match the state changes nothing but the order, and while the clocks are off an order waits. -/
def Obligations.ThreadCommands : Prop :=
  ∀ (p : PlotIx) (h : HandIx) (pc : Nat) (s : State) (rest : List Order), s.clocksOn = true →
    let x := s.eng.thread p.val h.val
    let halted := x.state = .stopped ∨ x.state = .trapped
    let runs : TState := if s.limp && !x.ess then .held else .running
    let others := fun (t : State) => t.mc = { s.mc with orders := rest } ∧ t.fab = s.fab ∧ t.stk = s.stk ∧ t.nv = s.nv ∧ t.eng.imem = s.eng.imem ∧ t.eng.dmem = s.eng.dmem ∧
      ∀ k, k ≠ 8 * p.val + h.val → tget ({} : Thread) t.eng.threads k = tget {} s.eng.threads k
    (s.mc.orders = .thread p.val h.val 1 pc :: rest →
      (halted → ∃ t, exec (.threadStart p h) s = .next t ∧ others t ∧ (t.eng.thread p.val h.val).state = runs ∧ (t.eng.thread p.val h.val).pc = BitVec.ofNat 32 pc ∧
        (t.eng.thread p.val h.val).regs = [] ∧ (t.eng.thread p.val h.val).trapCause = 0 ∧ (t.eng.thread p.val h.val).watch = [] ∧ (t.eng.thread p.val h.val).kevent = false) ∧
      (¬halted → exec (.threadStart p h) s = .next { s with mc := { s.mc with orders := rest } })) ∧
    (s.mc.orders = .thread p.val h.val 2 pc :: rest →
      (x.state = .running ∨ x.state = .waiting → ∃ t, exec (.threadStop p h) s = .next t ∧ others t ∧ t.net = s.net ∧
        t.eng.thread p.val h.val = { x with state := .stopped, waitRec := none, miss := none, fencing := false, fenceLost := none })) ∧
    (s.mc.orders = .thread p.val h.val 3 pc :: rest →
      (halted → ∃ t, exec (.threadContinue p h) s = .next t ∧ others t ∧ t.net = s.net ∧ (t.eng.thread p.val h.val).state = runs ∧ (t.eng.thread p.val h.val).pc = BitVec.ofNat 32 pc ∧
        (t.eng.thread p.val h.val).regs = x.regs) ∧
      (¬halted → exec (.threadContinue p h) s = .next { s with mc := { s.mc with orders := rest } })) ∧
    ∀ u : State, u.clocksOn = false → exec (.threadStart p h) u = .next u ∧ exec (.threadStop p h) u = .next u ∧ exec (.threadContinue p h) u = .next u

/-- R270–R272: decoding the word of any engine instruction with no reserved operand value gives that instruction, with every operand; a word that decodes is the word of what it decodes to. -/
def Obligations.EngineWordsRoundTrip : Prop :=
  (∀ i : EngInsn, legalEng i = true → decodeEng (encodeEng i) = some i) ∧ ∀ (w : Word) (i : EngInsn), decodeEng w = some i → encodeEng i = w ∧ legalEng i = true

/-! ## Sowing and riser requests -/

/-- R129–R132, R153, R165–R168, R258, R561–R567: a good header opens the image and a refused one is reported, from the flash for the next image of the seed directory (R568); an accepted hand section is recorded and a refused one leaves its hand; a hand enters SOWING with a cleared store when no running slot names it, and SOWN with the arrived words when every check passes, or EMPTY with a cleared store when one fails; block-memory and engine sections store their content; the items of a staging section are staged. What arrives is the ciphertext of a header and of a body, with the tag: header and content are what the seat's seed key makes of it. -/
def Obligations.SowingSections : Prop :=
  ∀ (seat : Seat) (s : State),
    let k := seat.val
    let record := fun (t : State) => t = { s with seats := t.seats }
    (∀ (src : SeedSource) (hdr : ImageHdr) (x : Stream), s.seedOpen = true → src ≠ .flash → (s.seat k).stream = some x → x.src = src → x.hdr = none → x.refused = false → x.firstRep = none →
      (imageRefusal s k hdr = none → 0 < hdr.nsect → ∃ t, exec (.seedImageHeader seat src hdr) s = .next t ∧ record t ∧
        (t.seat k).stream = some { x with hdr := some hdr, next := 0, turned := false }) ∧
      (∀ why, imageRefusal s k hdr = some why → ∃ t, exec (.seedImageHeader seat src hdr) s = .next t ∧ record t ∧
        (t.seat k).report.result = 2 ∧ (t.seat k).report.reason = why ∧ (t.seat k).report.index = 0x1F30 + k ∧ (t.seat k).staged = (s.seat k).staged)) ∧
    (∀ (a : Nat) (sigOk : Bool), s.step7 = true → (∀ j < 8, ∀ y, (s.seat j).stream = some y → y.src ≠ .flash) → (s.seat k).stream = none → s.nv.seedImages[s.aon.seedRead]? = some a →
      let hdr := s.nv.imageAt a sigOk
      let read := fun (t : State) => t = { s with seats := t.seats, aon := { s.aon with seedRead := s.aon.seedRead + 1 } }
      hdr.seat = k →
      (imageRefusal s k hdr = none → 0 < hdr.nsect → ∃ t, exec (.seedImageHeader seat .flash hdr) s = .next t ∧ read t ∧ (t.seat k).stream = some { src := .flash, hdr := some hdr }) ∧
      (∀ why, imageRefusal s k hdr = some why → ∃ t, exec (.seedImageHeader seat .flash hdr) s = .next t ∧ read t ∧ (t.seat k).stream = none ∧
        (t.seat k).report.result = 2 ∧ (t.seat k).report.reason = why ∧ (t.seat k).report.index = 0x1F30 + k ∧ (t.seat k).staged = (s.seat k).staged)) ∧
    (∀ (bytes : List Byte) (e f : SectEntry) (key : BitVec 256) (iv : List Byte), s.expected k = some e → s.sectKey k = some (f, key, iv) → e.typ = 1 → bytes.length = min 64 e.length →
      let hdr := sectHeader 1 (gcmCrypt key iv bytes)
      let x := s.fab.hand hdr.plot hdr.target
      hdr.reservedZero = true → hdr.size = 46080 → hdr.plot < 512 → hdr.target < 8 → sectFits e hdr 368640 = true →
      (ownerOf x.own = some k → x.state ≠ .sowing → x.wiping = false → s.plotFallowed hdr.plot = false →
        ∃ t, exec (.handSection seat bytes) s = .next t ∧ record t ∧ (t.seat k).stream.bind (·.sect) = some (hdr.plot, hdr.target, hdr.arg)) ∧
      (ownerOf x.own ≠ some k → ∃ t, exec (.handSection seat bytes) s = .next t ∧ record t)) ∧
    (∀ (p : PlotIx) (h : HandIx), s.clocksOn = true → s.sower p.val h.val = some k →
      let x := s.fab.hand p.val h.val
      let others := fun (t : State) => ∀ i, i < 46080 * (8 * p.val + h.val) ∨ 46080 * (8 * p.val + h.val) + 46080 ≤ i → tget 0 t.fab.cfg i = tget 0 s.fab.cfg i
      (x.state ≠ .sowing → s.slotNames p.val h.val = false ∨ (x.state ≠ .live ∧ x.state ≠ .parked) →
        ∃ t, exec (.handSowingStart p h) s = .next t ∧ (t.fab.hand p.val h.val).state = .sowing ∧ (t.fab.hand p.val h.val).ff = 0 ∧
          (∀ w < 46080, t.fab.cfgWord p.val h.val w = 0) ∧ others t ∧ t.nv = s.nv ∧ t.eng = s.eng) ∧
      (∀ (head body tag : List Byte) (y : SectIn), x.state = .sowing → s.sectionIn k (head ++ body ++ tag) = some y →
        let fails := sowFail s (sownState s k p.val h.val (nonzero (words64 y.content))) k p.val h.val y.good
        (fails = none →
          ∃ t, exec (.handSowingEnd p h head body tag) s = .next t ∧ (t.fab.hand p.val h.val).state = .sown ∧ (t.fab.hand p.val h.val).own = x.own ∧
            (t.fab.hand p.val h.val).ff = initBank (t.fab.storeOf p.val h.val) ∧ (t.fab.hand p.val h.val).arrival = x.arrival ∧ others t ∧
            (∀ w < 46080, t.fab.cfgWord p.val h.val w = if (words64 y.content).getD w 0 = 0 then s.fab.cfgWord p.val h.val w else (words64 y.content).getD w 0) ∧ t.net = s.net ∧ t.eng = s.eng) ∧
        (y.good = false ∨ fails ≠ none → ∃ t, exec (.handSowingEnd p h head body tag) s = .next t ∧ (t.fab.hand p.val h.val).state = .empty ∧
          (∀ w < 46080, t.fab.cfgWord p.val h.val w = 0) ∧ others t ∧ t.net = s.net ∧ t.eng = s.eng))) ∧
    (∀ (head body tag : List Byte) (e : SectEntry) (y : SectIn), s.expected k = some e → s.sectionIn k (head ++ body ++ tag) = some y → e.typ = 2 → s.clocksOn = true →
      let hdr := y.header
      hdr.plot < 512 → hdr.target < 64 → sectFits e hdr 4608 = true →
      s.fab.bmOwner hdr.plot hdr.target = some k → (∀ h < 8, s.fab.handOwner hdr.plot h = some k → (s.fab.hand hdr.plot h).state ≠ .live) → s.plotFallowed hdr.plot = false →
      hdr.reservedZero = true → hdr.size = 4608 → bmSetupOk hdr.arg = true →
      ∃ t, exec (.bmSection seat head body tag) s = .next t ∧
        t = { s with seats := t.seats, fab := { s.fab with bms := t.fab.bms } } ∧ (∀ j, j ≠ 64 * hdr.plot + hdr.target → tget ({} : Bm) t.fab.bms j = tget {} s.fab.bms j) ∧
        bits (t.fab.bm hdr.plot hdr.target).word 12 0 = hdr.arg ∧ (t.fab.bm hdr.plot hdr.target).clearing = false ∧ (t.fab.bm hdr.plot hdr.target).err = 0 ∧
        (y.good = false → (t.fab.bm hdr.plot hdr.target).bits = 0) ∧
        (y.good = true → ∀ i < 36864, i % 9 < 8 ∨ hdr.arg.testBit 10 = false → (t.fab.bm hdr.plot hdr.target).bits.getLsbD i = (leNat y.content).testBit i)) ∧
    (∀ (head body tag : List Byte) (e : SectEntry) (y : SectIn), s.expected k = some e → s.sectionIn k (head ++ body ++ tag) = some y → s.clocksOn = true →
      let hdr := y.header
      let done := fun (n : Nat) (byte : State → Nat → Byte) => ∃ t, exec (.engineSection seat head body tag) s = .next t ∧
        t = { s with seats := t.seats, eng := { s.eng with imem := t.eng.imem, dmem := t.eng.dmem, imErr := t.eng.imErr, dmErr := t.eng.dmErr } } ∧
        ∀ a < n, byte t a = if y.good then y.content.getD a 0 else 0
      hdr.plot < 512 → hdr.target < 16 → (∀ h < 8, s.fab.handOwner hdr.plot h = some k → (s.eng.thread hdr.plot h).state ≠ .running ∧ (s.eng.thread hdr.plot h).state ≠ .waiting) →
      hdr.reservedZero = true →
      (e.typ = 3 → sectFits e hdr 8192 = true → hdr.size = 8192 → ownerOf (tget 0 (s.eng.engine hdr.plot).imbOwn hdr.target) = some k →
        done 8192 fun t a => t.eng.imByte hdr.plot (8192 * hdr.target + a)) ∧
      (e.typ = 4 → sectFits e hdr 4096 = true → hdr.size = 4096 → ownerOf (tget 0 (s.eng.engine hdr.plot).ldbOwn hdr.target) = some k →
        done 4096 fun t a => t.eng.dmByte hdr.plot (4096 * hdr.target + a))) ∧
    (∀ (head body tag : List Byte) (e : SectEntry) (y : SectIn) (items : List StageItem) (u : State), s.expected k = some e → s.sectionIn k (head ++ body ++ tag) = some y → y.good = true → e.typ = 5 → e.plot = 0 → e.target = 0 →
      let hdr := y.header
      hdr.typ = 5 → hdr.reservedZero = true → hdr.target = 0 → e.length = 64 + hdr.size → 5 ≤ hdr.size → hdr.size ≤ 14336 → 1 ≤ hdr.arg → hdr.arg ≤ 256 →
      sectionItems 257 y.content = some items → items.length = hdr.arg → stageEach k items s = (u, none) →
      ∃ t, exec (.stagingSection seat head body tag) s = .next t ∧ (t.seat k).staged = (u.seat k).staged ∧ t = { u with seats := t.seats })

/-- R297–R300, R304–R307, R310, R314–R316, R319, R342–R344, R360, R364–R369: a captured request of the live hand is queued or answered with its refusal, and its reply popped; a read of a line without a waiting write gives what the stored line decodes to; a full write of an open region stores the line with its CRC, and of a sealed one the line sealed under the region's epoch and next count; a dirty cache line is written back and becomes clean, or is lost when it is refused (R251, R254); a partial write waits in the buffer and its timeout merges it; resends are counted, what a word that failed three times asks for waits for the check of the command lanes, and a failing lane that is due takes the first free spare. -/
def Obligations.RiserRequests : Prop :=
  ∀ (p : PlotIx) (line : BitVec 19) (data : BitVec 512) (s : State),
    let a := line.toNat
    let id := lineId p.val a
    let r := a / 16384
    let g := s.stk.region p.val r
    let x := s.stk.riser p.val
    let o := readOut g p.val a (s.stk.line id) true
    let free := fun (m : MemSrc) (w : Bool) => s.lineBusy p.val a m = false ∧ x.waiting = [] ∧ x.wc = [] ∧ g.heldWrites = [] ∧ s.refusals p.val a m none w = []
    let lines := fun (t : State) => ∀ i, i ≠ id → t.stk.line i = s.stk.line i
    (∀ (h edge : Nat) (we : Bool) (be : BitVec 64) (tag : Byte) (u : State), s.atEdge p.val edge = some (u, h) →
      let y := u.fab.hand p.val h
      let port := u.fab.plot p.val
      let wipes := (u.stk.region p.val r).wiping
      let ref := u.refusals p.val a (.fabric (Fin.ofNat 8 h)) (u.fab.handOwner p.val h) we
      (port.asksLine we line be data tag = true →
        (y.outstanding < 16 → (∀ q ∈ y.memReq, q.done = none) → (we = false ∨ be ≠ 0) → ref = [] ∨ wipes = true →
          ∃ t, exec (.memPortRequest ⟨p, edge⟩ we line be data tag) s = .next t ∧ t = { u with fab := { u.fab with hands := t.fab.hands, plots := t.fab.plots, memSeq := u.fab.memSeq + 1 } } ∧
            t.fab.hand p.val h = { y with memReq := y.memReq ++ [{ seat := u.fab.handOwner p.val h, we := we, line := a, be := be, data := data, tag := tag, seq := u.fab.memSeq }] } ∧
            t.fab.plot p.val = port.done 5120) ∧
        (y.memReq = [] → y.memRep.length < 16 → (we = false ∨ be ≠ 0) → wipes = false → ref ≠ [] →
          ∃ t, exec (.memPortRequest ⟨p, edge⟩ we line be data tag) s = .next t ∧ t.fab.hand p.val h = { y with memRep := y.memRep ++ [(0, firstResp ref, tag)] } ∧ t.stk.lines = u.stk.lines) ∧
        (16 ≤ y.outstanding → ∃ t, exec (.memPortRequest ⟨p, edge⟩ we line be data tag) s = .next t ∧ t.fab.hands = u.fab.hands ∧
          (t.fab.plot p.val).memportRefusals = min 4294967295 (port.memportRefusals + 1))) ∧
      (port.field 5725 1 = 1 → ∃ t, exec (.msPop ⟨p, edge⟩) s = .next t ∧ t = { u with fab := { u.fab with hands := t.fab.hands, plots := t.fab.plots } } ∧ t.fab.hand p.val h = { y with memRep := y.memRep.tail })) ∧
    (∀ k : Seat, free (.mc k) false → o.err = none → ∃ t, exec (.lineRead p (.mc k) line 0) s = .next t ∧ t.stk.reply = (o.resp, o.data) ∧ t.stk.lines = s.stk.lines ∧ t.stk.log = s.stk.log ∧ t.fab = s.fab) ∧
    (∀ (h : HandIx) (q : MemReq), (s.fab.hand p.val h.val).memReq = [q] → s.fab.nextFor p.val h.val a = some q → q.we = false → q.orphan = false →
      s.lineBusy p.val a (.fabric h) = false → x.wc = [] → g.heldWrites = [] → s.refusals p.val a (.fabric h) q.seat false = [] → o.err = none →
      ∃ t, exec (.lineRead p (.fabric h) line 0) s = .next t ∧ (t.fab.hand p.val h.val).memReq = [] ∧ (t.fab.hand p.val h.val).memRep = (s.fab.hand p.val h.val).memRep ++ [(o.data, o.resp, q.tag)] ∧
        t.stk.lines = s.stk.lines) ∧
    (∀ k : Seat, free (.mc k) true →
      (g.isSealed = false → ∃ t, exec (.fullLineWrite p (.mc k) line data) s = .next t ∧ t.stk.reply = (0, 0) ∧ lines t ∧ t.stk.line id = openLine id data ∧ t.stk.regions = s.stk.regions ∧ t.fab = s.fab) ∧
      (∀ key, g.isSealed = true → g.rk ≠ 2 → g.counter < rekeyThreshold → g.key g.epoch = some key → ∃ t, exec (.fullLineWrite p (.mc k) line data) s = .next t ∧ t.stk.reply = (0, 0) ∧ lines t ∧
        t.stk.line id = sealLine p.val a g.epoch g.counter key data ∧ t.stk.region p.val r = { g with counter := g.counter + 1 } ∧ t.fab = s.fab)) ∧
    (∀ (set : Fin 64) (way : Fin 4) (c : CLine), let e := s.eng.engine p.val
      let k := 4 * set.val + way.val
      let ref := s.refusals p.val a (.engine 0) (s.stk.regionOwner p.val r) true
      e.cache.lookup k = some c → e.lookup a = some (k, c) → c.line = a → c.dirty = true → s.lineBusy p.val a (.engine 0) = false → g.heldWrites = [] →
      (ref = [] → x.wc = [] → g.isSealed = false → ∃ t, exec (.cacheWriteback p set way) s = .next t ∧ lines t ∧ t.stk.line id = openLine id c.data ∧ t.fab = s.fab ∧
        (t.eng.engine p.val).cache.lookup k = some { c with dirty := false, retried := false, newer := false } ∧ ∀ j, j ≠ k → (t.eng.engine p.val).cache.lookup j = e.cache.lookup j) ∧
      (ref ≠ [] → firstResp ref ≠ respPathReset → ∃ t, exec (.cacheWriteback p set way) s = .next t ∧ t.stk.lines = s.stk.lines ∧ (t.eng.engine p.val).cache.lookup k = none ∧
        (t.eng.engine p.val).lostLines = min 4294967295 (e.lostLines + 1) ∧ ∀ j, j ≠ k → (t.eng.engine p.val).cache.lookup j = e.cache.lookup j)) ∧
    (∀ (k : Seat) (be : BitVec 64), free (.mc k) true → be ≠ 0 → be ≠ BitVec.allOnes 64 →
      ∃ t d, exec (.partialLineWrite p (.mc k) line be data) s = .next t ∧ t.stk.lines = s.stk.lines ∧ t.stk.riser p.val = { x with wc := [{ line := a, be := be, data := d, waiters := [.mc k] }] } ∧
        ∀ i < 64, d.extractLsb' (8 * i) 8 = if be.getLsbD i then data.extractLsb' (8 * i) 8 else 0) ∧
    (∀ (k : Seat) (e : WcEntry), s.engineOn p.val = true → g.wiping = false → g.isSealed = false → s.refusals p.val a (.mc k) none true = [] → x.wc = [e] → e.line = a → e.be ≠ BitVec.allOnes 64 → e.waiters = [.mc k] → o.resp = 0 → o.err = none →
      ∃ t d, exec (.writeCombineTimeout p line 0) s = .next t ∧ t.stk.reply = (0, 0) ∧ lines t ∧ (t.stk.riser p.val).wc = [] ∧ t.stk.line id = openLine id d ∧
        ∀ i < 64, d.extractLsb' (8 * i) 8 = if e.be.getLsbD i then e.data.extractLsb' (8 * i) 8 else o.data.extractLsb' (8 * i) 8) ∧
    (∀ what : CmdSrc, s.engineOn p.val = true → (s.nv.map.riser p.val).rstate ≠ 3 → x.cmdWait.contains what = false →
      let n := min 4294967295 (x.cmdRetries + 1)
      (∃ t, exec (.commandRetry ⟨p, what⟩ true) s = .next t ∧ t.stk.riser p.val = { x with cmdRetries := n, cmdFails := x.cmdFails.filter (· ≠ what) } ∧ t.stk.lines = s.stk.lines ∧ t.stk.log = s.stk.log) ∧
      (x.cmdFails.contains what = false → ∃ t, exec (.commandRetry ⟨p, what⟩ false) s = .next t ∧ t.stk.riser p.val = { x with cmdRetries := n, cmdFails := x.cmdFails ++ [what] } ∧ t.stk.log = s.stk.log) ∧
      (x.cmdFails.contains what = true → ∃ t e, exec (.commandRetry ⟨p, what⟩ false) s = .next t ∧ (t.stk.riser p.val).cmdWait = x.cmdWait ++ [what] ∧ (t.stk.riser p.val).cmdRetries = n ∧
        (∀ l, 80 ≤ l → l < 92 → (t.stk.riser p.val).checkDue.contains l = true) ∧ t.stk.log.getLast? = some e ∧ e.kind = 4 ∧ e.plot = p.val ∧ e.seq = s.stk.logSeq)) ∧
    (s.clocksOn = true → x.waiting = [] →
      (∃ t, exec (.riserLaneCheck p []) s = .next t ∧ t.stk.riser p.val = { x with checkDue := [], cmdWait := [] } ∧ t.nv = s.nv) ∧
      (∀ (l : Fin 98) (m : List (Option Nat)), l.val < 92 → x.checkDue.contains l.val = true → (s.nv.map.riser p.val).rstate = 0 → (s.nv.map.riser p.val).failed = [] → (s.nv.map.riser p.val).laneMap = none :: m →
        ∃ t e, exec (.riserLaneCheck p [l]) s = .next t ∧ (t.nv.map.riser p.val).failed = [l.val] ∧ (t.nv.map.riser p.val).laneMap = some l.val :: m ∧ (t.nv.map.riser p.val).rstate = 0 ∧
          t.stk.log.getLast? = some e ∧ e.kind = 5 ∧ e.sym0 = l.val ∧ e.sym1 = 92))

/-! ## Riser upkeep, sealing, links -/

/-- R327–R329, R336, R339–R341: the patrol reads its riser's next line, changes no stored line, and logs what it finds; a wipe ends and opens its region; a copy takes one line after another, corrected when it can be, and its end records the mapping and logs it; a die map ends when every riser of the die has copied its tile. -/
def Obligations.RiserUpkeep : Prop :=
  ∀ (p : PlotIx) (s : State),
    let x := s.stk.riser p.val
    let n := x.patrol
    let g := s.stk.region p.val (n / 16384)
    let o := readOut g p.val n (s.stk.line (lineId p.val n)) false
    (s.engineOn p.val = true → (s.nv.map.riser p.val).rstate ≠ 3 → n < 524288 → s.riserCut p.val (s.physDie p.val n) = false → g.wiping = false → x.copy = none → x.cmdWait.contains .patrol = false → s.tileTested p.val n = false →
      s.retired p.val (n / 64) = false →
      ∃ t, exec (.memPatrolRead p 0) s = .next t ∧ (t.stk.riser p.val).patrol = (n + 1) % patrolLines s p.val ∧ t.stk.lines = s.stk.lines ∧ t.nv = s.nv ∧ t.fab = s.fab ∧
        (o.err = none → t.stk.log = s.stk.log) ∧
        (∀ e, o.err = some e → e.kind ≠ 0 → ∃ l, t.stk.log.getLast? = some l ∧ l.kind = e.kind ∧ l.plot = p.val ∧ l.addr = n ∧ l.source = 0 ∧ l.seq = s.stk.logSeq ∧ l.time = s.aon.now)) ∧
    (∀ r : Fin 32, s.stackOn = true → x.waiting = [] → ∃ t, exec (.regionWipeDone p r) s = .next t ∧ t.stk.lines = s.stk.lines ∧ t.stk.log = s.stk.log ∧ (∀ j, t.stk.riser j = s.stk.riser j) ∧
      t.nv = s.nv ∧ t.fab = s.fab ∧ t.net = s.net ∧ t.eng = s.eng ∧ t.mc = s.mc ∧
      t.stk.region p.val r.val = { s.stk.region p.val r.val with wiping := false } ∧ ∀ j q, 32 * j + q ≠ 32 * p.val + r.val → t.stk.region j q = s.stk.region j q) ∧
    (∀ (tile k : Nat) (d : Bool), x.copy = some (tile, k, d) → k < 262144 → s.engineOn p.val = true → s.riserCut p.val 4 = false → x.cmdWait.contains .copy = false →
      let id := lineId p.val (262144 * (tile - 1) + k)
      let l := s.stk.line id
      let next := fun (t : State) => (t.stk.riser p.val).copy = some (tile, k + 1, d) ∧ t.nv = s.nv
      (rsDecode (bytesOf l.toNat 80) = .clean → ∃ t, exec (.tileCopyLine p 0) s = .next t ∧ next t ∧ t.stk.lines = s.stk.lines ∧ t.stk.log = s.stk.log) ∧
      (∀ e, rsDecode (bytesOf l.toNat 80) = .fixed e → ∃ t, exec (.tileCopyLine p 0) s = .next t ∧ next t ∧ t.stk.line id = correctLine l e ∧ ∀ i, i ≠ id → t.stk.line i = s.stk.line i) ∧
      (rsDecode (bytesOf l.toNat 80) = .fails → ∃ t y, exec (.tileCopyLine p 0) s = .next t ∧ next t ∧ t.stk.lines = s.stk.lines ∧
        t.stk.log.getLast? = some y ∧ y.kind = 1 ∧ y.source = 5 ∧ y.plot = p.val ∧ y.addr = 262144 * (tile - 1) + k)) ∧
    (∀ tile : Nat, x.copy = some (tile, 262144, false) → ∃ t l, exec (.tileCopyDone p) s = .next t ∧ t.nv.map.riser p.val = { s.nv.map.riser p.val with tileMap := tile } ∧
      (∀ j, j ≠ p.val → t.nv.map.riser j = s.nv.map.riser j) ∧ (t.stk.riser p.val).copy = none ∧ t.stk.log.getLast? = some l ∧ l.kind = 8 ∧ l.plot = p.val ∧ l.die = 2 * (p.val / 256) + (tile - 1)) ∧
    (∀ d : Fin 4, s.stk.dieMapping = some d.val →
      (∀ j, 256 * (d.val / 2) ≤ j → j < 256 * (d.val / 2) + 256 → (s.stk.riser j).copy = some (d.val % 2 + 1, 262144, true) ∨ (s.nv.map.riser j).rstate = 3) →
      ∃ t l, exec (.dieMapDone d) s = .next t ∧ t.nv = { s.nv with map := { s.nv.map with dieMap := d.val + 1 } } ∧ t.stk.dieMapping = none ∧
        (∀ j, 256 * (d.val / 2) ≤ j → j < 256 * (d.val / 2) + 256 → (t.stk.riser j).copy = none) ∧ t.stk.log.getLast? = some l ∧ l.kind = 9 ∧ l.die = d.val)

/-- R351, R352, R354, R355, R358, R371–R377: a WRITE of a memory secret gives the seat its root and MRAM its copy; an idle slot of a sealed region takes the key of the next generation; an ordered RKREQ makes a STEADY region WAITING and is kept otherwise; the flip turns the epoch, starts the count at 1 and begins the pass; the pass seals its next line again with count 0; its end erases the old slot; a held write returns HOLD_TIMEOUT. -/
def Obligations.SealKeysAndRekey : Prop :=
  ∀ (p : PlotIx) (r : Fin 32) (s : State),
    let g := s.stk.region p.val r.val
    let x := s.stk.riser p.val
    let others := fun (t : State) => ∀ j q, 32 * j + q ≠ 32 * p.val + r.val → t.stk.region j q = s.stk.region j q
    (∀ (q : Req) (u : State), admitted s q 0x02 u → fresh s q → q.index = 0x2600 → 1 ≤ q.sub.toNat → q.sub.toNat ≤ 8 → s.mc.window = false →
      objErrs u q.seat.val 0x2600 q.sub.toNat 1 (Req.payload q) (Req.long q) = [] →
      let v : BitVec 256 := BitVec.ofNat 256 (leNat (Req.payload q).reverse)
      ∃ t, exec (.smsWrite q) s = .next t ∧ (t.seat (q.sub.toNat - 1)).sms = some v ∧ (t.seat (q.sub.toNat - 1)).smr = some (smrOf s.nv.duk (q.sub.toNat - 1) s.stk.bootNonce v) ∧
        tget none t.nv.smsCopy (q.sub.toNat - 1) = some v ∧ answered u t q 0x02 0 0 []) ∧
    (∀ m, s.clocksOn = true → s.ownerSmr p.val r.val = some m → g.isSealed = true → (g.key g.epoch).isSome = true → g.key (!g.epoch) = none → g.rk ≠ 2 →
      ∃ t, exec (.keySlotLoad p r) s = .next t ∧ t = { s with stk := { s.stk with regions := t.stk.regions } } ∧ others t ∧ (t.stk.region p.val r.val).key (!g.epoch) = some (regionKey m p.val r.val (g.gen + 1)) ∧
        (t.stk.region p.val r.val).key g.epoch = g.key g.epoch ∧ (t.stk.region p.val r.val).gen = g.gen + 1) ∧
    (∀ rest, takeOrder (.rekey p.val r.val) s.mc.orders = some rest →
      (g.isSealed = false → exec (.rkreq p r) s = .next { s with mc := { s.mc with orders := rest } }) ∧
      (g.isSealed = true → g.rk = 0 → ∃ t, exec (.rkreq p r) s = .next t ∧ t.mc = { s.mc with orders := rest } ∧ others t ∧ t.stk.region p.val r.val = { g with rk := 1, dueOrder := x.dueCount } ∧ t.stk.lines = s.stk.lines) ∧
      (g.isSealed = true → g.rk ≠ 0 → ∃ t, exec (.rkreq p r) s = .next t ∧ t.mc = { s.mc with orders := rest } ∧ others t ∧ t.stk.region p.val r.val = { g with noted := true } ∧ t.stk.lines = s.stk.lines)) ∧
    (g.rk = 1 → (∀ q < 32, q ≠ r.val → (s.stk.region p.val q).rk ≠ 2 ∧ ((s.stk.region p.val q).rk = 1 → g.dueOrder < (s.stk.region p.val q).dueOrder)) → (g.key (!g.epoch)).isSome = true → g.wiping = false →
      g.heldWrites = [] → x.waiting = [] → s.riserRuns p.val (16384 * r.val) = true →
      ∃ t, exec (.rekeyFlip p r) s = .next t ∧ others t ∧ t.stk.lines = s.stk.lines ∧ (∀ j, t.stk.riser j = s.stk.riser j) ∧
        t.stk.region p.val r.val = { g with epoch := !g.epoch, counter := 1, marks := [], progress := 0, rk := 2, heldWrites := [] }) ∧
    (∀ a, a = 16384 * r.val + g.progress → g.rk = 2 → g.progress < 16384 → s.clocksOn = true → s.riserRuns p.val a = true → x.cmdWait.contains .copy = false → x.wc = [] →
      (g.marks.contains a = true ∨ s.retired p.val (a / 64) = true → ∃ t, exec (.rekeyPassLine p r 0) s = .next t ∧ t = { s with stk := { s.stk with regions := t.stk.regions } } ∧ others t ∧ t.stk.region p.val r.val = { g with progress := g.progress + 1 }) ∧
      (g.marks.contains a = false → s.retired p.val (a / 64) = false →
        let o := readOut g p.val a (s.stk.line (lineId p.val a)) true
        (o.resp ≠ 0 → ∃ t l, exec (.rekeyPassLine p r 0) s = .next t ∧ t.stk.lines = s.stk.lines ∧ others t ∧ t.stk.region p.val r.val = { g with progress := g.progress + 1 } ∧
          t.stk.log.getLast? = some l ∧ l.source = 5 ∧ l.plot = p.val ∧ l.addr = a) ∧
        (∀ key, g.isSealed = true → g.key g.epoch = some key → o.resp = 0 →
          ∃ t, exec (.rekeyPassLine p r 0) s = .next t ∧ t.stk.line (lineId p.val a) = sealLine p.val a g.epoch 0 key o.data ∧ (∀ i, i ≠ lineId p.val a → t.stk.line i = s.stk.line i) ∧ others t ∧
            t.stk.region p.val r.val = { g with progress := g.progress + 1, marks := a :: g.marks }))) ∧
    (g.rk = 2 → g.progress = 16384 → s.clocksOn = true → s.engineOn p.val = true → ∃ t, exec (.rekeyPassEnd p r) s = .next t ∧ t.stk.lines = s.stk.lines ∧ others t ∧
      (t.stk.region p.val r.val).key (!g.epoch) = none ∧ (t.stk.region p.val r.val).key g.epoch = g.key g.epoch ∧ (t.stk.region p.val r.val).rk = (if g.noted then 1 else 0) ∧
      (t.stk.region p.val r.val).epoch = g.epoch ∧ (t.stk.riser p.val).rekeys = min 4294967295 (x.rekeys + 1)) ∧
    (∀ (e : WcEntry) (rest : List WcEntry) (k : Seat), g.heldWrites = e :: rest → e.waiters = [.mc k] → x.waiting = [] → s.engineOn p.val = true →
      ∃ t, exec (.holdTimeout p r) s = .next t ∧ t.stk.reply = (respHoldTimeout, 0) ∧ t.stk.region p.val r.val = { g with heldWrites := rest } ∧ t.stk.lines = s.stk.lines ∧
        (t.stk.riser p.val).holdTimeouts = min 4294967295 (x.holdTimeouts + 1))

/-- R386–R392, R409, R416, R417: a waking port whose quad PLL has locked reaches ACQUIRING or IDLE; LINK_UP, LOCK_LOSS and LINK_REACQUIRE move it between ACQUIRING, UP and LOST; a received seal frame whose tag verifies under the key that its KEYID names, and whose counter is not a replay, commits its packet's plaintext and sets the counter to beat, or steps the receive key; a frame with a bad tag is counted, rewinds its packet and changes no key; an ordered KCHG makes a key-change frame due on a sealed port. -/
def Obligations.LinkStatesAndSealFrames : Prop :=
  ∀ (n : PortIx) (s : State),
    let x := s.lnk.port n.val
    let port := fun (t : State) => t.lnk.port n.val
    let others := fun (t : State) => ∀ j, j ≠ n.val → t.lnk.port j = s.lnk.port j
    (s.clocksOn = true →
      (x.link = .waking → (s.lnk.quad (n.val / 4)).pllLocked = true → ∃ t, exec (.portWakeDone n) s = .next t ∧ t = { s with lnk := t.lnk } ∧ others t ∧
        port t = { x with link := if s.portWants n.val = 2 then .acquiring else .idle }) ∧
      (x.link = .acquiring → ∃ t, exec (.linkUp n) s = .next t ∧ t = { s with lnk := { s.lnk with ports := t.lnk.ports } } ∧ others t ∧ port t = { x with link := .up }) ∧
      (x.link = .up → x.rx = none → ∃ t, exec (.lockLoss n) s = .next t ∧ others t ∧ t.net = s.net ∧ (port t).link = .lost ∧
        tget 0 (port t).cnt 0x17 = min 4294967295 (tget 0 x.cnt 0x17 + 1)) ∧
      (∀ rx, x.link = .up → x.rx = some rx → rx.dead = false → ((s.net.queue rx.queue).prod rx.prod).openWords ≠ [] → ∃ t, exec (.lockLoss n) s = .next t ∧ (port t).rx = none ∧ (port t).link = .lost ∧
        ((t.net.queue rx.queue).prod rx.prod).openWords = [] ∧ tget 0 (t.net.queue rx.queue).rw 2 = min 4294967295 (tget 0 (s.net.queue rx.queue).rw 2 + 1)) ∧
      (x.link = .lost → s.linkSupplyOut = false → ∃ t, exec (.linkReacquire n) s = .next t ∧ t = { s with lnk := { s.lnk with ports := t.lnk.ports } } ∧ others t ∧ port t = { x with link := .acquiring }) ∧
      (∀ tag, (∀ l, x.frame = some l → frameTag l ≠ tag) → exec (.sealFrameRx n tag) s = .next s) ∧
      (∀ l, x.frame = some l → x.sealOn = true → s.lnk.keyset n.val = true → sealHeaderOk l = true → l.length = 32 + frameLen l → (byteAt l 1).toNat = x.rxKeyN % 256 →
        let good := gcmGood x.rxKey (x.rxIv l) (l.take 16) (l.drop 16)
        let beats := ∀ c, x.rxLast = some c → c < beField l 8 8
        (good = true → beats → byteAt l 0 = 1 → x.rx = none →
          ∃ t, exec (.sealFrameRx n (frameTag l)) s = .next t ∧ t = { s with lnk := { s.lnk with ports := t.lnk.ports } } ∧ others t ∧ port t = { x with frame := none, rxLast := some (beField l 8 8) }) ∧
        (∀ rx q2, good = true → beats → byteAt l 0 = 1 → x.rx = some rx → rx.dead = false →
          pushWords (s.net.queue rx.queue) rx.prod rx.rank ((queueWords (x.openFrame l)).drop (rx.bytes.length / 32)) = (q2, true) → (q2.prod rx.prod).openWords ≠ [] →
          ∃ t, exec (.sealFrameRx n (frameTag l)) s = .next t ∧ others t ∧ t.net.queue rx.queue = q2.commit rx.prod (frameLen l) ∧ (∀ j, j ≠ rx.queue → t.net.queue j = s.net.queue j) ∧
            (port t).rx = none ∧ (port t).rxLast = some (beField l 8 8) ∧ (port t).pktsRx = (x.pktsRx + 1) % 281474976710656) ∧
        (good = true → beats → byteAt l 0 = 2 →
          ∃ t, exec (.sealFrameRx n (frameTag l)) s = .next t ∧ others t ∧ (port t).rxKeyN = x.rxKeyN + 1 ∧ (port t).rxKey = nextKey x.rxKey x.rxKeyN ∧ (port t).rxLast = none ∧ (port t).frame = none) ∧
        (good = false → x.rx = none → ∃ t, exec (.sealFrameRx n (frameTag l)) s = .next t ∧ others t ∧ t.net = s.net ∧
          port t = { x with frame := none, cnt := (port t).cnt } ∧ tget 0 (port t).cnt 0x1B = min 4294967295 (tget 0 x.cnt 0x1B + 1)) ∧
        (∀ rx, good = false → x.rx = some rx → rx.dead = false → ((s.net.queue rx.queue).prod rx.prod).openWords ≠ [] → ∃ t, exec (.sealFrameRx n (frameTag l)) s = .next t ∧ (port t).rx = none ∧
          (port t).rxKey = x.rxKey ∧ (port t).rxKeyN = x.rxKeyN ∧ (port t).rxLast = x.rxLast ∧ ((t.net.queue rx.queue).prod rx.prod).openWords = [] ∧ (t.net.queue rx.queue).flying = (s.net.queue rx.queue).flying ∧
          tget 0 (t.net.queue rx.queue).rw 3 = min 4294967295 (tget 0 (s.net.queue rx.queue).rw 3 + 1)))) ∧
    (∀ l, s.clocksOn = true → x.frame = some l → x.sealOn = true → s.lnk.keyset n.val = true → sealHeaderOk l = true → l.length = 32 + frameLen l → (byteAt l 1).toNat = (x.rxKeyN + 1) % 256 →
      gcmGood (nextKey x.rxKey x.rxKeyN) (x.rxIv l) (l.take 16) (l.drop 16) = true → byteAt l 0 = 1 → x.rx = none →
      ∃ t, exec (.sealFrameRx n (frameTag l)) s = .next t ∧ others t ∧ (port t).rxKeyN = x.rxKeyN + 1 ∧ (port t).rxKey = nextKey x.rxKey x.rxKeyN ∧ (port t).rxLast = some (beField l 8 8) ∧ (port t).frame = none) ∧
    (∀ rest, takeOrder (.keyChange n.val) s.mc.orders = some rest → ∃ t, exec (.kchg n) s = .next t ∧ t = { s with mc := { s.mc with orders := rest }, lnk := { s.lnk with ports := t.lnk.ports } } ∧ others t ∧
      port t = if x.sealOn then { x with kchgDue := true } else x)

/-- R404, R408–R413, R419–R424, R429, R434, R436–R440: the first bytes of a received packet give the queue that its key, or DEFQ, names, in which its words begin, or the packet is discarded and counted; good line checks commit it and bad ones rewind it with cause LINK; a stream packet of 256 bytes commits; transmission takes the packet chosen by rank, or a due key change, and its end counts it; a bulk WRITE of a line stores it and a READ_REQ of the log changes no memory, each answered, and a bad request is answered with NAK and not performed. -/
def Obligations.PacketsAndBulk : Prop :=
  ∀ (n : PortIx) (s : State), s.clocksOn = true →
    let x := s.lnk.port n.val
    let port := fun (t : State) => t.lnk.port n.val
    let bump := fun (k : Nat) => min 4294967295 (tget 0 x.cnt k + 1)
    (x.link = .up → x.frame = none →
      (∀ bytes, x.streamOn = false → x.rx = none → bytes.length ≤ x.leadLen + 64 → x.hears bytes = true →
        let line := bytes.drop x.stripLen
        let seen := if x.sealOn then x.openFrame line else line
        (x.sealOn = true → s.lnk.keyset n.val = true ∧ sealHeaderOk line = true ∧ (x.keyFor line).isSome = true ∧ byteAt line 0 = 1) →
        let hit := s.lnk.lookup n.val (steerKey x.keyx seen)
        let q := match hit with | some e => e.queue | none => x.defq.toNat
        let rank := match hit with | some e => e.rank | none => x.defrank
        let discarded := fun (t : State) => t.net = s.net ∧ ∃ rx, (port t).rx = some rx ∧ rx.dead = true
        (hit = none → x.defq = 0xFFFF → s.sowingDrop n.val 0xFFFF = false →
          ∃ t, exec (.steeringLookup n bytes) s = .next t ∧ discarded t ∧ tget 0 (port t).cnt 0x18 = bump 0x18 ∧ tget 0 (port t).cnt 0x19 = bump 0x19) ∧
        (∀ e, hit = some e → e.needSeal = true → x.sealOn = false → s.sowingDrop n.val e.queue = false → ∃ t, exec (.steeringLookup n bytes) s = .next t ∧ discarded t ∧ tget 0 (port t).cnt 0x1A = bump 0x1A) ∧
        ((hit = none → x.defq ≠ 0xFFFF) → (∀ e, hit = some e → e.needSeal = true → x.sealOn = true) → s.sowingDrop n.val q = false →
          (qdEnable (s.net.queue q).dir = false ∨ (s.net.queue q).prodOf (epPortRx n.val) = none → ∃ t, exec (.steeringLookup n bytes) s = .next t ∧ discarded t ∧ tget 0 (port t).cnt 0x20 = bump 0x20) ∧
          (∀ i q2, qdEnable (s.net.queue q).dir = true → (s.net.queue q).prodOf (epPortRx n.val) = some i → x.tsrx = false → pushWords (s.net.queue q) i rank ((queueWords seen).take (seen.length / 32)) = (q2, true) →
            ∃ t rx, exec (.steeringLookup n bytes) s = .next t ∧ t.net.queue q = q2 ∧ (∀ j, j ≠ q → t.net.queue j = s.net.queue j) ∧ (port t).rx = some rx ∧
              rx.queue = q ∧ rx.rank = rank ∧ rx.prod = i ∧ rx.bytes = seen ∧ rx.dead = false ∧ tget 0 (port t).cnt 0x18 = if hit = none then bump 0x18 else tget 0 x.cnt 0x18))) ∧
      (∀ rx (e : RxEnd), x.streamOn = false → x.sealOn = false → (x.lpbk = true → ∃ l rest, x.loop = l :: rest ∧ l.drop (x.stripLen + rx.bytes.length) = e.rest) → x.rx = some rx → rx.dead = false →
        let all := rx.bytes ++ e.rest
        let body := if x.fcs then all.take (all.length - 4) else all
        (∀ q2, (x.fcs = true → 4 ≤ e.rest.length ∧ all.drop (all.length - 4) = leBytes 4 (crc32 body).toNat) → (x.pcs = 1 → e.codeViolation = false) → (x.pcs = 3 → e.badLength = false) → (4 ≤ x.pcs → e.fecUncorrectable = 0) → e.lockLost = false →
          pushWords (s.net.queue rx.queue) rx.prod rx.rank ((queueWords body).drop (rx.bytes.length / 32)) = (q2, true) → (q2.prod rx.prod).openWords ≠ [] →
          ∃ t, exec (.packetRxEnd n e) s = .next t ∧ t.net.queue rx.queue = q2.commit rx.prod body.length ∧ (∀ j, j ≠ rx.queue → t.net.queue j = s.net.queue j) ∧
            (port t).rx = none ∧ (port t).pktsRx = (x.pktsRx + 1) % 281474976710656 ∧ (port t).bytesRx = (x.bytesRx + body.length) % 281474976710656) ∧
        ((x.pcs = 1 ∧ e.codeViolation = true) ∨ (x.pcs = 3 ∧ e.badLength = true) ∨ (4 ≤ x.pcs ∧ e.fecUncorrectable ≠ 0) ∨ e.lockLost = true ∨
            (x.fcs = true ∧ all.drop (all.length - 4) ≠ leBytes 4 (crc32 body).toNat) → ((s.net.queue rx.queue).prod rx.prod).openWords ≠ [] →
          ∃ t, exec (.packetRxEnd n e) s = .next t ∧ (port t).rx = none ∧ (t.net.queue rx.queue).flying = (s.net.queue rx.queue).flying ∧ ((t.net.queue rx.queue).prod rx.prod).openWords = [] ∧
            tget 0 (t.net.queue rx.queue).rw 2 = min 4294967295 (tget 0 (s.net.queue rx.queue).rw 2 + 1) ∧ (port t).pktsRx = x.pktsRx)) ∧
      (∀ bytes i q2, x.streamOn = true → bytes.length = 256 → x.tsrx = false → x.defq ≠ 0xFFFF → s.sowingDrop n.val x.defq.toNat = false → qdEnable (s.net.queue x.defq.toNat).dir = true →
        (s.net.queue x.defq.toNat).prodOf (epPortRx n.val) = some i → pushWords (s.net.queue x.defq.toNat) i x.defrank (queueWords bytes) = (q2, true) →
        ∃ t, exec (.streamRxPacket n bytes) s = .next t ∧ t.net.queue x.defq.toNat = q2.commit i 256 ∧ (∀ j, j ≠ x.defq.toNat → t.net.queue j = s.net.queue j) ∧
          (port t).pktsRx = (x.pktsRx + 1) % 281474976710656 ∧ (port t).bytesRx = (x.bytesRx + 256) % 281474976710656) ∧
      (∀ i k q', x.tx = none → (x.sealOn = true → s.lnk.keyset n.val = true ∧ x.kchgDue = false) → s.pickEgress n.val = some i → (s.net.queue (egressQueue n.val i)).takePkt = some (k, q') →
        ∃ t tx, exec (.packetTxStart n) s = .next t ∧ t.net.queue (egressQueue n.val i) = q' ∧ (∀ j, j ≠ egressQueue n.val i → t.net.queue j = s.net.queue j) ∧ (port t).tx = some tx ∧ tx.bytes = k.bytes ∧ tx.eq = i ∧ tx.keyChange = false ∧ (port t).rr = i ∧
          (x.streamOn = true → x.sealOn = false → tx.line = k.bytes) ∧ (x.streamOn = false → x.sealOn = false → tx.line = x.lineBytes k.bytes) ∧
          (x.streamOn = false → x.sealOn = true → tx.line = x.lineBytes (x.sealFrame 1 k.bytes) ∧ (port t).txCtr = x.txCtr + 1)) ∧
      (x.tx = none → x.sealOn = true → s.lnk.keyset n.val = true → x.kchgDue = true →
        ∃ t tx, exec (.packetTxStart n) s = .next t ∧ t.net = s.net ∧ (port t).tx = some tx ∧ tx.keyChange = true ∧ tx.line = x.lineBytes (x.sealFrame 2 []) ∧
          (port t).txKeyN = x.txKeyN + 1 ∧ (port t).txKey = nextKey x.txKey x.txKeyN ∧ (port t).txCtr = 0 ∧ (port t).kchgDue = false)) ∧
    (∀ tx, x.tx = some tx → tx.keyChange = true ∨ x.tstx.testBit tx.eq = false → ∃ t, exec (.packetTxEnd n) s = .next t ∧ t = { s with lnk := { s.lnk with ports := t.lnk.ports, quads := t.lnk.quads } } ∧
      port t = { x with
        tx := none, lastLine := if x.lpbk then [] else tx.line, loop := if x.lpbk && !x.streamOn then x.loop ++ [tx.between] else x.loop
        pktsTx := if tx.keyChange then x.pktsTx else (x.pktsTx + 1) % 281474976710656
        bytesTx := if tx.keyChange then x.bytesTx else (x.bytesTx + tx.bytes.length) % 281474976710656
        txSeq := if tx.keyChange then x.txSeq else (x.txSeq + 1) % 65536 }) ∧
    (∀ tx i, x.tx = some tx → tx.keyChange = false → x.tstx.testBit tx.eq = true → qdEnable (s.net.queue x.defq.toNat).dir = true → (s.net.queue x.defq.toNat).prodOf (epPortRx n.val) = some i →
      (64 : Int) < ((s.net.queue x.defq.toNat).prod i).credits → ∃ t pkt, exec (.packetTxEnd n) s = .next t ∧ (port t).tx = none ∧ (t.net.queue x.defq.toNat).flight = (s.net.queue x.defq.toNat).flight ++ [.commit pkt] ∧
        pkt.prod = i ∧ pkt.rank = x.defrank ∧ pkt.words.map (·.data) = [portWord tx.stamp n.val 1 tx.eq x.txSeq ((tx.bytes ++ List.replicate 16 0).take 16)]) ∧
    (∀ (c : Fin 64) (seat : Nat) (r : BulkReq) (q' : Queue), bulkFront s c.val = some (seat, r, q') →
      let b := s.lnk.bdma c.val
      let ready := fun (op status : Nat) (data : List Byte) => (bulkAnswer s c.val r q' op status r.addr data).isSome = true
      (∀ a, r.op = 1 → r.fault c.val = none → b.seqs.contains r.seq = false → b.part = none → b.wait = none → r.space = 0 → r.len = 64 → r.addr = 64 * a → r.payload.length = 64 → ready 4 0 [] →
        s.refusals r.plot a (.dma c) (some seat) true = [] → bulkBusy s r.plot a (.dma c) = false → (s.stk.riser r.plot).wc = [] → (s.stk.region r.plot (a / 16384)).isSealed = false →
        ∃ t, exec (.bulkWrite c) s = .next t ∧ t.stk.line (lineId r.plot a) = openLine (lineId r.plot a) (lineBytes r.payload) ∧ (∀ i, i ≠ lineId r.plot a → t.stk.line i = s.stk.line i) ∧
          (t.lnk.bdma c.val).requests = min 4294967295 (b.requests + 1) ∧ (t.lnk.bdma c.val).seqs = (r.seq :: b.seqs).take 16) ∧
      (r.op = 1 → r.fault c.val = none → bulkHeld s c r = false → b.seqs.contains r.seq = true → ready 4 0 [] → ∃ t, exec (.bulkWrite c) s = .next t ∧ t.stk = s.stk ∧ t.net.scr = s.net.scr ∧ t.lnk = s.lnk) ∧
      (r.op = 2 → r.fault c.val = none → r.space = 3 →
        ready 3 0 (((s.stk.log.filter fun e => decide (r.addr ≤ e.seq) && s.stk.mayRead seat e).take (r.len / 32)).flatMap LogEntry.bytes) →
        ∃ t, exec (.bulkReadReq c) s = .next t ∧ t.stk = s.stk ∧ t.net.scr = s.net.scr ∧ (t.lnk.bdma c.val).requests = min 4294967295 (b.requests + 1) ∧ (t.lnk.bdma c.val).naks = b.naks) ∧
      (∀ st, r.fault c.val = some st → ready 5 st [] → ∃ t, exec (.bulkBadRequest c) s = .next t ∧ t.stk = s.stk ∧ t.net.scr = s.net.scr ∧ (t.lnk.bdma c.val).naks = min 4294967295 (b.naks + 1) ∧ (t.lnk.bdma c.val).requests = b.requests))

/-! ## Bus, sessions, turns, snapshots -/

/-- R442, R446–R449, R455, R458, R461–R465, R475, R478, R481–R483, R500, R675: an admitted request of each function has its effect and is answered, or gets the first error code in order and changes nothing but its session's record; a WRITE in an application window waits; an immediate TURN waits for its tick; a request without a session gets AUTH; an ignored frame draws no reply. -/
def Obligations.BusTransactions : Prop :=
  ∀ (r : Req) (s : State), fresh s r →
    let k := r.seat.val
    let i := r.index.toNat
    let sub := r.sub.toNat
    let d := Req.payload r
    let long := Req.long r
    let only := fun (t : State) => t = { s with mc := t.mc, seats := t.seats } ∧ ∀ j, j ≠ k → t.seat j = s.seat j
    let refused := fun (u : State) (c : Instr) (func : Nat) (errs : List Nat) => errs ≠ [] → ∃ t, exec c s = .next t ∧ only t ∧ answered u t r func (firstErr errs) 0 [] ∧
      (t.seat k).staged = (u.seat k).staged ∧ (t.seat k).turn.isSome = (u.seat k).turn.isSome
    (∀ u, admitted s r 1 u → refused u (.read r) 1 (objErrs u k i sub 0 d long) ∧
      (objErrs u k i sub 0 d long = [] → placeOf i ≠ .user → ¬(i = 0x2500 ∧ sub = 3) → ∃ t, exec (.read r) s = .next t ∧ only t ∧ answered u t r 1 0 (objValue u k i sub).length (objValue u k i sub)) ∧
      (∀ v resp l, objErrs u k i sub 0 d long = [] → placeOf i = .user → sub ≠ 0 → userHeld u k i sub 0 d long = false → userRead u i sub = (v, resp, l) →
        ∃ t, exec (.read r) s = .next t ∧ t.nv = v.nv ∧ t.fab = v.fab ∧ t.net = v.net ∧ (resp = 0 → answered u t r 1 0 l.length l) ∧ (resp ≠ 0 → answered u t r 1 (errOfResp resp) 0 [])) ∧
      (userHeld u k i sub 0 d long = true → ∃ t, exec (.read r) s = .next t ∧ only t ∧ t.mc = { s.mc with out := [], heldFill := s.mc.heldFill ++ [(1, r)] } ∧ (t.seat k).running = some r.seq) ∧
      (i = 0x2500 → sub = 3 → objErrs u k i sub 0 d long = [] →
        (nextLog u k = none → ∃ t, exec (.nextEntry r) s = .next t ∧ only t ∧ answered u t r 1 errState 0 []) ∧
        (∀ e, nextLog u k = some e → ∃ t, exec (.nextEntry r) s = .next t ∧ only t ∧ answered u t r 1 0 32 e.bytes ∧ (t.seat k).cursor = (e.seq + 1) % 4294967296))) ∧
    (∀ u, admitted s r 2 u →
      (s.mc.window = false → refused u (.write r) 2 (objErrs u k i sub 1 d long) ∧
        (objErrs u k i sub 1 d long = [] → placeOf i ≠ .user → ∃ t, exec (.write r) s = .next t ∧ answered u t r 2 0 0 [] ∧ t.aon = s.aon ∧ t.nv = (applyWrite u k i sub d).nv ∧ t.fab = (applyWrite u k i sub d).fab ∧
          t.net = (applyWrite u k i sub d).net ∧ t.eng = (applyWrite u k i sub d).eng ∧ t.stk = (applyWrite u k i sub d).stk ∧ t.lnk = (applyWrite u k i sub d).lnk) ∧
        (∀ v resp, objErrs u k i sub 1 d long = [] → placeOf i = .user → userHeld u k i sub 1 d long = false → userWrite u i sub d = (v, resp) →
          ∃ t, exec (.write r) s = .next t ∧ answered u t r 2 (errOfResp resp) 0 [] ∧ t.fab = v.fab ∧ t.net = v.net) ∧
        (userHeld u k i sub 1 d long = true → ∃ t, exec (.write r) s = .next t ∧ only t ∧ t.mc = { s.mc with out := [], heldFill := s.mc.heldFill ++ [(2, r)] } ∧ (t.seat k).running = some r.seq)) ∧
      (s.mc.window = true → ∃ t, exec (.write r) s = .next t ∧ only t ∧ t.mc = { s.mc with out := [], heldWrites := s.mc.heldWrites ++ [r] } ∧ (t.seat k).running = some r.seq)) ∧
    (∀ u, admitted s r 3 u → refused u (.stage r) 3 (objErrs u k i sub 2 d long ++ if putItems (u.seat k).staged [{ index := i, sub := sub, data := d }] = none then [errStageFull] else []) ∧
      (∀ l, objErrs u k i sub 2 d long = [] → putItems (u.seat k).staged [{ index := i, sub := sub, data := d }] = some l → ∃ t, exec (.stage r) s = .next t ∧ only t ∧ (t.seat k).staged = l ∧
        answered u t r 3 0 4 (leBytes 2 l.length ++ leBytes 2 (stagedBytes l)))) ∧
    (∀ u, admitted s r 4 u → d = [] → long = false →
      let x := u.seat k
      let rep := reportOf s.aon.now 0 x.staged (checkItems (u.checkBase k) k x.staged)
      (rep.result ≠ 2 → ∃ t, exec (.check r) s = .next t ∧ only t ∧ answered u t r 4 0 0 [] ∧ (t.seat k).report = rep ∧ (t.seat k).staged = x.staged) ∧
      (rep.result = 2 → ∃ t, exec (.check r) s = .next t ∧ only t ∧ answered u t r 4 errCheckFailed (failData rep).length (failData rep) ∧ (t.seat k).report = rep ∧ (t.seat k).staged = x.staged)) ∧
    (∀ u, admitted s r 5 u → (u.seat k).staged ≠ [] → (u.seat k).turn = none → (u.seat k).deferred = [] → long = false →
      let x := u.seat k
      let rep := reportOf s.aon.now 1 x.staged (checkItems (u.checkBase k) k x.staged)
      let timed := d.length = 10 ∧ leField d 0 4 < 1000000000 ∧ s.aon.now + 1000000 ≤ ofTime80 d ∧ ofTime80 d ≤ s.aon.now + 86400000000000 ∧ s.aon.mode ≠ some .sowing
      (d = [] → rep.result ≠ 2 → ∃ t q, exec (.turn r) s = .next t ∧ t.mc.out = [] ∧ (t.seat k).staged = [] ∧ (t.seat k).running = some r.seq ∧
        (t.seat k).turn = some q ∧ q.items = x.staged ∧ q.at? = none ∧ q.req.isSome = true ∧ t.nv = s.nv ∧ t.net = s.net ∧ t.stk = s.stk) ∧
      (timed → rep.result ≠ 2 → ∃ t q, exec (.turn r) s = .next t ∧ only t ∧ answered u t r 5 0 10 d ∧ (t.seat k).turn = some q ∧ q.items = x.staged ∧ q.at? = some (ofTime80 d) ∧ (t.seat k).staged = []) ∧
      (d = [] ∨ timed → rep.result = 2 → ∃ t, exec (.turn r) s = .next t ∧ only t ∧ answered u t r 5 errCheckFailed (failData rep).length (failData rep) ∧ (t.seat k).staged = x.staged ∧ (t.seat k).turn = none)) ∧
    (∀ u, admitted s r 6 u → long = false →
      (d = [] → ∃ t, exec (.discard r) s = .next t ∧ only t ∧ answered u t r 6 0 0 [] ∧ (t.seat k).staged = []) ∧
      (d = [1] → u.turnReached k = false → (∀ q, (u.seat k).turn = some q → q.at? ≠ none) →
        ∃ t, exec (.discard r) s = .next t ∧ only t ∧ answered u t r 6 0 0 [] ∧ (t.seat k).turn = none ∧ (t.seat k).deferred = [] ∧ (t.seat k).staged = (u.seat k).staged)) ∧
    (∀ u, admitted s r 0x0B u → refused u (.winRead r) 0x0B (winReadErrs u k i d long).1 ∧
      (∀ l, winReadErrs u k i d long = ([], l) → ∃ t, exec (.winRead r) s = .next t ∧ only t ∧ answered u t r 0x0B 0 l.length l)) ∧
    (∀ u, admitted s r 0x0C u →
      (∀ errs its, winWriteErrs u k i d long = (errs, its) → refused u (.winWrite r) 0x0C (errs ++ if putItems (u.seat k).staged its = none then [errStageFull] else [])) ∧
      (∀ its l, winWriteErrs u k i d long = ([], its) → putItems (u.seat k).staged its = some l →
        ∃ t, exec (.winWrite r) s = .next t ∧ only t ∧ (t.seat k).staged = l ∧ answered u t r 0x0C 0 4 (leBytes 2 l.length ++ leBytes 2 (stagedBytes l)))) ∧
    (∀ u, admitted s r 0x0F u → d = [] → long = false → ∃ t, exec (.ping r) s = .next t ∧ only t ∧ answered u t r 0x0F 0 0 []) ∧
    (∀ u, admitted s r 0x10 u → d.length = 4 → long = false →
      ((u.seat k).attnSeq < leNat d → ∃ t, exec (.attnAck r) s = .next t ∧ only t ∧ answered u t r 0x10 errRange 0 []) ∧
      (leNat d ≤ (u.seat k).attnSeq → ∃ t, exec (.attnAck r) s = .next t ∧ only t ∧ answered u t r 0x10 0 0 [] ∧
        ∀ c, 1 ≤ c → c ≤ 7 → (t.seat k).pend.getLsbD c = ((u.seat k).pend.getLsbD c && decide (leNat d < (tget {} (u.seat k).events c).seq)))) ∧
    (∀ (func : Byte) (u : State), admitted s r func.toNat u → requestFunc func.toNat = false → ∃ t, exec (.reservedFunc r func) s = .next t ∧ only t ∧ answered u t r func.toNat errNoObject 0 []) ∧
    (∀ why, exec (.canFrameIgnored why) s = .next { s with mc := { s.mc with out := [] } }) ∧
    ((s.seat k).isOpen = false → s.busUp = true → r.node = s.aon.node → r.short = false → s.aon.failedTest = 0 → ∃ t status, exec (.ping r) s = .next t ∧ t = { s with mc := t.mc } ∧
      t.mc.out = [{ seat := k, prio := r.prio, seq := r.seq, func := 0x0F, status := status, error := 0x0C }])

/-- R451–R454, R457, R466–R470, R640–R642: a segmented transfer starts with its length, takes its blocks frame by frame, sends a block of the certificate in frames of 52 bytes, judges a life-cycle token at its last frame, and ends by SEG_ACK or a second of silence; an opening takes the two parts of each side, opens the session under fresh keys and counters, or is abandoned; SESSION_CLOSE ends a session after its reply. -/
def Obligations.SegmentsAndSessions : Prop :=
  (∀ (r : Req) (s : State),
    let k := r.seat.val
    let i := r.index.toNat
    let d := Req.payload r
    let long := Req.long r
    (fresh s r →
      (∀ u, admitted s r 7 u → segErrs u k i r.sub.toNat false d long = [] →
        let total := if i = 0x1002 then s.nv.certificate.length else (u.imageAt k).2
        ∃ t, exec (.segRead r) s = .next t ∧ t = { s with mc := t.mc, seats := t.seats } ∧ answered u t r 7 0 4 (leBytes 4 total) ∧
          ((u.seat k).reqCtr < 4294967295 → (u.seat k).repCtr + 1 < 4294967295 → (t.seat k).seg = some { isWrite := false, index := i, total := total, seq := r.seq })) ∧
      (∀ u, admitted s r 8 u → segErrs u k i r.sub.toNat true d long = [] →
        ∃ t, exec (.segWrite r) s = .next t ∧ t = { s with mc := t.mc, seats := t.seats } ∧ answered u t r 8 0 0 [] ∧
          ((u.seat k).reqCtr < 4294967295 → (u.seat k).repCtr + 1 < 4294967295 → (t.seat k).seg = some { isWrite := true, index := i, total := leNat d, seq := r.seq } ∧
            (i ≠ 0x2101 → (t.seat k).stream = some { src := .segWrite, next := 0, offset := 0 }))) ∧
      (∀ u, admitted s r 0x0E u → d = [] → long = false → ∃ t, exec (.sessionClose r) s = .next t ∧ answered u t r 0x0E 0 0 [] ∧ (t.seat k).isOpen = false ∧ (t.seat k).staged = (s.seat k).staged ∧ ∀ j, j ≠ k → t.seat j = s.seat j) ∧
      (∀ (u : State) (j : Seat), admitted s r 0x0E u → k = 0 → j.val ≠ 0 → d = [BitVec.ofNat 8 j.val] → long = false → ∃ t, exec (.sessionClose r) s = .next t ∧ answered u t r 0x0E 0 0 [] ∧ (t.seat j.val).isOpen = false)) ∧
    (∀ g : Seg, (s.seat k).seg = some g → g.seq = r.seq → g.ended = false →
      let f := r.sub.toNat + 256 * r.len.toNat
      let want := min 52 (blockLen g.total g.block - 52 * f)
      (∀ (u : State) sig pts, admitted s r 9 u → g.isWrite = true → i = g.block → f = g.frame → 0 < want → want ≤ r.data.length → f + 1 ≠ frameCount (blockLen g.total g.block) →
        ∃ t, exec (.segData r sig pts) s = .next t ∧ t.mc.out = [] ∧ t = { s with mc := t.mc, seats := t.seats } ∧ (t.seat k).seg = some { g with frame := g.frame + 1, got := g.got ++ r.data.take want }) ∧
      (∀ (u : State) sig pts, admitted s r 9 u → g.isWrite = true → i = g.block → f = g.frame → 0 < want → want ≤ r.data.length → f + 1 = frameCount (blockLen g.total g.block) → g.blockOk = true → g.index = 0x2101 →
        let tok := g.got ++ r.data.take want
        let e := tokenErr u tok sig pts
        ∃ t, exec (.segData r sig pts) s = .next t ∧ answered u t r 9 e g.block [] ∧ t.mc.tokenResult = e ∧ (t.seat k).seg = none ∧ t.nv = s.nv ∧
          (e = errOk → t.mc.orders = s.mc.orders ++ [.life (leField tok 3 1) (tokenOf tok)]) ∧ (e ≠ errOk → t.mc.orders = s.mc.orders)) ∧
      (∀ u, admitted s r 0x0A u → g.isWrite = false → d.length = 2 → long = false → g.total ≤ 16384 * leNat d ∨ (leNat d = 0 ∧ g.total ≤ 16384 * g.block) →
        ∃ t, exec (.segAck r) s = .next t ∧ answered u t r 0x0A 0 0 [] ∧ (t.seat k).seg = none ∧ t = { s with mc := t.mc, seats := t.seats }) ∧
      (∀ u, admitted s r 0x0A u → g.isWrite = false → d.length = 2 → long = false → g.index = 0x1002 → 16384 * leNat d < g.total → g.total = s.nv.certificate.length → (leNat d = 0 → 16384 * g.block < g.total) →
        (u.seat k).reqCtr < 4294967295 → (u.seat k).repCtr + 400 < 4294967295 →
        ∃ t, exec (.segAck r) s = .next t ∧ (t.mc.out.flatMap fun q => q.data) = (s.nv.certificate.drop (16384 * leNat d)).take 16384 ∧ (∀ q ∈ t.mc.out, q.data.length ≤ 52 ∧ q.func = 9 ∧ q.error = 0) ∧
          t.stk = s.stk ∧ t.nv = s.nv))) ∧
  (∀ (k : Seat) (s : State), (∃ t, exec (.segTransferTimeout k) s = .next t ∧ (t.seat k.val).seg = none ∧ (t.seat k.val).isOpen = (s.seat k.val).isOpen ∧ ∀ j, j ≠ k.val → t.seat j = s.seat j) ∧
    ∃ t, exec (.sessionOpenTimeout k) s = .next t ∧ t = { s with seats := t.seats } ∧ t.seat k.val = { s.seat k.val with opening := none }) ∧
  ∀ (o : OpenPart) (s : State), s.busUp = true → o.node = s.aon.node →
    let k := o.seat.val
    (∀ ok, o.part = 0 → o.data.length = 60 → ∃ t, exec (.sessionOpenQh o ok) s = .next t ∧ t.mc.out = [] ∧ (t.seat k).opening = some { step := 1, part := 1, seq := o.seq, qh := o.data } ∧ (t.seat k).isOpen = (s.seat k).isOpen) ∧
    (∀ x, (s.seat k).opening = some x → x.step = 1 → o.part = 1 → o.data.length = 36 → openErrs s k = [] →
      (∃ t y, exec (.sessionOpenQh o true) s = .next t ∧ (t.seat k).opening = some y ∧ y.step = 3 ∧ y.part = 0 ∧ y.qh = x.qh ++ o.data ∧ t.mc.out.map (fun q => q.aux.toNat) = [0x200, 0x201, 0x202, 0x203] ∧
        (t.mc.out.map fun q => q.data.length) = [60, 60, 60, 28] ∧ (t.seat k).isOpen = (s.seat k).isOpen) ∧
      (∃ t, exec (.sessionOpenQh o false) s = .next t ∧ (t.seat k).opening = none ∧ t.mc.out.map (·.error) = [0x05])) ∧
    (∀ x ok, (s.seat k).opening = some x → x.step = 3 → x.part = 0 → o.part = 0 → o.data.length = 60 →
      ∃ t, exec (.sessionOpenSigh o ok) s = .next t ∧ t.mc.out = [] ∧ (t.seat k).opening = some { x with part := 1, sigh := o.data }) ∧
    (∀ x, (s.seat k).opening = some x → x.step = 3 → x.part = 1 → o.part = 1 → o.data.length = 36 → s.aon.mode ≠ some .zeroised → s.nv.life ≠ .decommissioned → s.aon.failedTest = 0 → hasCred s.nv k (s.seat k) = true →
      (∃ t, exec (.sessionOpenSigh o true) s = .next t ∧ (t.seat k).isOpen = true ∧ (t.seat k).reqCtr = 0 ∧ (t.seat k).repCtr = 0 ∧ (t.seat k).openedAt = s.aon.now ∧
        (t.seat k).kreq = sessionKey x.z x.th 0x31 ∧ (t.seat k).krep = sessionKey x.z x.th 0x32 ∧ (t.seat k).opening = none ∧ (t.seat k).last = none ∧ (t.seat k).staged = (s.seat k).staged) ∧
      (∃ t, exec (.sessionOpenSigh o false) s = .next t ∧ (t.seat k).isOpen = (s.seat k).isOpen ∧ (t.seat k).opening = none ∧ (t.seat k).authFail = some s.aon.now ∧ t.mc.out.map (·.error) = [0x0C]))

/-- R432, R484, R511, R618, R623, R625–R628, R671: the window of the coming tick opens; at the tick a due turn applies whole or is discarded with its report; a dictionary service request and a user attention are taken from their queues; ordered STEP and OFFSET set the counter; triggered snapshots copy the shadows that are free and skip the others, the image stands whole in the scratchpad, and the counter orders clear a seat's counters and flags. -/
def Obligations.TurnsAndSnapshots : Prop :=
  ∀ s : State,
    (s.mcUp = true → s.mc.window = false → s.windowTurns ≠ [] ∨ s.pendingTurns ≠ [] → ∃ t, exec .turnWindowStart s = .next t ∧ t = { s with mc := { s.mc with window := true }, fab := t.fab, eng := t.eng } ∧
      ((∀ e ∈ s.windowTurns, e.2.at? = none) → t.fab = s.fab ∧ t.eng = s.eng)) ∧
    (∀ (k : Nat) (q : Turn), s.mcUp = true → s.aon.failedTest = 0 → s.dueTurns = [(k, q)] → s.mc.heldWrites = [] → s.mc.orders = [] → takesSnap [(k, q)] = false →
      let rep := reportOf s.aon.now q.source q.items (checkItems (({ s with mc := { s.mc with out := [] } } : State).recheckBase k) k q.items)
      let v := ({ s with mc := { s.mc with out := [] } } : State).onSeat k fun x => { x with turn := none, report := rep }
      (rep.result = 2 → ∃ t, exec .turnApply s = .next t ∧ (t.seat k).turn = none ∧ (t.seat k).report = rep ∧ t.mc.window = false ∧ t.nv = s.nv ∧ t.stk = s.stk ∧ t.eng = s.eng) ∧
      (rep.result ≠ 2 → (∀ j, (s.seat j).stream = none) → ∃ t, exec .turnApply s = .next t ∧ (t.seat k).turn = none ∧ (t.seat k).report = rep ∧ t.mc.window = false ∧
        t.nv = (applyTurn v k q.items).nv ∧ t.stk = (applyTurn v k q.items).stk ∧ t.eng = (applyTurn v k q.items).eng)) ∧
    (∀ (k : Seat) (j : Fin 16) (pkt : Pkt) (q' : Queue), s.clocksOn = true → (s.net.queue (mcQueue k.val j.val)).runs = true → qdConsumer (s.net.queue (mcQueue k.val j.val)).dir = epMc →
      (s.net.queue (mcQueue k.val j.val)).takePkt = some (pkt, q') →
      let s' := { s with net := s.net.setQueue (mcQueue k.val j.val) q' }
      (pkt.bytes.length < 8 → exec (.mcDictionaryRequest k j) s = .next s') ∧
      (∀ i, 8 ≤ pkt.bytes.length → s'.replyProd k.val (leField pkt.bytes 2 2) = some i → (s.seat k.val).mcLast = none → (s.seat k.val).mcRunning = none → byteAt pkt.bytes 0 = 0x0F → byteAt pkt.bytes 7 = 0 →
        let y := s'.net.queue (leField pkt.bytes 2 2)
        1 ≤ (y.prod i).credits → (y.prod i).openWords = [] → (y.prod i).discarding = false →
        ∃ t rep, exec (.mcDictionaryRequest k j) s = .next t ∧ t = { s with net := t.net, seats := t.seats } ∧ (t.seat k.val).mcLast = some rep ∧ rep.error = 0 ∧ rep.seq = byteAt pkt.bytes 1 ∧
          ∃ o, (t.net.queue (leField pkt.bytes 2 2)).flight = y.flight ++ [.commit o] ∧ o.rank = pkt.rank ∧ o.words.length = 1)) ∧
    (∀ (k : Seat) (pkt : Pkt) (q' : Queue), s.clocksOn = true → (s.net.queue (41104 + k.val)).runs = true → qdConsumer (s.net.queue (41104 + k.val)).dir = epMc → (s.net.queue (41104 + k.val)).takePkt = some (pkt, q') →
      let c := leField pkt.bytes 0 1
      (pkt.bytes.length = 9 → 1 ≤ c → c ≤ 7 → hasCred s.nv k.val (s.seat k.val) = true → ∃ t, exec (.userAttention k) s = .next t ∧ t.net = s.net.setQueue (41104 + k.val) q' ∧ (t.seat k.val).pend.getLsbD c = true) ∧
      (pkt.bytes.length ≠ 9 ∨ c = 0 ∨ 7 < c → exec (.userAttention k) s = .next { s with net := s.net.setQueue (41104 + k.val) { q' with dropped := min 4294967295 (q'.dropped + 1) } })) ∧
    (∀ (v : Nat) (rest : List Order), s.mc.orders = .step v :: rest → exec .step s = .next { s with mc := { s.mc with orders := rest }, aon := { s.aon with now := min maxTime v } }) ∧
    (∀ (v : Int) (rest : List Order), s.mc.orders = .offset v :: rest → ∃ t, exec .offset s = .next t ∧ t = { s with mc := { s.mc with orders := rest }, aon := { s.aon with now := t.aon.now } } ∧
      ((s.aon.now : Int) + v < 0 → t.aon.now = 0) ∧ (0 ≤ (s.aon.now : Int) + v → (s.aon.now : Int) + v ≤ maxTime → (t.aon.now : Int) = s.aon.now + v) ∧ (maxTime < (s.aon.now : Int) + v → t.aon.now = maxTime)) ∧
    (∀ (k : Seat) (rest : List Order), takeOrder (.snap k.val) s.mc.orders = some rest → s.mc.preSnap = [] →
      exec (.snap k) s = .next { s with mc := { s.mc with orders := rest, snapDue := s.mc.snapDue ++ [{ instant := s.aon.now, seat := k.val }] } }) ∧
    (∀ k : Seat, s.stackHeld = true → s.mc.snapDue = [{ instant := s.aon.now, seat := k.val }] → s.mc.preSnap = [] →
      ∃ t, exec .snapshot s = .next t ∧ t = { s with mc := { s.mc with snaps := t.mc.snaps, snapDue := [] }, net := { s.net with scr := t.net.scr }, seats := t.seats } ∧
      (∀ j < 8, (t.seat j).staged = (s.seat j).staged ∧ (t.seat j).turn = (s.seat j).turn) ∧ ∀ j < 8,
        let x := s.mc.snap j
        (x.accept.getLsbD k.val = false → t.mc.snap j = x) ∧
        (x.accept.getLsbD k.val = true → x.writing = true → t.mc.snap j = { x with skipped := min 255 (x.skipped + 1) }) ∧
        (x.accept.getLsbD k.val = true → x.writing = false → x.buf ≠ 0 → (s.seat j).seg = none → (t.mc.snap j).writing = true ∧ (t.mc.snap j).instant = s.aon.now ∧ (t.mc.snap j).shadow = (snapRecords s j).flatten ∧
          (t.mc.snap j).trigger = BitVec.ofNat 8 (2 ^ k.val) ∧
          let w := 1024 * bits x.buf 15 0
          (s.clocksOn = true → s.net.scr.held w = false → s.net.scr.wordBad w = false → t.net.scr.readLane w 0 = 0 ∧ t.net.scr.readLane w 1 = 0))) ∧
    (∀ k : Seat, let x := s.mc.snap k.val
      s.clocksOn = true → x.writing = true → x.buf ≠ 0 → s.net.scr.rangeHeld (16384 * bits x.buf 15 0) (16384 * bits x.buf 31 16) = false →
      ∃ t, exec (.snapshotImageWritten k) s = .next t ∧ (t.mc.snap k.val).writing = false ∧ (t.mc.snap k.val).seqNo = (x.seqNo + 1) % 4294967296 ∧ (t.mc.snap k.val).lastInstant = x.instant ∧
        ((t.mc.snap k.val).lastStatus = 1 ∨ (t.mc.snap k.val).lastStatus = 2) ∧ t.fab = s.fab ∧ t.eng = s.eng ∧ t.stk = s.stk ∧ ∀ j, j ≠ k.val → t.mc.snap j = s.mc.snap j) ∧
    (∀ (k : Seat) (n : Fin 8) (rest : List Order), takeOrder (.pmcClear k.val n.val) s.mc.orders = some rest →
      ∃ t, exec (.pmcClear k n) s = .next t ∧ t = { s with mc := { s.mc with orders := rest }, eng := { s.eng with engines := t.eng.engines } } ∧
        (s.eng.engines.Pairwise (fun a b => a.1 < b.1) → ∀ p, tget 0 (t.eng.engine p).pmc n.val = if (s.eng.engine p).pmcSeat n.val = some k.val then 0 else tget 0 (s.eng.engine p).pmc n.val)) ∧
    (∀ (k : Seat) (n : Fin 8) (rest : List Order), takeOrder (.pmcOvfClr k.val n.val) s.mc.orders = some rest →
      ∃ t, exec (.pmcOvfclr k n false) s = .next t ∧ t = { s with mc := { s.mc with orders := rest }, eng := { s.eng with engines := t.eng.engines } } ∧
        (s.eng.engines.Pairwise (fun a b => a.1 < b.1) → ∀ p, ((t.eng.engine p).ovf.contains n.val = true ↔ (s.eng.engine p).pmcSeat n.val ≠ some k.val ∧ (s.eng.engine p).ovf.contains n.val = true)))
end

