-- ==== Sys2Proof/Laws/Crypto.lean ====
section
/-! SUPPORT. AES-256-GCM takes back what it has sealed, and a section sealed under a seat's key arrives as its plaintext. -/

namespace Sys2Proof.Machine

theorem leBytes_length (n v : Nat) : (leBytes n v).length = n := by
  induction n generalizing v with
  | zero => rfl
  | succ n ih => simp [leBytes, ih]
theorem beBytes_length (n v : Nat) : (beBytes n v).length = n := by simp [beBytes, leBytes_length]
theorem gcmStream_length (k : BitVec 256) (iv : List Byte) (n : Nat) : (gcmStream k iv n).length = 16 * ((n + 15) / 16) := by
  simp only [gcmStream]
  generalize (n + 15) / 16 = m
  induction m with
  | zero => rfl
  | succ m ih => rw [List.range_succ, List.flatMap_append, List.length_append, ih]; simp [beBytes_length]; omega
theorem gcmCrypt_length (k : BitVec 256) (iv l : List Byte) : (gcmCrypt k iv l).length = l.length := by
  simp only [gcmCrypt, List.length_zipWith, gcmStream_length]; omega
/-- Encryption and decryption are one operation. -/
theorem gcmCrypt_gcmCrypt (k : BitVec 256) (iv l : List Byte) : gcmCrypt k iv (gcmCrypt k iv l) = l := by
  have n : (gcmCrypt k iv l).length = l.length := gcmCrypt_length k iv l
  have m : l.length ≤ (gcmStream k iv l.length).length := by rw [gcmStream_length]; omega
  unfold gcmCrypt at n ⊢
  rw [n]
  generalize gcmStream k iv l.length = g at m
  clear n
  induction l generalizing g with
  | nil => simp
  | cons a t ih => cases g with
    | nil => simp at m
    | cons b r => simp only [List.zipWith_cons_cons]; rw [ih r (by simpa using m)]; simp
theorem gcmTag_length (k : BitVec 256) (iv aad c : List Byte) : (gcmTag k iv aad c).length = 16 := beBytes_length 16 _
theorem gcmSeal_length (k : BitVec 256) (iv aad l : List Byte) : (gcmSeal k iv aad l).length = l.length + 16 := by
  simp [gcmSeal, gcmCrypt_length, gcmTag_length]
theorem gcmSeal_take (k : BitVec 256) (iv aad l : List Byte) : (gcmSeal k iv aad l).take l.length = gcmCrypt k iv l := by
  rw [gcmSeal, List.take_append_of_le_length (by rw [gcmCrypt_length])]
  exact List.take_of_length_le (by rw [gcmCrypt_length])
/-- What has been sealed verifies. -/
theorem gcmGood_gcmSeal (k : BitVec 256) (iv aad l : List Byte) : gcmGood k iv aad (gcmSeal k iv aad l) = true := by
  have n : (gcmSeal k iv aad l).length - 16 = l.length := by rw [gcmSeal_length]; omega
  simp only [gcmGood, n, gcmSeal_take, beq_iff_eq]
  rw [gcmSeal, List.drop_left' (gcmCrypt_length k iv l)]
/-- A section sealed under the key and IV of its entry arrives as its plaintext, and is good when both digests are right (R562, R563). -/
theorem State.sectionIn_gcmSeal {s : State} {k : Nat} {e : SectEntry} {key : BitVec 256} {iv : List Byte} (h : s.sectKey k = some (e, key, iv)) (l : List Byte) (n : l.length = e.length) :
    s.sectionIn k (gcmSeal key iv (sectEntryBytes e) l) =
      some { entry := e, plain := l, good := Config.sha384 l == e.digest && beBytes 48 (Config.sha384 (l.drop 64)).toNat == (l.drop 16).take 48 } := by
  have m : (gcmSeal key iv (sectEntryBytes e) l).length = e.length + 16 := by rw [gcmSeal_length, n]
  have p : (gcmSeal key iv (sectEntryBytes e) l).take e.length = gcmCrypt key iv l := by rw [← n]; exact gcmSeal_take key iv _ l
  simp only [State.sectionIn, h, m, p, gcmCrypt_gcmCrypt, gcmGood_gcmSeal]
  simp

end Sys2Proof.Machine
end

