-- ==== Sys2Proof/Laws/Table.lean ====
section
/-! SUPPORT. Laws of sparse tables: what a write leaves to be read, and that writes and filters keep the canonical form. -/

namespace Sys2Proof

variable {α : Type}

theorem tget_nil (d : α) (k : Nat) : tget d [] k = d := rfl
theorem tget_cons (d : α) (e : Nat × α) (t : List (Nat × α)) (k : Nat) : tget d (e :: t) k = if e.1 = k then e.2 else tget d t k := rfl

theorem tget_tdel (d : α) (t : List (Nat × α)) (k j : Nat) : tget d (tdel t k) j = if j = k then d else tget d t j := by
  induction t with
  | nil => simp [tdel, tget]
  | cons e t ih =>
    simp only [tdel, tget_cons]
    split
    · rename_i h; rw [ih, h]; grind
    · rw [tget_cons, ih]; grind

theorem tget_tins (d : α) (t : List (Nat × α)) (k j : Nat) (v : α) (h : ∀ e ∈ t, e.1 ≠ k) :
    tget d (tins t k v) j = if j = k then v else tget d t j := by
  induction t with
  | nil => simp only [tins, tget]; grind
  | cons e t ih =>
    simp only [tins]
    split
    · simp only [tget_cons]; grind
    · rw [tget_cons, ih (fun x hx => h x (List.mem_cons_of_mem _ hx)), tget_cons]
      have := h e (List.mem_cons_self ..)
      grind

theorem not_mem_tdel (t : List (Nat × α)) (k : Nat) : ∀ e ∈ tdel t k, e.1 ≠ k := by
  induction t with
  | nil => simp [tdel]
  | cons e t ih => simp only [tdel]; grind

/-- Reading a table after a write: the written key gives the value, every other key what it gave before. -/
@[simp] theorem tget_tput [DecidableEq α] (d : α) (t : List (Nat × α)) (k j : Nat) (v : α) :
    tget d (tput d t k v) j = if j = k then v else tget d t j := by
  unfold tput
  split
  · rename_i h; rw [tget_tdel, h]
  · rw [tget_tins d _ k j v (not_mem_tdel t k), tget_tdel]; grind

/-- The canonical form in two parts: the keys rise strictly, and no entry holds the default. -/
theorem twf_iff [DecidableEq α] (d : α) (t : List (Nat × α)) :
    twf d t = true ↔ t.Pairwise (fun a b => a.1 < b.1) ∧ ∀ e ∈ t, e.2 ≠ d := by
  induction t with
  | nil => simp [twf]
  | cons e t ih =>
    cases t with
    | nil => simp [twf]
    | cons f t =>
      simp only [twf, Bool.and_eq_true, decide_eq_true_eq, ih]
      constructor
      · rintro ⟨⟨h1, h2⟩, h3, h4⟩
        refine ⟨List.pairwise_cons.2 ⟨?_, h3⟩, ?_⟩
        · intro x hx
          rcases List.mem_cons.1 hx with rfl | hx
          · exact h2
          · exact lt_trans h2 ((List.pairwise_cons.1 h3).1 x hx)
        · intro x hx
          rcases List.mem_cons.1 hx with rfl | hx
          · exact h1
          · exact h4 x hx
      · rintro ⟨h1, h2⟩
        refine ⟨⟨h2 e (List.mem_cons_self ..), (List.pairwise_cons.1 h1).1 f (List.mem_cons_self ..)⟩, (List.pairwise_cons.1 h1).2, ?_⟩
        exact fun x hx => h2 x (List.mem_cons_of_mem _ hx)

theorem twf_nil [DecidableEq α] (d : α) : twf d ([] : List (Nat × α)) = true := rfl

/-- Leaving entries out keeps the canonical form. -/
theorem twf_filter [DecidableEq α] (d : α) (t : List (Nat × α)) (g : Nat × α → Bool) (h : twf d t = true) : twf d (t.filter g) = true := by
  rw [twf_iff] at *
  exact ⟨h.1.filter _, fun e he => h.2 e (List.mem_of_mem_filter he)⟩

theorem tdel_eq_filter (t : List (Nat × α)) (k : Nat) : tdel t k = t.filter fun e => decide (e.1 ≠ k) := by
  induction t with
  | nil => rfl
  | cons e t ih => simp only [tdel, ih, List.filter_cons]; grind

theorem mem_tins (t : List (Nat × α)) (k : Nat) (v : α) (e : Nat × α) : e ∈ tins t k v ↔ e = (k, v) ∨ e ∈ t := by
  induction t with
  | nil => simp [tins]
  | cons f t ih => simp only [tins]; split <;> (simp [ih]; try tauto)

theorem tins_pairwise (t : List (Nat × α)) (k : Nat) (v : α) (h : t.Pairwise (fun a b => a.1 < b.1)) (hk : ∀ e ∈ t, e.1 ≠ k) :
    (tins t k v).Pairwise (fun a b => a.1 < b.1) := by
  induction t with
  | nil => simp [tins]
  | cons e t ih =>
    simp only [tins]
    have h1 := List.pairwise_cons.1 h
    split
    · rename_i hlt
      refine List.pairwise_cons.2 ⟨?_, h⟩
      intro x hx
      rcases List.mem_cons.1 hx with rfl | hx
      · exact hlt
      · exact lt_trans hlt (h1.1 x hx)
    · rename_i hge
      refine List.pairwise_cons.2 ⟨?_, ih h1.2 fun x hx => hk x (List.mem_cons_of_mem _ hx)⟩
      intro x hx
      rcases (mem_tins t k v x).1 hx with rfl | hx
      · have := hk e (List.mem_cons_self ..)
        simp only
        omega
      · exact h1.1 x hx

/-- A write keeps the canonical form. -/
theorem twf_tput [DecidableEq α] (d : α) (t : List (Nat × α)) (k : Nat) (v : α) (h : twf d t = true) : twf d (tput d t k v) = true := by
  unfold tput
  have hd : twf d (tdel t k) = true := by rw [tdel_eq_filter]; exact twf_filter d t _ h
  split
  · exact hd
  · rename_i hv
    rw [twf_iff] at hd ⊢
    refine ⟨tins_pairwise _ k v hd.1 (not_mem_tdel t k), fun e he => ?_⟩
    rcases (mem_tins _ k v e).1 he with rfl | he
    · exact hv
    · exact hd.2 e he

end Sys2Proof
end

