-- ==== Sys2Proof/Laws/State.lean ====
section
/-! SUPPORT. One lemma per field per update of the state and its records, and what each table reads after a write. -/

namespace Sys2Proof.Machine

/-! ## Updates of one part of the state -/

@[simp] theorem State.onFab_aon (s : State) (g : Fabric → Fabric) : (s.onFab g).aon = s.aon := rfl
@[simp] theorem State.onFab_nv (s : State) (g : Fabric → Fabric) : (s.onFab g).nv = s.nv := rfl
@[simp] theorem State.onFab_seats (s : State) (g : Fabric → Fabric) : (s.onFab g).seats = s.seats := rfl
@[simp] theorem State.onFab_fab (s : State) (g : Fabric → Fabric) : (s.onFab g).fab = g s.fab := rfl
@[simp] theorem State.onFab_net (s : State) (g : Fabric → Fabric) : (s.onFab g).net = s.net := rfl
@[simp] theorem State.onFab_eng (s : State) (g : Fabric → Fabric) : (s.onFab g).eng = s.eng := rfl
@[simp] theorem State.onFab_stk (s : State) (g : Fabric → Fabric) : (s.onFab g).stk = s.stk := rfl
@[simp] theorem State.onFab_lnk (s : State) (g : Fabric → Fabric) : (s.onFab g).lnk = s.lnk := rfl
@[simp] theorem State.onFab_mc (s : State) (g : Fabric → Fabric) : (s.onFab g).mc = s.mc := rfl
@[simp] theorem State.onFab_pending (s : State) (g : Fabric → Fabric) : (s.onFab g).pending = s.pending := rfl
@[simp] theorem State.onNet_aon (s : State) (g : Net → Net) : (s.onNet g).aon = s.aon := rfl
@[simp] theorem State.onNet_nv (s : State) (g : Net → Net) : (s.onNet g).nv = s.nv := rfl
@[simp] theorem State.onNet_seats (s : State) (g : Net → Net) : (s.onNet g).seats = s.seats := rfl
@[simp] theorem State.onNet_fab (s : State) (g : Net → Net) : (s.onNet g).fab = s.fab := rfl
@[simp] theorem State.onNet_net (s : State) (g : Net → Net) : (s.onNet g).net = g s.net := rfl
@[simp] theorem State.onNet_eng (s : State) (g : Net → Net) : (s.onNet g).eng = s.eng := rfl
@[simp] theorem State.onNet_stk (s : State) (g : Net → Net) : (s.onNet g).stk = s.stk := rfl
@[simp] theorem State.onNet_lnk (s : State) (g : Net → Net) : (s.onNet g).lnk = s.lnk := rfl
@[simp] theorem State.onNet_mc (s : State) (g : Net → Net) : (s.onNet g).mc = s.mc := rfl
@[simp] theorem State.onNet_pending (s : State) (g : Net → Net) : (s.onNet g).pending = s.pending := rfl
@[simp] theorem State.onEng_aon (s : State) (g : Engines → Engines) : (s.onEng g).aon = s.aon := rfl
@[simp] theorem State.onEng_nv (s : State) (g : Engines → Engines) : (s.onEng g).nv = s.nv := rfl
@[simp] theorem State.onEng_seats (s : State) (g : Engines → Engines) : (s.onEng g).seats = s.seats := rfl
@[simp] theorem State.onEng_fab (s : State) (g : Engines → Engines) : (s.onEng g).fab = s.fab := rfl
@[simp] theorem State.onEng_net (s : State) (g : Engines → Engines) : (s.onEng g).net = s.net := rfl
@[simp] theorem State.onEng_eng (s : State) (g : Engines → Engines) : (s.onEng g).eng = g s.eng := rfl
@[simp] theorem State.onEng_stk (s : State) (g : Engines → Engines) : (s.onEng g).stk = s.stk := rfl
@[simp] theorem State.onEng_lnk (s : State) (g : Engines → Engines) : (s.onEng g).lnk = s.lnk := rfl
@[simp] theorem State.onEng_mc (s : State) (g : Engines → Engines) : (s.onEng g).mc = s.mc := rfl
@[simp] theorem State.onEng_pending (s : State) (g : Engines → Engines) : (s.onEng g).pending = s.pending := rfl
@[simp] theorem State.onStk_aon (s : State) (g : Stack → Stack) : (s.onStk g).aon = s.aon := rfl
@[simp] theorem State.onStk_nv (s : State) (g : Stack → Stack) : (s.onStk g).nv = s.nv := rfl
@[simp] theorem State.onStk_seats (s : State) (g : Stack → Stack) : (s.onStk g).seats = s.seats := rfl
@[simp] theorem State.onStk_fab (s : State) (g : Stack → Stack) : (s.onStk g).fab = s.fab := rfl
@[simp] theorem State.onStk_net (s : State) (g : Stack → Stack) : (s.onStk g).net = s.net := rfl
@[simp] theorem State.onStk_eng (s : State) (g : Stack → Stack) : (s.onStk g).eng = s.eng := rfl
@[simp] theorem State.onStk_stk (s : State) (g : Stack → Stack) : (s.onStk g).stk = g s.stk := rfl
@[simp] theorem State.onStk_lnk (s : State) (g : Stack → Stack) : (s.onStk g).lnk = s.lnk := rfl
@[simp] theorem State.onStk_mc (s : State) (g : Stack → Stack) : (s.onStk g).mc = s.mc := rfl
@[simp] theorem State.onStk_pending (s : State) (g : Stack → Stack) : (s.onStk g).pending = s.pending := rfl
@[simp] theorem State.onLnk_aon (s : State) (g : Links → Links) : (s.onLnk g).aon = s.aon := rfl
@[simp] theorem State.onLnk_nv (s : State) (g : Links → Links) : (s.onLnk g).nv = s.nv := rfl
@[simp] theorem State.onLnk_seats (s : State) (g : Links → Links) : (s.onLnk g).seats = s.seats := rfl
@[simp] theorem State.onLnk_fab (s : State) (g : Links → Links) : (s.onLnk g).fab = s.fab := rfl
@[simp] theorem State.onLnk_net (s : State) (g : Links → Links) : (s.onLnk g).net = s.net := rfl
@[simp] theorem State.onLnk_eng (s : State) (g : Links → Links) : (s.onLnk g).eng = s.eng := rfl
@[simp] theorem State.onLnk_stk (s : State) (g : Links → Links) : (s.onLnk g).stk = s.stk := rfl
@[simp] theorem State.onLnk_lnk (s : State) (g : Links → Links) : (s.onLnk g).lnk = g s.lnk := rfl
@[simp] theorem State.onLnk_mc (s : State) (g : Links → Links) : (s.onLnk g).mc = s.mc := rfl
@[simp] theorem State.onLnk_pending (s : State) (g : Links → Links) : (s.onLnk g).pending = s.pending := rfl
@[simp] theorem State.onMc_aon (s : State) (g : Mc → Mc) : (s.onMc g).aon = s.aon := rfl
@[simp] theorem State.onMc_nv (s : State) (g : Mc → Mc) : (s.onMc g).nv = s.nv := rfl
@[simp] theorem State.onMc_seats (s : State) (g : Mc → Mc) : (s.onMc g).seats = s.seats := rfl
@[simp] theorem State.onMc_fab (s : State) (g : Mc → Mc) : (s.onMc g).fab = s.fab := rfl
@[simp] theorem State.onMc_net (s : State) (g : Mc → Mc) : (s.onMc g).net = s.net := rfl
@[simp] theorem State.onMc_eng (s : State) (g : Mc → Mc) : (s.onMc g).eng = s.eng := rfl
@[simp] theorem State.onMc_stk (s : State) (g : Mc → Mc) : (s.onMc g).stk = s.stk := rfl
@[simp] theorem State.onMc_lnk (s : State) (g : Mc → Mc) : (s.onMc g).lnk = s.lnk := rfl
@[simp] theorem State.onMc_mc (s : State) (g : Mc → Mc) : (s.onMc g).mc = g s.mc := rfl
@[simp] theorem State.onMc_pending (s : State) (g : Mc → Mc) : (s.onMc g).pending = s.pending := rfl
@[simp] theorem State.onAon_aon (s : State) (g : Aon → Aon) : (s.onAon g).aon = g s.aon := rfl
@[simp] theorem State.onAon_nv (s : State) (g : Aon → Aon) : (s.onAon g).nv = s.nv := rfl
@[simp] theorem State.onAon_seats (s : State) (g : Aon → Aon) : (s.onAon g).seats = s.seats := rfl
@[simp] theorem State.onAon_fab (s : State) (g : Aon → Aon) : (s.onAon g).fab = s.fab := rfl
@[simp] theorem State.onAon_net (s : State) (g : Aon → Aon) : (s.onAon g).net = s.net := rfl
@[simp] theorem State.onAon_eng (s : State) (g : Aon → Aon) : (s.onAon g).eng = s.eng := rfl
@[simp] theorem State.onAon_stk (s : State) (g : Aon → Aon) : (s.onAon g).stk = s.stk := rfl
@[simp] theorem State.onAon_lnk (s : State) (g : Aon → Aon) : (s.onAon g).lnk = s.lnk := rfl
@[simp] theorem State.onAon_mc (s : State) (g : Aon → Aon) : (s.onAon g).mc = s.mc := rfl
@[simp] theorem State.onAon_pending (s : State) (g : Aon → Aon) : (s.onAon g).pending = s.pending := rfl
@[simp] theorem State.onNv_aon (s : State) (g : Nv → Nv) : (s.onNv g).aon = s.aon := rfl
@[simp] theorem State.onNv_nv (s : State) (g : Nv → Nv) : (s.onNv g).nv = g s.nv := rfl
@[simp] theorem State.onNv_seats (s : State) (g : Nv → Nv) : (s.onNv g).seats = s.seats := rfl
@[simp] theorem State.onNv_fab (s : State) (g : Nv → Nv) : (s.onNv g).fab = s.fab := rfl
@[simp] theorem State.onNv_net (s : State) (g : Nv → Nv) : (s.onNv g).net = s.net := rfl
@[simp] theorem State.onNv_eng (s : State) (g : Nv → Nv) : (s.onNv g).eng = s.eng := rfl
@[simp] theorem State.onNv_stk (s : State) (g : Nv → Nv) : (s.onNv g).stk = s.stk := rfl
@[simp] theorem State.onNv_lnk (s : State) (g : Nv → Nv) : (s.onNv g).lnk = s.lnk := rfl
@[simp] theorem State.onNv_mc (s : State) (g : Nv → Nv) : (s.onNv g).mc = s.mc := rfl
@[simp] theorem State.onNv_pending (s : State) (g : Nv → Nv) : (s.onNv g).pending = s.pending := rfl
@[simp] theorem State.onHk_aon (s : State) (g : Hk → Hk) : (s.onHk g).aon = s.aon := rfl
@[simp] theorem State.onHk_nv (s : State) (g : Hk → Hk) : (s.onHk g).nv = s.nv := rfl
@[simp] theorem State.onHk_seats (s : State) (g : Hk → Hk) : (s.onHk g).seats = s.seats := rfl
@[simp] theorem State.onHk_fab (s : State) (g : Hk → Hk) : (s.onHk g).fab = s.fab := rfl
@[simp] theorem State.onHk_net (s : State) (g : Hk → Hk) : (s.onHk g).net = s.net := rfl
@[simp] theorem State.onHk_eng (s : State) (g : Hk → Hk) : (s.onHk g).eng = s.eng := rfl
@[simp] theorem State.onHk_stk (s : State) (g : Hk → Hk) : (s.onHk g).stk = s.stk := rfl
@[simp] theorem State.onHk_lnk (s : State) (g : Hk → Hk) : (s.onHk g).lnk = s.lnk := rfl
@[simp] theorem State.onHk_mc (s : State) (g : Hk → Hk) : (s.onHk g).mc = { s.mc with hk := g s.mc.hk } := rfl
@[simp] theorem State.onHk_pending (s : State) (g : Hk → Hk) : (s.onHk g).pending = s.pending := rfl
@[simp] theorem State.onMap_aon (s : State) (g : FallowMap → FallowMap) : (s.onMap g).aon = s.aon := rfl
@[simp] theorem State.onMap_nv (s : State) (g : FallowMap → FallowMap) : (s.onMap g).nv = { s.nv with map := g s.nv.map } := rfl
@[simp] theorem State.onMap_seats (s : State) (g : FallowMap → FallowMap) : (s.onMap g).seats = s.seats := rfl
@[simp] theorem State.onMap_fab (s : State) (g : FallowMap → FallowMap) : (s.onMap g).fab = s.fab := rfl
@[simp] theorem State.onMap_net (s : State) (g : FallowMap → FallowMap) : (s.onMap g).net = s.net := rfl
@[simp] theorem State.onMap_eng (s : State) (g : FallowMap → FallowMap) : (s.onMap g).eng = s.eng := rfl
@[simp] theorem State.onMap_stk (s : State) (g : FallowMap → FallowMap) : (s.onMap g).stk = s.stk := rfl
@[simp] theorem State.onMap_lnk (s : State) (g : FallowMap → FallowMap) : (s.onMap g).lnk = s.lnk := rfl
@[simp] theorem State.onMap_mc (s : State) (g : FallowMap → FallowMap) : (s.onMap g).mc = s.mc := rfl
@[simp] theorem State.onMap_pending (s : State) (g : FallowMap → FallowMap) : (s.onMap g).pending = s.pending := rfl
@[simp] theorem State.setSeat_aon (s : State) (k : Nat) (v : SeatRec) : (s.setSeat k v).aon = s.aon := rfl
@[simp] theorem State.setSeat_nv (s : State) (k : Nat) (v : SeatRec) : (s.setSeat k v).nv = s.nv := rfl
@[simp] theorem State.setSeat_fab (s : State) (k : Nat) (v : SeatRec) : (s.setSeat k v).fab = s.fab := rfl
@[simp] theorem State.setSeat_net (s : State) (k : Nat) (v : SeatRec) : (s.setSeat k v).net = s.net := rfl
@[simp] theorem State.setSeat_eng (s : State) (k : Nat) (v : SeatRec) : (s.setSeat k v).eng = s.eng := rfl
@[simp] theorem State.setSeat_stk (s : State) (k : Nat) (v : SeatRec) : (s.setSeat k v).stk = s.stk := rfl
@[simp] theorem State.setSeat_lnk (s : State) (k : Nat) (v : SeatRec) : (s.setSeat k v).lnk = s.lnk := rfl
@[simp] theorem State.setSeat_mc (s : State) (k : Nat) (v : SeatRec) : (s.setSeat k v).mc = s.mc := rfl
@[simp] theorem State.setSeat_pending (s : State) (k : Nat) (v : SeatRec) : (s.setSeat k v).pending = s.pending := rfl
@[simp] theorem State.onSeat_aon (s : State) (k : Nat) (g : SeatRec → SeatRec) : (s.onSeat k g).aon = s.aon := rfl
@[simp] theorem State.onSeat_nv (s : State) (k : Nat) (g : SeatRec → SeatRec) : (s.onSeat k g).nv = s.nv := rfl
@[simp] theorem State.onSeat_fab (s : State) (k : Nat) (g : SeatRec → SeatRec) : (s.onSeat k g).fab = s.fab := rfl
@[simp] theorem State.onSeat_net (s : State) (k : Nat) (g : SeatRec → SeatRec) : (s.onSeat k g).net = s.net := rfl
@[simp] theorem State.onSeat_eng (s : State) (k : Nat) (g : SeatRec → SeatRec) : (s.onSeat k g).eng = s.eng := rfl
@[simp] theorem State.onSeat_stk (s : State) (k : Nat) (g : SeatRec → SeatRec) : (s.onSeat k g).stk = s.stk := rfl
@[simp] theorem State.onSeat_lnk (s : State) (k : Nat) (g : SeatRec → SeatRec) : (s.onSeat k g).lnk = s.lnk := rfl
@[simp] theorem State.onSeat_mc (s : State) (k : Nat) (g : SeatRec → SeatRec) : (s.onSeat k g).mc = s.mc := rfl
@[simp] theorem State.onSeat_pending (s : State) (k : Nat) (g : SeatRec → SeatRec) : (s.onSeat k g).pending = s.pending := rfl
@[simp] theorem State.send_aon (s : State) (r : Reply) : (s.send r).aon = s.aon := rfl
@[simp] theorem State.send_nv (s : State) (r : Reply) : (s.send r).nv = s.nv := rfl
@[simp] theorem State.send_seats (s : State) (r : Reply) : (s.send r).seats = s.seats := rfl
@[simp] theorem State.send_fab (s : State) (r : Reply) : (s.send r).fab = s.fab := rfl
@[simp] theorem State.send_net (s : State) (r : Reply) : (s.send r).net = s.net := rfl
@[simp] theorem State.send_eng (s : State) (r : Reply) : (s.send r).eng = s.eng := rfl
@[simp] theorem State.send_stk (s : State) (r : Reply) : (s.send r).stk = s.stk := rfl
@[simp] theorem State.send_lnk (s : State) (r : Reply) : (s.send r).lnk = s.lnk := rfl
@[simp] theorem State.send_pending (s : State) (r : Reply) : (s.send r).pending = s.pending := rfl
@[simp] theorem State.setSeat_seat (s : State) (k j : Nat) (v : SeatRec) : (s.setSeat k v).seat j = if j = k then v else s.seat j := tget_tput _ _ _ _ _
@[simp] theorem State.onSeat_seat (s : State) (k j : Nat) (g : SeatRec → SeatRec) : (s.onSeat k g).seat j = if j = k then g (s.seat k) else s.seat j := tget_tput _ _ _ _ _
@[simp] theorem Net.onScr_scr (n : Net) (g : Scratch → Scratch) : (n.onScr g).scr = g n.scr := rfl
@[simp] theorem Net.onScr_queues (n : Net) (g : Scratch → Scratch) : (n.onScr g).queues = n.queues := rfl
@[simp] theorem Net.onScr_handChan (n : Net) (g : Scratch → Scratch) : (n.onScr g).handChan = n.handChan := rfl
@[simp] theorem Net.onScr_scrSeq (n : Net) (g : Scratch → Scratch) : (n.onScr g).scrSeq = n.scrSeq := rfl
@[simp] theorem Net.onScr_threadChan (n : Net) (g : Scratch → Scratch) : (n.onScr g).threadChan = n.threadChan := rfl
@[simp] theorem Net.onScr_narrow (n : Net) (g : Scratch → Scratch) : (n.onScr g).narrow = n.narrow := rfl
@[simp] theorem Net.onScr_feedDown (n : Net) (g : Scratch → Scratch) : (n.onScr g).feedDown = n.feedDown := rfl
@[simp] theorem Net.onScr_dieDown (n : Net) (g : Scratch → Scratch) : (n.onScr g).dieDown = n.dieDown := rfl


/-! ## Fabric -/

@[simp] theorem Fabric.setPlot_hands (f : Fabric) (p : Nat) (v : Plot) : (f.setPlot p v).hands = f.hands := rfl
@[simp] theorem Fabric.setPlot_slots (f : Fabric) (p : Nat) (v : Plot) : (f.setPlot p v).slots = f.slots := rfl
@[simp] theorem Fabric.setPlot_cfg (f : Fabric) (p : Nat) (v : Plot) : (f.setPlot p v).cfg = f.cfg := rfl
@[simp] theorem Fabric.setPlot_cfgErr (f : Fabric) (p : Nat) (v : Plot) : (f.setPlot p v).cfgErr = f.cfgErr := rfl
@[simp] theorem Fabric.setPlot_diff (f : Fabric) (p : Nat) (v : Plot) : (f.setPlot p v).diff = f.diff := rfl
@[simp] theorem Fabric.setPlot_rbits (f : Fabric) (p : Nat) (v : Plot) : (f.setPlot p v).rbits = f.rbits := rfl
@[simp] theorem Fabric.setPlot_rbitsLast (f : Fabric) (p : Nat) (v : Plot) : (f.setPlot p v).rbitsLast = f.rbitsLast := rfl
@[simp] theorem Fabric.setPlot_kitty (f : Fabric) (p : Nat) (v : Plot) : (f.setPlot p v).kitty = f.kitty := rfl
@[simp] theorem Fabric.setPlot_kown (f : Fabric) (p : Nat) (v : Plot) : (f.setPlot p v).kown = f.kown := rfl
@[simp] theorem Fabric.setPlot_kwatch (f : Fabric) (p : Nat) (v : Plot) : (f.setPlot p v).kwatch = f.kwatch := rfl
@[simp] theorem Fabric.setPlot_memSeq (f : Fabric) (p : Nat) (v : Plot) : (f.setPlot p v).memSeq = f.memSeq := rfl
@[simp] theorem Fabric.setPlot_patrol (f : Fabric) (p : Nat) (v : Plot) : (f.setPlot p v).patrol = f.patrol := rfl
@[simp] theorem Fabric.setPlot_bms (f : Fabric) (p : Nat) (v : Plot) : (f.setPlot p v).bms = f.bms := rfl
@[simp] theorem Fabric.setPlot_fplls (f : Fabric) (p : Nat) (v : Plot) : (f.setPlot p v).fplls = f.fplls := rfl
@[simp] theorem Fabric.setPlot_banks (f : Fabric) (p : Nat) (v : Plot) : (f.setPlot p v).banks = f.banks := rfl
@[simp] theorem Fabric.setPlot_plot (f : Fabric) (p : Nat) (v : Plot) (q : Nat) : (f.setPlot p v).plot q = if q = p then v else f.plot q := tget_tput _ _ _ _ _
@[simp] theorem Fabric.setHand_plots (f : Fabric) (p h : Nat) (v : Hand) : (f.setHand p h v).plots = f.plots := rfl
@[simp] theorem Fabric.setHand_slots (f : Fabric) (p h : Nat) (v : Hand) : (f.setHand p h v).slots = f.slots := rfl
@[simp] theorem Fabric.setHand_cfg (f : Fabric) (p h : Nat) (v : Hand) : (f.setHand p h v).cfg = f.cfg := rfl
@[simp] theorem Fabric.setHand_cfgErr (f : Fabric) (p h : Nat) (v : Hand) : (f.setHand p h v).cfgErr = f.cfgErr := rfl
@[simp] theorem Fabric.setHand_diff (f : Fabric) (p h : Nat) (v : Hand) : (f.setHand p h v).diff = f.diff := rfl
@[simp] theorem Fabric.setHand_rbits (f : Fabric) (p h : Nat) (v : Hand) : (f.setHand p h v).rbits = f.rbits := rfl
@[simp] theorem Fabric.setHand_rbitsLast (f : Fabric) (p h : Nat) (v : Hand) : (f.setHand p h v).rbitsLast = f.rbitsLast := rfl
@[simp] theorem Fabric.setHand_kitty (f : Fabric) (p h : Nat) (v : Hand) : (f.setHand p h v).kitty = f.kitty := rfl
@[simp] theorem Fabric.setHand_kown (f : Fabric) (p h : Nat) (v : Hand) : (f.setHand p h v).kown = f.kown := rfl
@[simp] theorem Fabric.setHand_kwatch (f : Fabric) (p h : Nat) (v : Hand) : (f.setHand p h v).kwatch = f.kwatch := rfl
@[simp] theorem Fabric.setHand_memSeq (f : Fabric) (p h : Nat) (v : Hand) : (f.setHand p h v).memSeq = f.memSeq := rfl
@[simp] theorem Fabric.setHand_patrol (f : Fabric) (p h : Nat) (v : Hand) : (f.setHand p h v).patrol = f.patrol := rfl
@[simp] theorem Fabric.setHand_bms (f : Fabric) (p h : Nat) (v : Hand) : (f.setHand p h v).bms = f.bms := rfl
@[simp] theorem Fabric.setHand_fplls (f : Fabric) (p h : Nat) (v : Hand) : (f.setHand p h v).fplls = f.fplls := rfl
@[simp] theorem Fabric.setHand_banks (f : Fabric) (p h : Nat) (v : Hand) : (f.setHand p h v).banks = f.banks := rfl
@[simp] theorem Fabric.setHand_hand (f : Fabric) (p h : Nat) (v : Hand) (q g : Nat) : (f.setHand p h v).hand q g = if (8 * q + g) = (8 * p + h) then v else f.hand q g := tget_tput _ _ _ _ _
@[simp] theorem Fabric.setSlot_plots (f : Fabric) (p k : Nat) (v : BitVec 32) : (f.setSlot p k v).plots = f.plots := rfl
@[simp] theorem Fabric.setSlot_hands (f : Fabric) (p k : Nat) (v : BitVec 32) : (f.setSlot p k v).hands = f.hands := rfl
@[simp] theorem Fabric.setSlot_cfg (f : Fabric) (p k : Nat) (v : BitVec 32) : (f.setSlot p k v).cfg = f.cfg := rfl
@[simp] theorem Fabric.setSlot_cfgErr (f : Fabric) (p k : Nat) (v : BitVec 32) : (f.setSlot p k v).cfgErr = f.cfgErr := rfl
@[simp] theorem Fabric.setSlot_diff (f : Fabric) (p k : Nat) (v : BitVec 32) : (f.setSlot p k v).diff = f.diff := rfl
@[simp] theorem Fabric.setSlot_rbits (f : Fabric) (p k : Nat) (v : BitVec 32) : (f.setSlot p k v).rbits = f.rbits := rfl
@[simp] theorem Fabric.setSlot_rbitsLast (f : Fabric) (p k : Nat) (v : BitVec 32) : (f.setSlot p k v).rbitsLast = f.rbitsLast := rfl
@[simp] theorem Fabric.setSlot_kitty (f : Fabric) (p k : Nat) (v : BitVec 32) : (f.setSlot p k v).kitty = f.kitty := rfl
@[simp] theorem Fabric.setSlot_kown (f : Fabric) (p k : Nat) (v : BitVec 32) : (f.setSlot p k v).kown = f.kown := rfl
@[simp] theorem Fabric.setSlot_kwatch (f : Fabric) (p k : Nat) (v : BitVec 32) : (f.setSlot p k v).kwatch = f.kwatch := rfl
@[simp] theorem Fabric.setSlot_memSeq (f : Fabric) (p k : Nat) (v : BitVec 32) : (f.setSlot p k v).memSeq = f.memSeq := rfl
@[simp] theorem Fabric.setSlot_patrol (f : Fabric) (p k : Nat) (v : BitVec 32) : (f.setSlot p k v).patrol = f.patrol := rfl
@[simp] theorem Fabric.setSlot_bms (f : Fabric) (p k : Nat) (v : BitVec 32) : (f.setSlot p k v).bms = f.bms := rfl
@[simp] theorem Fabric.setSlot_fplls (f : Fabric) (p k : Nat) (v : BitVec 32) : (f.setSlot p k v).fplls = f.fplls := rfl
@[simp] theorem Fabric.setSlot_banks (f : Fabric) (p k : Nat) (v : BitVec 32) : (f.setSlot p k v).banks = f.banks := rfl
@[simp] theorem Fabric.setSlot_slot (f : Fabric) (p k : Nat) (v : BitVec 32) (q j : Nat) : (f.setSlot p k v).slot q j = if (64 * q + j) = (64 * p + k) then v else f.slot q j := tget_tput _ _ _ _ _
@[simp] theorem Fabric.setCfgWord_plots (f : Fabric) (p h w : Nat) (v : BitVec 64) : (f.setCfgWord p h w v).plots = f.plots := rfl
@[simp] theorem Fabric.setCfgWord_hands (f : Fabric) (p h w : Nat) (v : BitVec 64) : (f.setCfgWord p h w v).hands = f.hands := rfl
@[simp] theorem Fabric.setCfgWord_slots (f : Fabric) (p h w : Nat) (v : BitVec 64) : (f.setCfgWord p h w v).slots = f.slots := rfl
@[simp] theorem Fabric.setCfgWord_cfgErr (f : Fabric) (p h w : Nat) (v : BitVec 64) : (f.setCfgWord p h w v).cfgErr = f.cfgErr := rfl
@[simp] theorem Fabric.setCfgWord_diff (f : Fabric) (p h w : Nat) (v : BitVec 64) : (f.setCfgWord p h w v).diff = f.diff := rfl
@[simp] theorem Fabric.setCfgWord_rbits (f : Fabric) (p h w : Nat) (v : BitVec 64) : (f.setCfgWord p h w v).rbits = f.rbits := rfl
@[simp] theorem Fabric.setCfgWord_rbitsLast (f : Fabric) (p h w : Nat) (v : BitVec 64) : (f.setCfgWord p h w v).rbitsLast = f.rbitsLast := rfl
@[simp] theorem Fabric.setCfgWord_kitty (f : Fabric) (p h w : Nat) (v : BitVec 64) : (f.setCfgWord p h w v).kitty = f.kitty := rfl
@[simp] theorem Fabric.setCfgWord_kown (f : Fabric) (p h w : Nat) (v : BitVec 64) : (f.setCfgWord p h w v).kown = f.kown := rfl
@[simp] theorem Fabric.setCfgWord_kwatch (f : Fabric) (p h w : Nat) (v : BitVec 64) : (f.setCfgWord p h w v).kwatch = f.kwatch := rfl
@[simp] theorem Fabric.setCfgWord_memSeq (f : Fabric) (p h w : Nat) (v : BitVec 64) : (f.setCfgWord p h w v).memSeq = f.memSeq := rfl
@[simp] theorem Fabric.setCfgWord_patrol (f : Fabric) (p h w : Nat) (v : BitVec 64) : (f.setCfgWord p h w v).patrol = f.patrol := rfl
@[simp] theorem Fabric.setCfgWord_bms (f : Fabric) (p h w : Nat) (v : BitVec 64) : (f.setCfgWord p h w v).bms = f.bms := rfl
@[simp] theorem Fabric.setCfgWord_fplls (f : Fabric) (p h w : Nat) (v : BitVec 64) : (f.setCfgWord p h w v).fplls = f.fplls := rfl
@[simp] theorem Fabric.setCfgWord_banks (f : Fabric) (p h w : Nat) (v : BitVec 64) : (f.setCfgWord p h w v).banks = f.banks := rfl
@[simp] theorem Fabric.setCfgWord_cfgWord (f : Fabric) (p h w : Nat) (v : BitVec 64) (q g x : Nat) : (f.setCfgWord p h w v).cfgWord q g x = if (handWords * (8 * q + g) + x) = (handWords * (8 * p + h) + w) then v else f.cfgWord q g x := tget_tput _ _ _ _ _
@[simp] theorem Fabric.setCfgErr_plots (f : Fabric) (p h w : Nat) (v : BitVec 72) : (f.setCfgErr p h w v).plots = f.plots := rfl
@[simp] theorem Fabric.setCfgErr_hands (f : Fabric) (p h w : Nat) (v : BitVec 72) : (f.setCfgErr p h w v).hands = f.hands := rfl
@[simp] theorem Fabric.setCfgErr_slots (f : Fabric) (p h w : Nat) (v : BitVec 72) : (f.setCfgErr p h w v).slots = f.slots := rfl
@[simp] theorem Fabric.setCfgErr_cfg (f : Fabric) (p h w : Nat) (v : BitVec 72) : (f.setCfgErr p h w v).cfg = f.cfg := rfl
@[simp] theorem Fabric.setCfgErr_diff (f : Fabric) (p h w : Nat) (v : BitVec 72) : (f.setCfgErr p h w v).diff = f.diff := rfl
@[simp] theorem Fabric.setCfgErr_rbits (f : Fabric) (p h w : Nat) (v : BitVec 72) : (f.setCfgErr p h w v).rbits = f.rbits := rfl
@[simp] theorem Fabric.setCfgErr_rbitsLast (f : Fabric) (p h w : Nat) (v : BitVec 72) : (f.setCfgErr p h w v).rbitsLast = f.rbitsLast := rfl
@[simp] theorem Fabric.setCfgErr_kitty (f : Fabric) (p h w : Nat) (v : BitVec 72) : (f.setCfgErr p h w v).kitty = f.kitty := rfl
@[simp] theorem Fabric.setCfgErr_kown (f : Fabric) (p h w : Nat) (v : BitVec 72) : (f.setCfgErr p h w v).kown = f.kown := rfl
@[simp] theorem Fabric.setCfgErr_kwatch (f : Fabric) (p h w : Nat) (v : BitVec 72) : (f.setCfgErr p h w v).kwatch = f.kwatch := rfl
@[simp] theorem Fabric.setCfgErr_memSeq (f : Fabric) (p h w : Nat) (v : BitVec 72) : (f.setCfgErr p h w v).memSeq = f.memSeq := rfl
@[simp] theorem Fabric.setCfgErr_patrol (f : Fabric) (p h w : Nat) (v : BitVec 72) : (f.setCfgErr p h w v).patrol = f.patrol := rfl
@[simp] theorem Fabric.setCfgErr_bms (f : Fabric) (p h w : Nat) (v : BitVec 72) : (f.setCfgErr p h w v).bms = f.bms := rfl
@[simp] theorem Fabric.setCfgErr_fplls (f : Fabric) (p h w : Nat) (v : BitVec 72) : (f.setCfgErr p h w v).fplls = f.fplls := rfl
@[simp] theorem Fabric.setCfgErr_banks (f : Fabric) (p h w : Nat) (v : BitVec 72) : (f.setCfgErr p h w v).banks = f.banks := rfl
@[simp] theorem Fabric.setCfgErr_cfgErrAt (f : Fabric) (p h w : Nat) (v : BitVec 72) (q g x : Nat) : (f.setCfgErr p h w v).cfgErrAt q g x = if (handWords * (8 * q + g) + x) = (handWords * (8 * p + h) + w) then v else f.cfgErrAt q g x := tget_tput _ _ _ _ _
@[simp] theorem Fabric.setKittyReg_plots (f : Fabric) (p k : Nat) (v : BitVec 32) : (f.setKittyReg p k v).plots = f.plots := rfl
@[simp] theorem Fabric.setKittyReg_hands (f : Fabric) (p k : Nat) (v : BitVec 32) : (f.setKittyReg p k v).hands = f.hands := rfl
@[simp] theorem Fabric.setKittyReg_slots (f : Fabric) (p k : Nat) (v : BitVec 32) : (f.setKittyReg p k v).slots = f.slots := rfl
@[simp] theorem Fabric.setKittyReg_cfg (f : Fabric) (p k : Nat) (v : BitVec 32) : (f.setKittyReg p k v).cfg = f.cfg := rfl
@[simp] theorem Fabric.setKittyReg_cfgErr (f : Fabric) (p k : Nat) (v : BitVec 32) : (f.setKittyReg p k v).cfgErr = f.cfgErr := rfl
@[simp] theorem Fabric.setKittyReg_diff (f : Fabric) (p k : Nat) (v : BitVec 32) : (f.setKittyReg p k v).diff = f.diff := rfl
@[simp] theorem Fabric.setKittyReg_rbits (f : Fabric) (p k : Nat) (v : BitVec 32) : (f.setKittyReg p k v).rbits = f.rbits := rfl
@[simp] theorem Fabric.setKittyReg_rbitsLast (f : Fabric) (p k : Nat) (v : BitVec 32) : (f.setKittyReg p k v).rbitsLast = f.rbitsLast := rfl
@[simp] theorem Fabric.setKittyReg_kown (f : Fabric) (p k : Nat) (v : BitVec 32) : (f.setKittyReg p k v).kown = f.kown := rfl
@[simp] theorem Fabric.setKittyReg_kwatch (f : Fabric) (p k : Nat) (v : BitVec 32) : (f.setKittyReg p k v).kwatch = f.kwatch := rfl
@[simp] theorem Fabric.setKittyReg_memSeq (f : Fabric) (p k : Nat) (v : BitVec 32) : (f.setKittyReg p k v).memSeq = f.memSeq := rfl
@[simp] theorem Fabric.setKittyReg_patrol (f : Fabric) (p k : Nat) (v : BitVec 32) : (f.setKittyReg p k v).patrol = f.patrol := rfl
@[simp] theorem Fabric.setKittyReg_bms (f : Fabric) (p k : Nat) (v : BitVec 32) : (f.setKittyReg p k v).bms = f.bms := rfl
@[simp] theorem Fabric.setKittyReg_fplls (f : Fabric) (p k : Nat) (v : BitVec 32) : (f.setKittyReg p k v).fplls = f.fplls := rfl
@[simp] theorem Fabric.setKittyReg_banks (f : Fabric) (p k : Nat) (v : BitVec 32) : (f.setKittyReg p k v).banks = f.banks := rfl
@[simp] theorem Fabric.setKittyReg_kittyReg (f : Fabric) (p k : Nat) (v : BitVec 32) (q j : Nat) : (f.setKittyReg p k v).kittyReg q j = if (2048 * q + j) = (2048 * p + k) then v else f.kittyReg q j := tget_tput _ _ _ _ _
@[simp] theorem Fabric.setKown_plots (f : Fabric) (p b : Nat) (v : Byte) : (f.setKown p b v).plots = f.plots := rfl
@[simp] theorem Fabric.setKown_hands (f : Fabric) (p b : Nat) (v : Byte) : (f.setKown p b v).hands = f.hands := rfl
@[simp] theorem Fabric.setKown_slots (f : Fabric) (p b : Nat) (v : Byte) : (f.setKown p b v).slots = f.slots := rfl
@[simp] theorem Fabric.setKown_cfg (f : Fabric) (p b : Nat) (v : Byte) : (f.setKown p b v).cfg = f.cfg := rfl
@[simp] theorem Fabric.setKown_cfgErr (f : Fabric) (p b : Nat) (v : Byte) : (f.setKown p b v).cfgErr = f.cfgErr := rfl
@[simp] theorem Fabric.setKown_diff (f : Fabric) (p b : Nat) (v : Byte) : (f.setKown p b v).diff = f.diff := rfl
@[simp] theorem Fabric.setKown_rbits (f : Fabric) (p b : Nat) (v : Byte) : (f.setKown p b v).rbits = f.rbits := rfl
@[simp] theorem Fabric.setKown_rbitsLast (f : Fabric) (p b : Nat) (v : Byte) : (f.setKown p b v).rbitsLast = f.rbitsLast := rfl
@[simp] theorem Fabric.setKown_kitty (f : Fabric) (p b : Nat) (v : Byte) : (f.setKown p b v).kitty = f.kitty := rfl
@[simp] theorem Fabric.setKown_kwatch (f : Fabric) (p b : Nat) (v : Byte) : (f.setKown p b v).kwatch = f.kwatch := rfl
@[simp] theorem Fabric.setKown_memSeq (f : Fabric) (p b : Nat) (v : Byte) : (f.setKown p b v).memSeq = f.memSeq := rfl
@[simp] theorem Fabric.setKown_patrol (f : Fabric) (p b : Nat) (v : Byte) : (f.setKown p b v).patrol = f.patrol := rfl
@[simp] theorem Fabric.setKown_bms (f : Fabric) (p b : Nat) (v : Byte) : (f.setKown p b v).bms = f.bms := rfl
@[simp] theorem Fabric.setKown_fplls (f : Fabric) (p b : Nat) (v : Byte) : (f.setKown p b v).fplls = f.fplls := rfl
@[simp] theorem Fabric.setKown_banks (f : Fabric) (p b : Nat) (v : Byte) : (f.setKown p b v).banks = f.banks := rfl
@[simp] theorem Fabric.setKown_kownAt (f : Fabric) (p b : Nat) (v : Byte) (q c : Nat) : (f.setKown p b v).kownAt q c = if (32 * q + c) = (32 * p + b) then v else f.kownAt q c := tget_tput _ _ _ _ _
@[simp] theorem Fabric.setKwatch_plots (f : Fabric) (p b : Nat) (v : BitVec 64) : (f.setKwatch p b v).plots = f.plots := rfl
@[simp] theorem Fabric.setKwatch_hands (f : Fabric) (p b : Nat) (v : BitVec 64) : (f.setKwatch p b v).hands = f.hands := rfl
@[simp] theorem Fabric.setKwatch_slots (f : Fabric) (p b : Nat) (v : BitVec 64) : (f.setKwatch p b v).slots = f.slots := rfl
@[simp] theorem Fabric.setKwatch_cfg (f : Fabric) (p b : Nat) (v : BitVec 64) : (f.setKwatch p b v).cfg = f.cfg := rfl
@[simp] theorem Fabric.setKwatch_cfgErr (f : Fabric) (p b : Nat) (v : BitVec 64) : (f.setKwatch p b v).cfgErr = f.cfgErr := rfl
@[simp] theorem Fabric.setKwatch_diff (f : Fabric) (p b : Nat) (v : BitVec 64) : (f.setKwatch p b v).diff = f.diff := rfl
@[simp] theorem Fabric.setKwatch_rbits (f : Fabric) (p b : Nat) (v : BitVec 64) : (f.setKwatch p b v).rbits = f.rbits := rfl
@[simp] theorem Fabric.setKwatch_rbitsLast (f : Fabric) (p b : Nat) (v : BitVec 64) : (f.setKwatch p b v).rbitsLast = f.rbitsLast := rfl
@[simp] theorem Fabric.setKwatch_kitty (f : Fabric) (p b : Nat) (v : BitVec 64) : (f.setKwatch p b v).kitty = f.kitty := rfl
@[simp] theorem Fabric.setKwatch_kown (f : Fabric) (p b : Nat) (v : BitVec 64) : (f.setKwatch p b v).kown = f.kown := rfl
@[simp] theorem Fabric.setKwatch_memSeq (f : Fabric) (p b : Nat) (v : BitVec 64) : (f.setKwatch p b v).memSeq = f.memSeq := rfl
@[simp] theorem Fabric.setKwatch_patrol (f : Fabric) (p b : Nat) (v : BitVec 64) : (f.setKwatch p b v).patrol = f.patrol := rfl
@[simp] theorem Fabric.setKwatch_bms (f : Fabric) (p b : Nat) (v : BitVec 64) : (f.setKwatch p b v).bms = f.bms := rfl
@[simp] theorem Fabric.setKwatch_fplls (f : Fabric) (p b : Nat) (v : BitVec 64) : (f.setKwatch p b v).fplls = f.fplls := rfl
@[simp] theorem Fabric.setKwatch_banks (f : Fabric) (p b : Nat) (v : BitVec 64) : (f.setKwatch p b v).banks = f.banks := rfl
@[simp] theorem Fabric.setKwatch_kwatchAt (f : Fabric) (p b : Nat) (v : BitVec 64) (q c : Nat) : (f.setKwatch p b v).kwatchAt q c = if (32 * q + c) = (32 * p + b) then v else f.kwatchAt q c := tget_tput _ _ _ _ _
@[simp] theorem Fabric.setBm_plots (f : Fabric) (p k : Nat) (v : Bm) : (f.setBm p k v).plots = f.plots := rfl
@[simp] theorem Fabric.setBm_hands (f : Fabric) (p k : Nat) (v : Bm) : (f.setBm p k v).hands = f.hands := rfl
@[simp] theorem Fabric.setBm_slots (f : Fabric) (p k : Nat) (v : Bm) : (f.setBm p k v).slots = f.slots := rfl
@[simp] theorem Fabric.setBm_cfg (f : Fabric) (p k : Nat) (v : Bm) : (f.setBm p k v).cfg = f.cfg := rfl
@[simp] theorem Fabric.setBm_cfgErr (f : Fabric) (p k : Nat) (v : Bm) : (f.setBm p k v).cfgErr = f.cfgErr := rfl
@[simp] theorem Fabric.setBm_diff (f : Fabric) (p k : Nat) (v : Bm) : (f.setBm p k v).diff = f.diff := rfl
@[simp] theorem Fabric.setBm_rbits (f : Fabric) (p k : Nat) (v : Bm) : (f.setBm p k v).rbits = f.rbits := rfl
@[simp] theorem Fabric.setBm_rbitsLast (f : Fabric) (p k : Nat) (v : Bm) : (f.setBm p k v).rbitsLast = f.rbitsLast := rfl
@[simp] theorem Fabric.setBm_kitty (f : Fabric) (p k : Nat) (v : Bm) : (f.setBm p k v).kitty = f.kitty := rfl
@[simp] theorem Fabric.setBm_kown (f : Fabric) (p k : Nat) (v : Bm) : (f.setBm p k v).kown = f.kown := rfl
@[simp] theorem Fabric.setBm_kwatch (f : Fabric) (p k : Nat) (v : Bm) : (f.setBm p k v).kwatch = f.kwatch := rfl
@[simp] theorem Fabric.setBm_memSeq (f : Fabric) (p k : Nat) (v : Bm) : (f.setBm p k v).memSeq = f.memSeq := rfl
@[simp] theorem Fabric.setBm_patrol (f : Fabric) (p k : Nat) (v : Bm) : (f.setBm p k v).patrol = f.patrol := rfl
@[simp] theorem Fabric.setBm_fplls (f : Fabric) (p k : Nat) (v : Bm) : (f.setBm p k v).fplls = f.fplls := rfl
@[simp] theorem Fabric.setBm_banks (f : Fabric) (p k : Nat) (v : Bm) : (f.setBm p k v).banks = f.banks := rfl
@[simp] theorem Fabric.setBm_bm (f : Fabric) (p k : Nat) (v : Bm) (q j : Nat) : (f.setBm p k v).bm q j = if (64 * q + j) = (64 * p + k) then v else f.bm q j := tget_tput _ _ _ _ _
@[simp] theorem Fabric.setFpll_plots (f : Fabric) (k : Nat) (v : Fpll) : (f.setFpll k v).plots = f.plots := rfl
@[simp] theorem Fabric.setFpll_hands (f : Fabric) (k : Nat) (v : Fpll) : (f.setFpll k v).hands = f.hands := rfl
@[simp] theorem Fabric.setFpll_slots (f : Fabric) (k : Nat) (v : Fpll) : (f.setFpll k v).slots = f.slots := rfl
@[simp] theorem Fabric.setFpll_cfg (f : Fabric) (k : Nat) (v : Fpll) : (f.setFpll k v).cfg = f.cfg := rfl
@[simp] theorem Fabric.setFpll_cfgErr (f : Fabric) (k : Nat) (v : Fpll) : (f.setFpll k v).cfgErr = f.cfgErr := rfl
@[simp] theorem Fabric.setFpll_diff (f : Fabric) (k : Nat) (v : Fpll) : (f.setFpll k v).diff = f.diff := rfl
@[simp] theorem Fabric.setFpll_rbits (f : Fabric) (k : Nat) (v : Fpll) : (f.setFpll k v).rbits = f.rbits := rfl
@[simp] theorem Fabric.setFpll_rbitsLast (f : Fabric) (k : Nat) (v : Fpll) : (f.setFpll k v).rbitsLast = f.rbitsLast := rfl
@[simp] theorem Fabric.setFpll_kitty (f : Fabric) (k : Nat) (v : Fpll) : (f.setFpll k v).kitty = f.kitty := rfl
@[simp] theorem Fabric.setFpll_kown (f : Fabric) (k : Nat) (v : Fpll) : (f.setFpll k v).kown = f.kown := rfl
@[simp] theorem Fabric.setFpll_kwatch (f : Fabric) (k : Nat) (v : Fpll) : (f.setFpll k v).kwatch = f.kwatch := rfl
@[simp] theorem Fabric.setFpll_memSeq (f : Fabric) (k : Nat) (v : Fpll) : (f.setFpll k v).memSeq = f.memSeq := rfl
@[simp] theorem Fabric.setFpll_patrol (f : Fabric) (k : Nat) (v : Fpll) : (f.setFpll k v).patrol = f.patrol := rfl
@[simp] theorem Fabric.setFpll_bms (f : Fabric) (k : Nat) (v : Fpll) : (f.setFpll k v).bms = f.bms := rfl
@[simp] theorem Fabric.setFpll_banks (f : Fabric) (k : Nat) (v : Fpll) : (f.setFpll k v).banks = f.banks := rfl
@[simp] theorem Fabric.setFpll_fpll_self (f : Fabric) (k : Nat) (v : Fpll) : (f.setFpll k v).fpll k = v := by simp [Fabric.fpll, Fabric.setFpll]
theorem Fabric.setFpll_fpll_other (f : Fabric) (k : Nat) (v : Fpll) (j : Nat) (h : j ≠ k) : (f.setFpll k v).fpll j = f.fpll j := by
  unfold Fabric.fpll Fabric.setFpll tput; simp only []; split
  · rw [tget_tdel, if_neg h]
  · rw [tget_tins _ _ _ _ _ (not_mem_tdel _ _), if_neg h, tget_tdel, if_neg h]
@[simp] theorem Fabric.setBank_plots (f : Fabric) (b : Nat) (v : Bank) : (f.setBank b v).plots = f.plots := rfl
@[simp] theorem Fabric.setBank_hands (f : Fabric) (b : Nat) (v : Bank) : (f.setBank b v).hands = f.hands := rfl
@[simp] theorem Fabric.setBank_slots (f : Fabric) (b : Nat) (v : Bank) : (f.setBank b v).slots = f.slots := rfl
@[simp] theorem Fabric.setBank_cfg (f : Fabric) (b : Nat) (v : Bank) : (f.setBank b v).cfg = f.cfg := rfl
@[simp] theorem Fabric.setBank_cfgErr (f : Fabric) (b : Nat) (v : Bank) : (f.setBank b v).cfgErr = f.cfgErr := rfl
@[simp] theorem Fabric.setBank_diff (f : Fabric) (b : Nat) (v : Bank) : (f.setBank b v).diff = f.diff := rfl
@[simp] theorem Fabric.setBank_rbits (f : Fabric) (b : Nat) (v : Bank) : (f.setBank b v).rbits = f.rbits := rfl
@[simp] theorem Fabric.setBank_rbitsLast (f : Fabric) (b : Nat) (v : Bank) : (f.setBank b v).rbitsLast = f.rbitsLast := rfl
@[simp] theorem Fabric.setBank_kitty (f : Fabric) (b : Nat) (v : Bank) : (f.setBank b v).kitty = f.kitty := rfl
@[simp] theorem Fabric.setBank_kown (f : Fabric) (b : Nat) (v : Bank) : (f.setBank b v).kown = f.kown := rfl
@[simp] theorem Fabric.setBank_kwatch (f : Fabric) (b : Nat) (v : Bank) : (f.setBank b v).kwatch = f.kwatch := rfl
@[simp] theorem Fabric.setBank_memSeq (f : Fabric) (b : Nat) (v : Bank) : (f.setBank b v).memSeq = f.memSeq := rfl
@[simp] theorem Fabric.setBank_patrol (f : Fabric) (b : Nat) (v : Bank) : (f.setBank b v).patrol = f.patrol := rfl
@[simp] theorem Fabric.setBank_bms (f : Fabric) (b : Nat) (v : Bank) : (f.setBank b v).bms = f.bms := rfl
@[simp] theorem Fabric.setBank_fplls (f : Fabric) (b : Nat) (v : Bank) : (f.setBank b v).fplls = f.fplls := rfl
@[simp] theorem Fabric.setBank_bank (f : Fabric) (b : Nat) (v : Bank) (c : Nat) : (f.setBank b v).bank c = if c = b then v else f.bank c := tget_tput _ _ _ _ _
@[simp] theorem Fabric.setDiff_plots (f : Fabric) (p a b v : Nat) : (f.setDiff p a b v).plots = f.plots := rfl
@[simp] theorem Fabric.setDiff_hands (f : Fabric) (p a b v : Nat) : (f.setDiff p a b v).hands = f.hands := rfl
@[simp] theorem Fabric.setDiff_slots (f : Fabric) (p a b v : Nat) : (f.setDiff p a b v).slots = f.slots := rfl
@[simp] theorem Fabric.setDiff_cfg (f : Fabric) (p a b v : Nat) : (f.setDiff p a b v).cfg = f.cfg := rfl
@[simp] theorem Fabric.setDiff_cfgErr (f : Fabric) (p a b v : Nat) : (f.setDiff p a b v).cfgErr = f.cfgErr := rfl
@[simp] theorem Fabric.setDiff_rbits (f : Fabric) (p a b v : Nat) : (f.setDiff p a b v).rbits = f.rbits := rfl
@[simp] theorem Fabric.setDiff_rbitsLast (f : Fabric) (p a b v : Nat) : (f.setDiff p a b v).rbitsLast = f.rbitsLast := rfl
@[simp] theorem Fabric.setDiff_kitty (f : Fabric) (p a b v : Nat) : (f.setDiff p a b v).kitty = f.kitty := rfl
@[simp] theorem Fabric.setDiff_kown (f : Fabric) (p a b v : Nat) : (f.setDiff p a b v).kown = f.kown := rfl
@[simp] theorem Fabric.setDiff_kwatch (f : Fabric) (p a b v : Nat) : (f.setDiff p a b v).kwatch = f.kwatch := rfl
@[simp] theorem Fabric.setDiff_memSeq (f : Fabric) (p a b v : Nat) : (f.setDiff p a b v).memSeq = f.memSeq := rfl
@[simp] theorem Fabric.setDiff_patrol (f : Fabric) (p a b v : Nat) : (f.setDiff p a b v).patrol = f.patrol := rfl
@[simp] theorem Fabric.setDiff_bms (f : Fabric) (p a b v : Nat) : (f.setDiff p a b v).bms = f.bms := rfl
@[simp] theorem Fabric.setDiff_fplls (f : Fabric) (p a b v : Nat) : (f.setDiff p a b v).fplls = f.fplls := rfl
@[simp] theorem Fabric.setDiff_banks (f : Fabric) (p a b v : Nat) : (f.setDiff p a b v).banks = f.banks := rfl
@[simp] theorem Fabric.setDiff_diffAt (f : Fabric) (p a b v : Nat) (q c c' : Nat) : (f.setDiff p a b v).diffAt q c c' = if (28 * q + diffIx (min c c') (max c c')) = (28 * p + diffIx (min a b) (max a b)) then v else f.diffAt q c c' := tget_tput _ _ _ _ _
@[simp] theorem Fabric.setRbits_plots (f : Fabric) (p s v : Nat) : (f.setRbits p s v).plots = f.plots := rfl
@[simp] theorem Fabric.setRbits_hands (f : Fabric) (p s v : Nat) : (f.setRbits p s v).hands = f.hands := rfl
@[simp] theorem Fabric.setRbits_slots (f : Fabric) (p s v : Nat) : (f.setRbits p s v).slots = f.slots := rfl
@[simp] theorem Fabric.setRbits_cfg (f : Fabric) (p s v : Nat) : (f.setRbits p s v).cfg = f.cfg := rfl
@[simp] theorem Fabric.setRbits_cfgErr (f : Fabric) (p s v : Nat) : (f.setRbits p s v).cfgErr = f.cfgErr := rfl
@[simp] theorem Fabric.setRbits_diff (f : Fabric) (p s v : Nat) : (f.setRbits p s v).diff = f.diff := rfl
@[simp] theorem Fabric.setRbits_rbitsLast (f : Fabric) (p s v : Nat) : (f.setRbits p s v).rbitsLast = f.rbitsLast := rfl
@[simp] theorem Fabric.setRbits_kitty (f : Fabric) (p s v : Nat) : (f.setRbits p s v).kitty = f.kitty := rfl
@[simp] theorem Fabric.setRbits_kown (f : Fabric) (p s v : Nat) : (f.setRbits p s v).kown = f.kown := rfl
@[simp] theorem Fabric.setRbits_kwatch (f : Fabric) (p s v : Nat) : (f.setRbits p s v).kwatch = f.kwatch := rfl
@[simp] theorem Fabric.setRbits_memSeq (f : Fabric) (p s v : Nat) : (f.setRbits p s v).memSeq = f.memSeq := rfl
@[simp] theorem Fabric.setRbits_patrol (f : Fabric) (p s v : Nat) : (f.setRbits p s v).patrol = f.patrol := rfl
@[simp] theorem Fabric.setRbits_bms (f : Fabric) (p s v : Nat) : (f.setRbits p s v).bms = f.bms := rfl
@[simp] theorem Fabric.setRbits_fplls (f : Fabric) (p s v : Nat) : (f.setRbits p s v).fplls = f.fplls := rfl
@[simp] theorem Fabric.setRbits_banks (f : Fabric) (p s v : Nat) : (f.setRbits p s v).banks = f.banks := rfl
@[simp] theorem Fabric.setRbits_rbitsAt (f : Fabric) (p s v : Nat) (q j : Nat) : (f.setRbits p s v).rbitsAt q j = if (8 * q + j) = (8 * p + s) then v else f.rbitsAt q j := tget_tput _ _ _ _ _

/-! ## Net -/

@[simp] theorem Net.setQueue_handChan (n : Net) (q : Nat) (v : Queue) : (n.setQueue q v).handChan = n.handChan := rfl
@[simp] theorem Net.setQueue_scrSeq (n : Net) (q : Nat) (v : Queue) : (n.setQueue q v).scrSeq = n.scrSeq := rfl
@[simp] theorem Net.setQueue_threadChan (n : Net) (q : Nat) (v : Queue) : (n.setQueue q v).threadChan = n.threadChan := rfl
@[simp] theorem Net.setQueue_scr (n : Net) (q : Nat) (v : Queue) : (n.setQueue q v).scr = n.scr := rfl
@[simp] theorem Net.setQueue_narrow (n : Net) (q : Nat) (v : Queue) : (n.setQueue q v).narrow = n.narrow := rfl
@[simp] theorem Net.setQueue_feedDown (n : Net) (q : Nat) (v : Queue) : (n.setQueue q v).feedDown = n.feedDown := rfl
@[simp] theorem Net.setQueue_dieDown (n : Net) (q : Nat) (v : Queue) : (n.setQueue q v).dieDown = n.dieDown := rfl
@[simp] theorem Net.setQueue_queue (n : Net) (q : Nat) (v : Queue) (j : Nat) : (n.setQueue q v).queue j = if j = q then v else n.queue j := tget_tput _ _ _ _ _
@[simp] theorem Net.setHandChan_queues (n : Net) (k : Nat) (v : Chan) : (n.setHandChan k v).queues = n.queues := rfl
@[simp] theorem Net.setHandChan_scrSeq (n : Net) (k : Nat) (v : Chan) : (n.setHandChan k v).scrSeq = n.scrSeq := rfl
@[simp] theorem Net.setHandChan_threadChan (n : Net) (k : Nat) (v : Chan) : (n.setHandChan k v).threadChan = n.threadChan := rfl
@[simp] theorem Net.setHandChan_scr (n : Net) (k : Nat) (v : Chan) : (n.setHandChan k v).scr = n.scr := rfl
@[simp] theorem Net.setHandChan_narrow (n : Net) (k : Nat) (v : Chan) : (n.setHandChan k v).narrow = n.narrow := rfl
@[simp] theorem Net.setHandChan_feedDown (n : Net) (k : Nat) (v : Chan) : (n.setHandChan k v).feedDown = n.feedDown := rfl
@[simp] theorem Net.setHandChan_dieDown (n : Net) (k : Nat) (v : Chan) : (n.setHandChan k v).dieDown = n.dieDown := rfl
@[simp] theorem Net.setHandChan_handChanAt (n : Net) (k : Nat) (v : Chan) (j : Nat) : (n.setHandChan k v).handChanAt j = if j = k then v else n.handChanAt j := tget_tput _ _ _ _ _
@[simp] theorem Net.setThreadChan_queues (n : Net) (k : Nat) (v : Chan) : (n.setThreadChan k v).queues = n.queues := rfl
@[simp] theorem Net.setThreadChan_handChan (n : Net) (k : Nat) (v : Chan) : (n.setThreadChan k v).handChan = n.handChan := rfl
@[simp] theorem Net.setThreadChan_scrSeq (n : Net) (k : Nat) (v : Chan) : (n.setThreadChan k v).scrSeq = n.scrSeq := rfl
@[simp] theorem Net.setThreadChan_scr (n : Net) (k : Nat) (v : Chan) : (n.setThreadChan k v).scr = n.scr := rfl
@[simp] theorem Net.setThreadChan_narrow (n : Net) (k : Nat) (v : Chan) : (n.setThreadChan k v).narrow = n.narrow := rfl
@[simp] theorem Net.setThreadChan_feedDown (n : Net) (k : Nat) (v : Chan) : (n.setThreadChan k v).feedDown = n.feedDown := rfl
@[simp] theorem Net.setThreadChan_dieDown (n : Net) (k : Nat) (v : Chan) : (n.setThreadChan k v).dieDown = n.dieDown := rfl
@[simp] theorem Net.setThreadChan_threadChanAt (n : Net) (k : Nat) (v : Chan) (j : Nat) : (n.setThreadChan k v).threadChanAt j = if j = k then v else n.threadChanAt j := tget_tput _ _ _ _ _

/-! ## Scratch -/

@[simp] theorem Scratch.setOwn_cells (c : Scratch) (k : Nat) (v : Byte) : (c.setOwn k v).cells = c.cells := rfl
@[simp] theorem Scratch.setOwn_err (c : Scratch) (k : Nat) (v : Byte) : (c.setOwn k v).err = c.err := rfl
@[simp] theorem Scratch.setOwn_filling (c : Scratch) (k : Nat) (v : Byte) : (c.setOwn k v).filling = c.filling := rfl
@[simp] theorem Scratch.setOwn_secFilling (c : Scratch) (k : Nat) (v : Byte) : (c.setOwn k v).secFilling = c.secFilling := rfl
@[simp] theorem Scratch.setOwn_corrected (c : Scratch) (k : Nat) (v : Byte) : (c.setOwn k v).corrected = c.corrected := rfl
@[simp] theorem Scratch.setOwn_uncorr (c : Scratch) (k : Nat) (v : Byte) : (c.setOwn k v).uncorr = c.uncorr := rfl
@[simp] theorem Scratch.setOwn_ownAt (c : Scratch) (k : Nat) (v : Byte) (j : Nat) : (c.setOwn k v).ownAt j = if j = k then v else c.ownAt j := tget_tput _ _ _ _ _
@[simp] theorem Scratch.setByte_err (c : Scratch) (a : Nat) (v : Byte) : (c.setByte a v).err = c.err := rfl
@[simp] theorem Scratch.setByte_own (c : Scratch) (a : Nat) (v : Byte) : (c.setByte a v).own = c.own := rfl
@[simp] theorem Scratch.setByte_filling (c : Scratch) (a : Nat) (v : Byte) : (c.setByte a v).filling = c.filling := rfl
@[simp] theorem Scratch.setByte_secFilling (c : Scratch) (a : Nat) (v : Byte) : (c.setByte a v).secFilling = c.secFilling := rfl
@[simp] theorem Scratch.setByte_corrected (c : Scratch) (a : Nat) (v : Byte) : (c.setByte a v).corrected = c.corrected := rfl
@[simp] theorem Scratch.setByte_uncorr (c : Scratch) (a : Nat) (v : Byte) : (c.setByte a v).uncorr = c.uncorr := rfl
@[simp] theorem Scratch.setByte_byte (c : Scratch) (a : Nat) (v : Byte) (c' : Nat) : (c.setByte a v).byte c' = if c' = a then v else c.byte c' := tget_tput _ _ _ _ _
@[simp] theorem Scratch.setErr_cells (c : Scratch) (w : Nat) (v : BitVec 144) : (c.setErr w v).cells = c.cells := rfl
@[simp] theorem Scratch.setErr_own (c : Scratch) (w : Nat) (v : BitVec 144) : (c.setErr w v).own = c.own := rfl
@[simp] theorem Scratch.setErr_filling (c : Scratch) (w : Nat) (v : BitVec 144) : (c.setErr w v).filling = c.filling := rfl
@[simp] theorem Scratch.setErr_secFilling (c : Scratch) (w : Nat) (v : BitVec 144) : (c.setErr w v).secFilling = c.secFilling := rfl
@[simp] theorem Scratch.setErr_corrected (c : Scratch) (w : Nat) (v : BitVec 144) : (c.setErr w v).corrected = c.corrected := rfl
@[simp] theorem Scratch.setErr_uncorr (c : Scratch) (w : Nat) (v : BitVec 144) : (c.setErr w v).uncorr = c.uncorr := rfl
@[simp] theorem Scratch.setErr_errAt (c : Scratch) (w : Nat) (v : BitVec 144) (x : Nat) : (c.setErr w v).errAt x = if x = w then v else c.errAt x := tget_tput _ _ _ _ _

/-! ## Queue -/

@[simp] theorem Queue.setProd_dir (q : Queue) (i : Nat) (v : Prod) : (q.setProd i v).dir = q.dir := rfl
@[simp] theorem Queue.setProd_bound (q : Queue) (i : Nat) (v : Prod) : (q.setProd i v).bound = q.bound := rfl
@[simp] theorem Queue.setProd_flight (q : Queue) (i : Nat) (v : Prod) : (q.setProd i v).flight = q.flight := rfl
@[simp] theorem Queue.setProd_returns (q : Queue) (i : Nat) (v : Prod) : (q.setProd i v).returns = q.returns := rfl
@[simp] theorem Queue.setProd_visible (q : Queue) (i : Nat) (v : Prod) : (q.setProd i v).visible = q.visible := rfl
@[simp] theorem Queue.setProd_reading (q : Queue) (i : Nat) (v : Prod) : (q.setProd i v).reading = q.reading := rfl
@[simp] theorem Queue.setProd_acts (q : Queue) (i : Nat) (v : Prod) : (q.setProd i v).acts = q.acts := rfl
@[simp] theorem Queue.setProd_level (q : Queue) (i : Nat) (v : Prod) : (q.setProd i v).level = q.level := rfl
@[simp] theorem Queue.setProd_event (q : Queue) (i : Nat) (v : Prod) : (q.setProd i v).event = q.event := rfl
@[simp] theorem Queue.setProd_pktsDelivered (q : Queue) (i : Nat) (v : Prod) : (q.setProd i v).pktsDelivered = q.pktsDelivered := rfl
@[simp] theorem Queue.setProd_wordsDelivered (q : Queue) (i : Nat) (v : Prod) : (q.setProd i v).wordsDelivered = q.wordsDelivered := rfl
@[simp] theorem Queue.setProd_rw (q : Queue) (i : Nat) (v : Prod) : (q.setProd i v).rw = q.rw := rfl
@[simp] theorem Queue.setProd_seen (q : Queue) (i : Nat) (v : Prod) : (q.setProd i v).seen = q.seen := rfl
@[simp] theorem Queue.setProd_dropped (q : Queue) (i : Nat) (v : Prod) : (q.setProd i v).dropped = q.dropped := rfl
@[simp] theorem Queue.setProd_lost (q : Queue) (i : Nat) (v : Prod) : (q.setProd i v).lost = q.lost := rfl
@[simp] theorem Queue.setProd_crossings (q : Queue) (i : Nat) (v : Prod) : (q.setProd i v).crossings = q.crossings := rfl
@[simp] theorem Queue.setProd_prod (q : Queue) (i : Nat) (v : Prod) (j : Nat) : (q.setProd i v).prod j = if j = i then v else q.prod j := tget_tput _ _ _ _ _

/-! ## Engines -/

@[simp] theorem Engines.setEngine_threads (e : Engines) (p : Nat) (v : Engine) : (e.setEngine p v).threads = e.threads := rfl
@[simp] theorem Engines.setEngine_slots (e : Engines) (p : Nat) (v : Engine) : (e.setEngine p v).slots = e.slots := rfl
@[simp] theorem Engines.setEngine_imem (e : Engines) (p : Nat) (v : Engine) : (e.setEngine p v).imem = e.imem := rfl
@[simp] theorem Engines.setEngine_dmem (e : Engines) (p : Nat) (v : Engine) : (e.setEngine p v).dmem = e.dmem := rfl
@[simp] theorem Engines.setEngine_imErr (e : Engines) (p : Nat) (v : Engine) : (e.setEngine p v).imErr = e.imErr := rfl
@[simp] theorem Engines.setEngine_dmErr (e : Engines) (p : Nat) (v : Engine) : (e.setEngine p v).dmErr = e.dmErr := rfl
@[simp] theorem Engines.setEngine_eplls (e : Engines) (p : Nat) (v : Engine) : (e.setEngine p v).eplls = e.eplls := rfl
@[simp] theorem Engines.setEngine_engine (e : Engines) (p : Nat) (v : Engine) (q : Nat) : (e.setEngine p v).engine q = if q = p then v else e.engine q := tget_tput _ _ _ _ _
@[simp] theorem Engines.setThread_engines (e : Engines) (p h : Nat) (v : Thread) : (e.setThread p h v).engines = e.engines := rfl
@[simp] theorem Engines.setThread_slots (e : Engines) (p h : Nat) (v : Thread) : (e.setThread p h v).slots = e.slots := rfl
@[simp] theorem Engines.setThread_imem (e : Engines) (p h : Nat) (v : Thread) : (e.setThread p h v).imem = e.imem := rfl
@[simp] theorem Engines.setThread_dmem (e : Engines) (p h : Nat) (v : Thread) : (e.setThread p h v).dmem = e.dmem := rfl
@[simp] theorem Engines.setThread_imErr (e : Engines) (p h : Nat) (v : Thread) : (e.setThread p h v).imErr = e.imErr := rfl
@[simp] theorem Engines.setThread_dmErr (e : Engines) (p h : Nat) (v : Thread) : (e.setThread p h v).dmErr = e.dmErr := rfl
@[simp] theorem Engines.setThread_eplls (e : Engines) (p h : Nat) (v : Thread) : (e.setThread p h v).eplls = e.eplls := rfl
@[simp] theorem Engines.setThread_thread (e : Engines) (p h : Nat) (v : Thread) (q g : Nat) : (e.setThread p h v).thread q g = if (8 * q + g) = (8 * p + h) then v else e.thread q g := tget_tput _ _ _ _ _
@[simp] theorem Engines.setSlotCnt_engines (e : Engines) (p h : Nat) (v : SlotCnt) : (e.setSlotCnt p h v).engines = e.engines := rfl
@[simp] theorem Engines.setSlotCnt_threads (e : Engines) (p h : Nat) (v : SlotCnt) : (e.setSlotCnt p h v).threads = e.threads := rfl
@[simp] theorem Engines.setSlotCnt_imem (e : Engines) (p h : Nat) (v : SlotCnt) : (e.setSlotCnt p h v).imem = e.imem := rfl
@[simp] theorem Engines.setSlotCnt_dmem (e : Engines) (p h : Nat) (v : SlotCnt) : (e.setSlotCnt p h v).dmem = e.dmem := rfl
@[simp] theorem Engines.setSlotCnt_imErr (e : Engines) (p h : Nat) (v : SlotCnt) : (e.setSlotCnt p h v).imErr = e.imErr := rfl
@[simp] theorem Engines.setSlotCnt_dmErr (e : Engines) (p h : Nat) (v : SlotCnt) : (e.setSlotCnt p h v).dmErr = e.dmErr := rfl
@[simp] theorem Engines.setSlotCnt_eplls (e : Engines) (p h : Nat) (v : SlotCnt) : (e.setSlotCnt p h v).eplls = e.eplls := rfl
@[simp] theorem Engines.setSlotCnt_slotCnt (e : Engines) (p h : Nat) (v : SlotCnt) (q g : Nat) : (e.setSlotCnt p h v).slotCnt q g = if (8 * q + g) = (8 * p + h) then v else e.slotCnt q g := tget_tput _ _ _ _ _
@[simp] theorem Engines.setEpll_engines (e : Engines) (k : Nat) (v : Epll) : (e.setEpll k v).engines = e.engines := rfl
@[simp] theorem Engines.setEpll_threads (e : Engines) (k : Nat) (v : Epll) : (e.setEpll k v).threads = e.threads := rfl
@[simp] theorem Engines.setEpll_slots (e : Engines) (k : Nat) (v : Epll) : (e.setEpll k v).slots = e.slots := rfl
@[simp] theorem Engines.setEpll_imem (e : Engines) (k : Nat) (v : Epll) : (e.setEpll k v).imem = e.imem := rfl
@[simp] theorem Engines.setEpll_dmem (e : Engines) (k : Nat) (v : Epll) : (e.setEpll k v).dmem = e.dmem := rfl
@[simp] theorem Engines.setEpll_imErr (e : Engines) (k : Nat) (v : Epll) : (e.setEpll k v).imErr = e.imErr := rfl
@[simp] theorem Engines.setEpll_dmErr (e : Engines) (k : Nat) (v : Epll) : (e.setEpll k v).dmErr = e.dmErr := rfl
@[simp] theorem Engines.setEpll_epll (e : Engines) (k : Nat) (v : Epll) (j : Nat) : (e.setEpll k v).epll j = if j = k then v else e.epll j := tget_tput _ _ _ _ _
@[simp] theorem Engines.setImByte_engines (e : Engines) (p a : Nat) (v : Byte) : (e.setImByte p a v).engines = e.engines := rfl
@[simp] theorem Engines.setImByte_threads (e : Engines) (p a : Nat) (v : Byte) : (e.setImByte p a v).threads = e.threads := rfl
@[simp] theorem Engines.setImByte_slots (e : Engines) (p a : Nat) (v : Byte) : (e.setImByte p a v).slots = e.slots := rfl
@[simp] theorem Engines.setImByte_dmem (e : Engines) (p a : Nat) (v : Byte) : (e.setImByte p a v).dmem = e.dmem := rfl
@[simp] theorem Engines.setImByte_imErr (e : Engines) (p a : Nat) (v : Byte) : (e.setImByte p a v).imErr = e.imErr := rfl
@[simp] theorem Engines.setImByte_dmErr (e : Engines) (p a : Nat) (v : Byte) : (e.setImByte p a v).dmErr = e.dmErr := rfl
@[simp] theorem Engines.setImByte_eplls (e : Engines) (p a : Nat) (v : Byte) : (e.setImByte p a v).eplls = e.eplls := rfl
@[simp] theorem Engines.setImByte_imByte (e : Engines) (p a : Nat) (v : Byte) (q c : Nat) : (e.setImByte p a v).imByte q c = if (imemSize * q + c) = (imemSize * p + a) then v else e.imByte q c := tget_tput _ _ _ _ _
@[simp] theorem Engines.setDmByte_engines (e : Engines) (p a : Nat) (v : Byte) : (e.setDmByte p a v).engines = e.engines := rfl
@[simp] theorem Engines.setDmByte_threads (e : Engines) (p a : Nat) (v : Byte) : (e.setDmByte p a v).threads = e.threads := rfl
@[simp] theorem Engines.setDmByte_slots (e : Engines) (p a : Nat) (v : Byte) : (e.setDmByte p a v).slots = e.slots := rfl
@[simp] theorem Engines.setDmByte_imem (e : Engines) (p a : Nat) (v : Byte) : (e.setDmByte p a v).imem = e.imem := rfl
@[simp] theorem Engines.setDmByte_imErr (e : Engines) (p a : Nat) (v : Byte) : (e.setDmByte p a v).imErr = e.imErr := rfl
@[simp] theorem Engines.setDmByte_dmErr (e : Engines) (p a : Nat) (v : Byte) : (e.setDmByte p a v).dmErr = e.dmErr := rfl
@[simp] theorem Engines.setDmByte_eplls (e : Engines) (p a : Nat) (v : Byte) : (e.setDmByte p a v).eplls = e.eplls := rfl
@[simp] theorem Engines.setDmByte_dmByte (e : Engines) (p a : Nat) (v : Byte) (q c : Nat) : (e.setDmByte p a v).dmByte q c = if (dmemSize * q + c) = (dmemSize * p + a) then v else e.dmByte q c := tget_tput _ _ _ _ _

/-! ## Stack -/

@[simp] theorem Stack.setRiser_regions (k : Stack) (p : Nat) (v : Riser) : (k.setRiser p v).regions = k.regions := rfl
@[simp] theorem Stack.setRiser_lines (k : Stack) (p : Nat) (v : Riser) : (k.setRiser p v).lines = k.lines := rfl
@[simp] theorem Stack.setRiser_log (k : Stack) (p : Nat) (v : Riser) : (k.setRiser p v).log = k.log := rfl
@[simp] theorem Stack.setRiser_logSeq (k : Stack) (p : Nat) (v : Riser) : (k.setRiser p v).logSeq = k.logSeq := rfl
@[simp] theorem Stack.setRiser_retireThresh (k : Stack) (p : Nat) (v : Riser) : (k.setRiser p v).retireThresh = k.retireThresh := rfl
@[simp] theorem Stack.setRiser_patrolH (k : Stack) (p : Nat) (v : Riser) : (k.setRiser p v).patrolH = k.patrolH := rfl
@[simp] theorem Stack.setRiser_bootNonce (k : Stack) (p : Nat) (v : Riser) : (k.setRiser p v).bootNonce = k.bootNonce := rfl
@[simp] theorem Stack.setRiser_dieMapping (k : Stack) (p : Nat) (v : Riser) : (k.setRiser p v).dieMapping = k.dieMapping := rfl
@[simp] theorem Stack.setRiser_refresh (k : Stack) (p : Nat) (v : Riser) : (k.setRiser p v).refresh = k.refresh := rfl
@[simp] theorem Stack.setRiser_reply (k : Stack) (p : Nat) (v : Riser) : (k.setRiser p v).reply = k.reply := rfl
@[simp] theorem Stack.setRiser_riser (k : Stack) (p : Nat) (v : Riser) (q : Nat) : (k.setRiser p v).riser q = if q = p then v else k.riser q := tget_tput _ _ _ _ _
@[simp] theorem Stack.setRegion_risers (k : Stack) (p r : Nat) (v : Region) : (k.setRegion p r v).risers = k.risers := rfl
@[simp] theorem Stack.setRegion_lines (k : Stack) (p r : Nat) (v : Region) : (k.setRegion p r v).lines = k.lines := rfl
@[simp] theorem Stack.setRegion_log (k : Stack) (p r : Nat) (v : Region) : (k.setRegion p r v).log = k.log := rfl
@[simp] theorem Stack.setRegion_logSeq (k : Stack) (p r : Nat) (v : Region) : (k.setRegion p r v).logSeq = k.logSeq := rfl
@[simp] theorem Stack.setRegion_retireThresh (k : Stack) (p r : Nat) (v : Region) : (k.setRegion p r v).retireThresh = k.retireThresh := rfl
@[simp] theorem Stack.setRegion_patrolH (k : Stack) (p r : Nat) (v : Region) : (k.setRegion p r v).patrolH = k.patrolH := rfl
@[simp] theorem Stack.setRegion_bootNonce (k : Stack) (p r : Nat) (v : Region) : (k.setRegion p r v).bootNonce = k.bootNonce := rfl
@[simp] theorem Stack.setRegion_dieMapping (k : Stack) (p r : Nat) (v : Region) : (k.setRegion p r v).dieMapping = k.dieMapping := rfl
@[simp] theorem Stack.setRegion_refresh (k : Stack) (p r : Nat) (v : Region) : (k.setRegion p r v).refresh = k.refresh := rfl
@[simp] theorem Stack.setRegion_reply (k : Stack) (p r : Nat) (v : Region) : (k.setRegion p r v).reply = k.reply := rfl
@[simp] theorem Stack.setRegion_region (k : Stack) (p r : Nat) (v : Region) (q j : Nat) : (k.setRegion p r v).region q j = if (32 * q + j) = (32 * p + r) then v else k.region q j := tget_tput _ _ _ _ _

/-! ## Links -/

@[simp] theorem Links.setPort_quads (l : Links) (n : Nat) (v : Port) : (l.setPort n v).quads = l.quads := rfl
@[simp] theorem Links.setPort_bdmas (l : Links) (n : Nat) (v : Port) : (l.setPort n v).bdmas = l.bdmas := rfl
@[simp] theorem Links.setPort_steer (l : Links) (n : Nat) (v : Port) : (l.setPort n v).steer = l.steer := rfl
@[simp] theorem Links.setPort_steerSeed (l : Links) (n : Nat) (v : Port) : (l.setPort n v).steerSeed = l.steerSeed := rfl
@[simp] theorem Links.setPort_umap (l : Links) (n : Nat) (v : Port) : (l.setPort n v).umap = l.umap := rfl
@[simp] theorem Links.setPort_port (l : Links) (n : Nat) (v : Port) (m : Nat) : (l.setPort n v).port m = if m = n then v else l.port m := tget_tput _ _ _ _ _
@[simp] theorem Links.setQuad_ports (l : Links) (k : Nat) (v : Quad) : (l.setQuad k v).ports = l.ports := rfl
@[simp] theorem Links.setQuad_bdmas (l : Links) (k : Nat) (v : Quad) : (l.setQuad k v).bdmas = l.bdmas := rfl
@[simp] theorem Links.setQuad_steer (l : Links) (k : Nat) (v : Quad) : (l.setQuad k v).steer = l.steer := rfl
@[simp] theorem Links.setQuad_steerSeed (l : Links) (k : Nat) (v : Quad) : (l.setQuad k v).steerSeed = l.steerSeed := rfl
@[simp] theorem Links.setQuad_umap (l : Links) (k : Nat) (v : Quad) : (l.setQuad k v).umap = l.umap := rfl
@[simp] theorem Links.setQuad_quad (l : Links) (k : Nat) (v : Quad) (j : Nat) : (l.setQuad k v).quad j = if j = k then v else l.quad j := tget_tput _ _ _ _ _
@[simp] theorem Links.setBdma_ports (l : Links) (k : Nat) (v : Bdma) : (l.setBdma k v).ports = l.ports := rfl
@[simp] theorem Links.setBdma_quads (l : Links) (k : Nat) (v : Bdma) : (l.setBdma k v).quads = l.quads := rfl
@[simp] theorem Links.setBdma_steer (l : Links) (k : Nat) (v : Bdma) : (l.setBdma k v).steer = l.steer := rfl
@[simp] theorem Links.setBdma_steerSeed (l : Links) (k : Nat) (v : Bdma) : (l.setBdma k v).steerSeed = l.steerSeed := rfl
@[simp] theorem Links.setBdma_umap (l : Links) (k : Nat) (v : Bdma) : (l.setBdma k v).umap = l.umap := rfl
@[simp] theorem Links.setBdma_bdma (l : Links) (k : Nat) (v : Bdma) (j : Nat) : (l.setBdma k v).bdma j = if j = k then v else l.bdma j := tget_tput _ _ _ _ _
@[simp] theorem Links.setUmap_ports (l : Links) (k : Nat) (v : BitVec 64) : (l.setUmap k v).ports = l.ports := rfl
@[simp] theorem Links.setUmap_quads (l : Links) (k : Nat) (v : BitVec 64) : (l.setUmap k v).quads = l.quads := rfl
@[simp] theorem Links.setUmap_bdmas (l : Links) (k : Nat) (v : BitVec 64) : (l.setUmap k v).bdmas = l.bdmas := rfl
@[simp] theorem Links.setUmap_steer (l : Links) (k : Nat) (v : BitVec 64) : (l.setUmap k v).steer = l.steer := rfl
@[simp] theorem Links.setUmap_steerSeed (l : Links) (k : Nat) (v : BitVec 64) : (l.setUmap k v).steerSeed = l.steerSeed := rfl
@[simp] theorem Links.setUmap_umapAt (l : Links) (k : Nat) (v : BitVec 64) (j : Nat) : (l.setUmap k v).umapAt j = if j = k then v else l.umapAt j := tget_tput _ _ _ _ _

/-! ## Mc -/

@[simp] theorem Mc.setSnap_hk (m : Mc) (k : Nat) (v : Snap) : (m.setSnap k v).hk = m.hk := rfl
@[simp] theorem Mc.setSnap_bist (m : Mc) (k : Nat) (v : Snap) : (m.setSnap k v).bist = m.bist := rfl
@[simp] theorem Mc.setSnap_snapDue (m : Mc) (k : Nat) (v : Snap) : (m.setSnap k v).snapDue = m.snapDue := rfl
@[simp] theorem Mc.setSnap_sspi (m : Mc) (k : Nat) (v : Snap) : (m.setSnap k v).sspi = m.sspi := rfl
@[simp] theorem Mc.setSnap_jtag (m : Mc) (k : Nat) (v : Snap) : (m.setSnap k v).jtag = m.jtag := rfl
@[simp] theorem Mc.setSnap_orders (m : Mc) (k : Nat) (v : Snap) : (m.setSnap k v).orders = m.orders := rfl
@[simp] theorem Mc.setSnap_window (m : Mc) (k : Nat) (v : Snap) : (m.setSnap k v).window = m.window := rfl
@[simp] theorem Mc.setSnap_heldWrites (m : Mc) (k : Nat) (v : Snap) : (m.setSnap k v).heldWrites = m.heldWrites := rfl
@[simp] theorem Mc.setSnap_heldFill (m : Mc) (k : Nat) (v : Snap) : (m.setSnap k v).heldFill = m.heldFill := rfl
@[simp] theorem Mc.setSnap_out (m : Mc) (k : Nat) (v : Snap) : (m.setSnap k v).out = m.out := rfl
@[simp] theorem Mc.setSnap_preSnap (m : Mc) (k : Nat) (v : Snap) : (m.setSnap k v).preSnap = m.preSnap := rfl
@[simp] theorem Mc.setSnap_tokenResult (m : Mc) (k : Nat) (v : Snap) : (m.setSnap k v).tokenResult = m.tokenResult := rfl
@[simp] theorem Mc.setSnap_snap_self (m : Mc) (k : Nat) (v : Snap) : (m.setSnap k v).snap k = v := by simp [Mc.snap, Mc.setSnap]
theorem Mc.setSnap_snap_other (m : Mc) (k : Nat) (v : Snap) (j : Nat) (h : j ≠ k) : (m.setSnap k v).snap j = m.snap j := by
  unfold Mc.snap Mc.setSnap tput; simp only []; split
  · rw [tget_tdel, if_neg h]
  · rw [tget_tins _ _ _ _ _ (not_mem_tdel _ _), if_neg h, tget_tdel, if_neg h]

/-! ## FallowMap -/

@[simp] theorem FallowMap.setRiser_plots (m : FallowMap) (p : Nat) (v : RiserMap) : (m.setRiser p v).plots = m.plots := rfl
@[simp] theorem FallowMap.setRiser_dieMap (m : FallowMap) (p : Nat) (v : RiserMap) : (m.setRiser p v).dieMap = m.dieMap := rfl
@[simp] theorem FallowMap.setRiser_feed (m : FallowMap) (p : Nat) (v : RiserMap) : (m.setRiser p v).feed = m.feed := rfl
@[simp] theorem FallowMap.setRiser_feedLanes (m : FallowMap) (p : Nat) (v : RiserMap) : (m.setRiser p v).feedLanes = m.feedLanes := rfl
@[simp] theorem FallowMap.setRiser_bonds (m : FallowMap) (p : Nat) (v : RiserMap) : (m.setRiser p v).bonds = m.bonds := rfl
@[simp] theorem FallowMap.setRiser_failedTiles (m : FallowMap) (p : Nat) (v : RiserMap) : (m.setRiser p v).failedTiles = m.failedTiles := rfl
@[simp] theorem FallowMap.setRiser_retire (m : FallowMap) (p : Nat) (v : RiserMap) : (m.setRiser p v).retire = m.retire := rfl
@[simp] theorem FallowMap.setRiser_riser (m : FallowMap) (p : Nat) (v : RiserMap) (q : Nat) : (m.setRiser p v).riser q = if q = p then v else m.riser q := tget_tput _ _ _ _ _

/-! ## Hk -/

@[simp] theorem Hk.setRail_period (h : Hk) (k : Nat) (v : Rail) : (h.setRail k v).period = h.period := rfl
@[simp] theorem Hk.setRail_rounds (h : Hk) (k : Nat) (v : Rail) : (h.setRail k v).rounds = h.rounds := rfl
@[simp] theorem Hk.setRail_horizon (h : Hk) (k : Nat) (v : Rail) : (h.setRail k v).horizon = h.horizon := rfl
@[simp] theorem Hk.setRail_temps (h : Hk) (k : Nat) (v : Rail) : (h.setRail k v).temps = h.temps := rfl
@[simp] theorem Hk.setRail_frameTemps (h : Hk) (k : Nat) (v : Rail) : (h.setRail k v).frameTemps = h.frameTemps := rfl
@[simp] theorem Hk.setRail_hottest (h : Hk) (k : Nat) (v : Rail) : (h.setRail k v).hottest = h.hottest := rfl
@[simp] theorem Hk.setRail_monitors (h : Hk) (k : Nat) (v : Rail) : (h.setRail k v).monitors = h.monitors := rfl
@[simp] theorem Hk.setRail_monOut (h : Hk) (k : Nat) (v : Rail) : (h.setRail k v).monOut = h.monOut := rfl
@[simp] theorem Hk.setRail_phases (h : Hk) (k : Nat) (v : Rail) : (h.setRail k v).phases = h.phases := rfl
@[simp] theorem Hk.setRail_railRec (h : Hk) (k : Nat) (v : Rail) : (h.setRail k v).railRec = h.railRec := rfl
@[simp] theorem Hk.setRail_roundTime (h : Hk) (k : Nat) (v : Rail) : (h.setRail k v).roundTime = h.roundTime := rfl
@[simp] theorem Hk.setRail_clockFaults (h : Hk) (k : Nat) (v : Rail) : (h.setRail k v).clockFaults = h.clockFaults := rfl
@[simp] theorem Hk.setRail_failedRail (h : Hk) (k : Nat) (v : Rail) : (h.setRail k v).failedRail = h.failedRail := rfl
@[simp] theorem Hk.setRail_failedRec (h : Hk) (k : Nat) (v : Rail) : (h.setRail k v).failedRec = h.failedRec := rfl
@[simp] theorem Hk.setRail_wear (h : Hk) (k : Nat) (v : Rail) : (h.setRail k v).wear = h.wear := rfl
@[simp] theorem Hk.setRail_limpArmed (h : Hk) (k : Nat) (v : Rail) : (h.setRail k v).limpArmed = h.limpArmed := rfl
@[simp] theorem Hk.setRail_ledgerDue (h : Hk) (k : Nat) (v : Rail) : (h.setRail k v).ledgerDue = h.ledgerDue := rfl
@[simp] theorem Hk.setRail_rail (h : Hk) (k : Nat) (v : Rail) (j : Nat) : (h.setRail k v).rail j = if j = k then v else h.rail j := tget_tput _ _ _ _ _

end Sys2Proof.Machine
end

