-- ==== Sys2Proof/Laws/Ops.lean ====
section
/-! SUPPORT. What the shared operations can do: attention, orders, queues, and the retirement of an engine instruction. -/

namespace Sys2Proof.Machine

/-! ## Attention and orders -/

@[simp] theorem State.raise_aon (s : State) (e : Event) : (s.raise e).aon = s.aon := rfl
@[simp] theorem State.raise_nv (s : State) (e : Event) : (s.raise e).nv = s.nv := rfl
@[simp] theorem State.raise_fab (s : State) (e : Event) : (s.raise e).fab = s.fab := rfl
@[simp] theorem State.raise_net (s : State) (e : Event) : (s.raise e).net = s.net := rfl
@[simp] theorem State.raise_eng (s : State) (e : Event) : (s.raise e).eng = s.eng := rfl
@[simp] theorem State.raise_stk (s : State) (e : Event) : (s.raise e).stk = s.stk := rfl
@[simp] theorem State.raise_lnk (s : State) (e : Event) : (s.raise e).lnk = s.lnk := rfl
@[simp] theorem State.raise_mc (s : State) (e : Event) : (s.raise e).mc = s.mc := rfl
@[simp] theorem State.raise_pending (s : State) (e : Event) : (s.raise e).pending = s.pending := rfl
@[simp] theorem State.raiseAll_aon (s : State) (l : List Event) : (s.raiseAll l).aon = s.aon := rfl
@[simp] theorem State.raiseAll_nv (s : State) (l : List Event) : (s.raiseAll l).nv = s.nv := rfl
@[simp] theorem State.raiseAll_fab (s : State) (l : List Event) : (s.raiseAll l).fab = s.fab := rfl
@[simp] theorem State.raiseAll_net (s : State) (l : List Event) : (s.raiseAll l).net = s.net := rfl
@[simp] theorem State.raiseAll_eng (s : State) (l : List Event) : (s.raiseAll l).eng = s.eng := rfl
@[simp] theorem State.raiseAll_stk (s : State) (l : List Event) : (s.raiseAll l).stk = s.stk := rfl
@[simp] theorem State.raiseAll_lnk (s : State) (l : List Event) : (s.raiseAll l).lnk = s.lnk := rfl
@[simp] theorem State.raiseAll_mc (s : State) (l : List Event) : (s.raiseAll l).mc = s.mc := rfl
@[simp] theorem State.raiseAll_pending (s : State) (l : List Event) : (s.raiseAll l).pending = s.pending := rfl
@[simp] theorem State.raiseOnce_aon (s : State) (e : Event) (k : Nat) : (s.raiseOnce e k).aon = s.aon := by unfold State.raiseOnce; simp only []; split <;> rfl
@[simp] theorem State.raiseOnce_nv (s : State) (e : Event) (k : Nat) : (s.raiseOnce e k).nv = s.nv := by unfold State.raiseOnce; simp only []; split <;> rfl
@[simp] theorem State.raiseOnce_fab (s : State) (e : Event) (k : Nat) : (s.raiseOnce e k).fab = s.fab := by unfold State.raiseOnce; simp only []; split <;> rfl
@[simp] theorem State.raiseOnce_net (s : State) (e : Event) (k : Nat) : (s.raiseOnce e k).net = s.net := by unfold State.raiseOnce; simp only []; split <;> rfl
@[simp] theorem State.raiseOnce_eng (s : State) (e : Event) (k : Nat) : (s.raiseOnce e k).eng = s.eng := by unfold State.raiseOnce; simp only []; split <;> rfl
@[simp] theorem State.raiseOnce_stk (s : State) (e : Event) (k : Nat) : (s.raiseOnce e k).stk = s.stk := by unfold State.raiseOnce; simp only []; split <;> rfl
@[simp] theorem State.raiseOnce_lnk (s : State) (e : Event) (k : Nat) : (s.raiseOnce e k).lnk = s.lnk := by unfold State.raiseOnce; simp only []; split <;> rfl
@[simp] theorem State.raiseOnce_mc (s : State) (e : Event) (k : Nat) : (s.raiseOnce e k).mc = s.mc := by unfold State.raiseOnce; simp only []; split <;> rfl
@[simp] theorem State.raiseOnce_pending (s : State) (e : Event) (k : Nat) : (s.raiseOnce e k).pending = s.pending := by unfold State.raiseOnce; simp only []; split <;> rfl
@[simp] theorem State.drawn_nv (s : State) : s.drawn.nv = s.nv := rfl
@[simp] theorem State.drawn_seats (s : State) : s.drawn.seats = s.seats := rfl
@[simp] theorem State.drawn_fab (s : State) : s.drawn.fab = s.fab := rfl
@[simp] theorem State.drawn_net (s : State) : s.drawn.net = s.net := rfl
@[simp] theorem State.drawn_eng (s : State) : s.drawn.eng = s.eng := rfl
@[simp] theorem State.drawn_stk (s : State) : s.drawn.stk = s.stk := rfl
@[simp] theorem State.drawn_lnk (s : State) : s.drawn.lnk = s.lnk := rfl
@[simp] theorem State.drawn_mc (s : State) : s.drawn.mc = s.mc := rfl
@[simp] theorem State.drawn_pending (s : State) : s.drawn.pending = s.pending := rfl
@[simp] theorem State.clearOut_aon (s : State) : s.clearOut.aon = s.aon := rfl
@[simp] theorem State.clearOut_nv (s : State) : s.clearOut.nv = s.nv := rfl
@[simp] theorem State.clearOut_seats (s : State) : s.clearOut.seats = s.seats := rfl
@[simp] theorem State.clearOut_fab (s : State) : s.clearOut.fab = s.fab := rfl
@[simp] theorem State.clearOut_net (s : State) : s.clearOut.net = s.net := rfl
@[simp] theorem State.clearOut_eng (s : State) : s.clearOut.eng = s.eng := rfl
@[simp] theorem State.clearOut_stk (s : State) : s.clearOut.stk = s.stk := rfl
@[simp] theorem State.clearOut_lnk (s : State) : s.clearOut.lnk = s.lnk := rfl
@[simp] theorem State.clearOut_pending (s : State) : s.clearOut.pending = s.pending := rfl
@[simp] theorem State.drawn_aon (s : State) : s.drawn.aon = { s.aon with free := s.aon.free + 1 } := rfl
@[simp] theorem State.clearOut_mc (s : State) : s.clearOut.mc = { s.mc with out := [] } := rfl
theorem State.showStops_rest (s : State) (g : Nat × Queue → Nat → Bool) : s.showStops g = { s with fab := { s.fab with hands := (s.showStops g).fab.hands } } := rfl
/-- Showing rewinds on QO_RW changes nothing else of a hand. -/
theorem State.showStops_hand (s : State) (g : Nat × Queue → Nat → Bool) (p h : Nat) :
    ∃ l, (s.showStops g).fab.hand p h = { s.fab.hand p h with qoRw := l } := by
  simp only [State.showStops, State.onFab, Fabric.hand]
  generalize s.fab.hands = l
  induction l with
  | nil => exact ⟨_, rfl⟩
  | cons e r ih =>
    simp only [List.map_cons, tget_cons]
    split
    · exact ⟨_, rfl⟩
    · exact ih
/-- An event is noted in its own seat, when that has a credential, and in no other (R473). -/
theorem State.raise_seat (s : State) (e : Event) (j : Nat) :
    (s.raise e).seat j = if j = e.seat && hasCred s.nv e.seat (s.seat e.seat) then (s.seat e.seat).note s.aon.now e else s.seat j := by
  unfold State.raise State.seat raiseIn
  simp only []
  split
  · rename_i h; rw [tget_tput]; by_cases k : j = e.seat <;> simp_all
  · rename_i h; simp_all
/-- Noting an event leaves the session, the staging set and the turn. -/
theorem SeatRec.note_keeps (r : SeatRec) (now : Nat) (e : Event) :
    (r.note now e).isOpen = r.isOpen ∧ (r.note now e).staged = r.staged ∧ (r.note now e).turn = r.turn ∧ (r.note now e).last = r.last ∧ (r.note now e).running = r.running ∧ (r.note now e).seg = r.seg ∧
      (r.note now e).sms = r.sms ∧ (r.note now e).smr = r.smr := ⟨rfl, rfl, rfl, rfl, rfl, rfl, rfl, rfl⟩
/-- Taking an order removes its first occurrence and nothing else. -/
theorem takeOrder_some (o : Order) (l r : List Order) (h : takeOrder o l = some r) : ∃ a b, l = a ++ o :: b ∧ o ∉ a ∧ r = a ++ b := by
  induction l generalizing r with
  | nil => simp [takeOrder] at h
  | cons x t ih =>
    simp only [takeOrder] at h
    by_cases e : x = o
    · rw [if_pos e] at h; exact ⟨[], t, by simp [e], by simp, by simpa using h.symm⟩
    · rw [if_neg e] at h
      obtain ⟨u, hu, rfl⟩ := Option.map_eq_some_iff.1 h
      obtain ⟨a, b, rfl, na, rfl⟩ := ih u hu
      exact ⟨x :: a, b, rfl, by simp [na]; exact fun h => e h.symm, rfl⟩
@[simp] theorem takeOrder_head (o : Order) (l : List Order) : takeOrder o (o :: l) = some l := by simp [takeOrder]

/-! ## Queues (R205–R222) -/

@[simp] theorem Queue.setProd_setProd (q : Queue) (i : Nat) (v : Prod) : ((q.setProd i v).setProd i v).prod i = v := by simp
/-- The consumer takes words only: what is under way, the producers and the binding stay. -/
theorem Queue.pop_keeps (q r : Queue) (w : QWord) (h : q.pop = some (w, r)) :
    r.dir = q.dir ∧ r.bound = q.bound ∧ r.prods = q.prods ∧ r.flight = q.flight ∧ r.returns = q.returns ∧ r.level = q.level := by
  unfold Queue.pop at h
  split at h
  · cases h
  · split at h
    · cases h
    · simp only [Option.some.injEq] at h
      obtain ⟨-, rfl⟩ := h
      exact ⟨rfl, rfl, rfl, rfl, rfl, rfl⟩
theorem Queue.drop_keeps (q : Queue) : q.drop.dir = q.dir ∧ q.drop.bound = q.bound ∧ q.drop.prods = q.prods ∧ q.drop.flight = q.flight ∧ q.drop.visible = q.visible ∧ q.drop.level = q.level := by
  unfold Queue.drop; split <;> exact ⟨rfl, rfl, rfl, rfl, rfl, rfl⟩
theorem Queue.crossing_keeps (q : Queue) (a b : Nat) : (q.crossing a b).dir = q.dir ∧ (q.crossing a b).bound = q.bound ∧ (q.crossing a b).prods = q.prods ∧ (q.crossing a b).flight = q.flight ∧
    (q.crossing a b).visible = q.visible ∧ (q.crossing a b).level = q.level := by
  unfold Queue.crossing; simp only []; split <;> exact ⟨rfl, rfl, rfl, rfl, rfl, rfl⟩
/-- A packet that arrives becomes the last visible one, and its words count. -/
theorem Queue.arrive_commit (q : Queue) (i : Nat) (p : Pkt) (t : List Sent) (h : takeSent i q.flight = some (.commit p, t)) :
    (q.arrive i).flight = t ∧ (q.arrive i).visible = q.visible ++ [p] ∧ (q.arrive i).level = q.level + p.words.length ∧ (q.arrive i).prods = q.prods := by
  unfold Queue.arrive Queue.show
  rw [h]
  obtain ⟨-, -, e3, e4, e5, e6⟩ := Queue.crossing_keeps { q with flight := t, visible := q.visible ++ [p], level := q.level + p.words.length } q.level (q.level + p.words.length)
  exact ⟨e4, e5, e6, e3⟩
/-- A producer never holds more credits than its share after credits come back. -/
theorem Queue.credit_le (q : Queue) (i n : Nat) (t : List (Nat × Nat)) (h : takeReturn i q.returns = some (n, t)) : ((q.credit i).prod i).credits ≤ qdShare q.dir := by
  unfold Queue.credit
  rw [h]
  simp only [Queue.prod, Queue.setProd, tget_tput, if_true]
  exact Int.min_le_left _ _

/-! ## Retirement (R248, R250, R269, R271) -/

/-- Thread h of plot p executes i: the event runs the instruction's effect and retires it. -/
theorem engStep_executes (s : State) (p h : Nat) (i : EngInsn) (body : State → Thread → EngEnd) (r : s.threadRuns p h = true) (f : fetchTrap s p h (s.eng.thread p h).pc = none)
    (w : fetchWord s p (s.eng.thread p h).pc = encodeEng i) (l : legalEng i = true) :
    engStep s p h i body =
      ((body s (s.eng.thread p h)).counted p (fetchCorr s p (s.eng.thread p h).pc)).finish p h (s.eng.thread p h).pc.toNat (encodeEng i) := by
  unfold engStep
  simp [r, f, w, l]
/-- A thread that does not run does nothing. -/
theorem engStep_stopped (s : State) (p h : Nat) (i : EngInsn) (body : State → Thread → EngEnd) (r : s.threadRuns p h = false) : engStep s p h i body = s := by
  unfold engStep; simp [r]
/-- Everything an engine event can do: nothing, its own effect's end, or a trap. -/
theorem engStep_cases (s : State) (p h : Nat) (i : EngInsn) (body : State → Thread → EngEnd) :
    engStep s p h i body = s ∨ (∃ c n a w, engStep s p h i body = (EngEnd.trap s c n a).finish p h (s.eng.thread p h).pc.toNat w) ∨
      ∃ e n w, (e = body s (s.eng.thread p h) ∨ ∃ c m a, e = .trap s c m a) ∧ engStep s p h i body = (e.counted p n).finish p h (s.eng.thread p h).pc.toNat w := by
  unfold engStep
  simp only []
  split
  · exact .inl rfl
  · split
    · exact .inr (.inl ⟨_, _, _, _, rfl⟩)
    · split
      · exact .inl rfl
      · split
        · exact .inr (.inr ⟨_, _, _, .inl rfl, rfl⟩)
        · exact .inr (.inr ⟨_, _, _, .inr ⟨_, _, _, rfl⟩, rfl⟩)
/-- A thread that waits changes nothing of its own. -/
@[simp] theorem EngEnd.finish_wait (s : State) (p h pc : Nat) (w : Word) : (EngEnd.wait s).finish p h pc w = s := rfl

end Sys2Proof.Machine
end

