-- ==== Sys2Proof/Laws/Fabric.lean ====
section
/-! SUPPORT. What passing fabric edges can do, the state at an edge, and what a command at a hard block's port does there. -/

namespace Sys2Proof.Machine

/-! ## Passing edges -/

/-- Of a hand only flip-flops, arrival registers and QO_RW differ; of the fabric only plots' records, those parts of hands, block memories' outputs and I/O registers. -/
def Fabric.edgeKeeps (f g : Fabric) : Prop :=
  g = { f with plots := g.plots, hands := g.hands, bms := g.bms, banks := g.banks } ∧
    ∀ p h, g.hand p h = { f.hand p h with ff := (g.hand p h).ff, arrival := (g.hand p h).arrival, qoRw := (g.hand p h).qoRw }

theorem Fabric.edgeKeeps_refl (f : Fabric) : f.edgeKeeps f := ⟨rfl, fun _ _ => rfl⟩
theorem Fabric.edgeKeeps_trans {f g k : Fabric} (a : f.edgeKeeps g) (b : g.edgeKeeps k) : f.edgeKeeps k :=
  ⟨by rw [b.1, a.1], fun p h => by rw [b.2 p h, a.2 p h]⟩
/-- A list of changes, each of which keeps what an edge keeps. -/
theorem Fabric.edgeKeeps_foldl {α : Type} (g : Fabric → α → Fabric) (k : ∀ (f : Fabric) (a : α), f.edgeKeeps (g f a)) (l : List α) (f : Fabric) : f.edgeKeeps (l.foldl g f) := by
  induction l generalizing f with
  | nil => exact edgeKeeps_refl f
  | cons a t ih => exact edgeKeeps_trans (k f a) (ih _)
theorem Fabric.edgeKeeps_setPlot (f : Fabric) (p : Nat) (v : Plot) : f.edgeKeeps (f.setPlot p v) := ⟨rfl, fun _ _ => rfl⟩
theorem Fabric.edgeKeeps_setBank (f : Fabric) (b : Nat) (v : Bank) : f.edgeKeeps (f.setBank b v) := ⟨rfl, fun _ _ => rfl⟩
theorem Fabric.edgeKeeps_setHand (f : Fabric) (p h : Nat) (v : Hand) (k : v = { f.hand p h with ff := v.ff, arrival := v.arrival, qoRw := v.qoRw }) : f.edgeKeeps (f.setHand p h v) := by
  refine ⟨rfl, fun q g => ?_⟩
  rw [Fabric.setHand_hand]
  split
  · rename_i e
    have same : f.hand q g = f.hand p h := by simp only [Fabric.hand, e]
    rw [same]; exact k
  · rfl
theorem Fabric.settleBms_keeps (f : Fabric) (p : Nat) : f.edgeKeeps (f.settleBms p) := ⟨rfl, fun _ _ => rfl⟩
theorem Fabric.ioEdge_keeps (f : Fabric) (l : Option (Nat × (Bool → FabIn))) (d p e : Nat) : f.edgeKeeps (f.ioEdge l d p e) :=
  edgeKeeps_foldl _ (fun g b => edgeKeeps_setBank g b _) _ _
theorem Fabric.deliver_keeps (f : Fabric) (p n : Nat) : f.edgeKeeps (f.deliver p n) := by
  refine edgeKeeps_trans (edgeKeeps_foldl _ (fun g t => edgeKeeps_foldl _ (fun g d => ?_) _ _) _ _) (edgeKeeps_setPlot _ _ _)
  split
  · exact edgeKeeps_refl g
  · split
    · exact edgeKeeps_setHand g _ _ _ rfl
    · exact edgeKeeps_refl g
theorem Fabric.loseCall_keeps (f : Fabric) (p : Nat) : f.edgeKeeps (f.loseCall p) := edgeKeeps_setPlot _ _ _
theorem Fabric.raiseCall_keeps (f : Fabric) (p h n e : Nat) : f.edgeKeeps (f.raiseCall p h n e) := by
  unfold Fabric.raiseCall
  dsimp only
  split
  · exact edgeKeeps_setPlot _ _ _
  · split
    · exact edgeKeeps_setPlot _ _ _
    · split
      · exact edgeKeeps_trans (loseCall_keeps _ _) (edgeKeeps_setPlot _ _ _)
      · exact loseCall_keeps _ _
theorem Fabric.engineCalls_keeps (f : Fabric) (p : Nat) : f.edgeKeeps (f.engineCalls p) :=
  edgeKeeps_trans (edgeKeeps_setPlot _ _ _) (edgeKeeps_foldl _ (fun g _ => raiseCall_keeps g _ _ _ _) _ _)
/-- One edge of a plot changes nothing but the fabric, and there only what an edge may change. -/
theorem State.edgeOn_keeps (s t : State) (p : Nat) : s.edgeOn t p = { t with fab := (s.edgeOn t p).fab } ∧ t.fab.edgeKeeps (s.edgeOn t p).fab := by
  unfold State.edgeOn
  dsimp only
  split
  · exact ⟨rfl, Fabric.edgeKeeps_trans (Fabric.edgeKeeps_trans (Fabric.ioEdge_keeps _ _ _ _ _) (Fabric.settleBms_keeps _ _)) (Fabric.edgeKeeps_setPlot _ _ _)⟩
  · exact ⟨rfl, Fabric.edgeKeeps_trans (Fabric.edgeKeeps_trans (Fabric.edgeKeeps_trans (Fabric.edgeKeeps_trans (Fabric.ioEdge_keeps _ _ _ _ _) (Fabric.settleBms_keeps _ _))
      (Fabric.edgeKeeps_setHand _ _ _ _ rfl)) (Fabric.edgeKeeps_setPlot _ _ _)) (Fabric.edgeKeeps_setPlot _ _ _)⟩
/-- An edge of each of some plots, taken from one state onto another. -/
theorem State.edgesOn_keeps (v : State) (l : List Nat) (t : State) :
    l.foldl (fun t p => v.edgeOn t p) t = { t with fab := (l.foldl (fun t p => v.edgeOn t p) t).fab } ∧ t.fab.edgeKeeps (l.foldl (fun t p => v.edgeOn t p) t).fab := by
  induction l generalizing t with
  | nil => exact ⟨rfl, Fabric.edgeKeeps_refl _⟩
  | cons p r ih =>
    have a := v.edgeOn_keeps t p
    have b := ih (v.edgeOn t p)
    exact ⟨by rw [List.foldl_cons, b.1, a.1], Fabric.edgeKeeps_trans a.2 b.2⟩
theorem State.clockEdge_keeps (s : State) (c : Nat × Nat) : s.clockEdge c = { s with fab := (s.clockEdge c).fab } ∧ s.fab.edgeKeeps (s.clockEdge c).fab := by
  unfold State.clockEdge
  extract_lets on run u near
  have calls : s.fab.edgeKeeps u.fab := s.fab.edgeKeeps_foldl _ Fabric.engineCalls_keeps _
  have links : u.fab.edgeKeeps (near u.fab) := by
    refine Fabric.edgeKeeps_foldl _ (fun g p => ?_) _ _
    split
    · exact Fabric.edgeKeeps_refl g
    · exact Fabric.deliver_keeps g p 1
  have k := u.edgesOn_keeps run (u.onFab near)
  exact ⟨by rw [k.1]; rfl, Fabric.edgeKeeps_trans (Fabric.edgeKeeps_trans calls links) k.2⟩
/-- Edges of a clock change nothing but the fabric, and there no configuration, slot, owner, hand state or kitty register. -/
theorem State.passEdges_keeps (s : State) (p n : Nat) : s.passEdges p n = { s with fab := (s.passEdges p n).fab } ∧ s.fab.edgeKeeps (s.passEdges p n).fab := by
  induction n generalizing s with
  | zero => exact ⟨rfl, Fabric.edgeKeeps_refl _⟩
  | succ n ih =>
    have a := s.clockEdge_keeps (s.fab.clockOf p)
    have b := ih (s.clockEdge (s.fab.clockOf p))
    exact ⟨by rw [State.passEdges, b.1, a.1], Fabric.edgeKeeps_trans a.2 b.2⟩
theorem State.toEdge_keeps (s : State) (p e : Nat) :
    s.toEdge p e = { s with fab := (s.toEdge p e).fab, aon := { s.aon with free := (s.toEdge p e).aon.free } } ∧ s.fab.edgeKeeps (s.toEdge p e).fab := by
  unfold State.toEdge
  split
  · exact ⟨rfl, Fabric.edgeKeeps_refl _⟩
  · have a := s.passEdges_keeps p (e - s.fab.edgeOf p)
    exact ⟨by rw [State.drawn_aon, State.drawn_fab, a.1]; simp only [State.drawn]; rfl, a.2⟩

/-! ## The state at an edge, and a port's command there -/

/-- A live hand's plot is at the edge that has just passed. -/
theorem State.atEdge_here {s : State} {p h : Nat} (l : s.liveHand p = some h) (n : 0 < (s.fab.plot p).now) (d : (s.fab.plot p).now ≤ dwellOf (s.fab.plot p).word) :
    s.atEdge p (s.fab.edgeOf p) = some (s, h) := by
  have a : (s.fab.plot p).start < s.fab.edgeOf p := by unfold Fabric.edgeOf; omega
  have b : s.fab.edgeOf p ≤ (s.fab.plot p).start + dwellOf (s.fab.plot p).word := by unfold Fabric.edgeOf; omega
  have c : s.toEdge p (s.fab.edgeOf p) = s := by simp [State.toEdge]
  simp [State.atEdge, l, a, b, c]
/-- At an edge a hand is live, and the state is the one that passing edges leads to. -/
theorem State.atEdge_eq {s u : State} {p e h : Nat} (k : s.atEdge p e = some (u, h)) : s.liveHand p = some h ∧ u = s.toEdge p e := by
  unfold State.atEdge at k
  dsimp only at k
  split at k
  · rename_i g l
    split at k
    · injection k with k; injection k with a b
      exact ⟨by rw [l, b], a.symm⟩
    · simp at k
  · simp at k
/-- At an edge a port's command acts once its signal is captured, and otherwise only the edges have passed. -/
theorem atPort_at {s u : State} {p e h : Nat} (k : s.atEdge p e = some (u, h)) (asks : Plot → Bool) (i : Nat) (g : State → Nat → State) :
    atPort s p e asks i g = .next (if asks (u.fab.plot p) then g (u.onFab fun f => f.setPlot p ((f.plot p).done i)) h else u) := by
  unfold atPort
  rw [k]
  dsimp only
  split <;> rfl

end Sys2Proof.Machine
end

