-- ==== Sys2Proof/Laws/Line.lean ====
section
/-! SUPPORT. The stored line: encoding gives a code word, and its fields read back (R310–R313, R359, R362). -/

namespace Sys2Proof.Machine

/-! ## GF(2^8) is linear -/

theorem gfDouble_lt (a : Nat) (h : a < 256) : gfDouble a < 256 := by
  unfold gfDouble; split
  · exact Nat.mod_lt _ (by decide)
  · omega
theorem xor_lt_byte {a b : Nat} (ha : a < 256) (hb : b < 256) : a ^^^ b < 256 := Nat.xor_lt_two_pow (n := 8) ha hb
theorem gfDouble_eq : ∀ a < 256, gfDouble a = (a <<< 1) % 2 ^ 8 ^^^ (if a.testBit 7 then 0x1D else 0) := by decide +kernel
theorem gfDouble_xor (a : Nat) (ha : a < 256) (b : Nat) (hb : b < 256) : gfDouble (a ^^^ b) = gfDouble a ^^^ gfDouble b := by
  rw [gfDouble_eq _ ha, gfDouble_eq _ hb, gfDouble_eq _ (xor_lt_byte ha hb), Nat.shiftLeft_xor_distrib, Nat.xor_mod_two_pow, Nat.testBit_xor]
  generalize (a <<< 1) % 2 ^ 8 = u
  generalize (b <<< 1) % 2 ^ 8 = v
  cases a.testBit 7 <;> cases b.testBit 7 <;> simp
  · ac_rfl
  · ac_rfl
  · rw [Nat.xor_assoc u 29, Nat.xor_comm 29, Nat.xor_assoc v]; simp
theorem gfMulBits_lt (n : Nat) : ∀ a b, a < 256 → gfMulBits a b n < 256 := by
  induction n with
  | zero => intro a b _; simp [gfMulBits]
  | succ n ih =>
    intro a b h
    have := ih (gfDouble a) (b / 2) (gfDouble_lt a h)
    unfold gfMulBits
    split
    · exact xor_lt_byte h this
    · exact xor_lt_byte (by decide) this
theorem gfMul_lt {a : Nat} (b : Nat) (h : a < 256) : gfMul a b < 256 := gfMulBits_lt 8 a b h
theorem gfMulBits_xor (n : Nat) : ∀ a b c, a < 256 → b < 256 → gfMulBits (a ^^^ b) c n = gfMulBits a c n ^^^ gfMulBits b c n := by
  induction n with
  | zero => intro a b c _ _; simp [gfMulBits]
  | succ n ih =>
    intro a b c ha hb
    have e := ih (gfDouble a) (gfDouble b) (c / 2) (gfDouble_lt a ha) (gfDouble_lt b hb)
    unfold gfMulBits
    rw [gfDouble_xor a ha b hb, e]
    split
    · ac_rfl
    · simp
/-- Multiplication distributes over addition. -/
theorem gfMul_xor {a b : Nat} (c : Nat) (ha : a < 256) (hb : b < 256) : gfMul (a ^^^ b) c = gfMul a c ^^^ gfMul b c :=
  gfMulBits_xor 8 a b c ha hb

/-! ## The division by g(x) -/

/-- The remainder's value at a point. -/
def rsValue (r : Nat × Nat × Nat × Nat) (x : Nat) : Nat := gfMul (gfMul (gfMul r.1 x ^^^ r.2.1) x ^^^ r.2.2.1) x ^^^ r.2.2.2
def rsBytes (r : Nat × Nat × Nat × Nat) : Prop := r.1 < 256 ∧ r.2.1 < 256 ∧ r.2.2.1 < 256 ∧ r.2.2.2 < 256
/-- g is 0 at α^j: x^4 times a symbol is what the division subtracts. -/
theorem rs_root : ∀ j < 4, ∀ f < 256, gfMul (gfMul (gfMul (gfMul f 0x0F) (gfPow j) ^^^ gfMul f 0x36) (gfPow j) ^^^ gfMul f 0x78) (gfPow j) ^^^ gfMul f 0x40 =
    gfMul (gfMul (gfMul (gfMul f (gfPow j)) (gfPow j)) (gfPow j)) (gfPow j) := by decide +kernel
theorem rsStep_bytes {r : Nat × Nat × Nat × Nat} {b : Nat} (h : rsBytes r) (hb : b < 256) : rsBytes (rsStep r b) := by
  obtain ⟨h3, h2, h1, h0⟩ := h
  have f := xor_lt_byte h3 hb
  exact ⟨xor_lt_byte h2 (gfMul_lt _ f), xor_lt_byte h1 (gfMul_lt _ f), xor_lt_byte h0 (gfMul_lt _ f), gfMul_lt _ f⟩
/-- One step of the division keeps the value of x^4 times the message read so far. -/
theorem rsStep_value {r : Nat × Nat × Nat × Nat} {b acc j : Nat} (h : rsBytes r) (hb : b < 256) (ha : acc < 256) (hj : j < 4)
    (e : rsValue r (gfPow j) = gfMul (gfMul (gfMul (gfMul acc (gfPow j)) (gfPow j)) (gfPow j)) (gfPow j)) :
    rsValue (rsStep r b) (gfPow j) = gfMul (gfMul (gfMul (gfMul (gfMul acc (gfPow j) ^^^ b) (gfPow j)) (gfPow j)) (gfPow j)) (gfPow j) := by
  obtain ⟨r3, r2, r1, r0⟩ := r
  obtain ⟨h3, h2, h1, h0⟩ := h
  simp only at h3 h2 h1 h0
  generalize hx : gfPow j = x at *
  have f := xor_lt_byte h3 hb
  have root := rs_root j hj (r3 ^^^ b) f
  rw [hx] at root
  have lin : ∀ {u v : Nat}, u < 256 → v < 256 → gfMul (u ^^^ v) x = gfMul u x ^^^ gfMul v x := fun hu hv => gfMul_xor x hu hv
  have low : ∀ {u : Nat}, u < 256 → gfMul u x < 256 := fun hu => gfMul_lt x hu
  have c0 := gfMul_lt 0x0F f
  have c1 := gfMul_lt 0x36 f
  have c2 := gfMul_lt 0x78 f
  -- both sides by powers of x
  have left : rsValue (rsStep (r3, r2, r1, r0) b) x =
      gfMul (gfMul (gfMul r2 x ^^^ r1) x ^^^ r0) x ^^^
        (gfMul (gfMul (gfMul (gfMul (r3 ^^^ b) 0x0F) x ^^^ gfMul (r3 ^^^ b) 0x36) x ^^^ gfMul (r3 ^^^ b) 0x78) x ^^^ gfMul (r3 ^^^ b) 0x40) := by
    simp only [rsValue, rsStep]
    rw [lin h2 c0]
    have e1 : gfMul r2 x ^^^ gfMul (gfMul (r3 ^^^ b) 0x0F) x ^^^ (r1 ^^^ gfMul (r3 ^^^ b) 0x36) =
        (gfMul r2 x ^^^ r1) ^^^ (gfMul (gfMul (r3 ^^^ b) 0x0F) x ^^^ gfMul (r3 ^^^ b) 0x36) := by ac_rfl
    have p1 := xor_lt_byte (low h2) h1
    have q1 := xor_lt_byte (low c0) c1
    rw [e1, lin p1 q1]
    have e2 : gfMul (gfMul r2 x ^^^ r1) x ^^^ gfMul (gfMul (gfMul (r3 ^^^ b) 0x0F) x ^^^ gfMul (r3 ^^^ b) 0x36) x ^^^ (r0 ^^^ gfMul (r3 ^^^ b) 0x78) =
        (gfMul (gfMul r2 x ^^^ r1) x ^^^ r0) ^^^ (gfMul (gfMul (gfMul (r3 ^^^ b) 0x0F) x ^^^ gfMul (r3 ^^^ b) 0x36) x ^^^ gfMul (r3 ^^^ b) 0x78) := by ac_rfl
    have p2 := xor_lt_byte (low p1) h0
    have q2 := xor_lt_byte (low q1) c2
    rw [e2, lin p2 q2]
    ac_rfl
  have right : gfMul (gfMul (gfMul (gfMul (gfMul acc x ^^^ b) x) x) x) x = gfMul (rsValue (r3, r2, r1, r0) x) x ^^^ gfMul (gfMul (gfMul (gfMul b x) x) x) x := by
    have a1 := low ha
    rw [e, lin a1 hb, lin (low a1) (low hb), lin (low (low a1)) (low (low hb)), lin (low (low (low a1))) (low (low (low hb)))]
  have four : gfMul (gfMul (gfMul (gfMul (r3 ^^^ b) x) x) x) x = gfMul (gfMul (gfMul (gfMul r3 x) x) x) x ^^^ gfMul (gfMul (gfMul (gfMul b x) x) x) x := by
    rw [lin h3 hb, lin (low h3) (low hb), lin (low (low h3)) (low (low hb)), lin (low (low (low h3))) (low (low (low hb)))]
  have whole : gfMul (rsValue (r3, r2, r1, r0) x) x = gfMul (gfMul (gfMul (gfMul r3 x) x) x) x ^^^ gfMul (gfMul (gfMul r2 x ^^^ r1) x ^^^ r0) x := by
    simp only [rsValue]
    have a3 := low h3
    have s1 : gfMul (gfMul r3 x ^^^ r2) x ^^^ r1 = gfMul (gfMul r3 x) x ^^^ (gfMul r2 x ^^^ r1) := by rw [lin a3 h2]; ac_rfl
    have b1 := xor_lt_byte (low h2) h1
    have s2 : gfMul (gfMul (gfMul r3 x) x ^^^ (gfMul r2 x ^^^ r1)) x ^^^ r0 = gfMul (gfMul (gfMul r3 x) x) x ^^^ (gfMul (gfMul r2 x ^^^ r1) x ^^^ r0) := by
      rw [lin (low a3) b1]; ac_rfl
    rw [s1, s2, lin (low (low a3)) (xor_lt_byte (low b1) h0)]
  rw [left, root, right, four, whole]
  ac_rfl
/-- The division of a whole message. -/
theorem rsFold_value {j : Nat} (hj : j < 4) : ∀ (l : List Nat) (r : Nat × Nat × Nat × Nat) (acc : Nat), (∀ b ∈ l, b < 256) → rsBytes r → acc < 256 →
    rsValue r (gfPow j) = gfMul (gfMul (gfMul (gfMul acc (gfPow j)) (gfPow j)) (gfPow j)) (gfPow j) →
    rsBytes (l.foldl rsStep r) ∧ l.foldl (fun acc b => gfMul acc (gfPow j) ^^^ b) acc < 256 ∧
      rsValue (l.foldl rsStep r) (gfPow j) =
        gfMul (gfMul (gfMul (gfMul (l.foldl (fun acc b => gfMul acc (gfPow j) ^^^ b) acc) (gfPow j)) (gfPow j)) (gfPow j)) (gfPow j) := by
  intro l
  induction l with
  | nil => intro r acc _ h a e; exact ⟨h, a, e⟩
  | cons b t ih =>
    intro r acc hl h a e
    have hb := hl b (by simp)
    exact ih (rsStep r b) (gfMul acc (gfPow j) ^^^ b) (fun c hc => hl c (by simp [hc])) (rsStep_bytes h hb) (xor_lt_byte (gfMul_lt _ a) hb) (rsStep_value h hb a hj e)
/-- A message with its parity has syndromes 0. -/
theorem syndrome_parity {j : Nat} (hj : j < 4) (m : List Nat) (hm : ∀ b ∈ m, b < 256) : syndrome (m ++ rsParity m) j = 0 := by
  have z : rsValue (0, 0, 0, 0) (gfPow j) = gfMul (gfMul (gfMul (gfMul 0 (gfPow j)) (gfPow j)) (gfPow j)) (gfPow j) := by
    have : ∀ j < 4, rsValue (0, 0, 0, 0) (gfPow j) = gfMul (gfMul (gfMul (gfMul 0 (gfPow j)) (gfPow j)) (gfPow j)) (gfPow j) := by decide
    exact this j hj
  obtain ⟨⟨h3, h2, h1, h0⟩, ha, e⟩ := rsFold_value hj m (0, 0, 0, 0) 0 hm (by simp [rsBytes]) (by decide) z
  unfold syndrome rsParity
  rw [List.foldl_append]
  generalize m.foldl rsStep (0, 0, 0, 0) = r at *
  generalize m.foldl (fun acc b => gfMul acc (gfPow j) ^^^ b) 0 = a at *
  obtain ⟨r3, r2, r1, r0⟩ := r
  simp only at h3 h2 h1 h0
  simp only [rsValue] at e
  generalize gfPow j = x at *
  have low : ∀ {u : Nat}, u < 256 → gfMul u x < 256 := fun hu => gfMul_lt x hu
  simp only [List.foldl_cons, List.foldl_nil]
  have a1 := low ha
  rw [gfMul_xor x a1 h3]
  have s1 : gfMul (gfMul a x) x ^^^ gfMul r3 x ^^^ r2 = gfMul (gfMul a x) x ^^^ (gfMul r3 x ^^^ r2) := by ac_rfl
  have b1 := xor_lt_byte (low h3) h2
  rw [s1, gfMul_xor x (low a1) b1]
  have s2 : gfMul (gfMul (gfMul a x) x) x ^^^ gfMul (gfMul r3 x ^^^ r2) x ^^^ r1 = gfMul (gfMul (gfMul a x) x) x ^^^ (gfMul (gfMul r3 x ^^^ r2) x ^^^ r1) := by ac_rfl
  have b2 := xor_lt_byte (low b1) h1
  rw [s2, gfMul_xor x (low (low a1)) b2, ← e]
  have s3 : ∀ u v : Nat, u ^^^ v ^^^ u ^^^ v = 0 := by intro u v; rw [Nat.xor_assoc u v u, Nat.xor_comm v u, ← Nat.xor_assoc u u v]; simp
  generalize gfMul (gfMul (gfMul r3 x ^^^ r2) x ^^^ r1) x = v
  have : v ^^^ r0 ^^^ v ^^^ r0 = 0 := s3 v r0
  exact this

/-! ## The stored line -/

theorem bytesOf_lt (x n b : Nat) (h : b ∈ bytesOf x n) : b < 256 := by
  unfold bytesOf at h
  obtain ⟨i, _, rfl⟩ := List.mem_map.mp h
  exact Nat.mod_lt _ (by decide)
theorem bytesOf_length (x n : Nat) : (bytesOf x n).length = n := by simp [bytesOf]
theorem ofBytes_lt : ∀ l : List Nat, ofBytes l < 256 ^ l.length := by
  intro l
  induction l with
  | nil => simp [ofBytes]
  | cons b t ih =>
    have := Nat.mod_lt b (show 0 < 256 by decide)
    simp only [ofBytes, List.length_cons, Nat.pow_succ]
    omega
theorem bytesOf_succ (x n : Nat) : bytesOf x (n + 1) = x % 256 :: bytesOf (x / 256) n := by
  unfold bytesOf
  rw [List.range_succ_eq_map, List.map_cons, List.map_map]
  congr 1
  apply List.map_congr_left
  intro i _
  simp only [Function.comp, Nat.shiftRight_eq_div_pow, Nat.div_div_eq_div_mul]
  congr 2
  rw [Nat.mul_succ, Nat.pow_add, Nat.mul_comm]
/-- The bytes of a number that has `l`'s bytes above byte n. -/
theorem bytesOf_append (n : Nat) : ∀ (x : Nat) (l : List Nat), x < 256 ^ n → (∀ b ∈ l, b < 256) → bytesOf (x + ofBytes l * 256 ^ n) (n + l.length) = bytesOf x n ++ l := by
  induction n with
  | zero =>
    intro x l hx hl
    have : x = 0 := by simpa using hx
    subst this
    have key : ∀ l : List Nat, (∀ b ∈ l, b < 256) → bytesOf (ofBytes l) l.length = l := by
      intro l
      induction l with
      | nil => intro _; rfl
      | cons b t ih =>
        intro h
        have hb := h b (by simp)
        rw [List.length_cons, bytesOf_succ]
        have e : ofBytes (b :: t) = b + 256 * ofBytes t := by simp [ofBytes, Nat.mod_eq_of_lt hb]
        rw [e, show (b + 256 * ofBytes t) % 256 = b by omega, show (b + 256 * ofBytes t) / 256 = ofBytes t by omega, ih (fun c hc => h c (by simp [hc]))]
    simpa [bytesOf] using key l hl
  | succ n ih =>
    intro x l hx hl
    rw [show n + 1 + l.length = (n + l.length) + 1 by omega, bytesOf_succ, bytesOf_succ]
    have d : (x + ofBytes l * 256 ^ (n + 1)) / 256 = x / 256 + ofBytes l * 256 ^ n := by
      rw [Nat.pow_succ, ← Nat.mul_assoc]; omega
    have m : (x + ofBytes l * 256 ^ (n + 1)) % 256 = x % 256 := by
      rw [Nat.pow_succ, ← Nat.mul_assoc]; omega
    rw [d, m, ih (x / 256) l (by rw [Nat.pow_succ] at hx; omega) hl]
    rfl
theorem rsParity_length (m : List Nat) : (rsParity m).length = 4 := rfl
theorem rsParity_lt (m : List Nat) (hm : ∀ b ∈ m, b < 256) : ∀ b ∈ rsParity m, b < 256 := by
  obtain ⟨⟨h3, h2, h1, h0⟩, -, -⟩ := rsFold_value (j := 0) (by decide) m (0, 0, 0, 0) 0 hm (by simp [rsBytes]) (by decide) (by decide)
  intro b hb
  simp only [rsParity, List.mem_cons, List.not_mem_nil, or_false] at hb
  rcases hb with rfl | rfl | rfl | rfl <;> assumption

/-- The message part of a line. -/
theorem message_lt (d : BitVec 512) (t w : Nat) (ht : t < 2 ^ 64) (hw : w < 2 ^ 32) : d.toNat + t * 2 ^ 512 + w * 2 ^ 576 < 2 ^ 608 := by
  have := d.isLt
  have a : t * 2 ^ 512 ≤ (2 ^ 64 - 1) * 2 ^ 512 := Nat.mul_le_mul_right _ (by omega)
  have b : w * 2 ^ 576 ≤ (2 ^ 32 - 1) * 2 ^ 576 := Nat.mul_le_mul_right _ (by omega)
  have e : 2 ^ 512 + (2 ^ 64 - 1) * 2 ^ 512 + (2 ^ 32 - 1) * 2 ^ 576 ≤ 2 ^ 608 := by decide +kernel
  omega
/-- The number that an encoded line holds. -/
theorem encodeLine_toNat (d : BitVec 512) (t w : Nat) (ht : t < 2 ^ 64) (hw : w < 2 ^ 32) :
    ∃ y < 2 ^ 32, (encodeLine d t w).toNat = d.toNat + t * 2 ^ 512 + w * 2 ^ 576 + y * 2 ^ 608 ∧
      bytesOf (encodeLine d t w).toNat 80 = bytesOf (d.toNat + t * 2 ^ 512 + w * 2 ^ 576) 76 ++ rsParity (bytesOf (d.toNat + t * 2 ^ 512 + w * 2 ^ 576) 76) := by
  have hm := message_lt d t w ht hw
  unfold encodeLine
  generalize d.toNat + t * 2 ^ 512 + w * 2 ^ 576 = m at *
  have pl := rsParity_lt (bytesOf m 76) (bytesOf_lt m 76)
  have hy : ofBytes (rsParity (bytesOf m 76)) < 2 ^ 32 := by
    have h := ofBytes_lt (rsParity (bytesOf m 76))
    rw [rsParity_length] at h
    exact h
  have e : (BitVec.ofNat 640 (m + ofBytes (rsParity (bytesOf m 76)) * 2 ^ 608)).toNat = m + ofBytes (rsParity (bytesOf m 76)) * 2 ^ 608 := by
    rw [BitVec.toNat_ofNat, Nat.mod_eq_of_lt]
    have : ofBytes (rsParity (bytesOf m 76)) * 2 ^ 608 ≤ (2 ^ 32 - 1) * 2 ^ 608 := Nat.mul_le_mul_right _ (by omega)
    have e : 2 ^ 608 + (2 ^ 32 - 1) * 2 ^ 608 ≤ 2 ^ 640 := by decide +kernel
    omega
  refine ⟨_, hy, e, ?_⟩
  rw [e]
  have q : 256 ^ 76 = 2 ^ 608 := by decide +kernel
  have h := bytesOf_append 76 m (rsParity (bytesOf m 76)) (by rw [q]; exact hm) pl
  rw [q, rsParity_length] at h
  exact h
/-- An encoded line decodes without error (R312, R313). -/
theorem rsDecode_encodeLine (d : BitVec 512) (t w : Nat) (ht : t < 2 ^ 64) (hw : w < 2 ^ 32) : rsDecode (bytesOf (encodeLine d t w).toNat 80) = .clean := by
  obtain ⟨_, _, -, e⟩ := encodeLine_toNat d t w ht hw
  rw [e]
  unfold rsDecode
  generalize d.toNat + t * 2 ^ 512 + w * 2 ^ 576 = m
  simp [syndrome_parity (j := 0) (by decide) _ (bytesOf_lt m 76), syndrome_parity (j := 1) (by decide) _ (bytesOf_lt m 76),
    syndrome_parity (j := 2) (by decide) _ (bytesOf_lt m 76), syndrome_parity (j := 3) (by decide) _ (bytesOf_lt m 76)]
theorem lineData_encodeLine (d : BitVec 512) (t w : Nat) (ht : t < 2 ^ 64) (hw : w < 2 ^ 32) : lineData (encodeLine d t w) = d := by
  obtain ⟨y, _, e, -⟩ := encodeLine_toNat d t w ht hw
  apply BitVec.eq_of_toNat_eq
  rw [lineData, BitVec.toNat_setWidth, e]
  have := d.isLt
  omega
theorem lineTag_encodeLine (d : BitVec 512) (t w : Nat) (ht : t < 2 ^ 64) (hw : w < 2 ^ 32) : lineTag (encodeLine d t w) = BitVec.ofNat 64 t := by
  obtain ⟨y, _, e, -⟩ := encodeLine_toNat d t w ht hw
  apply BitVec.eq_of_toNat_eq
  rw [lineTag, BitVec.toNat_ofNat, BitVec.toNat_ofNat, e, Nat.shiftRight_eq_div_pow]
  have := d.isLt
  omega
theorem lineWcount_encodeLine (d : BitVec 512) (t w : Nat) (ht : t < 2 ^ 64) (hw : w < 2 ^ 32) : lineWcount (encodeLine d t w) = BitVec.ofNat 32 w := by
  obtain ⟨y, _, e, -⟩ := encodeLine_toNat d t w ht hw
  apply BitVec.eq_of_toNat_eq
  rw [lineWcount, BitVec.toNat_ofNat, BitVec.toNat_ofNat, e, Nat.shiftRight_eq_div_pow]
  have := d.isLt
  omega

/-! ## Opening what was sealed (R359, R362) -/

theorem wcount_lt (e : Bool) (n : Nat) (h : n < 2147483648) : n + (if e then 2147483648 else 0) < 2 ^ 32 := by split <;> omega
theorem lineEpoch_sealLine (p a : Nat) (e : Bool) (n : Nat) (k : BitVec 256) (d : BitVec 512) (h : n < 2147483648) : lineEpoch (sealLine p a e n k d) = e := by
  unfold lineEpoch sealLine
  rw [lineWcount_encodeLine _ _ _ (BitVec.isLt _) (wcount_lt e n h), BitVec.getLsbD_ofNat]
  cases e
  · have : n.testBit 31 = false := Nat.testBit_lt_two_pow (by simpa using h)
    simp [this]
  · have : (n + 2 ^ 31).testBit 31 = !n.testBit 31 := by rw [Nat.add_comm]; exact Nat.testBit_two_pow_add_eq n 31
    have z : n.testBit 31 = false := Nat.testBit_lt_two_pow (by simpa using h)
    simp at this
    simp [this, z]
theorem lineCount_sealLine (p a : Nat) (e : Bool) (n : Nat) (k : BitVec 256) (d : BitVec 512) (h : n < 2147483648) : lineCount (sealLine p a e n k d) = n := by
  unfold lineCount sealLine bits
  rw [lineWcount_encodeLine _ _ _ (BitVec.isLt _) (wcount_lt e n h)]
  have w := wcount_lt e n h
  simp only [BitVec.toNat_ofNat, Nat.mod_eq_of_lt w]
  cases e <;> simp <;> omega
/-- A sealed line opens under its key to what was sealed. -/
theorem unsealLine_sealLine (p a : Nat) (e : Bool) (n : Nat) (k : BitVec 256) (d : BitVec 512) (h : n < 2147483648) : unsealLine p a k (sealLine p a e n k d) = some d := by
  unfold unsealLine
  rw [lineEpoch_sealLine p a e n k d h, lineCount_sealLine p a e n k d h]
  have t : lineData (sealLine p a e n k d) = d ^^^ keystream p a e n k := lineData_encodeLine _ _ _ (BitVec.isLt _) (wcount_lt e n h)
  have g : lineTag (sealLine p a e n k d) = sealTag p a e n k (d ^^^ keystream p a e n k) := by
    have := lineTag_encodeLine (d ^^^ keystream p a e n k) (sealTag p a e n k (d ^^^ keystream p a e n k)).toNat _ (BitVec.isLt _) (wcount_lt e n h)
    simpa [sealLine] using this
  rw [t, g]
  simp

end Sys2Proof.Machine
end

