-- ==== Sys2Proof/Laws/Riser.lean ====
section
/-! SUPPORT. Reading what was stored: an open line and a sealed line give back their data (R310–R314, R359, R362). -/

namespace Sys2Proof.Machine

theorem crc64_lt : ∀ l : List Nat, (∀ b ∈ l, b < 256) → crc64 l < 2 ^ 64 := by
  have bit : ∀ n c, c < 2 ^ 64 → crc64Bits c n < 2 ^ 64 := by
    intro n
    induction n with
    | zero => intro c h; exact h
    | succ n ih =>
      intro c h
      unfold crc64Bits
      apply ih
      split
      · exact Nat.xor_lt_two_pow (Nat.mod_lt _ (by decide)) (by decide)
      · have : c.testBit 63 = false := by simp_all
        have : c < 2 ^ 63 := by
          rcases Nat.lt_or_ge c (2 ^ 63) with h' | h'
          · exact h'
          · have := Nat.testBit_of_two_pow_le_and_two_pow_add_one_gt h' (by simpa using h)
            simp_all
        omega
  intro l
  unfold crc64
  suffices ∀ (l : List Nat) c, c < 2 ^ 64 → (∀ b ∈ l, b < 256) → l.foldl (fun c b => crc64Bits (c ^^^ (b <<< 56)) 8) c < 2 ^ 64 from fun h => this l 0 (by decide) h
  intro l
  induction l with
  | nil => intro c h _; exact h
  | cons b t ih =>
    intro c h hb
    apply ih
    · have := hb b (by simp)
      have s : b <<< 56 < 2 ^ 64 := by rw [Nat.shiftLeft_eq]; omega
      exact bit 8 _ (Nat.xor_lt_two_pow h s)
    · intro d hd; exact hb d (by simp [hd])
theorem lineCrc_lt (id : Nat) (d : BitVec 512) : lineCrc id d < 2 ^ 64 := by
  apply crc64_lt
  intro b hb
  rcases List.mem_append.mp hb with h | h <;> exact bytesOf_lt _ _ _ h
/-- A line without symbol errors, by its fields. -/
theorem readOut_open (g : Region) (p a : Nat) (l : BitVec 640) (t : Bool) (c : rsDecode (bytesOf l.toNat 80) = .clean) (h : g.isSealed = false) (e : (lineTag l).toNat = lineCrc (lineId p a) (lineData l)) :
    readOut g p a l t = { resp := respOkay, data := lineData l } := by
  unfold readOut
  rw [c]
  simp [h, e]
theorem readOut_sealed (g : Region) (p a : Nat) (l : BitVec 640) (t : Bool) (k : BitVec 256) (d : BitVec 512) (c : rsDecode (bytesOf l.toNat 80) = .clean) (h : g.isSealed = true)
    (hk : g.key (lineEpoch l) = some k) (u : unsealLine p a k l = some d) : readOut g p a l t = { resp := respOkay, data := d } := by
  unfold readOut
  rw [c]
  simp [h, hk, u]
/-- An open line gives back its data. -/
theorem readOut_openLine (g : Region) (p a : Nat) (d : BitVec 512) (t : Bool) (h : g.isSealed = false) :
    readOut g p a (openLine (lineId p a) d) t = { resp := respOkay, data := d } := by
  have l := lineCrc_lt (lineId p a) d
  have f : lineData (openLine (lineId p a) d) = d := lineData_encodeLine d _ 0 l (by decide)
  have e : (lineTag (openLine (lineId p a) d)).toNat = lineCrc (lineId p a) d := by
    have q : lineTag (openLine (lineId p a) d) = BitVec.ofNat 64 (lineCrc (lineId p a) d) := lineTag_encodeLine d _ 0 l (by decide)
    rw [q, BitVec.toNat_ofNat]; exact Nat.mod_eq_of_lt l
  have r := readOut_open g p a (openLine (lineId p a) d) t (rsDecode_encodeLine d _ 0 l (by decide)) h (by rw [e, f])
  rw [f] at r; exact r
/-- A sealed line gives back its data under the key of its epoch. -/
theorem readOut_sealLine (g : Region) (p a : Nat) (e : Bool) (n : Nat) (k : BitVec 256) (d : BitVec 512) (t : Bool) (h : g.isSealed = true) (hk : g.key e = some k) (hn : n < 2147483648) :
    readOut g p a (sealLine p a e n k d) t = { resp := respOkay, data := d } :=
  readOut_sealed g p a _ t k d (rsDecode_encodeLine _ _ _ (BitVec.isLt _) (wcount_lt e n hn)) h (by rw [lineEpoch_sealLine p a e n k d hn]; exact hk) (unsealLine_sealLine p a e n k d hn)

end Sys2Proof.Machine
end

