-- ==== Sys2Proof/Laws/Memory.lean ====
section
/-! SUPPORT. Every memory operation keeps the memories' canonical form, and reset has it; what each memory reads after a write or a fill. -/

namespace Sys2Proof.Machine

/-- The memories are in canonical form at reset. -/
theorem memory_wf_reset : Memory.wf State.reset = true := by decide

/-! ## Scratchpad (R170–R177) -/

theorem Scratch.setByte_wf (c : Scratch) (a : Nat) (v : Byte) (h : twf 0 c.cells = true) : twf 0 (c.setByte a v).cells = true := twf_tput 0 _ _ _ h
theorem Scratch.store_wf (c : Scratch) (w : Nat) (l : List (Nat × Byte)) (h : twf 0 c.cells = true) : twf 0 (c.store w l).cells = true := by
  have key : ∀ (l : List (Nat × Byte)) (c : Scratch), twf 0 c.cells = true → twf 0 (l.foldl (fun c e => c.setByte (16 * w + e.1) e.2) c).cells = true := by
    intro l
    induction l with
    | nil => intro c h; exact h
    | cons e t ih => intro c h; exact ih _ (Scratch.setByte_wf c _ _ h)
  exact key _ c h
theorem Scratch.zero_wf (c : Scratch) (lo n : Nat) (h : twf 0 c.cells = true) : twf 0 (c.zero lo n).cells = true := twf_filter 0 _ _ h
theorem Scratch.fillBlock_wf (c : Scratch) (k : Nat) (h : twf 0 c.cells = true) : twf 0 (c.fillBlock k).cells = true := Scratch.zero_wf c _ _ h
theorem Scratch.fillSecure_wf (c : Scratch) (h : twf 0 c.cells = true) : twf 0 c.fillSecure.cells = true := Scratch.zero_wf c _ _ h

/-! ## Engine memories (R246, R247) -/

theorem Engines.setImByte_wf (e : Engines) (p a : Nat) (v : Byte) (h : twf 0 e.imem = true) : twf 0 (e.setImByte p a v).imem = true := twf_tput 0 _ _ _ h
theorem Engines.setDmByte_wf (e : Engines) (p a : Nat) (v : Byte) (h : twf 0 e.dmem = true) : twf 0 (e.setDmByte p a v).dmem = true := twf_tput 0 _ _ _ h
theorem Engines.setDmWord_wf (e : Engines) (p a : Nat) (v : Word) (h : twf 0 e.dmem = true) : twf 0 (e.setDmWord p a v).dmem = true :=
  Engines.setDmByte_wf _ _ _ _ (Engines.setDmByte_wf _ _ _ _ (Engines.setDmByte_wf _ _ _ _ (Engines.setDmByte_wf _ _ _ _ h)))
theorem Engines.zeroBlock_wf (e : Engines) (p : Nat) (ldb : Bool) (k : Nat) (h : twf 0 e.imem = true ∧ twf 0 e.dmem = true) :
    twf 0 (e.zeroBlock p ldb k).imem = true ∧ twf 0 (e.zeroBlock p ldb k).dmem = true := by
  cases ldb
  · exact ⟨twf_filter 0 _ _ h.1, h.2⟩
  · exact ⟨h.1, twf_filter 0 _ _ h.2⟩
theorem Engines.dieReset_wf (e : Engines) (d : Nat) (h : twf 0 e.imem = true ∧ twf 0 e.dmem = true) : twf 0 (e.dieReset d).imem = true ∧ twf 0 (e.dieReset d).dmem = true :=
  ⟨h.1, twf_filter 0 _ _ h.2⟩

/-! ## Hand stores and rotation tables (R100, R101, R109) -/

theorem Fabric.setCfgWord_wf (f : Fabric) (p h w : Nat) (v : BitVec 64) (k : twf 0 f.cfg = true) : twf 0 (f.setCfgWord p h w v).cfg = true := twf_tput 0 _ _ _ k
theorem Fabric.clearStore_wf (f : Fabric) (p h : Nat) (k : twf 0 f.cfg = true) : twf 0 (f.clearStore p h).cfg = true := twf_filter 0 _ _ k
theorem Fabric.setSlot_wf (f : Fabric) (p k : Nat) (v : BitVec 32) (h : twf slotReset f.slots = true) : twf slotReset (f.setSlot p k v).slots = true := twf_tput slotReset _ _ _ h
/-- A cleared hand store holds zeros, and no other store has changed. -/
theorem Fabric.clearStore_word (f : Fabric) (p h q g w : Nat) (hw : w < handWords) :
    (f.clearStore p h).cfgWord q g w = if 8 * q + g = 8 * p + h then 0 else f.cfgWord q g w := by
  unfold Fabric.cfgWord Fabric.clearStore
  have key : ∀ (t : List (Nat × BitVec 64)) (out : Nat → Bool) (k : Nat), tget 0 (t.filter fun e => out e.1) k = if out k then tget 0 t k else 0 := by
    intro t out k
    induction t with
    | nil => simp [tget]
    | cons e t ih => simp only [List.filter_cons]; by_cases h1 : out e.1 <;> by_cases h2 : e.1 = k <;> simp_all [tget]
  simp only []
  rw [key f.cfg (fun k => !(decide (handWords * (8 * p + h) ≤ k) && decide (k < handWords * (8 * p + h) + handWords)))]
  unfold handWords at *
  by_cases e : 8 * q + g = 8 * p + h
  · simp [e]; omega
  · simp [e]; omega

/-! ## Stacked lines (R335) -/

/-- The canonical form in two parts. -/
theorem linesWf_iff (t : List (Nat × BitVec 640)) : linesWf t = true ↔ t.Pairwise (fun a b => a.1 < b.1) ∧ ∀ e ∈ t, e.2 ≠ lineFill e.1 := by
  induction t with
  | nil => simp [linesWf]
  | cons e t ih =>
    cases t with
    | nil => simp [linesWf]
    | cons f t =>
      simp only [linesWf, Bool.and_eq_true, decide_eq_true_eq, ih]
      constructor
      · rintro ⟨⟨h1, h2⟩, h3, h4⟩
        refine ⟨List.pairwise_cons.2 ⟨?_, h3⟩, ?_⟩
        · intro x hx
          rcases List.mem_cons.1 hx with rfl | hx
          · exact h2
          · exact lt_trans h2 ((List.pairwise_cons.1 h3).1 x hx)
        · intro x hx
          rcases List.mem_cons.1 hx with rfl | hx
          · exact h1
          · exact h4 x hx
      · rintro ⟨h1, h2⟩
        exact ⟨⟨h2 e (List.mem_cons_self ..), (List.pairwise_cons.1 h1).1 f (List.mem_cons_self ..)⟩, (List.pairwise_cons.1 h1).2, fun x hx => h2 x (List.mem_cons_of_mem _ hx)⟩
theorem linesWf_filter (t : List (Nat × BitVec 640)) (g : Nat × BitVec 640 → Bool) (h : linesWf t = true) : linesWf (t.filter g) = true := by
  rw [linesWf_iff] at *
  exact ⟨h.1.filter _, fun e he => h.2 e (List.mem_of_mem_filter he)⟩
theorem Stack.setLine_wf (s : Stack) (k : Nat) (v : BitVec 640) (h : linesWf s.lines = true) : linesWf (s.setLine k v).lines = true := by
  have d : linesWf (tdel s.lines k) = true := by rw [tdel_eq_filter]; exact linesWf_filter _ _ h
  unfold Stack.setLine
  by_cases hv : v = lineFill k
  · simp [hv, d]
  · simp only [hv, if_false]
    rw [linesWf_iff] at d ⊢
    refine ⟨tins_pairwise _ k v d.1 (not_mem_tdel _ k), fun e he => ?_⟩
    rcases (mem_tins _ k v e).1 he with rfl | he
    · exact hv
    · exact d.2 e he
theorem Stack.fillLines_wf (s : Stack) (lo n : Nat) (keep : Nat → Bool) (h : linesWf s.lines = true) : linesWf (s.fillLines lo n keep).lines = true := linesWf_filter _ _ h
theorem fillTile_wf (s : State) (w : BitVec 32) (h : linesWf s.stk.lines = true) : linesWf (fillTile s w).stk.lines = true := linesWf_filter _ _ h
/-- A written line reads as written, and every other line as before. -/
@[simp] theorem Stack.setLine_line (s : Stack) (k j : Nat) (v : BitVec 640) : (s.setLine k v).line j = if j = k then v else s.line j := by
  have del : ∀ (t : List (Nat × BitVec 640)) (k j : Nat), (tdel t k).lookup j = if j = k then none else t.lookup j := by
    intro t k j
    induction t with
    | nil => simp [tdel]
    | cons e t ih => simp only [tdel]; by_cases h : e.1 = k <;> by_cases g : j = e.1 <;> simp_all <;> grind
  have ins : ∀ (t : List (Nat × BitVec 640)) (k j : Nat) (v : BitVec 640), (∀ e ∈ t, e.1 ≠ k) → (tins t k v).lookup j = if j = k then some v else t.lookup j := by
    intro t k j v
    induction t with
    | nil => intro _; simp [tins, List.lookup_cons]; grind
    | cons e t ih =>
      intro h
      have ht := ih fun x hx => h x (List.mem_cons_of_mem _ hx)
      have he := h e (List.mem_cons_self ..)
      obtain ⟨x, y⟩ := e
      simp only [tins]
      split
      · simp only [List.lookup_cons]; grind
      · simp only [List.lookup_cons, ht]; grind
  have e : (s.setLine k v).lines = if v = lineFill k then tdel s.lines k else tins (tdel s.lines k) k v := rfl
  unfold Stack.line
  rw [e]
  by_cases hv : v = lineFill k
  · rw [if_pos hv, del]; split
    · rename_i hj; rw [hv, hj]; rfl
    · rfl
  · rw [if_neg hv, ins _ _ _ _ (not_mem_tdel _ _), del]; split <;> rfl
/-- New lines between the lines below and above a span keep the canonical form. -/
theorem linesWf_span (t old fresh : List (Nat × BitVec 640)) (lo n : Nat) (h : linesWf t = true) (oldIn : ∀ e ∈ old, lo ≤ e.1 ∧ e.1 < lo + n ∧ e ∈ t) (freshIn : ∀ e ∈ fresh, lo ≤ e.1 ∧ e.1 < lo + n ∧ e.2 ≠ lineFill e.1)
    (both : (old ++ fresh).Pairwise fun a b => a.1 ≠ b.1) :
    linesWf (t.filter (fun e => decide (e.1 < lo)) ++ (old ++ fresh).mergeSort (fun x y => decide (x.1 ≤ y.1)) ++ t.filter fun e => decide (lo + n ≤ e.1)) = true := by
  obtain ⟨hp, hv⟩ := (linesWf_iff _).1 h
  have perm := List.mergeSort_perm (old ++ fresh) fun x y => decide (x.1 ≤ y.1)
  have sorted := List.pairwise_mergeSort (le := fun (x y : Nat × BitVec 640) => decide (x.1 ≤ y.1)) (by intro a b c; simp; omega) (by intro a b; simp; omega) (old ++ fresh)
  generalize (old ++ fresh).mergeSort (fun x y => decide (x.1 ≤ y.1)) = m at *
  have distinct : m.Pairwise fun a b => a.1 ≠ b.1 := (perm.pairwise_iff fun h e => h e.symm).2 both
  have strict : m.Pairwise fun a b => a.1 < b.1 := by
    refine (sorted.and distinct).imp fun h => ?_
    have := h.1; have := h.2; simp at *; omega
  have mid : ∀ e ∈ m, lo ≤ e.1 ∧ e.1 < lo + n ∧ e.2 ≠ lineFill e.1 := by
    intro e he
    rcases List.mem_append.1 (perm.mem_iff.1 he) with x | x
    · have := oldIn e x; exact ⟨this.1, this.2.1, hv e this.2.2⟩
    · exact freshIn e x
  rw [linesWf_iff]
  constructor
  · refine List.pairwise_append.2 ⟨List.pairwise_append.2 ⟨hp.filter _, strict, ?_⟩, hp.filter _, ?_⟩
    · intro a ha b hb; have := (mid b hb).1; simp at ha; omega
    · intro a ha b hb
      simp at hb
      rcases List.mem_append.1 ha with x | x
      · simp at x; omega
      · have := (mid a x).2.1; omega
  · intro e he
    rcases List.mem_append.1 he with x | x
    · rcases List.mem_append.1 x with x | x
      · exact hv e (List.mem_of_mem_filter x)
      · exact (mid e x).2.2
    · exact hv e (List.mem_of_mem_filter x)
theorem regionLines_eq (p r : Nat) : regionLines p r = (List.range 16384).map fun i => lineId p (16384 * r) + i := by
  unfold regionLines; apply List.map_congr_left; intro i _; unfold lineId; omega
/-- The fill of a region keeps the canonical form. -/
theorem State.fillRegion_wf (s : State) (p r : Nat) (g : Nat → BitVec 640) (h : linesWf s.stk.lines = true) : linesWf (s.fillRegion p r g).stk.lines = true := by
  have hp := ((linesWf_iff _).1 h).1
  refine linesWf_span s.stk.lines _ _ (lineId p (16384 * r)) 16384 h ?_ ?_ ?_
  · intro e he
    simp only [List.mem_filter, Bool.and_eq_true, decide_eq_true_eq] at he
    exact ⟨he.2.1.1, he.2.1.2, he.1⟩
  · intro e he
    rw [regionLines_eq] at he
    simp only [List.mem_filter, List.mem_map, List.mem_range] at he
    obtain ⟨⟨k, ⟨⟨i, hi, rfl⟩, hk⟩, rfl⟩, hne⟩ := he
    exact ⟨by simp, by simpa using hi, by simpa using hne⟩
  · refine List.pairwise_append.2 ⟨(hp.filter _).imp fun h => Nat.ne_of_lt h, ?_, ?_⟩
    · rw [regionLines_eq]
      apply List.Pairwise.filter
      rw [List.pairwise_map]
      apply List.Pairwise.filter
      rw [List.pairwise_map]
      exact (List.pairwise_lt_range).imp fun h => by simp; omega
    · intro a ha b hb e
      simp only [List.mem_filter, List.mem_map, Bool.and_eq_true] at ha hb
      obtain ⟨⟨k, ⟨_, hk⟩, rfl⟩, _⟩ := hb
      have := ha.2.2
      rw [e] at this
      simp_all

/-! ## Boot flash (R550–R552) -/

theorem flash_write_wf (l : List Byte) (t : List Host.Cell) (a : Nat) (h : twf 0xFF t = true) : twf 0xFF (l.foldl (fun (x : List Host.Cell × Nat) b => (tput 0xFF x.1 x.2 b, x.2 + 1)) (t, a)).1 = true := by
  induction l generalizing t a with
  | nil => exact h
  | cons b l ih => exact ih _ _ (twf_tput 0xFF _ _ _ h)
theorem flash_erase_wf (t : List Host.Cell) (g : Host.Cell → Bool) (h : twf 0xFF t = true) : twf 0xFF (t.filter g) = true := twf_filter 0xFF _ _ h

end Sys2Proof.Machine
end

