-- ==== Sys2Proof/Laws/Protocol.lean ====
section
/-! SUPPORT. Admission of a request frame: an admitted and fresh request is performed in the state that its frame leaves (R442–R459, R470). -/

namespace Sys2Proof.Machine

/-- A request tagged under the counter that its session expects next verifies at once (R456). -/
theorem authOf_next {s : State} {r : Req} {func : Nat} (h : r.tag = Req.tagUnder r func (s.seat r.seat.val).kreq (s.seat r.seat.val).reqCtr) :
    s.authOf r func = some 0 := by
  simp [State.authOf, List.range_succ_eq_map, h]
/-- An admitted request that repeats nothing, while nothing runs, is performed. -/
theorem accept_admitted {s u : State} {r : Req} {func : Nat} (seg : Bool) (h : admitted s r func u) (f : fresh s r) : accept s r func seg = .go u := by
  obtain ⟨up, node, short, test, isOpen, d, auth, rfl⟩ := h
  obtain ⟨last, run, seg'⟩ := f
  have c : s.clearOut.seat r.seat.val = s.seat r.seat.val := rfl
  have b : s.clearOut.busUp = true := up
  have x : (s.clearOut.onSeat r.seat.val fun x => { x with reqCtr := x.reqCtr + d + 1 }).seat r.seat.val =
      { s.seat r.seat.val with reqCtr := (s.seat r.seat.val).reqCtr + d + 1 } := by simp [c]
  have a : s.clearOut.authOf r func = some d := auth
  unfold accept
  simp only [b, node, short, c, isOpen, a, State.clearOut_aon, test]
  unfold acceptSeq
  simp only [x, run, seg']
  cases hl : (s.seat r.seat.val).last with
  | none => simp
  | some l => have := last l hl; simp [this]
/-- An operation that completes at once is answered from the state that the frame leaves. -/
theorem serve_admitted {s u : State} {r : Req} {func : Nat} (op : State → Nat → List Byte → Bool → OpOut) (h : admitted s r func u) (f : fresh s r) :
    serve s r func op = .next (finish u r func (op u r.seat.val (Req.payload r) (Req.long r))) := by
  unfold serve
  rw [accept_admitted false h f]

end Sys2Proof.Machine
end

