-- ==== Sys2Proof/Machine/Balls.lean ====
section
/-! DEFINITION. What the device does at its balls: the hold state and the standards of user I/O balls, PWR_GOOD, and the balls before a mode (R580, R688, R694, R695, R699, R700). -/

namespace Sys2Proof.Machine

/-- What the device does at a ball. -/
inductive BallState where
  /-- high impedance without a pull -/
  | highZ
  /-- high impedance with a weak pull to the supply, or to ground -/
  | pullUp | pullDown
  /-- high impedance with a bus keeper -/
  | keeper
  /-- driven: the value of the first and of the second half of a fabric cycle -/
  | drives (v second : Bool)
  /-- the bank's supply is outside its range, and the level is undefined (R604, R704) -/
  | undefined
deriving DecidableEq, Repr

/-- Step 1 of start-up has ended: the device is in a mode (R517). -/
def State.inMode (s : State) : Bool := s.aon.powered && s.aon.mode.isSome

/-! ## User I/O balls -/

/-- The hold state of a bank: its hold pull from OTP (R580, R696). -/
def Nv.holdState (n : Nv) (b : Nat) : BallState :=
  match bits n.holdPulls (2 * b + 1) (2 * b) with | 0 => .highZ | 1 => .pullUp | 2 => .pullDown | _ => .keeper
/-- Ball j of bank b has a standard in force: the bank's owner has had its first turn, and the code fits the bank's kind and its fixed nominal voltage (R580, R699, R700). -/
def Bank.inForce (k : Bank) (b j : Nat) : Bool :=
  k.released && (ownerOf k.own).isSome && k.nominal != 0 && (k.pair b (j / 2) || inRange 1 4 (k.code j))
/-- Ball j of bank b drives under its standard and its output enable; in a differential pair the odd ball carries the complement of the even one (R699). -/
def Bank.drive (k : Bank) (b j : Nat) : BallState :=
  let e := if k.pair b (j / 2) then 2 * (j / 2) else j
  let flip := e != j
  let second := if k.pair b (j / 2) then k.outFall.getLsbD e else k.out.getLsbD e
  if k.oe.getLsbD e && (k.pair b (j / 2) || k.code j != 1) then .drives (k.out.getLsbD e != flip) (second != flip) else .highZ
/-- User I/O ball j of bank b: at high impedance with no pull before the device is in a mode (R695), in its hold state, or under its standard; undefined while its bank's supply was outside its range in the last round (R604, R704). (DEDUCED, log 87) -/
def State.userBall (s : State) (b j : Nat) : BallState :=
  let k := s.fab.bank b
  if !s.inMode then .highZ else if k.outRounds != 0 then .undefined else if k.inForce b j then k.drive b j else s.nv.holdState b

/-! ## Other balls -/

/-- PWR_GOOD is released: VF0, VC, VF1, VM and VB regulate, limit or stand at retention voltage (R694). -/
def State.pwrGood (s : State) : Bool :=
  s.inMode && (List.range 5).all fun k => inRange 2 4 (s.mc.hk.rail k).state
/-- Balls whose state before a mode the spec gives (R695). -/
inductive Ball where
  | linkTx (n : PortIx) | canTxd | ospiCs | sspiCs | ospiDq | ospiDqs | sspiMiso | tdo | pwrGood
deriving DecidableEq, Repr
/-- A ball before the device is in a mode (R695): CAN_TXD drives high, the chip selects are pulled high, PWR_GOOD is driven low, and the others are at high impedance. -/
def Ball.early : Ball → BallState
  | .canTxd => .drives true true
  | .ospiCs | .sspiCs => .pullUp
  | .pwrGood => .drives false false
  | .linkTx _ | .ospiDq | .ospiDqs | .sspiMiso | .tdo => .highZ
/-- PWR_GOOD as the board sees it: released, or driven low (R694). -/
def State.pwrGoodBall (s : State) : BallState := if s.pwrGood then .highZ else .drives false false

end Sys2Proof.Machine
end

