-- ==== Sys2Proof/WellFormed.lean ====
section
/-! DEFINITION. Which commands are well formed: the limits that the rules set on operands and that the operand types do not carry already. -/

namespace Sys2Proof

/-- The code of a failed test is none or one that R397 gives to start-up: 1–10. -/
def BootEnv.wellFormed (e : BootEnv) : Bool := decide (e.testFail.toNat ≤ 10)
/-- A round reads 14 monitors, 96 phases, 5 rails and 32 banks (R585), and monitor 12 is outside its range when a feed switch is (R604). -/
def RoundEnv.wellFormed (e : RoundEnv) : Bool :=
  e.monitors.length = 14 && e.farthest.length = 3 && e.phases.length = 96 && e.rails.length = 5 && e.banks.length = 32 &&
    e.feedOut.isEmpty == decide (e.farthest.getD 0 0 = 0)
/-- A request's data field has a CAN FD length; a field shorter than 12 bytes holds no data (R445, R449). -/
def Req.wellFormed (r : Req) : Bool := if r.short then r.data.isEmpty else [0, 4, 8, 12, 20, 36, 52].contains r.data.length
/-- A service SPI frame carries the CMD of its row (R551). -/
def frameIs (cmd : Byte) (frame : List Byte) : Bool := frame.head? = some cmd

/-- A command whose operands its rules allow. -/
def Instr.wellFormed : Instr → Bool
  | .powerOn env => env.wellFormed
  | .resetN _ env => env.wellFormed
  | .powerLoss => true
  | .tamper _ => true
  | .trstN => true
  | .autoriseRise _ => true
  | .softStartFail _ => true
  | .sowingEnd => true
  | .sowingFinalTimeout => true
  | .trainingSlotEnd => true
  | .bindingTick => true
  | .bootFlashRead addr len => decide (4 ≤ len) && decide (len ≤ 16384) && decide (addr.toNat + len ≤ 2 ^ 32)
  | .narrowWordPush _ _ _ => true
  | .sspiStatus => true
  | .sspiErase frame => frameIs 2 frame
  | .sspiWrite frame => frameIs 3 frame
  | .sspiVerify frame => frameIs 4 frame
  | .sspiRestart frame env => frameIs 5 frame && env.wellFormed
  | .sspiReservedCommand frame => match frame with | [] => true | c :: _ => c = 0 || decide (6 ≤ c.toNat)
  | .housekeepingRound env => env.wellFormed
  | .bondSpared _ _ => true
  | .wearLedgerSave => true
  | .limpAutoEntry => true
  | .ioNominalVoltageFix _ => true
  | .tempFrame counts => counts.length = 64
  | .currentLimitSkip _ _ => true
  | .feedDomainReset _ => true
  | .feedRetrainDone _ => true
  | .dieReset _ => true
  | .dieResetRelease _ => true
  | .slotBoundary _ => true
  | .handCall _ _ _ => true
  | .contention _ _ _ _ _ _ _ _ => true
  | .configPatrol _ => true
  | .handSection _ _ => true
  | .handSowingStart _ _ => true
  | .handSowingEnd _ _ _ _ _ => true
  | .bmSection _ _ _ _ => true
  | .engineSection _ _ _ _ => true
  | .stagingSection _ _ _ _ => true
  | .seedImageHeader _ _ _ => true
  | .handWipeDone _ _ => true
  | .bmClearDone _ _ => true
  | .bmRead _ _ _ _ _ _ => true
  | .bmWrite _ _ _ _ _ => true
  | .kittyWrite _ _ _ _ => true
  | .kittyRead _ _ => true
  | .qoPush _ _ _ _ _ => true
  | .qoLast _ _ _ _ _ _ => true
  | .qoAbort _ _ _ => true
  | .qiPop _ _ _ => true
  | .qiDrop _ _ _ => true
  | .qiWmclr _ _ _ _ => true
  | .packetVisible _ => true
  | .rewindArrival _ => true
  | .creditReturn _ => true
  | .queueBindDone _ => true
  | .scratchRead _ _ _ => true
  | .scratchWrite _ _ _ => true
  | .scratchBlockFillDone _ => true
  | .securePartitionFillDone => true
  | .memPortRequest _ _ _ _ _ _ => true
  | .msPop _ => true
  | .lineRead _ _ _ _ => true
  | .fullLineWrite _ _ _ _ => true
  | .partialLineWrite _ _ _ be _ => be != 0 && be != BitVec.allOnes 64
  | .writeCombineTimeout _ _ _ => true
  | .commandRetry _ _ => true
  | .riserLaneCheck _ _ => true
  | .memRefresh _ => true
  | .memPatrolRead _ _ => true
  | .regionWipeDone _ _ => true
  | .tileCopyDone _ => true
  | .dieMapDone _ => true
  | .nextEntry r => r.wellFormed
  | .smsWrite r => r.wellFormed
  | .keySlotLoad _ _ => true
  | .rekeyFlip _ _ => true
  | .rekeyPassEnd _ _ => true
  | .holdTimeout _ _ => true
  | .sealFrameRx _ _ => true
  | .linkUp _ => true
  | .lockLoss _ => true
  | .linkReacquire _ => true
  | .portWakeDone _ => true
  | .steeringLookup _ _ => true
  | .packetRxEnd _ _ => true
  | .streamRxPacket _ _ => true
  | .packetTxStart _ => true
  | .packetTxEnd _ => true
  | .bulkWrite _ => true
  | .bulkReadReq _ => true
  | .bulkBadRequest _ => true
  | .canFrameIgnored _ => true
  | .read r => r.wellFormed
  | .write r => r.wellFormed
  | .stage r => r.wellFormed
  | .check r => r.wellFormed
  | .turn r => r.wellFormed
  | .discard r => r.wellFormed
  | .segRead r => r.wellFormed
  | .segWrite r => r.wellFormed
  | .segData r _ _ => r.wellFormed
  | .segAck r => r.wellFormed
  | .segTransferTimeout _ => true
  | .winRead r => r.wellFormed
  | .winWrite r => r.wellFormed
  | .sessionOpenQh o _ => decide (o.data.length ≤ 64)
  | .sessionOpenSigh o _ => decide (o.data.length ≤ 64)
  | .sessionOpenTimeout _ => true
  | .sessionClose r => r.wellFormed
  | .ping r => r.wellFormed
  | .attnAck r => r.wellFormed
  | .reservedFunc r func => r.wellFormed && (func = 0 || func = 0x0D || decide (0x11 ≤ func.toNat))
  | .turnApply => true
  | .mcDictionaryRequest _ _ => true
  | .userAttention _ => true
  | .go _ _ => true
  | .park _ _ => true
  | .handRestart _ _ => true
  | .threadStart _ _ => true
  | .threadStop _ _ => true
  | .threadContinue _ _ => true
  | .rkreq _ _ => true
  | .kchg _ => true
  | .step => true
  | .offset => true
  | .requestFallow => true
  | .requestField => true
  | .requestRetention => true
  | .retentionEntryDone => true
  | .retentionExitDone => true
  | .requestLimp => true
  | .requestTest => true
  | .rise _ => true
  | .restart _ => true
  | .dieResetRequest => true
  | .pllLock _ => true
  | .pllGroupStop _ => true
  | .epllStop _ => true
  | .epllTimerStart _ _ => true
  | .add _ _ _ _ _ => true
  | .sub _ _ _ _ _ => true
  | .and _ _ _ _ _ => true
  | .or _ _ _ _ _ => true
  | .xor _ _ _ _ _ => true
  | .slt _ _ _ _ _ => true
  | .sltu _ _ _ _ _ => true
  | .sll _ _ _ _ _ => true
  | .srl _ _ _ _ _ => true
  | .sra _ _ _ _ _ => true
  | .mul _ _ _ _ _ => true
  | .mulh _ _ _ _ _ => true
  | .mulhu _ _ _ _ _ => true
  | .clz _ _ _ _ => true
  | .popc _ _ _ _ => true
  | .crc _ _ _ _ _ _ => true
  | .hash _ _ rd ra => legalEng (.hash rd ra)
  | .slli _ _ _ _ _ => true
  | .srli _ _ _ _ _ => true
  | .srai _ _ _ _ _ => true
  | .rori _ _ _ _ _ => true
  | .addi _ _ _ _ _ => true
  | .andi _ _ _ _ _ => true
  | .ori _ _ _ _ _ => true
  | .xori _ _ _ _ _ => true
  | .lui _ _ _ _ => true
  | .bfx _ _ _ _ _ _ => true
  | .bfi _ _ _ _ _ _ => true
  | .ldL _ _ _ _ _ _ => true
  | .timeNsRead _ _ _ _ _ => true
  | .stL _ _ _ _ _ => true
  | .ldM _ _ _ _ _ => true
  | .stM _ _ _ _ _ => true
  | .ldmMissResponse _ _ _ => true
  | .stmFillResponse _ _ _ => true
  | .cacheWriteback _ _ _ => true
  | .qpush _ _ _ _ _ => true
  | .qcommit _ _ _ _ => true
  | .qabort _ _ _ => true
  | .qpop _ _ _ _ _ => true
  | .qpeek _ _ _ _ _ => true
  | .qdrop _ _ _ => true
  | .qlevel _ _ rd rq sel _ => legalEng (.qlevel rd rq sel)
  | .krd _ _ _ _ _ => true
  | .kwr _ _ _ _ _ => true
  | .callh _ _ _ _ => true
  | .rdpmc _ _ rd sel => legalEng (.rdpmc rd sel)
  | .wait _ _ rd ra mask => legalEng (.wait rd ra mask)
  | .waitWake _ _ _ => true
  | .fence _ _ what => legalEng (.fence what)
  | .trap _ _ _ => true
  | .illegal _ _ word _ => (decodeEng word).isNone
  | .j _ _ _ => true
  | .jal _ _ _ => true
  | .jr _ _ _ => true
  | .beq _ _ _ _ _ => true
  | .bne _ _ _ _ _ => true
  | .blt _ _ _ _ _ => true
  | .bge _ _ _ _ _ => true
  | .imbLdbFillDone _ _ _ => true
  | .snap _ => true
  | .snapshot => true
  | .snapshotImageWritten _ => true
  | .pmcClear _ _ => true
  | .pmcOvfclr _ _ _ => true
  | .provision => true
  | .enterService => true
  | .leaveService => true
  | .decommission => true
  | .selfTestStart _ => true
  | .selfTestAbort => true
  | .bistFailLog e => decide (e.element.toNat ≤ 5) && decide (e.op.toNat ≤ 4)
  | .selfTestEnd _ _ _ => true
  | .selfTestRestoreDone => true
  | .reclaim _ _ => true
  | .idcode => true
  | .samplePreload _ => true
  | .extest => true
  | .highz => true
  | .clamp => true
  | .extestPulse => true
  | .extestTrain => true
  | .memacc _ _ _ _ _ => true
  | .debug _ _ _ => true
  | .bypass => true
  | .continuousTestFail _ => true
  | .turnWindowStart => true
  | .popActsAtStore _ => true
  | .rekeyPassLine _ _ _ => true
  | .tileCopyLine _ _ => true

end Sys2Proof
end

