-- ==== Sys2Proof/Tests/Slice0.lean ====
section
/-! SUPPORT. Tests of the model's own: states and operands that meet the statements' hypotheses, ill-formed commands refused, engine words written out from the spec's encodings, and the spec's worked examples. -/

namespace Sys2Proof.Tests
open Sys2Proof.Machine
set_option Elab.async false

/-! ## Small states -/

/-- Powered in a mode, everything else at its reset value. -/
def up (m : Mode) : State := { aon := { powered := true, mode := some m } }
/-- The same with orders waiting. -/
def ordered (m : Mode) (l : List Order) : State := { up m with mc := { orders := l } }
/-- A directory entry of an enabled queue of a seat: one producer, 9 pages, packets of up to `maxlen + 1` words. -/
def dirOf (seat maxlen wm cons prod : Nat) : BitVec 256 :=
  BitVec.ofNat 256 (2 ^ 251 + seat * 2 ^ 248 + 2 ^ 247 + 9 * 2 ^ 234 + maxlen * 2 ^ 224 + wm * 2 ^ 200 + cons * 2 ^ 180 + prod)
/-- A bound queue with that entry and some credits. -/
def queueOf (dir : BitVec 256) (credits : Nat) : Queue := { dir := dir, bound := true, prods := [(0, { credits := credits })] }
/-- A state with one queue. -/
def withQueue (s : State) (n : Nat) (q : Queue) : State := { s with net := { s.net with queues := [(n, q)] } }
/-- A state with one hand. -/
def withHand (s : State) (p h : Nat) (x : Hand) : State := { s with fab := s.fab.setHand p h x }
/-- A state with one seat's record. -/
def withSeat (s : State) (k : Nat) (x : SeatRec) : State := s.setSeat k x
/-- The straps at 0 and no failed test. -/
def straps : BootEnv := { node := 0, autorise := false, testFail := 0 }
/-- Nothing fails in the rise. -/
def calmRise : RiseEnv := { coreFail := [], quadFail := [], findings := [] }
/-- The packing queue k, bound. -/
def packing (s : State) (k : Nat) : State := withQueue s (40960 + k) (queueOf (BitVec.ofNat 256 (2 ^ 247 + 9 * 2 ^ 234 + 511 * 2 ^ 224)) 576)
/-- A request frame of a seat, with TAG 0. -/
def frame (seat : Seat) (index : BitVec 16) (sub : BitVec 8) (data : List Byte) : Req :=
  { prio := 1, seat := seat, node := 0, seq := 7, index := index, sub := sub, len := BitVec.ofNat 8 data.length, data := data, short := false, tag := 0 }
/-- The frame with the tag of a function under the session's next counter. -/
def tagged (s : State) (func : Nat) (r : Req) : Req := { r with tag := Req.tagUnder r func (s.seat r.seat.val).kreq (s.seat r.seat.val).reqCtr }
/-- A session of the seat is open. -/
def opened (s : State) (k : Nat) (x : SeatRec) : State := s.setSeat k { x with isOpen := true }
/-- The state in which an accepted frame's operation runs. -/
def met (s : State) (r : Req) : State := s.clearOut.onSeat r.seat.val fun x => { x with reqCtr := x.reqCtr + 1 }
theorem authOf_tagged (s : State) (func : Nat) (r : Req) : s.authOf (tagged s func r) func = some 0 := by
  simp only [State.authOf, List.range_succ_eq_map, List.find?_cons, Nat.add_zero]
  rw [show (Req.tagUnder (tagged s func r) func (s.seat (tagged s func r).seat.val).kreq (s.seat (tagged s func r).seat.val).reqCtr == (tagged s func r).tag) = true from beq_self_eq_true _]
theorem tagged_admitted {s : State} {r : Req} (func : Nat) (b : s.busUp = true) (n : r.node = s.aon.node) (l : r.short = false) (f : s.aon.failedTest = 0) (o : (s.seat r.seat.val).isOpen = true) :
    admitted s (tagged s func r) func (met s r) := ⟨b, n, l, f, o, 0, authOf_tagged s func r, rfl⟩
/-! ## Start-up, modes, the service port: what the statements assume can happen -/

theorem test_meets_StepRunsFrontCommand : State.reset.pending = [] := by decide
theorem test_meets_TickAdvancesTimeBase : (up .fallow).pending = [] ∧ (up .fallow).aon.powered = true ∧ ((up .fallow).aon.now : Int) < maxTime := by decide
theorem test_meets_OtpOnlyGainsBits : State.reset.nv.svcCount ≤ 64 ∧ ∃ t, step State.reset = .next t := ⟨by decide, _, rfl⟩
theorem test_meets_PowerOnBoots_decommissioned : State.reset.aon.powered = false ∧ straps.testFail = 0 ∧ ({ lcDecom := true } : Nv).life = .decommissioned := by decide
theorem test_meets_PowerOnBoots_recovery : State.reset.nv.life ≠ .decommissioned ∧ State.reset.nv.slotValid 0 = false ∧ State.reset.nv.slotValid 1 = false := by decide +kernel
theorem test_meets_FailedTestHoldsFallow : State.reset.aon.powered = false ∧ 1 ≤ (10 : BitVec 16).toNat ∧ (10 : BitVec 16).toNat ≤ 10 ∧ State.reset.nv.life ≠ .decommissioned := by decide
theorem test_meets_ResetPulseRestarts : (up .field).aon.powered = true ∧ 2000 ≤ 2000 ∧ 500 ≤ 500 ∧ 500 < 501 ∧ 1999 < 2000 := by decide
theorem test_meets_TamperZeroisesWhenArmed :
    let s := { up .field with nv := { lcOwn := true } }
    s.mcUp = true ∧ s.stackHeld = true ∧ (s.nv.life = .owned ∨ s.nv.life = .service) ∧ (2 ≤ 2 ∨ s.nv.tamperEn.getLsbD 2 = true) ∧ ¬(2 ≤ 1 ∨ s.nv.tamperEn.getLsbD 1 = true) := by decide
theorem test_meets_RiseReachesSowing :
    let s := { up .fallow with aon := { powered := true, mode := some .fallow, autoDue := true } }
    let l := { ordered .fallow [.rise] with aon := { powered := true, mode := some .fallow, thermalLatch := true } }
    let f := { ordered .fallow [.restart] with aon := { powered := true, mode := some .fallow, failedTest := 0x0103 } }
    (s.aon.mode = some .fallow ∧ s.aon.autoDue = true ∧ s.aon.failedTest = 0 ∧ s.aon.thermalLatch = false ∧ s.supplyOut = false) ∧
      (takeOrder .rise (ordered .fallow [.rise]).mc.orders = some [] ∧ (ordered .fallow [.rise]).aon.failedTest = 0 ∧ (ordered .fallow [.rise]).aon.thermalLatch = false) ∧
      (takeOrder .rise l.mc.orders = some [] ∧ l.aon.thermalLatch = true) ∧ takeOrder .restart (ordered .fallow [.restart]).mc.orders = some [] ∧
      takeOrder .restart f.mc.orders = some [] ∧ f.aon.failedTest ≠ 0 := by decide +kernel
theorem test_meets_StackGoesDownIntoFallow :
    takeOrder .rise (ordered .fallow [.rise]).mc.orders = some [] ∧ takeOrder (.request 0) (ordered .field [.request 0]).mc.orders = some [] ∧
      (ordered .field [.request 0]).stackHeld = true ∧ (up .field).mcUp = true := by decide
/-- Seat 0 alone, its FINAL image complete. -/
def sown7 : State := { withSeat (up .sowing) 0 { finalDone := true } with aon := { powered := true, mode := some .sowing, step := 7 } }
/-- Step 8 with a port of the loaded seat 0 in group 3. -/
def training (g : Nat) : State :=
  { withSeat (up .sowing) 0 { loaded := true } with aon := { powered := true, mode := some .sowing, step := 8, trainGroup := g }, lnk := { ports := [(100, { own := 0x80, setup := 0x10000000 })] } }
theorem test_meets_StartUpReachesField :
    sown7.sowingOver = true ∧ sown7.step7 = true ∧ (sown7.seat 0).finalDone = true ∧ (training 2).nextGroup 3 = some 3 ∧ (training 3).nextGroup 4 = none ∧ (training 3).nextGroup 16 = none := by decide +kernel
theorem test_meets_FlashReadsAndStatusRecord_shortest :
    (up .fallow).mcUp = true ∧ (((packing (up .fallow) 0).net.queue 40960).packPacket 0 (State.reset.nv.flashBytes 0xFFFFFFFC 4)).isSome = true ∧ 0xFFFFFFFC + 4 ≤ 2 ^ 32 := by
  decide +kernel
/-- A boot record that gives slots A and B the addresses 0x1000 and 0x900000. -/
def recordFlash : List Host.Cell :=
  let head : List Byte := leBytes 4 0xC5B00001 ++ leBytes 4 0x1000 ++ leBytes 4 0x900000 ++ List.replicate 240 0
  ((head ++ leBytes 4 (crc32c head).toNat).zipIdx.map fun x => (x.2, x.1)).filter fun c => c.2 != 0xFF
def recovery : State := packing { up .recovery with nv := { flash := recordFlash } } 1
set_option maxRecDepth 20000 in
theorem test_meets_ServicePortWorksInRecovery :
    let f : Nat → List Byte := fun c => [BitVec.ofNat 8 c, 1, 0, 0, 0, 0, 0, 0, 7]
    recovery.aon.powered = true ∧ recovery.aon.mode = some .recovery ∧ sspiSlot (f 3) = some 1 ∧ recovery.nv.slotAddr 1 = some 0x900000 ∧ 8 ≤ (f 3).length ∧ (f 3).length ≤ 16384 ∧
      ((recovery.net.queue 40961).packPacket 1 (f 3)).isSome = true ∧ byteAt (f 3) 0 = 3 ∧ leField (f 3) 4 4 + ((f 3).length - 8) ≤ 8392704 := by decide +kernel
theorem test_meets_ServicePortRefusals :
    let s := packing (up .fallow) 1
    s.mcUp = true ∧ s.aon.mode ≠ some .recovery ∧ ((s.net.queue 40961).packPacket 1 [2, 0, 0, 0, 0, 0, 0, 0]).isSome = true ∧ byteAt [6, 0, 0, 0, 0, 0, 0, 0] 0 = 6 ∧ ([2] : List Byte).length < 8 := by decide +kernel
/-! ## Life cycle, housekeeping, resets, self-test, boundary scan: what the statements assume can happen -/

def blankToken : Token := { tamperEn := 0, fwFloor := 0, holdPulls := 0, seat0X := 0, seat0Y := 0, ownerRoot := 0 }
/-- A token of a KIND has passed in a device with these OTP contents. -/
def tokened (nv : Nv) (kind : Nat) : State := { ordered .fallow [.life kind blankToken] with nv := nv }
theorem test_meets_LifeCycleTransitions_provision : (tokened {} 1).mcUp = true ∧ takeLife 1 (tokened {} 1).mc.orders = some (blankToken, []) ∧ (tokened {} 1).nv.life = .manufacture := by decide +kernel
theorem test_meets_LifeCycleTransitions_enter_last :
    let s := tokened { lcOwn := true, svcCount := 62 } 2
    s.mcUp = true ∧ takeLife 2 s.mc.orders = some (blankToken, []) ∧ s.nv.life = .owned ∧ s.nv.svcCount < 64 := by decide +kernel
theorem test_meets_LifeCycleTransitions_leave_last :
    let s := tokened { lcOwn := true, svcCount := 63 } 3
    takeLife 3 s.mc.orders = some (blankToken, []) ∧ s.nv.life = .service ∧ s.nv.svcCount < 64 := by decide +kernel
theorem test_meets_DecommissionRetires : (tokened {} 4).mcUp = true ∧ takeLife 4 (tokened {} 4).mc.orders = some (blankToken, []) ∧ (tokened {} 4).nv.life = .manufacture := by decide +kernel
/-- A round in which every reading is at its nominal value. -/
def calmRound : RoundEnv :=
  { monitors := [1800, 800, 900, 1200, 750, 750, 750, 1050, 750, 2500, -300, 750, 1800, 1800].map some, farthest := [0, 0, 0], feedOut := [], phases := List.replicate 96 0, rails := List.replicate 5 (750, 0)
    clockFaults := [], findings := [], banks := List.replicate 32 0, bistKhz := 800000 }
theorem test_meets_RoundPublishesItsRecord : (up .field).mcUp = true ∧ (255 + 1) % 256 = 0 := by decide
theorem test_meets_GovernorStepsRails_round :
    (up .field).mcUp = true ∧ (up .field).stackHeld = true ∧ (match exec (.housekeepingRound calmRound) (up .field) with | .next t => t.stackHeld | _ => false) = true := by decide +kernel
theorem test_meets_GovernorStepsRails_hot : predictsHot [(0, 29440)] 64 = true ∧ predictsHot [(0, 29439)] 64 = false := by decide
theorem test_meets_GovernorStepsRails_between :
    let hist : List (Nat × Int) := (1000000000, 29000) :: List.replicate 7 (0, 28000)
    predictsHot hist 300 = false ∧ predictsHot hist (2 * 300) = true ∧ hist[7]? = some (0, 28000) ∧ 0 < 1000000000 := by decide
theorem test_meets_GovernorStepsRails_calm :
    let hist : List (Nat × Int) := [(0, 20000)]
    predictsHot hist 64 = false ∧ predictsHot hist (2 * 64) = false ∧ 62 + 1 < 64 ∧ 63 + 1 = 64 ∧ hist.length < 8 := by decide
theorem test_meets_LedgerBanksAndRefresh_ledger_and_bank :
    let s := { up .field with mc := { hk := { ledgerDue := true } }, fab := { banks := [(31, { cand := 5, candRounds := 4 })] } }
    s.aon.powered = true ∧ s.mc.hk.ledgerDue = true ∧ (s.fab.bank 31).nominal = 0 ∧ 4 ≤ (s.fab.bank 31).candRounds ∧ s.stackOn = true := by decide
/-- The four sensors of memory die 4, one of them at t. -/
def die4 (t : Int) : State := { up .field with mc := { hk := { frameTemps := [(60, some 0), (61, some t), (62, some 0), (63, some 0)] } } }
theorem test_meets_LedgerBanksAndRefresh_hot : ∃ q < 4, ∃ x, tget none (die4 21761).mc.hk.frameTemps (44 + 4 * 4 + q) = some x ∧ 21760 < x := ⟨1, by decide, 21761, by decide⟩
theorem test_meets_LedgerBanksAndRefresh_cool : ∀ q < 4, ∃ x, tget none (die4 21760).mc.hk.frameTemps (44 + 4 * 4 + q) = some x ∧ x ≤ 21760 := by
  intro q hq
  match q, hq with
  | 0, _ => exact ⟨0, rfl, by decide⟩
  | 1, _ => exact ⟨21760, rfl, by decide⟩
  | 2, _ => exact ⟨0, rfl, by decide⟩
  | 3, _ => exact ⟨0, rfl, by decide⟩
/-- The readings of a frame whose counts are all c. -/
def frameOf (c : Nat) : List (Nat × Option Int) := (List.range 64).foldl (fun l k => tput none l k (if k < 16 || (up .field).stackHeld then reading ((up .field).nv.fuse k) ((List.replicate 64 c).getD k 0) else none)) []
theorem test_meets_HotFrameShutsDown_calm : (up .field).mcUp = true ∧ frameCause (frameOf 18000) (up .field).stackHeld = none := by decide +kernel
theorem test_meets_HotFrameShutsDown_limit : tget none (frameOf 22500) 63 = some 29440 ∧ tget none (frameOf 22494) 63 = some 29408 ∧ (up .field).stackHeld = true := by decide +kernel
/-- A rail that regulates. -/
def railed (r : Rail) : State := { up .field with mc := { hk := { rails := [(0, r)] } } }
theorem test_meets_CurrentLimitSkipsEdges :
    (railed { state := 2 }).stackHeld = true ∧ ((railed { state := 2 }).mc.hk.rail 0).state = 2 ∧ railLimit 0 0 < 250001 ∧ 100 * 237499 < 95 * railLimit 0 0 ∧
      ((railed { state := 4, skip := 15, overUs := 999 }).mc.hk.rail 0).state = 4 ∧ ((railed { state := 4, skip := 15, overUs := 999 }).mc.hk.rail 0).skip = 15 ∧ (0 : Nat) < 15 := by decide
theorem test_meets_RetentionEntryAndExit :
    let f := { up .field with aon := { powered := true, mode := some .field, moving := true } }
    let r := { up .retention with aon := { powered := true, mode := some .retention, moving := true } }
    (takeOrder (.request 3) (ordered .field [.request 3]).mc.orders = some [] ∧ (ordered .field [.request 3]).aon.mode = some .field ∧ (ordered .field [.request 3]).aon.moving = false) ∧
      (f.aon.mode = some .field ∧ f.aon.moving = true ∧ (∀ e ∈ f.fab.hands, e.2.memReq = []) ∧ (∀ e ∈ f.stk.risers, e.2.wc = []) ∧ ∀ e ∈ f.stk.regions, e.2.heldWrites = [] ∧ e.2.wiping = false) ∧
      (takeOrder (.request 2) (ordered .retention [.request 2]).mc.orders = some [] ∧ (ordered .retention [.request 2]).aon.mode = some .retention) ∧ r.aon.mode = some .retention ∧ r.aon.moving = true := by decide
theorem test_meets_LimpAndTestEntry :
    takeOrder (.request 4) (ordered .field [.request 4]).mc.orders = some [] ∧ takeOrder (.request 2) (ordered .limp [.request 2]).mc.orders = some [] ∧
      takeOrder (.request 5) (ordered .field [.request 5]).mc.orders = some [] ∧ (ordered .limp []).aon.moving = false ∧
      (let s := { up .field with mc := { hk := { limpArmed := true } } }; s.mc.hk.limpArmed = true ∧ s.aon.mode = some .field) ∧
      ([(8 * 511 + 7, ({ state := .held, heldState := .running } : Thread))] : List (Nat × Thread)).Pairwise (fun a b => a.1 < b.1) := by decide
theorem test_meets_FeedAndDieResets :
    let s := { ordered .field [.dieReset 1] with net := { feedDown := [6] } }
    s.stackHeld = true ∧ s.net.feedDown.contains 6 = true ∧ s.dieMayReset = true ∧ s.mc.orders = .dieReset (1 : Fin 2).val :: [] := by decide
/-- The engine memory of plot 300 as a target (R648). -/
def testTarget : BitVec 32 := 0x512C0000
/-- A test runs on a target with these failing bits. -/
def testing (target : BitVec 32) (fails : Nat) : State := { packing (up .test) 2 with mc := { bist := { state := 1, runTarget := target, runAlg := 0, fails := fails } } }
theorem test_meets_SelfTestRuns_start :
    let s := ordered .test [.testStart]
    takeOrder .testStart s.mc.orders = some [] ∧ s.clocksOn = true ∧ s.mc.bist.state ≠ 1 ∧ s.mc.bist.state ≠ 2 ∧ 400000 ≤ 400000 ∧ 400000 ≤ 800000 ∧ 1000 ≤ 1100 ∧ 1100 ≤ 1100 := by decide
theorem test_meets_SelfTestRuns_clock :
    let s := { packing (ordered .test [.testStart]) 2 with mc := { orders := [.testStart], bist := { target := testTarget } } }
    takeOrder .testStart s.mc.orders = some [] ∧ s.clocksOn = true ∧ targetOk s.mc.bist.target = true ∧ s.mc.bist.state = 0 ∧ 399999 < 400000 := by decide
theorem test_meets_SelfTestRuns_room (l : List Byte) : (((packing (up .test) 2).net.queue 40962).packPacket 2 l).isSome = true := by
  have h : ((packing (up .test) 2).net.queue 40962) = queueOf (BitVec.ofNat 256 (2 ^ 247 + 9 * 2 ^ 234 + 511 * 2 ^ 224)) 576 := rfl
  have d : qdMaxlen (BitVec.ofNat 256 (2 ^ 247 + 9 * 2 ^ 234 + 511 * 2 ^ 224)) = 511 := by decide
  have r : (queueOf (BitVec.ofNat 256 (2 ^ 247 + 9 * 2 ^ 234 + 511 * 2 ^ 224)) 576).runs = true := by decide
  have p : (queueOf (BitVec.ofNat 256 (2 ^ 247 + 9 * 2 ^ 234 + 511 * 2 ^ 224)) 576).prod 0 = { credits := 576 } := rfl
  have e : (queueOf (BitVec.ofNat 256 (2 ^ 247 + 9 * 2 ^ 234 + 511 * 2 ^ 224)) 576).dir = BitVec.ofNat 256 (2 ^ 247 + 9 * 2 ^ 234 + 511 * 2 ^ 224) := rfl
  rw [h]; unfold Queue.packPacket; simp only [r, p, e, d]
  simp; split <;> simp
/-- The last word's bit 255 read as 1 by the first read of the second element of a MARCH_C march over SOLID. -/
def badBit : FailEntry := { addr := 49151, bitNo := 255, expected := false, observed := true, element := 1, op := 0, opnum := 5 }
theorem test_meets_SelfTestRuns_abort_and_log :
    takeOrder .testAbort [Order.testAbort] = some [] ∧ (testing testTarget 0).mc.bist.state = 1 ∧ (testing testTarget 0).mc.bist.aborting = false ∧
      (((testing testTarget 0).net.queue 40962).packPacket 2 (leBytes 16 1)).isSome = true ∧ (testing testTarget 0).mc.bist.reads badBit = true ∧
      (testing testTarget 0).mc.bist.reads { badBit with op := 1 } = false := by decide +kernel
theorem test_meets_SelfTestEndsAndReclaims_end :
    let s := testing testTarget 1
    s.mc.bist.state = 1 ∧ s.mc.bist.expected = 5 * targetWords (tgKind testTarget) ∧ elemsDone (targetWords (tgKind testTarget)) s.mc.bist.expected (marchElems (bits s.mc.bist.runAlg 1 0)) = 3 ∧
      ((s.net.queue 40962).packPacket 2 (s.mc.bist.completion s.mc.bist.expected 0)).isSome = true ∧ 0 < s.mc.bist.fails := by decide +kernel
theorem test_meets_SelfTestEndsAndReclaims_tile :
    let s := testing 0x142C0000 1
    tgKind s.mc.bist.runTarget = 1 ∧ s.mc.bist.expected = 5 * 262144 ∧ 256 * tgDie s.mc.bist.runTarget + tgIndex s.mc.bist.runTarget = 556 ∧ ((s.net.queue 40962).packPacket 2 (s.mc.bist.completion s.mc.bist.expected 0)).isSome = true := by decide +kernel
theorem test_meets_SelfTestEndsAndReclaims_reclaim :
    let s := { ordered .test [.reclaim 511] with nv := { map := { plots := [511] } } }
    takeReclaim s.mc.orders = some (511, []) ∧ s.aon.mode = some .test ∧ s.plotFallowed 511 = true := by decide
theorem test_meets_BoundaryScan : (up .test).aon.powered = true ∧ (up .test).aon.mode = some .test ∧ (up .field).aon.powered = true ∧ ¬((up .field).aon.mode = none ∨ (up .field).aon.mode = some .test) := by decide
theorem test_meets_JtagMemoryAccessAndDebug :
    let s := up .field
    let o := { up .field with nv := { lcOwn := true } }
    o.lineBusy 511 524287 .jtag = false ∧ (o.stk.riser 511).waiting = [] ∧ o.nv.life ≠ .manufacture ∧ o.nv.life ≠ .service ∧ s.lineBusy 511 524287 .jtag = false ∧ s.refusals 511 524287 .jtag none true = [] ∧
      (s.stk.riser 511).waiting = [] ∧ (s.stk.riser 511).wc = [] ∧ (s.stk.region 511 (lineRegion 524287)).isSealed = false ∧ (up .test).aon.mode = some .test ∧ (up .test).nv.life = .manufacture := by decide +kernel
/-! ## Fabric and queues: what the statements assume can happen -/

/-- Hand 1 of plot 5 is LIVE in the running slot, four edges long; the slots 0 to 63 and the hand belong to seat 0. -/
def liveFab : Fabric :=
  { plots := [(5, { gated := false, live := some 1, word := 0x80800103 })]
    hands := [(41, { own := 0x80, state := .live })]
    slots := [(320, 0x80800103), (321, 0x80800103), (322, 0x80800103)]
    fplls := [(0, { group := 0, running := true, locked := true })] }
def live : State := { up .field with fab := liveFab }
/-- Edge 1 of plot p's slot has just passed, and its hard blocks' inputs captured these bits. -/
def seenAt (p : Nat) (s : State) (cap : Nat) : State := { s with fab := s.fab.setPlot p { s.fab.plot p with now := 1, captured := BitVec.ofNat 24576 cap } }
theorem seen_at {p h : Nat} {s : State} {cap : Nat}
    (k : (seenAt p s cap).liveHand p = some h ∧ (seenAt p s cap).fab.edgeOf p = 1 ∧ ((seenAt p s cap).fab.plot p).now = 1 ∧ 1 ≤ dwellOf ((seenAt p s cap).fab.plot p).word) :
    (seenAt p s cap).atEdge p 1 = some (seenAt p s cap, h) := by
  have a := State.atEdge_here k.1 (by omega) (by omega)
  rwa [k.2.1] at a
/-- The same with a call accepted. -/
def called (k e port : Nat) : State := { live with fab := liveFab.setPlot 5 { liveFab.plot 5 with call := some { slot := k, edge := e, port := port } } }
theorem test_meets_SlotBoundaryStartsNextSlot :
    live.plotClocked 5 = true ∧ live.fab.yoked 5 = false ∧ (live.fab.plot 5).engCalls = [] ∧ (live.fab.plot (pairOf 5)).engCalls = [] ∧ (live.fab.plot 5).call = none ∧ dwellOf (live.fab.plot 5).word = 4 ∧
      (called 2 2 5).plotClocked 5 = true ∧ ((called 2 2 5).fab.plot 5).call = some { slot := 2, edge := 2, port := 5 } ∧ 2 + 2 ≤ 4 ∧
      ((called 2 3 5).fab.plot 5).call = some { slot := 2, edge := 3, port := 5 } ∧ 4 < 3 + 2 := by decide +kernel
theorem test_meets_SlotBoundaryStartsNextSlot_live :
    (match exec (.slotBoundary 5) { live with fab := liveFab.setPlot 5 { liveFab.plot 5 with now := 4 } } with | .next t => (t.fab.plot 5).live | _ => none) = some 1 := by decide +kernel
/-- The call port asks for slot k. -/
def asks (k : Nat) : Nat := 2 ^ 4166 + k * 2 ^ 4160
theorem test_meets_HandCallOutcomes_ports :
    (seenAt 5 live (asks 2)).atEdge 5 1 = some (seenAt 5 live (asks 2), 1) ∧ (seenAt 5 live (asks 63)).atEdge 5 1 = some (seenAt 5 live (asks 63), 1) ∧ (seenAt 5 live 0).atEdge 5 1 = some (seenAt 5 live 0, 1) ∧
      (seenAt 5 (called 0 0 5) (asks 2)).atEdge 5 1 = some (seenAt 5 (called 0 0 5) (asks 2), 1) ∧ (seenAt 5 (called 0 1 261) (asks 2)).atEdge 5 1 = some (seenAt 5 (called 0 1 261) (asks 2), 1) :=
  ⟨seen_at (by decide +kernel), seen_at (by decide +kernel), seen_at (by decide +kernel), seen_at (by decide +kernel), seen_at (by decide +kernel)⟩
theorem test_meets_HandCallOutcomes_asked :
    let x := (seenAt 5 live (asks 2)).fab.plot 5
    let y := (seenAt 5 live (asks 63)).fab.plot 5
    (x.field 4166 1 = 1 ∧ x.field 4160 6 = 2) ∧ (y.field 4166 1 = 1 ∧ y.field 4160 6 = 63) ∧ ((seenAt 5 live 0).fab.plot 5).field 4166 1 = 0 := by decide +kernel
theorem test_meets_HandCallOutcomes_calls :
    let u := seenAt 5 live (asks 2)
    u.fab.seqPlot 5 = 5 ∧ (2 < u.fab.lenOf 5 ∧ slotOwner (u.fab.slot 5 2) ≠ none ∧ slotOwner (u.fab.slot 5 2) = u.fab.handOwner 5 1) ∧ slotOwner (u.fab.slot 5 63) = none ∧ (u.fab.plot 5).call = none ∧
      ((seenAt 5 (called 0 0 5) (asks 2)).fab.plot 5).call = some { slot := 0, edge := 0, port := 5 } ∧ ((seenAt 5 (called 0 1 261) (asks 2)).fab.plot 5).call = some { slot := 0, edge := 1, port := 261 } := by decide +kernel
/-- Hand 7 of plot 511 in a state, with one of its commands ordered, on a plot whose clock runs or not. -/
def commanded (st : HState) (cmd : Nat) (runs : Bool) : State :=
  { ordered .field [.hand 511 7 cmd] with fab := {
      plots := [(511, { gated := false })], hands := [(4095, { own := 0x80, state := st })], fplls := [(fpllOf 511, { group := 0, running := runs, locked := true })] } }
theorem test_meets_HandCommands :
    (commanded .sown 1 true).fab.seqPlot 511 = 511 ∧ (commanded .sown 1 true).plotEdges 511 = true ∧ ((commanded .sown 1 true).fab.plot 511).gated = false ∧ takeOrder (.hand 511 7 1) (commanded .sown 1 true).mc.orders = some [] ∧
      ((commanded .sown 1 true).fab.hand 511 7).state = .sown ∧ ((commanded .parked 1 true).fab.hand 511 7).state = .parked ∧ takeOrder (.hand 511 7 2) (commanded .live 2 true).mc.orders = some [] ∧
      ((commanded .live 2 true).fab.hand 511 7).state = .live ∧ takeOrder (.hand 511 7 3) (commanded .live 3 true).mc.orders = some [] ∧ (commanded .sown 1 false).plotEdges 511 = false := by decide +kernel
theorem test_meets_HandCommands_gated :
    let s := { ordered .field [.hand 5 1 3] with fab := (liveFab.setHand 5 1 { own := 0x80, state := .parked }).setPlot 5 { liveFab.plot 5 with live := none, gated := true } }
    s.plotEdges 5 = true ∧ (s.fab.plot 5).gated = true ∧ (s.fab.handCmd 5 1 3).namesLive 5 = true ∧ (s.fab.hand 5 1).state = .parked := by decide +kernel
/-- The live hand drives the V segment of bed 0, track 0. -/
def driving : State := { live with fab := { liveFab with cfg := [(46080 * 41 + 178, 0x100000000)] } }
theorem test_meets_ContentionFreezes :
    driving.liveHand 5 = some 1 ∧ driving.fab.drivesWire 5 1 2 0 0 0 = true ∧ driving.fab.edgeOf 5 < 1 ∧ 4 ≤ (driving.fab.plot 5).start + dwellOf (driving.fab.plot 5).word ∧
      (∀ g < 8, driving.fab.drivesWire 261 g 2 0 0 0 = false) := by decide +kernel
theorem test_meets_PatrolBondsAndWipes :
    let s := { up .field with fab := { plots := [(5, { bondsDue := [(11519, 2)] })] } }
    s.clocksOn = true ∧ (s.fab.plot 5).bondsDue.find? (fun b => b.1 = 11519) = some (11519, 2) := by decide
/-- A thread that waits for its timer, with the PLL of its engine stopped. -/
def timed : State := { up .field with aon := { powered := true, mode := some .field, now := 0 }, eng := { threads := [(7, { state := .waiting, waitRec := some { rd := 1, queue := 0, mask := 32 } })] } }
theorem test_meets_PllsLockStopAndStart :
    let s := { up .field with fab := { fplls := [(7, { group := 7, running := true })] }, eng := { eplls := [(3, { running := true })] }, lnk := { quads := [(127, { pllRunning := true })] } }
    s.clocksOn = true ∧ s.pllTurns = [] ∧ (s.fab.fpll 7).running = true ∧ (s.eng.epll 3).running = true ∧ (s.lnk.quad 127).pllRunning = true ∧
      (∀ p < 512, (s.fab.fpll (fpllOf p)).group = 7 → (s.fab.plot p).gated = true) ∧ (∀ p < 512, epllOf p = 3 → s.engineIdle p = true) ∧
      timed.clocksOn = true ∧ (timed.eng.thread 0 7).state = .waiting ∧ (timed.eng.thread 0 7).waitRec = some { rd := 1, queue := 0, mask := 32 } ∧ (32 : Nat).testBit 5 = true ∧
      (timed.eng.epll (epllOf 0)).running = false ∧ (timed.eng.thread 0 7).tcmp ≤ timed.aon.now + 20000 := by decide +kernel
/-- Block memory 63 of plot 5 belongs to the live hand's seat, with these setup bits. -/
def memoried (setup : Nat) : State := { live with fab := liveFab.setBm 5 63 { word := BitVec.ofNat 32 (0x80000000 + setup) } }
/-- What a port of block memory 63 captures: a write of 0x2A to element 9 under all byte enables, and a read of element 9. -/
def bmCap (portB write : Bool) : Nat := (if write then 3 + 255 * 2 ^ 2 + 0x2A * 2 ^ 25 else 1) * 2 ^ bmPort 63 portB + 9 * 2 ^ (bmPort 63 portB + 10)
theorem test_meets_BlockMemoryPorts_edges :
    (seenAt 5 (memoried 0x2D) (bmCap false true)).atEdge 5 1 = some (seenAt 5 (memoried 0x2D) (bmCap false true), 1) ∧ (seenAt 5 (memoried 0x36) (bmCap true false)).atEdge 5 1 = some (seenAt 5 (memoried 0x36) (bmCap true false), 1) :=
  ⟨seen_at (by decide +kernel), seen_at (by decide +kernel)⟩
theorem test_meets_BlockMemoryPorts :
    let w := seenAt 5 (memoried 0x2D) (bmCap false true)
    let r := seenAt 5 (memoried 0x36) (bmCap true false)
    bmOpen w 5 1 63 = true ∧ (w.fab.plot 5).bmWrites 63 false = some { addr := 9, data := 0x2A, be := 255 } ∧ (w.fab.plot 5).bmWrites 63 true = none ∧ portWrites (w.fab.bm 5 63) false = true ∧
      bmOpen r 5 1 63 = true ∧ (r.fab.plot 5).field (bmPort 63 true) 2 = 1 ∧ (r.fab.plot 5).field (bmPort 63 true + 10) 15 = 9 ∧ (r.fab.plot 5).bmWrites 63 false = none ∧ portReads (r.fab.bm 5 63) true = true ∧
      bmOregB (r.fab.bm 5 63).word = false ∧ portWrites (r.fab.bm 5 63) true = false := by decide +kernel
/-- Block 31 of the kitty of plot 5 belongs to the live hand's seat; the register of the last write at the edge. -/
def kitted (last : Option KittyWrite) : State := { live with fab := (liveFab.setKown 5 31 0x80).setPlot 5 { liveFab.plot 5 with kittyLast := last } }
/-- The kitty's ports capture a write of 7 to a register, its low byte enabled, and a read of the same register. -/
def kittyCap (r : Nat) : Nat := r * 2 ^ 4096 + r * 2 ^ 4107 + 7 * 2 ^ 4118 + 2 ^ 4150 + 2 ^ 4151
theorem test_meets_KittyPorts_edges :
    (seenAt 5 (kitted none) (kittyCap 2047)).atEdge 5 1 = some (seenAt 5 (kitted none) (kittyCap 2047), 1) ∧ (seenAt 5 (kitted none) (kittyCap 1983)).atEdge 5 1 = some (seenAt 5 (kitted none) (kittyCap 1983), 1) ∧
      (seenAt 5 (kitted (some { reg := 2047, old := 5, data := 7, be := 1 })) (kittyCap 2047)).atEdge 5 1 = some (seenAt 5 (kitted (some { reg := 2047, old := 5, data := 7, be := 1 })) (kittyCap 2047), 1) :=
  ⟨seen_at (by decide +kernel), seen_at (by decide +kernel), seen_at (by decide +kernel)⟩
theorem test_meets_KittyPorts :
    let u := seenAt 5 (kitted none) (kittyCap 2047)
    let n := seenAt 5 (kitted none) (kittyCap 1983)
    (u.fab.plot 5).writesKitty 2047 7 1 = true ∧ kittyAllowed u 5 1 2047 = true ∧ (n.fab.plot 5).writesKitty 1983 7 1 = true ∧ kittyAllowed n 5 1 1983 = false ∧ (u.fab.plot 5).field 4096 11 = 2047 ∧ (n.fab.plot 5).field 4096 11 = 1983 ∧
      (u.fab.plot 5).kittyLast = none ∧ ((seenAt 5 (kitted (some { reg := 2047, old := 5, data := 7, be := 1 })) (kittyCap 2047)).fab.plot 5).kittyLast = some { reg := 2047, old := 5, data := 7, be := 1 } := by decide +kernel
/-- The live hand produces into queue 7 through port 7, select 3. -/
def producing (pr : Prod) : State := withQueue live 7 { dir := dirOf 0 3 0 0 (epHand 5 1 7 3), bound := true, prods := [(0, pr)] }
/-- Port 7 captures a push of 9 with rank 7 to select 3, a last word, an abort. -/
def pushCap : Nat := (1 + 3 * 2 + 9 * 2 ^ 3 + 7 * 2 ^ 264) * 2 ^ 3584
def lastCap : Nat := pushCap + (31 * 2 ^ 259 + 2 ^ 267) * 2 ^ 3584
def abortCap : Nat := (3 * 2 + 2 ^ 268) * 2 ^ 3584
def threeOpen (credits : Int) : State := producing { credits := credits, openWords := [1, 2, 3] }
theorem test_meets_HandQueueProducers_edges :
    (seenAt 5 (threeOpen 1) pushCap).atEdge 5 1 = some (seenAt 5 (threeOpen 1) pushCap, 1) ∧ (seenAt 5 (threeOpen (-10)) pushCap).atEdge 5 1 = some (seenAt 5 (threeOpen (-10)) pushCap, 1) ∧
      (seenAt 5 (threeOpen 1) lastCap).atEdge 5 1 = some (seenAt 5 (threeOpen 1) lastCap, 1) ∧ (seenAt 5 (threeOpen 1) abortCap).atEdge 5 1 = some (seenAt 5 (threeOpen 1) abortCap, 1) :=
  ⟨seen_at (by decide +kernel), seen_at (by decide +kernel), seen_at (by decide +kernel), seen_at (by decide +kernel)⟩
theorem test_meets_HandQueueProducers :
    let s := seenAt 5 (threeOpen 1) pushCap
    s.fab.toScratch 5 1 7 3 = false ∧ s.net.prodQueue (epHand 5 1 7 3) = some (7, 0) ∧ (s.fab.plot 5).pushes 7 3 9 7 none = true ∧ ((s.net.queue 7).prod 0).discarding = false ∧
      ((s.net.queue 7).prod 0).openWords.length ≤ qdMaxlen (s.net.queue 7).dir ∧ 0 < ((s.net.queue 7).prod 0).credits ∧ ((seenAt 5 (threeOpen (-10)) pushCap).net.queue 7 |>.prod 0).credits ≤ 0 ∧
      ((seenAt 5 (threeOpen 1) lastCap).fab.plot 5).pushes 7 3 9 7 (some 31) = true ∧ ((seenAt 5 (threeOpen 1) abortCap).fab.plot 5).aborts 7 3 = true ∧ ((s.net.queue 7).prod 0).openWords ≠ [] := by decide +kernel
/-- A packet of one word. -/
def onePkt : Pkt := { prod := 0, rank := 0, words := [{ data := 9, side := 0x60 }] }
/-- The live hand consumes queue 7 through port 0, select 0. -/
def consuming (x : Queue) : State := withQueue live 7 { x with dir := dirOf 0 3 0 (epHand 5 1 0 0) 0, bound := true }
/-- Port 0 captures POP, DROP and WMCLR of select 0. -/
def takeCap : Nat := 7 * 2 ^ 271
theorem test_meets_HandQueueConsumers_edges :
    (seenAt 5 (consuming { visible := [onePkt] }) takeCap).atEdge 5 1 = some (seenAt 5 (consuming { visible := [onePkt] }) takeCap, 1) ∧
      (seenAt 5 (consuming { reading := some onePkt }) takeCap).atEdge 5 1 = some (seenAt 5 (consuming { reading := some onePkt }) takeCap, 1) :=
  ⟨seen_at (by decide +kernel), seen_at (by decide +kernel)⟩
theorem test_meets_HandQueueConsumers :
    let s := seenAt 5 (consuming { visible := [onePkt] }) takeCap
    let r := seenAt 5 (consuming { reading := some onePkt }) takeCap
    s.fab.toScratch 5 1 0 0 = false ∧ s.net.consQueue (epHand 5 1 0 0) = some 7 ∧ (s.net.queue 7).runs = true ∧ (s.fab.plot 5).pops 0 0 = true ∧ (s.net.queue 7).current = some onePkt ∧
      onePkt.words = [{ data := 9, side := 0x60 }] ∧ r.net.consQueue (epHand 5 1 0 0) = some 7 ∧ (r.fab.plot 5).drops 0 0 = true ∧ (r.net.queue 7).reading = some onePkt ∧ (s.fab.plot 5).clears 0 0 = true := by decide +kernel
/-- Queue 40,959 with something on its way of each kind, one word below its watermark. -/
def moving : State :=
  withQueue (up .field) 40959 { dir := dirOf 0 3 1 0 0, bound := true, flight := [.rewind 1 2, .commit onePkt, .rewind 0 1], returns := [(1, 4), (0, 1)], acts := [.pop 0 1] }
theorem test_meets_QueueNetworkEvents :
    let x := moving.net.queue 40959
    moving.storeOn 40959 = true ∧ x.runs = true ∧ ¬(40960 ≤ 40959) ∧ x.flight = [.rewind 1 2] ++ .commit onePkt :: [.rewind 0 1] ∧ (∀ e ∈ [Sent.rewind 1 2], e.from ≠ 0) ∧ x.flight = [] ++ .rewind 1 2 :: [.commit onePkt, .rewind 0 1] ∧
      qdWm x.dir = 1 ∧ x.level < 1 ∧ x.returns = [(1, 4)] ++ (0, 1) :: [] ∧ x.acts = [.pop 0 1] := by decide +kernel
theorem test_meets_BindingAndNarrowWords :
    let s := withQueue (up .field) 7 { dir := dirOf 0 3 0 0 0 }
    let n := packing (up .fallow) 0
    (s.clocksOn = true ∧ qdEnable (s.net.queue 7).dir = true ∧ (s.net.queue 7).bound = false ∧ qdPack (s.net.queue 7).dir = false ∧ s.net.feedDown = [] ∧ s.net.dieDown = [] ∧ (s.net.queue 7).flight = [] ∧
      (∀ i < 8, ((s.net.queue 7).prod i).openWords = [])) ∧
      n.mcUp = true ∧ (n.net.queue 40960).runs = true ∧ tget [] n.net.narrow 0 = [] ∧ ((n.net.queue 40960).prod 0).discarding = false ∧ 0 < ((n.net.queue 40960).prod 0).credits ∧
      ((n.net.queue 40960).prod 0).openWords.length ≤ qdMaxlen (n.net.queue 40960).dir := by decide +kernel
/-- A request on channel 7 of hand 7 of plot 511 to word 1,015,807, the last of block 991, which seat 0 owns. -/
def scratched (req : BitVec 256) (own : Byte) : State :=
  { withHand (up .field) 511 7 { own := 0x80, state := .live } with net := { handChan := [(handChanIx 511 7 7, { reqs := [{ word := req }] })], scr := { own := [(991, own)] } } }
/-- Request words: operation, FULL, LEN and ROT. -/
def reqWord (op full len rot : Nat) : BitVec 256 := BitVec.ofNat 256 (1015807 + op * 2 ^ 34 + full * 2 ^ 36 + len * 2 ^ 37 + rot * 2 ^ 40)
theorem test_meets_ScratchpadRequests_write :
    let s := scratched (reqWord 1 0 7 12) 0x80
    let c := s.net.handChanAt (handChanIx 511 7 7)
    s.clocksOn = true ∧ c.reqs = [{ word := reqWord 1 0 7 12 }] ∧ c.skip = 0 ∧ s.feedCut 511 = false ∧ s.olderOnPort (handChanIx 511 7 7) { word := reqWord 1 0 7 12 } = false ∧ srOp (reqWord 1 0 7 12) = 1 ∧
      s.net.scr.allows (s.fab.handOwner 511 7) (srWaddr (reqWord 1 0 7 12)) = true ∧ s.net.scr.held 1015807 = false ∧ s.net.scr.errAt 1015807 = 0 ∧ srFull (reqWord 1 0 7 12) = false ∧ srFull (reqWord 1 1 0 0) = true := by decide +kernel
theorem test_meets_ScratchpadRequests_read_and_refused :
    srOp (reqWord 0 1 0 0) = 0 ∧ (scratched (reqWord 0 1 0 0) 0x80).net.scr.allows ((scratched (reqWord 0 1 0 0) 0x80).fab.handOwner 511 7) 1015807 = true ∧
      (scratched (reqWord 1 1 0 0) 0x81).net.scr.allows ((scratched (reqWord 1 1 0 0) 0x81).fab.handOwner 511 7) 1015807 = false ∧ (up .field).mc.heldFill = [] := by decide +kernel
/-! ## Engines: what the statements assume can happen -/

/-- Thread 7 of plot 511 runs with a word at its PC; instruction block 0, data blocks 0 and 15 and region 31 belong to its seat 0. -/
def engagedWord (w : Word) (x : Thread) : State :=
  { up .field with
    fab := { hands := [(4095, { own := 0x80, state := .sown })] }
    stk := { regions := [(16383, { own := 0x80 })] }
    eng := {
      engines := [(511, { imbOwn := [(0, 0x80)], ldbOwn := [(0, 0x80), (15, 0x80)], gated := false })]
      threads := [(4095, { x with state := .running })]
      imem := ((leBytes 4 w.toNat).zipIdx.map fun b => (131072 * 511 + b.2, b.1)).filter fun c => c.2 != 0
      eplls := [(3, { running := true, locked := true })] } }
def engaged (i : EngInsn) (x : Thread) : State := engagedWord (encodeEng i) x
theorem test_meets_EngineThreeRegister :
    ∀ f ∈ [Alu3.add, .sub, .and, .or, .xor, .slt, .sltu, .sll, .srl, .sra, .mul, .mulh, .mulhu], (engaged (.alu f 31 0 31) {}).executes 511 7 (.alu f 31 0 31) := by
  unfold State.executes; decide +kernel
theorem test_meets_EngineImmediatesAndBits :
    ∀ i ∈ [EngInsn.imm .addi 31 0 0xFFFF, .imm .andi 31 0 0xFFFF, .imm .ori 31 0 0xFFFF, .imm .xori 31 0 0xFFFF, .lui 31 0xFFFF, .shift .slli 31 0 31, .shift .srli 31 0 31, .shift .srai 31 0 31, .shift .rori 31 0 31,
      .clz 31 0, .popc 31 0, .crc 3 31 0 31, .bf false 31 0 31 31, .bf true 31 0 31 31, .hash 30 31], (engaged i {}).executes 511 7 i := by
  unfold State.executes; decide +kernel
/-- ra holds 7, rb −1. -/
def twoRegs : Thread := { regs := [(1, 7), (2, 0xFFFFFFFF), (3, 4), (4, 7)] }
theorem test_meets_EngineControlFlow :
    (∀ i ∈ [EngInsn.j 0x2000000, .jal 0x1FFFFFF, .jr 3, .jr 1, .trap 0xFFFF, .branch .beq 1 4 0xFFFF, .branch .bne 1 4 0xFFFF, .branch .blt 2 1 0x8000, .branch .bge 2 1 0x8000], (engaged i twoRegs).executes 511 7 i) ∧
      (engaged (.jr 3) twoRegs).fab.handOwner 511 7 = some 0 ∧ (twoRegs.reg 3).toNat % 4 = 0 ∧ (twoRegs.reg 1).toNat % 4 ≠ 0 ∧ twoRegs.reg 1 = twoRegs.reg 4 ∧ twoRegs.reg 2 ≠ twoRegs.reg 1 ∧
      (twoRegs.reg 2).toInt < (twoRegs.reg 1).toInt ∧ (twoRegs.reg 2).toInt ≤ (twoRegs.reg 1).toInt := by
  unfold State.executes; decide +kernel
theorem test_meets_EngineControlFlow_reserved :
    let s := engagedWord 0xFFFFFFFF {}
    s.threadRuns 511 7 = true ∧ fetchTrap s 511 7 0 = none ∧ fetchWord s 511 0 = 0xFFFFFFFF ∧ decodeEng 0xFFFFFFFF = none ∧ s.fab.handOwner 511 7 = some 0 := by decide +kernel
/-- Registers that hold a data address, the control page's TCMP_NS and TIME_NS, and the riser's last word. -/
def addrRegs : Thread := { regs := [(1, 0xFFFC), (2, 0x10014), (3, 0x10008), (4, 0x1FFFFFC), (5, 0xFFE0)] }
/-- The riser's last line is cached in way 3 of its set. -/
def cachedLine (s : State) : State := { s with eng := s.eng.setEngine 511 { s.eng.engine 511 with cache := [(255, { line := 524287, dirty := false, data := 1 })] } }
theorem test_meets_EngineLoadsAndStores_local :
    let s := engaged (.imm .ldL 6 1 0) addrRegs
    (∀ i ∈ [EngInsn.imm .ldL 6 1 0, .imm .stL 6 1 0, .imm .stL 6 2 0, .imm .ldL 6 3 0], (engaged i addrRegs).executes 511 7 i) ∧ 0xFFFC % 4 = 0 ∧ 0xFFFC < 65536 ∧ ldbMine s 511 7 (0xFFFC / 4096) = true ∧ s.eng.dmErrAt 511 0xFFFC = 0 := by
  unfold State.executes; decide +kernel
theorem test_meets_EngineLoadsAndStores_riser :
    let s := engaged (.imm .ldM 6 4 0) addrRegs
    (∀ i ∈ [EngInsn.imm .ldM 6 4 0, .imm .stM 6 4 0], (engaged i addrRegs).executes 511 7 i ∧ (cachedLine (engaged i addrRegs)).executes 511 7 i) ∧ 0x1FFFFFC < 33554432 ∧ s.fab.handOwner 511 7 ≠ none ∧
      s.stk.regionOwner 511 (0x1FFFFFC / 1048576) = s.fab.handOwner 511 7 ∧ ((s.eng.engine 511).lookup (0x1FFFFFC / 64)) = none ∧ s.eng.imErrAt 511 0 = 0 ∧
      ((cachedLine s).eng.engine 511).lookup (0x1FFFFFC / 64) = some (255, { line := 524287, dirty := false, data := 1 }) := by
  unfold State.executes; decide +kernel
theorem test_meets_EngineLoadsAndStores_fill :
    let l := engaged (.imm .ldM 6 4 0) { addrRegs with miss := some { line := 524287, store := false } }
    let s := cachedLine (engaged (.imm .stM 6 4 0) { addrRegs with miss := some { line := 524287, store := true } })
    (fillFor l 511 7 524287 0).isSome = true ∧ ((fillFor s 511 7 524287 0).map fun r => (r.2, ((r.1.eng.engine 511).lookup 524287).isSome)) = some (0, true) ∧ (s.eng.thread 511 7).state = .running ∧
      decodeEng (fetchWord s 511 0) = some (.imm .stM 6 4 0) ∧ ((cachedLine l).eng.engine 511).lookup 524287 ≠ none := by decide +kernel
theorem test_meets_EngineLoadsAndStores_refused :
    let g := fun own => { engaged (.imm .stM 6 4 0) { addrRegs with miss := some { line := 524287, store := true, resp := some 6 } } with stk := { regions := [(16383, { own := own })] } }
    let s := g 0x81
    ((s.eng.engine 511).lookup 524287).isNone = true ∧ s.lineBusy 511 524287 (.engine 7) = false ∧ ((s.eng.engine 511).wayFor 0 (Config.freeNat s.aon.free) 524287).isSome = true ∧
      s.refusals 511 524287 (.engine 7) (s.fab.handOwner 511 7) false ≠ [] ∧ s.fab.handOwner 511 7 = some 0 ∧ s.stk.regionOwner 511 31 ≠ some 0 ∧ (g 0x80).stk.regionOwner 511 31 = some 0 ∧
      ((g 0x80).eng.thread 511 7).miss = some { line := 524287, store := true, resp := some 6 } := by decide +kernel
/-- Thread 7 of plot 511 is producer 0 of queue 65,000 in plot 7's store, or its consumer. -/
def queued (i : EngInsn) (x : Queue) (cons : Bool) : State :=
  withQueue (engaged i { addrRegs with regs := addrRegs.regs ++ [(7, 500), (8, 0xFFFF), (9, 0xFFE0)] }) 500
    { x with dir := if cons then dirOf 0 3 1 (epThread 511 7) 0 else dirOf 0 3 1 0 (epThread 511 7), bound := true }
theorem test_meets_EngineQueueInstructions_producer :
    let x : Queue := { prods := [(0, { credits := 1, openWords := [1, 2, 3] })] }
    (∀ i ∈ [EngInsn.qpush 6 7 5, .qcommit 7 5, .qabort 7, .qlevel 6 7 1, .qlevel 6 7 6, .qlevel 6 7 4], (queued i x false).executes 511 7 i ∧ threadProd (queued i x false) 511 7 500 = some 0) ∧
      (let s := queued (.qpush 6 7 5) x false
       0 < ((s.net.queue 500).prod 0).credits ∧ ((s.net.queue 500).prod 0).openWords.length ≤ qdMaxlen (s.net.queue 500).dir ∧ 0xFFE0 % 32 = 0 ∧ 0xFFE0 < 65536 ∧ ldbMine s 511 7 (0xFFE0 / 4096) = true ∧
        (readLocal s.eng 511 0xFFE0 8).2.2 = none) := by
  unfold State.executes; decide +kernel
theorem test_meets_EngineQueueInstructions_consumer :
    let x : Queue := { visible := [onePkt] }
    let y : Queue := { reading := some onePkt }
    (∀ i ∈ [EngInsn.qpop 6 7 5, .qpeek 6 7 5, .qlevel 6 7 0, .qlevel 6 7 2, .qlevel 6 7 3, .qlevel 6 7 5], (queued i x true).executes 511 7 i ∧ threadCons (queued i x true) 511 7 500 = true) ∧
      ((queued (.qpop 6 7 5) x true).net.queue 500).runs = true ∧ ((queued (.qpop 6 7 5) x true).net.queue 500).current = some onePkt ∧ ((queued (.qpop 6 7 5) {} true).net.queue 500).current = none ∧
      (queued (.qdrop 7) y true).executes 511 7 (.qdrop 7) ∧ ((queued (.qdrop 7) y true).net.queue 500).reading = some onePkt := by
  unfold State.executes; decide +kernel
theorem test_meets_EngineQueueInstructions_channel :
    let s := queued (.qpush 6 8 5) {} false
    s.executes 511 7 (.qpush 6 8 5) ∧ scratchOut s 511 7 < 16 ∧ (s.net.threadChanAt 4095).skip ≤ (s.net.threadChanAt 4095).reqs.length ∧ (readLocal s.eng 511 0xFFE0 8).2.2 = none := by
  unfold State.executes; decide +kernel
/-- Kitty block 31 and PMC_7 belong to seat 0, slot 63 too. -/
def equipped (i : EngInsn) (x : Thread) : State :=
  let s := engaged i { x with regs := [(1, 2047), (2, 63), (7, 500)] }
  { s with
    fab := { s.fab with kown := [(32 * 511 + 31, 0x80)], slots := [(64 * 511 + 63, 0x80800000)] }
    eng := s.eng.setEngine 511 { s.eng.engine 511 with pmcUser := [(0, true)], pmcOwn := [(7, 0x80)] } }
theorem test_meets_EngineKittyCallsAndWaits_kitty_call_count :
    (∀ i ∈ [EngInsn.imm .krd 6 1 0, .imm .kwr 6 1 0, .callh 2 0, .rdpmc 6 14, .rdpmc 6 15], (equipped i {}).executes 511 7 i) ∧
      (let s := equipped (.callh 2 0) {}
       2047 < 2048 ∧ kittyAllowed s 511 7 2047 = true ∧ 63 < s.fab.lenOf (s.fab.seqPlot 511) ∧ slotOwner (s.fab.slot 511 63) ≠ none ∧ slotOwner (s.fab.slot 511 63) = s.fab.handOwner 511 7 ∧
        (s.fab.plot 511).call = none ∧ tget false (s.eng.engine 511).pmcUser 0 = true ∧ (s.eng.engine 511).pmcSeat (14 / 2) = some 0) := by
  unfold State.executes; decide +kernel
theorem test_meets_EngineKittyCallsAndWaits_same_edge :
    let s := equipped (.imm .kwr 6 1 0) {}
    let t := { s with fab := s.fab.setPlot 511 { kittyLast := some { reg := 2047, old := 0, data := 9, be := 1 } } }
    t.executes 511 7 (.imm .kwr 6 1 0) ∧ kittyAllowed t 511 7 2047 = true ∧ (t.fab.plot 511).kittyLast = some { reg := 2047, old := 0, data := 9, be := 1 } := by
  unfold State.executes; decide +kernel
theorem test_meets_EngineKittyCallsAndWaits_wait :
    let w : EngInsn := .wait 6 7 0x10
    (equipped w { kevent := true }).executes 511 7 w ∧ waitRights (equipped w {}) 511 7 500 0x10 = true ∧ waitHolds (equipped w { kevent := true }) 511 7 ((equipped w { kevent := true }).eng.thread 511 7) 500 0x10 = 16 ∧
      waitHolds (equipped w {}) 511 7 ((equipped w {}).eng.thread 511 7) 500 0x10 = 0 := by
  unfold State.executes; decide +kernel
theorem test_meets_EngineKittyCallsAndWaits_wake :
    let s := { timed with aon := { powered := true, mode := some .field, now := 0 } }
    (s.eng.thread 0 7).state = .waiting ∧ s.clocksOn = true ∧ s.net.dieDown = [] ∧ waitHolds s 0 7 (s.eng.thread 0 7) 0 32 ≠ 0 := by decide +kernel
theorem test_meets_EngineKittyCallsAndWaits_fence :
    let s := equipped (.fence 7) {}
    let d := { s with eng := s.eng.setEngine 511 { s.eng.engine 511 with cache := [(255, { line := 524287, dirty := true, data := 1 })] } }
    let mine := fun g => (s.fab.handOwner 511 7).isSome && s.stk.regionOwner 511 g == s.fab.handOwner 511 7
    s.executes 511 7 (.fence 7) ∧ d.executes 511 7 (.fence 7) ∧ (7 : BitVec 3).getLsbD 1 = true ∧ (d.eng.engine 511).dirtyFor mine = true ∧ (s.eng.engine 511).dirtyFor mine = false ∧
      (s.eng.thread 511 7).fenceLost = none ∧ opsArrived s 511 7 = true := by
  unfold State.executes; decide +kernel
theorem test_meets_EngineKittyCallsAndWaits_fence_waits :
    let s := { equipped (.fence 1) {} with net := { threadChan := [(4095, { reqs := [{ word := 0 }] })] } }
    s.executes 511 7 (.fence 1) ∧ (1 : BitVec 3).getLsbD 1 = false ∧ (1 : BitVec 3).getLsbD 0 = true ∧ opsArrived s 511 7 = false := by
  unfold State.executes; decide +kernel
/-- A thread in a state, with a command ordered. -/
def threaded (st : TState) (cmd : Nat) : State := { ordered .limp [.thread 511 7 cmd 0x1FFFC] with eng := { threads := [(4095, { state := st })] } }
theorem test_meets_ThreadCommands :
    (threaded .stopped 1).clocksOn = true ∧ (threaded .stopped 1).mc.orders = .thread 511 7 1 0x1FFFC :: [] ∧ ((threaded .stopped 1).eng.thread 511 7).state = .stopped ∧
      ((threaded .trapped 3).eng.thread 511 7).state = .trapped ∧ (threaded .trapped 3).mc.orders = .thread 511 7 3 0x1FFFC :: [] ∧ ((threaded .waiting 2).eng.thread 511 7).state = .waiting ∧
      ¬(((threaded .running 1).eng.thread 511 7).state = .stopped ∨ ((threaded .running 1).eng.thread 511 7).state = .trapped) ∧ (up .fallow).clocksOn = false := by decide
theorem test_meets_EngineWordsRoundTrip : legalEng (.hash 30 31) = true ∧ decodeEng (encodeEng (.hash 30 31)) = some (.hash 30 31) := by decide +kernel
/-! ## Sowing: what the statements assume can happen -/

/-- Seat 7's image of one section of a type, for plot 0 and target 0. -/
def entryOf (typ bytes : Nat) (digest : BitVec 384) : SectEntry := { typ := typ, plot := 0, target := 0, length := 64 + bytes, digest := digest }
def imageOf (typ bytes : Nat) (digest : BitVec 384) : ImageHdr :=
  { magic := 0xC5ED, version := 1, final := true, flagsReserved := 0, seat := 7, nsect := 1, ivBase := 0, serial := 0, total := 160 + 64 + (64 + bytes + 16), reservedZero := true, table := [entryOf typ bytes digest], sigOk := true }
/-- Seat 7 has a credential and a secret, and this stream. -/
def streaming (x : Stream) : State := { up .field with seats := [(7, { credX := 1, sms := some 1, stream := some x })] }
/-- Its image is accepted and the section of that type is next; the seat owns hand 0, block memory 0 and engine blocks 0 of plot 0, and hand 0 of the neighbours. -/
def sectioned (typ bytes : Nat) (digest : BitVec 384) (st : HState) (sect : Option (Nat × Nat × Nat)) : State :=
  { streaming { src := .segWrite, hdr := some (imageOf typ bytes digest), sect := sect } with
    fab := { hands := [(0, { own := 0x87, state := st }), (8, { own := 0x87 }), (128, { own := 0x87 })], bms := [(0, { word := 0x8700002D })] }
    eng := { engines := [(0, { imbOwn := [(0, 0x87)], ldbOwn := [(0, 0x87)] })] } }
/-- The key and the IV of that section. -/
def sectIv : List Byte := leBytes 8 0 ++ beBytes 4 0
theorem sectioned_key (typ bytes : Nat) (digest : BitVec 384) (st : HState) (sect : Option (Nat × Nat × Nat)) :
    (sectioned typ bytes digest st sect).sectKey 7 = some (entryOf typ bytes digest, seedKey 1 7, sectIv) := rfl
/-- A section's plaintext from the first 16 bytes of its header and its content. -/
def sect (head content : List Byte) : List Byte := head ++ (beBytes 48 (Config.sha384 content).toNat ++ content)
/-- It is sealed for the entry that stands in the table. -/
def sealedSect (e : SectEntry) (l : List Byte) : List Byte := gcmSeal (seedKey 1 7) sectIv (sectEntryBytes e) l
/-- A section sealed under the seat's key arrives whole, and good when the table holds its digest. -/
theorem sect_arrives {s : State} {typ bytes : Nat} {digest : BitVec 384} {head content : List Byte} (h : s.sectKey 7 = some (entryOf typ bytes digest, seedKey 1 7, sectIv))
    (n : head.length = 16) (m : content.length = bytes) :
    s.sectionIn 7 (sealedSect (entryOf typ bytes digest) (sect head content)) =
      some { entry := entryOf typ bytes digest, plain := sect head content, good := Config.sha384 (sect head content) == digest } := by
  have c : (sect head content).drop 64 = content := by rw [sect, ← List.append_assoc]; exact List.drop_left' (by simp [beBytes_length, n])
  have d : ((sect head content).drop 16).take 48 = beBytes 48 (Config.sha384 content).toNat := by rw [sect, List.drop_left' n]; exact List.take_left' (beBytes_length 48 _)
  rw [sealedSect, State.sectionIn_gcmSeal h _ (by simp [sect, beBytes_length, n, m, entryOf]; omega), c, d]
  simp [entryOf]
theorem test_meets_SowingSections_header :
    let s := streaming { src := .segWrite }
    s.seedOpen = true ∧ (s.seat 7).stream = some { src := .segWrite } ∧ imageRefusal s 7 (imageOf 1 368640 0) = none ∧ 0 < (imageOf 1 368640 0).nsect ∧
      imageRefusal s 7 { imageOf 1 368640 0 with magic := 0 } = some whyHeader := by decide +kernel
/-- A boot record whose seed directory names one image, at 0x2000, and that image's header and table for seat 7. -/
def seedFlash : List Host.Cell :=
  let head : List Byte := leBytes 4 0xC5B00001 ++ leBytes 4 0x1000 ++ leBytes 4 0x900000 ++ leBytes 4 0 ++ leBytes 4 0x2000 ++ leBytes 4 (imageOf 1 368640 0).total ++ List.replicate 228 0
  let image : List Byte := leBytes 2 0xC5ED ++ [1, 1, 7, 0, 0, 0] ++ leBytes 4 1 ++ List.replicate 28 0 ++ leBytes 8 (imageOf 1 368640 0).total ++ List.replicate 16 0 ++ sectEntryBytes (entryOf 1 368640 0)
  let cells := fun (a : Nat) (l : List Byte) => (l.zipIdx.map fun x => (a + x.2, x.1)).filter fun c => c.2 != 0xFF
  cells 0 (head ++ leBytes 4 (crc32c head).toNat) ++ cells 0x2000 image
/-- Step 7 with that flash; seat 7 has a credential and a secret. -/
def flashing : State :=
  { up .sowing with aon := { powered := true, mode := some .sowing, step := 7 }, nv := { flash := seedFlash }, seats := [(7, { credX := 1, sms := some 1 })] }
set_option maxRecDepth 20000 in
theorem test_meets_SowingSections_flash :
    flashing.step7 = true ∧ (flashing.seat 7).stream = none ∧ flashing.nv.seedImages[flashing.aon.seedRead]? = some 0x2000 ∧ flashing.nv.imageAt 0x2000 true = imageOf 1 368640 0 ∧
      imageRefusal flashing 7 (imageOf 1 368640 0) = none ∧ (imageRefusal flashing 7 (flashing.nv.imageAt 0x2000 false)).isSome = true := by decide +kernel
theorem test_meets_SowingSections_flash_alone : ∀ j < 8, ∀ y, (flashing.seat j).stream = some y → y.src ≠ .flash := by
  have none_open : ∀ j < 8, (flashing.seat j).stream = none := by decide +kernel
  intro j hj y hy
  rw [none_open j hj] at hy
  cases hy
/-- The first 64 bytes of a hand section for hand 0 of plot 0. -/
def handHead : List Byte := [1, 0, 0, 0, 0, 0, 0, 0, 0, 0, 0, 0] ++ leBytes 4 46080
def handFirst : List Byte := handHead ++ List.replicate 48 0
theorem test_meets_SowingSections_hand_header :
    let s := sectioned 1 368640 0 .empty none
    let hdr := sectHeader 1 (gcmCrypt (seedKey 1 7) sectIv (gcmCrypt (seedKey 1 7) sectIv handFirst))
    s.expected 7 = some (entryOf 1 368640 0) ∧ (gcmCrypt (seedKey 1 7) sectIv handFirst).length = min 64 (entryOf 1 368640 0).length ∧ hdr = { typ := 1, plot := 0, target := 0, size := 46080, arg := 0, reservedZero := true } ∧
      sectFits (entryOf 1 368640 0) { typ := 1, plot := 0, target := 0, size := 46080, arg := 0, reservedZero := true } 368640 = true ∧ ownerOf (s.fab.hand 0 0).own = some 7 ∧ (s.fab.hand 0 0).state ≠ .sowing ∧
      (s.fab.hand 0 0).wiping = false ∧ s.plotFallowed 0 = false := by
  intro s hdr
  refine ⟨by decide +kernel, ?_, ?_, by decide +kernel, by decide +kernel, by decide +kernel, by decide +kernel, by decide +kernel⟩
  · rw [gcmCrypt_length]; decide
  · simp only [hdr, gcmCrypt_gcmCrypt]; decide
theorem test_meets_SowingSections_sowing :
    let s := sectioned 1 368640 0 .empty (some (0, 0, 0))
    let t := sectioned 1 368640 0 .sowing (some (0, 0, 0))
    s.clocksOn = true ∧ s.sower 0 0 = some 7 ∧ (s.fab.hand 0 0).state = .empty ∧ t.sower 0 0 = some 7 ∧ (t.fab.hand 0 0).state = .sowing := by decide +kernel
/-- The hand in SOWING, its section a store of zeros. -/
def sowing (digest : BitVec 384) : State := sectioned 1 368640 digest .sowing (some (0, 0, 0))
def zeros : List Byte := List.replicate (8 * 46080) 0
theorem words64_zeros (n : Nat) : words64 (List.replicate (8 * n) 0) = List.replicate n 0 := by
  induction n with
  | zero => rfl
  | succ n ih => rw [show 8 * (n + 1) = 8 * n + 8 from rfl, List.replicate_succ]; simp only [List.replicate_succ, words64, ih]; rfl
theorem nonzero_zeros (n : Nat) : nonzero (List.replicate n (0 : BitVec 64)) = [] := by
  simp only [nonzero, List.map_eq_nil_iff, List.filter_eq_nil_iff]
  intro a h
  simp [(List.mem_replicate.1 (List.fst_mem_of_mem_zipIdx h)).2]
theorem sown_fab (d : BitVec 384) : (sownState (sowing d) 7 0 0 []).fab = (sownState (sowing 0) 7 0 0 []).fab := by unfold sownState; rfl
/-- A rotation table at its reset value switches no bit. -/
theorem no_rotation {f : Fabric} (h : f.slots = []) (l : List Nat) (o : Nat) : f.seatRotPower l o = 0 := by
  have e : ∀ q p y, f.estWalk l q p y o = fun acc _ => acc := by
    intro q p y
    funext acc k
    have w : namedHand y slotReset = none := by cases y <;> decide
    simp [Fabric.estWalk, Fabric.estHand, Fabric.slot, h, tget, w]
  have b : ∀ q p y, f.periodBits l q p y o = 0 := by intro q p y; simp [Fabric.periodBits, e, List.foldl_fixed]
  have r : ∀ p, f.rotPower l o p = 0 := by
    intro p
    simp only [Fabric.rotPower, b]
    split
    · rfl
    · simp
      omega
  have z : f.rotPower l o = fun _ => 0 := funext r
  rw [Fabric.seatRotPower, z]
  exact List.sum_eq_zero fun x k => by obtain ⟨_, _, rfl⟩ := List.mem_map.1 k; rfl
theorem test_meets_SowingSections_sown :
    sowFail (sowing (Config.sha384 (sect handHead zeros))) (sownState (sowing (Config.sha384 (sect handHead zeros))) 7 0 0 (nonzero (words64 zeros))) 7 0 0 true = none := by
  rw [zeros, words64_zeros, nonzero_zeros]
  generalize Config.sha384 _ = d
  have c : (sownState (sowing d) 7 0 0 []).fab.storeOf 0 0 = [] := by rw [sown_fab]; decide +kernel
  have l : l48Fail [] 0 0 = none := by simp [l48Fail, l48Count, l48Drives, cfgBit, tget]
  have v : (sownState (sowing d) 7 0 0 []).fab.vFail 0 0 = none := by
    have y : (sownState (sowing d) 7 0 0 []).fab.yoked 0 = false := by rw [sown_fab]; decide +kernel
    simp [Fabric.vFail, Fabric.vForeign, y, Fabric.usesV, c, vUses, vDrives, readsV, bedUses, allZero, cfgBit, tget]
  have o : allSeats.any (overRotation (sowing d) (sownState (sowing d) 7 0 0 [])) = false := by
    have z : (sownState (sowing d) 7 0 0 []).fab.slots = [] := by rw [sown_fab]; decide +kernel
    simp [overRotation, no_rotation z]
  have u : ∀ k, usesBorder [] k = false := fun _ => rfl
  have n : borderFail (sownState (sowing d) 7 0 0 []).fab [] 7 0 0 = none := by simp only [borderFail, u]; rfl
  simp only [sowFail, c, l, v, o, n]
  rfl
theorem test_meets_SowingSections_arrives :
    let e := Config.sha384 (sect handHead zeros)
    (∃ x, (sowing e).sectionIn 7 (sealedSect (entryOf 1 368640 e) (sect handHead zeros)) = some x ∧ x.good = true ∧ x.content = zeros) ∧
      ∃ x, (sowing (~~~e)).sectionIn 7 (sealedSect (entryOf 1 368640 (~~~e)) (sect handHead zeros)) = some x ∧ x.good = false := by
  have n : handHead.length = 16 := by decide
  have m : zeros.length = 368640 := by rw [zeros, List.length_replicate]
  refine ⟨⟨_, sect_arrives (sectioned_key ..) n m, beq_self_eq_true _, ?_⟩, _, sect_arrives (sectioned_key ..) n m, ?_⟩
  · simp only [SectIn.content]; rw [sect, ← List.append_assoc]; exact List.drop_left' (by simp [beBytes_length, n])
  · generalize Config.sha384 (sect handHead zeros) = d
    rw [beq_eq_false_iff_ne]
    intro h
    have := congrArg (fun x : BitVec 384 => x.getLsbD 0) h
    simp at this
/-- The first 16 header bytes of a block-memory section with SETUP 0x2D, of an engine section and of a staging section of one item, all for target 0 of plot 0. -/
def bmHead : List Byte := [2, 0, 0, 0, 0, 0, 0x2D, 0, 0, 0, 0, 0] ++ leBytes 4 4608
def engHead (typ : Byte) (bytes : Nat) : List Byte := [typ, 0, 0, 0, 0, 0, 0, 0, 0, 0, 0, 0] ++ leBytes 4 bytes
def stageHead : List Byte := [5, 0, 1, 0, 0, 0, 0, 0, 0, 0, 0, 0] ++ leBytes 4 6
/-- A section of zeros, or of other content, that has arrived good. -/
def arrived (typ : Nat) (head content : List Byte) : SectIn :=
  { entry := entryOf typ content.length (Config.sha384 (sect head content)), plain := sect head content, good := Config.sha384 (sect head content) == Config.sha384 (sect head content) }
/-- The state in which it arrives. -/
def awaiting (typ : Nat) (head content : List Byte) : State := sectioned typ content.length (Config.sha384 (sect head content)) .empty none
theorem test_meets_SowingSections_contents (typ : Nat) (head content : List Byte) (n : head.length = 16) :
    ∃ bytes, (awaiting typ head content).sectionIn 7 bytes = some (arrived typ head content) ∧ (arrived typ head content).good = true :=
  ⟨_, sect_arrives (sectioned_key ..) n rfl, beq_self_eq_true _⟩
theorem test_meets_SowingSections_memories :
    let b := awaiting 2 bmHead (List.replicate 4608 0)
    let i := awaiting 3 (engHead 3 8192) (List.replicate 8192 0)
    let d := awaiting 4 (engHead 4 4096) (List.replicate 4096 0)
    b.expected 7 = some (arrived 2 bmHead (List.replicate 4608 0)).entry ∧ (arrived 2 bmHead (List.replicate 4608 0)).header = { typ := 2, plot := 0, target := 0, size := 4608, arg := 0x2D, reservedZero := true } ∧
      b.fab.bmOwner 0 0 = some 7 ∧ (∀ h < 8, b.fab.handOwner 0 h = some 7 → (b.fab.hand 0 h).state ≠ .live) ∧ b.plotFallowed 0 = false ∧ bmSetupOk 0x2D = true ∧
      (arrived 3 (engHead 3 8192) (List.replicate 8192 0)).header = { typ := 3, plot := 0, target := 0, size := 8192, arg := 0, reservedZero := true } ∧ ownerOf (tget 0 (i.eng.engine 0).imbOwn 0) = some 7 ∧
      (arrived 4 (engHead 4 4096) (List.replicate 4096 0)).header = { typ := 4, plot := 0, target := 0, size := 4096, arg := 0, reservedZero := true } ∧ ownerOf (tget 0 (d.eng.engine 0).ldbOwn 0) = some 7 ∧
      (∀ h < 8, i.fab.handOwner 0 h = some 7 → (i.eng.thread 0 h).state ≠ .running ∧ (i.eng.thread 0 h).state ≠ .waiting) :=
  ⟨rfl, by decide, by decide +kernel, by decide +kernel, by decide +kernel, by decide +kernel, by decide, by decide +kernel, by decide, by decide +kernel, by decide +kernel⟩
theorem test_meets_SowingSections_fits :
    sectFits (entryOf 2 4608 0) { typ := 2, plot := 0, target := 0, size := 4608, arg := 0x2D, reservedZero := true } 4608 = true ∧
      sectFits (entryOf 3 8192 0) { typ := 3, plot := 0, target := 0, size := 8192, arg := 0, reservedZero := true } 8192 = true ∧
      sectFits (entryOf 4 4096 0) { typ := 4, plot := 0, target := 0, size := 4096, arg := 0, reservedZero := true } 4096 = true := by decide
/-- One item: GO of hand 0 of plot 0. -/
def oneItem : List StageItem := [{ func := 0x03, index := 0x3000, sub := 0x18, data := [1] }]
def itemBytes : List Byte := [0x03, 0x00, 0x30, 0x18, 1, 1]
theorem test_meets_SowingSections_staging :
    let s := sectioned 5 6 (Config.sha384 (sect stageHead itemBytes)) .sown none
    (arrived 5 stageHead itemBytes).header = { typ := 5, plot := 1, target := 0, size := 6, arg := 1, reservedZero := true } ∧ sectionItems 257 itemBytes = some oneItem ∧ (stageEach 7 oneItem s).2.isNone = true ∧
      s.expected 7 = some (entryOf 5 6 (Config.sha384 (sect stageHead itemBytes))) := by
  refine ⟨by decide, by decide, by decide +kernel, rfl⟩
/-! ## Risers: what the statements assume can happen -/

/-- Region 31 of plot 511 under an owner word, hand 7 of the plot live with some requests, and the riser's record. -/
def risered (own : Byte) (g : Region) (x : Riser) (y : Hand) : State :=
  { up .field with
    fab := { plots := [(511, { gated := false, live := some 7, word := 0x80800703 })], hands := [(4095, { y with own := 0x80, state := .live })], fplls := [(fpllOf 511, { group := 0, running := true, locked := true })] }
    stk := { regions := [(16383, { g with own := own })], risers := [(511, x)] } }
def sixteen : Hand := { memRep := List.replicate 16 (0, 0, 0) }
def aRead : MemReq := { seat := some 0, we := false, line := 524287, be := 0, data := 0, tag := 9 }
/-- The memory port asks for a read or a write of the last line, all bytes enabled, and pops a reply. -/
def portCap (we : Bool) : Nat := 2 ^ 5120 + we.toNat * 2 ^ 5121 + 524287 * 2 ^ 5122 + (2 ^ 64 - 1) * 2 ^ 5141 + 9 * 2 ^ 5717 + 2 ^ 5725
theorem test_meets_RiserRequests_edges :
    let s := seenAt 511 (risered 0x80 {} {} {}) (portCap true)
    let o := seenAt 511 (risered 0x81 {} {} {}) (portCap false)
    let f := seenAt 511 (risered 0x80 {} {} sixteen) (portCap true)
    s.atEdge 511 1 = some (s, 7) ∧ o.atEdge 511 1 = some (o, 7) ∧ f.atEdge 511 1 = some (f, 7) := ⟨seen_at (by decide +kernel), seen_at (by decide +kernel), seen_at (by decide +kernel)⟩
theorem test_meets_RiserRequests_port :
    let s := seenAt 511 (risered 0x80 {} {} {}) (portCap true)
    let o := seenAt 511 (risered 0x81 {} {} {}) (portCap false)
    (s.fab.plot 511).asksLine true 524287 (BitVec.allOnes 64) 0 9 = true ∧ (s.fab.hand 511 7).outstanding < 16 ∧ s.refusals 511 524287 (.fabric 7) (s.fab.handOwner 511 7) true = [] ∧ (s.fab.plot 511).field 5725 1 = 1 ∧
      (o.fab.plot 511).asksLine false 524287 (BitVec.allOnes 64) 0 9 = true ∧ (o.fab.hand 511 7).memReq = [] ∧ (o.stk.region 511 31).wiping = false ∧ o.refusals 511 524287 (.fabric 7) (o.fab.handOwner 511 7) false ≠ [] ∧
      16 ≤ ((seenAt 511 (risered 0x80 {} {} sixteen) (portCap true)).fab.hand 511 7).outstanding := by decide +kernel
theorem test_meets_RiserRequests_read :
    let s := risered 0x80 {} {} { memReq := [aRead] }
    let g := s.stk.region 511 31
    s.lineBusy 511 524287 (.mc 0) = false ∧ (s.stk.riser 511).waiting = [] ∧ (s.stk.riser 511).wc = [] ∧ g.heldWrites = [] ∧ s.refusals 511 524287 (.mc 0) none false = [] ∧
      (readOut g 511 524287 (s.stk.line (lineId 511 524287)) true).err = none ∧ (s.fab.hand 511 7).memReq = [aRead] ∧ s.fab.nextFor 511 7 524287 = some aRead ∧ aRead.orphan = false ∧
      s.lineBusy 511 524287 (.fabric 7) = false ∧ s.refusals 511 524287 (.fabric 7) aRead.seat false = [] := by decide +kernel
/-- A sealed region whose owner has opened it to the MC, with key 0 of epoch 0. -/
def sealedRegion : Region := { isSealed := true, mcRight := 2, key0 := some 5, gen0 := 1, gen := 1, counter := 2146435071 }
theorem test_meets_RiserRequests_write :
    let s := risered 0x80 {} {} {}
    let e := risered 0x80 sealedRegion {} {}
    s.lineBusy 511 524287 (.mc 0) = false ∧ s.refusals 511 524287 (.mc 0) none true = [] ∧ (s.stk.region 511 31).isSealed = false ∧ e.lineBusy 511 524287 (.mc 0) = false ∧ e.refusals 511 524287 (.mc 0) none true = [] ∧
      (e.stk.region 511 31).rk ≠ 2 ∧ (e.stk.region 511 31).counter < rekeyThreshold ∧ (e.stk.region 511 31).key (e.stk.region 511 31).epoch = some 5 := by decide +kernel
/-- Way 3 of the last set holds the riser's last line, changed. -/
def dirtied (own : Byte) : State :=
  { risered own {} {} {} with eng := { engines := [(511, { gated := false, cache := [(255, { line := 524287, dirty := true, data := 1 })] })] } }
theorem test_meets_RiserRequests_writeback :
    let c : CLine := { line := 524287, dirty := true, data := 1 }
    let s := dirtied 0x80
    let l := { dirtied 0x80 with nv := { map := { risers := [(511, { rstate := 3 })] } } }
    (s.eng.engine 511).cache.lookup 255 = some c ∧ (s.eng.engine 511).lookup 524287 = some (255, c) ∧ s.lineBusy 511 524287 (.engine 0) = false ∧ (s.stk.region 511 31).heldWrites = [] ∧ s.refusals 511 524287 (.engine 0) (s.stk.regionOwner 511 31) true = [] ∧
      (l.eng.engine 511).lookup 524287 = some (255, c) ∧ l.lineBusy 511 524287 (.engine 0) = false ∧ firstResp (l.refusals 511 524287 (.engine 0) (l.stk.regionOwner 511 31) true) ≠ respPathReset ∧
      l.refusals 511 524287 (.engine 0) (l.stk.regionOwner 511 31) true ≠ [] := by decide +kernel
theorem test_meets_RiserRequests_combining :
    let s := risered 0x80 {} { wc := [{ line := 524287, be := 1, data := 0xAA, waiters := [.mc 0] }] } {}
    s.engineOn 511 = true ∧ (s.stk.region 511 31).isSealed = false ∧ s.refusals 511 524287 (.mc 0) none true = [] ∧ (s.stk.riser 511).wc = [{ line := 524287, be := 1, data := 0xAA, waiters := [.mc 0] }] ∧
      (1 : BitVec 64) ≠ BitVec.allOnes 64 ∧ (1 : BitVec 64) ≠ 0 ∧ (readOut (s.stk.region 511 31) 511 524287 (s.stk.line (lineId 511 524287)) true).resp = 0 ∧ (readOut (s.stk.region 511 31) 511 524287 (s.stk.line (lineId 511 524287)) true).err = none := by decide +kernel
theorem test_meets_RiserRequests_lanes :
    let s := risered 0x80 {} { cmdFails := [.patrol], checkDue := [91] } {}
    s.engineOn 511 = true ∧ (s.nv.map.riser 511).rstate ≠ 3 ∧ (s.stk.riser 511).cmdFails.contains .patrol = true ∧ (s.stk.riser 511).cmdFails.contains .copy = false ∧ (s.stk.riser 511).cmdWait.contains .patrol = false ∧
      (s.stk.riser 511).waiting = [] ∧ (s.stk.riser 511).checkDue.contains 91 = true ∧ (s.nv.map.riser 511).rstate = 0 ∧ (s.nv.map.riser 511).failed = [] ∧
      (s.nv.map.riser 511).laneMap = none :: [none, none, none, none, none] ∧ s.clocksOn = true := by decide +kernel
theorem test_meets_RiserUpkeep_patrol :
    let s := risered 0x80 {} { patrol := 524287 } {}
    s.engineOn 511 = true ∧ (s.nv.map.riser 511).rstate ≠ 3 ∧ 524287 < 524288 ∧ s.riserCut 511 (s.physDie 511 524287) = false ∧ (s.stk.region 511 (524287 / 16384)).wiping = false ∧ (s.stk.riser 511).copy = none ∧ (s.stk.riser 511).cmdWait.contains .patrol = false ∧ (s.stk.riser 511).waiting = [] ∧
      s.tileTested 511 524287 = false ∧ s.retired 511 (524287 / 64) = false ∧ s.stackOn = true := by decide +kernel
/-- A line that a patrol cannot correct: three symbols of the fill are wrong. -/
def spoiled : State :=
  let s := risered 0x80 {} { patrol := 524287 } {}
  { s with stk := s.stk.setLine (lineId 511 524287) (lineFill (lineId 511 524287) ^^^ 0x10101) }
theorem test_meets_RiserUpkeep_patrol_error :
    (readOut (spoiled.stk.region 511 31) 511 524287 (spoiled.stk.line (lineId 511 524287)) false).err = some { kind := 1 } := by decide +kernel
/-- The upper tile of plot 511's riser is being copied, its last line next; the line has a wrong symbol. -/
def copying (k : Nat) (d : Bool) : State :=
  let s := risered 0x80 {} { copy := some (2, k, d) } {}
  { s with stk := s.stk.setLine (lineId 511 (262144 + 262143)) (lineFill (lineId 511 524287) ^^^ 1) }
theorem test_meets_RiserUpkeep_copy :
    let s := copying 262143 false
    (s.stk.riser 511).copy = some (2, 262143, false) ∧ s.engineOn 511 = true ∧ s.riserCut 511 4 = false ∧ (s.stk.riser 511).cmdWait.contains .copy = false ∧ rsDecode (bytesOf (s.stk.line (lineId 511 524287)).toNat 80) = .fixed [(0, 1)] ∧
      rsDecode (bytesOf ((copying 0 false).stk.line (lineId 511 262144)).toNat 80) = .clean ∧
      rsDecode (bytesOf (lineFill (lineId 511 524287) ^^^ 0x10101).toNat 80) = .fails ∧ ((copying 262144 false).stk.riser 511).copy = some (2, 262144, false) := by decide +kernel
/-- Every riser of die M1 has copied its upper tile. -/
def dieCopied : State :=
  { up .field with stk := { dieMapping := some 1, risers := (List.range 256).map fun j => (j, { copy := some (2, 262144, true) }) } }
theorem test_meets_RiserUpkeep_die :
    dieCopied.stk.dieMapping = some 1 ∧ ∀ j < 256, (dieCopied.stk.riser j).copy = some (2, 262144, true) ∧ (dieCopied.nv.map.riser j).rstate ≠ 3 := by decide +kernel
/-! ## Seal keys, links and bulk channels: what the statements assume can happen -/

/-- Seat 7 writes its own memory secret. -/
def secretFrame : Req := tagged (opened (up .field) 7 {}) 0x02 (frame 7 0x2600 8 (List.replicate 32 0xFF))
theorem test_meets_SealKeysAndRekey_secret :
    let s := opened (up .field) 7 {}
    admitted s secretFrame 0x02 (met s secretFrame) ∧ fresh s secretFrame ∧ s.mc.window = false ∧ objErrs (met s secretFrame) 7 0x2600 8 1 (Req.payload secretFrame) (Req.long secretFrame) = [] := by
  refine ⟨tagged_admitted 0x02 ?_ ?_ ?_ ?_ ?_, ?_, ?_, ?_⟩ <;> first | decide +kernel | (unfold fresh; decide +kernel)
/-- Region 31 of plot 511 is seat 0's and sealed; the seat's root secret is there. -/
def sealed (g : Region) (x : Riser) : State :=
  withSeat { risered 0x80 { g with isSealed := true } x {} with mc := { orders := [.step 1, .rekey 511 31] } } 0 { smr := some 9 }
theorem test_meets_SealKeysAndRekey_load :
    let s := sealed { key0 := some 5 } {}
    s.clocksOn = true ∧ s.ownerSmr 511 31 = some 9 ∧ (s.stk.region 511 31).isSealed = true ∧ ((s.stk.region 511 31).key (s.stk.region 511 31).epoch).isSome = true ∧
      (s.stk.region 511 31).key (!(s.stk.region 511 31).epoch) = none ∧ (s.stk.region 511 31).rk ≠ 2 := by decide +kernel
theorem test_meets_SealKeysAndRekey_order :
    let o := { risered 0x80 {} {} {} with mc := { orders := [.rekey 511 31] } }
    takeOrder (.rekey 511 31) (sealed {} {}).mc.orders = some [.step 1] ∧ takeOrder (.rekey 511 31) o.mc.orders = some [] ∧ (o.stk.region 511 31).isSealed = false ∧ ((sealed {} {}).stk.region 511 31).isSealed = true ∧
      ((sealed {} {}).stk.region 511 31).rk = 0 ∧ ((sealed { rk := 1 } {}).stk.region 511 31).rk ≠ 0 ∧ takeOrder (.rekey 511 31) (sealed { rk := 1 } {}).mc.orders = some [.step 1] := by decide +kernel
theorem test_meets_SealKeysAndRekey_flip :
    let s := sealed { rk := 1, key0 := some 5, key1 := some 6, counter := 2147483648 } {}
    let g := s.stk.region 511 31
    g.rk = 1 ∧ (∀ q < 32, q ≠ 31 → (s.stk.region 511 q).rk = 0) ∧ (s.stk.riser 511).waiting = [] ∧ (g.key (!g.epoch)).isSome = true ∧ g.wiping = false ∧ g.heldWrites = [] ∧ s.riserRuns 511 (16384 * 31) = true := by decide +kernel
theorem test_meets_SealKeysAndRekey_pass :
    let s := sealed { rk := 2, key0 := some 5, key1 := some 6, epoch := true, progress := 16383, marks := [524287] } {}
    let e := sealed { rk := 2, key0 := some 5, key1 := some 6, epoch := true, progress := 16384, noted := true } {}
    (s.stk.region 511 31).rk = 2 ∧ (s.stk.region 511 31).progress < 16384 ∧ s.clocksOn = true ∧ s.riserRuns 511 524287 = true ∧ (s.stk.riser 511).wc = [] ∧ (s.stk.riser 511).cmdWait.contains .copy = false ∧ (s.stk.region 511 31).marks.contains 524287 = true ∧
      (e.stk.region 511 31).rk = 2 ∧ (e.stk.region 511 31).progress = 16384 ∧ e.clocksOn = true ∧ e.engineOn 511 = true := by decide +kernel
theorem test_meets_SealKeysAndRekey_hold :
    let s := sealed { counter := 2147483648, heldWrites := [{ line := 524287, be := 1, data := 0, waiters := [.mc 7] }] } {}
    (s.stk.region 511 31).heldWrites = [{ line := 524287, be := 1, data := 0, waiters := [.mc 7] }] ∧ (s.stk.riser 511).waiting = [] ∧ s.engineOn 511 = true := by decide +kernel
/-- Port 71, in the last quad, in some state. -/
def ported (x : Port) : State := { up .field with lnk := { ports := [(71, x)], quads := [(17, { family := 1, pllRunning := true, pllLocked := true })] } }
/-- The port receives into queue 40,959 as its producer 0; `open'` words stand open. -/
def receiving (x : Port) (credits : Nat) (open' : List (BitVec 256)) : State :=
  withQueue (ported x) 40959 { dir := dirOf 0 3 0 0 (epPortRx 71), bound := true, prods := [(0, { credits := credits, openWords := open' })] }
def inFlight : RxPkt := { queue := 40959, rank := 2, prod := 0, bytes := List.replicate 64 0x11 }
theorem test_meets_LinkStatesAndSealFrames_moves :
    let s := receiving { link := .up, rx := some inFlight } 1 [1, 2]
    (ported { link := .waking }).clocksOn = true ∧ ((ported { link := .waking }).lnk.port 71).link = .waking ∧ ((ported {}).lnk.quad (71 / 4)).pllLocked = true ∧ ((ported { link := .acquiring }).lnk.port 71).link = .acquiring ∧
      ((ported { link := .up }).lnk.port 71).link = .up ∧ ((ported { link := .up }).lnk.port 71).rx = none ∧ ((ported { link := .lost }).lnk.port 71).link = .lost ∧ (ported { link := .lost }).linkSupplyOut = false ∧
      (s.lnk.port 71).link = .up ∧ (s.lnk.port 71).rx = some inFlight ∧ inFlight.dead = false ∧ ((s.net.queue 40959).prod 0).openWords ≠ [] := by decide +kernel
/-- A sealed port with keys set, after key 256 and counter 9, with a frame and a packet. -/
def sealing (f : Option (List Byte)) (rx : Option RxPkt) : Port :=
  { link := .up, sealOn := true, lk0 := some 1, txsalt := some 2, rxsalt := some 3, rxKey := 5, rxKeyN := 256, rxLast := some 9, kchgDue := true, frame := f, rx := rx }
/-- The header of a frame with counter 10. -/
def frameHdr (ftype keyid : Byte) (n : Nat) : List Byte := ([ftype, keyid] ++ beBytes 2 n ++ List.replicate 4 0) ++ beBytes 8 10
def frameIv : List Byte := beBytes 4 3 ++ beBytes 8 10
/-- A frame sealed under a key, and the same with every bit of its tag wrong. -/
def rxFrame (ftype keyid : Byte) (key : BitVec 256) (l : List Byte) : List Byte := frameHdr ftype keyid l.length ++ gcmSeal key frameIv (frameHdr ftype keyid l.length) l
def badFrame (ftype keyid : Byte) (key : BitVec 256) (l : List Byte) : List Byte :=
  frameHdr ftype keyid l.length ++ (gcmCrypt key frameIv l ++ (gcmTag key frameIv (frameHdr ftype keyid l.length) (gcmCrypt key frameIv l)).map (~~~·))
theorem frameHdr_length (a b : Byte) (n : Nat) : (frameHdr a b n).length = 16 := by simp [frameHdr, beBytes_length]
theorem framed (a b : Byte) (n : Nat) (t : List Byte) :
    (frameHdr a b n ++ t).take 16 = frameHdr a b n ∧ (frameHdr a b n ++ t).drop 16 = t ∧ ((frameHdr a b n ++ t).drop 8).take 8 = beBytes 8 10 ∧ (frameHdr a b n ++ t).length = 16 + t.length := by
  refine ⟨List.take_left' (frameHdr_length a b n), List.drop_left' (frameHdr_length a b n), ?_, by rw [List.length_append, frameHdr_length]⟩
  rw [frameHdr, List.append_assoc, List.drop_left' (by simp [beBytes_length])]
  exact List.take_left' (beBytes_length 8 10)
theorem rxFrame_good (a b : Byte) (key : BitVec 256) (l : List Byte) (f : Option (List Byte)) (rx : Option RxPkt) :
    gcmGood key ((sealing f rx).rxIv (rxFrame a b key l)) ((rxFrame a b key l).take 16) ((rxFrame a b key l).drop 16) = true := by
  have k := framed a b l.length (gcmSeal key frameIv (frameHdr a b l.length) l)
  rw [rxFrame, k.1, k.2.1, show (sealing f rx).rxIv (frameHdr a b l.length ++ gcmSeal key frameIv (frameHdr a b l.length) l) = frameIv by rw [Port.rxIv, k.2.2.1]; rfl]
  exact gcmGood_gcmSeal ..
theorem badFrame_bad (a b : Byte) (key : BitVec 256) (l : List Byte) (f : Option (List Byte)) (rx : Option RxPkt) :
    gcmGood key ((sealing f rx).rxIv (badFrame a b key l)) ((badFrame a b key l).take 16) ((badFrame a b key l).drop 16) = false := by
  let c := gcmCrypt key frameIv l
  let g := gcmTag key frameIv (frameHdr a b l.length) c
  have k := framed a b l.length (c ++ g.map (~~~·))
  have n : (c ++ g.map (~~~·)).length - 16 = c.length := by simp [g, gcmTag_length]
  rw [badFrame, k.1, k.2.1, show (sealing f rx).rxIv (frameHdr a b l.length ++ (c ++ g.map (~~~·))) = frameIv by rw [Port.rxIv, k.2.2.1]; rfl, gcmGood, n, List.drop_left, List.take_left, beq_eq_false_iff_ne]
  intro e
  have e : g.map (~~~·) = g := e
  cases h : g with
  | nil => have := gcmTag_length key frameIv (frameHdr a b l.length) c; simp [g] at h; rw [h] at this; simp at this
  | cons x t =>
    rw [h, List.map_cons, List.cons.injEq] at e
    have := congrArg (fun x : Byte => x.getLsbD 0) e.1
    simp at this
/-- What the port decrypts is what was sealed. -/
theorem rxFrame_open (b : Byte) (key : BitVec 256) (l : List Byte) (f : Option (List Byte)) (rx : Option RxPkt) (n : beField (rxFrame 1 b key l) 2 2 = l.length)
    (i : (sealing f rx).keyFor (rxFrame 1 b key l) = some key) : (sealing f rx).openFrame (rxFrame 1 b key l) = l := by
  have k := framed 1 b l.length (gcmSeal key frameIv (frameHdr 1 b l.length) l)
  rw [Port.openFrame, i, frameLen, n, Option.getD_some]
  rw [rxFrame, k.2.1, gcmSeal_take, show (sealing f rx).rxIv (frameHdr 1 b l.length ++ gcmSeal key frameIv (frameHdr 1 b l.length) l) = frameIv by rw [Port.rxIv, k.2.2.1]; rfl]
  exact gcmCrypt_gcmCrypt ..
/-- A header field of a frame does not depend on what follows the header. -/
theorem framed_field (a b : Byte) (n : Nat) (t : List Byte) : sealHeaderOk (frameHdr a b n ++ t) = sealHeaderOk (frameHdr a b n) ∧ frameLen (frameHdr a b n ++ t) = frameLen (frameHdr a b n) ∧
    beField (frameHdr a b n ++ t) 8 8 = beField (frameHdr a b n) 8 8 ∧ byteAt (frameHdr a b n ++ t) 0 = a ∧ byteAt (frameHdr a b n ++ t) 1 = b := by
  have f : ∀ i m, i + m ≤ 16 → beField (frameHdr a b n ++ t) i m = beField (frameHdr a b n) i m := by
    intro i m h
    have l := frameHdr_length a b n
    rw [beField, beField, List.drop_append_of_le_length (by omega), List.take_append_of_le_length (by simp; omega)]
  refine ⟨?_, f 2 2 (by omega), f 8 8 (by omega), rfl, rfl⟩
  have x : byteAt (frameHdr a b n ++ t) 0 = byteAt (frameHdr a b n) 0 := rfl
  simp only [sealHeaderOk, frameLen, f 4 4 (by omega), f 2 2 (by omega), x, List.length_append, frameHdr_length]
  simp
  rfl
/-- 33 bytes, of which a word has been pushed. -/
def thirtyThree : List Byte := List.replicate 33 0x11
def begun : RxPkt := { queue := 40959, rank := 2, prod := 0, bytes := thirtyThree }
theorem test_meets_LinkStatesAndSealFrames_frames :
    let s := { ported (sealing (some (rxFrame 1 0 5 thirtyThree)) none) with mc := { orders := [.keyChange 71] } }
    let x := s.lnk.port 71
    (ported {}).lnk.port 71 = {} ∧ s.clocksOn = true ∧ x.sealOn = true ∧ s.lnk.keyset 71 = true ∧ x.rxKeyN % 256 = 0 ∧ (x.rxKeyN + 1) % 256 = 1 ∧ x.rx = none ∧ x.rxKey = 5 ∧ takeOrder (.keyChange 71) s.mc.orders = some [] ∧
      (∀ n ∈ [1, 33, 16384], sealHeaderOk (frameHdr 1 0 n) = true ∧ frameLen (frameHdr 1 0 n) = n) ∧ sealHeaderOk (frameHdr 2 0 0) = true ∧ sealHeaderOk (frameHdr 1 1 33) = true ∧ frameLen (frameHdr 2 0 0) = 0 ∧
      frameLen (frameHdr 1 1 33) = 33 ∧ beField (frameHdr 1 0 33) 8 8 = 10 ∧ x.rxLast = some 9 := by
  refine ⟨by decide, by decide, by decide, by decide, by decide, by decide, rfl, rfl, by decide, by decide, by decide, by decide, by decide, by decide, by decide, rfl⟩
theorem test_meets_LinkStatesAndSealFrames_lengths : (rxFrame 1 0 5 thirtyThree).length = 32 + 33 ∧ (rxFrame 1 1 (nextKey 5 256) thirtyThree).length = 32 + 33 ∧ (rxFrame 2 0 5 []).length = 32 ∧ (badFrame 1 0 5 thirtyThree).length = 32 + 33 := by
  simp [rxFrame, badFrame, frameHdr_length, gcmSeal_length, gcmCrypt_length, gcmTag_length, thirtyThree]
theorem test_meets_LinkStatesAndSealFrames_packet :
    let x := sealing (some (rxFrame 1 0 5 thirtyThree)) (some begun)
    let s := receiving x 2 [0]
    let p := pushWords (s.net.queue 40959) 0 2 ((queueWords (x.openFrame (rxFrame 1 0 5 thirtyThree))).drop (begun.bytes.length / 32))
    (s.lnk.port 71).rx = some begun ∧ begun.dead = false ∧ p.2 = true ∧ (p.1.prod 0).openWords ≠ [] ∧ ((s.net.queue 40959).prod 0).openWords ≠ [] := by
  intro x s p
  have o : x.openFrame (rxFrame 1 0 5 thirtyThree) = thirtyThree := rxFrame_open 0 5 thirtyThree _ _ (by decide) rfl
  have e : p = pushWords (s.net.queue 40959) 0 2 ((queueWords thirtyThree).drop (begun.bytes.length / 32)) := by rw [← o]
  rw [e]
  exact ⟨rfl, rfl, by decide +kernel, by decide +kernel, by decide +kernel⟩
/-- Byte 0 is the key; key 0x11 names queue 40,959. -/
def steered : Port := { link := .up, keyx := 1 }
def steering (credits : Nat) : State := let s := receiving steered credits []; { s with lnk := { s.lnk with steer := [{ port := 71, key := 0x11, owner := 0, needSeal := false, rank := 2, queue := 40959, slot := 0 }] } }
theorem test_meets_PacketsAndBulk_lookup :
    let s := steering 1
    let bytes : List Byte := [0x11]
    s.clocksOn = true ∧ (s.lnk.port 71).link = .up ∧ (s.lnk.port 71).streamOn = false ∧ (s.lnk.port 71).rx = none ∧ s.sowingDrop 71 0xFFFF = false ∧ s.lnk.lookup 71 (steerKey 1 [0x12]) = none ∧ (s.lnk.port 71).defq = 0xFFFF ∧
      s.lnk.lookup 71 (steerKey 1 bytes) = some { port := 71, key := 0x11, owner := 0, needSeal := false, rank := 2, queue := 40959, slot := 0 } ∧ s.sowingDrop 71 40959 = false ∧ qdEnable (s.net.queue 40959).dir = true ∧
      (s.net.queue 40959).prodOf (epPortRx 71) = some 0 ∧ (s.lnk.port 71).tsrx = false ∧ (s.lnk.port 71).frame = none ∧ (s.lnk.port 71).hears bytes = true ∧ bytes.length ≤ (s.lnk.port 71).leadLen + 64 ∧
      (pushWords (s.net.queue 40959) 0 2 ((queueWords bytes).take (bytes.length / 32))).2 = true := by decide +kernel
theorem test_meets_PacketsAndBulk_receive :
    let s := receiving { link := .up, rx := some inFlight } 2 [0, 0]
    let e : RxEnd := { rest := [1, 2, 3], badLength := false, codeViolation := false, fecCorrected := 0, fecUncorrectable := 0, lockLost := false }
    let t := let s := receiving { link := .up, setup := 0x004C0000, defq := 40959 } 8 []; withQueue s 40959 { s.net.queue 40959 with dir := dirOf 0 7 0 0 (epPortRx 71) }
    (s.lnk.port 71).streamOn = false ∧ (s.lnk.port 71).sealOn = false ∧ (s.lnk.port 71).fcs = false ∧ (s.lnk.port 71).rx = some inFlight ∧ inFlight.dead = false ∧
      (pushWords (s.net.queue 40959) 0 2 ((queueWords (inFlight.bytes ++ e.rest)).drop (inFlight.bytes.length / 32))).2 = true ∧ (t.lnk.port 71).streamOn = true ∧ (t.lnk.port 71).tsrx = false ∧ (t.lnk.port 71).defq ≠ 0xFFFF ∧
      t.sowingDrop 71 40959 = false ∧ qdEnable (t.net.queue 40959).dir = true ∧ (t.net.queue 40959).prodOf (epPortRx 71) = some 0 ∧
      (pushWords (t.net.queue 40959) 0 0 (queueWords (List.replicate 256 0))).2 = true := by decide +kernel
/-- Egress queue 7 of port 71 holds a packet of 3 bytes. -/
def sendingQueue : Queue := { dir := dirOf 0 3 0 (epPortTx 71) 0, bound := true, visible := [{ prod := 0, rank := 2, words := [{ data := 0x030201, side := 3 }] }] }
theorem test_meets_PacketsAndBulk_send :
    let s := withQueue (ported { link := .up }) (egressQueue 71 7) sendingQueue
    let k := ported (sealing none none)
    let tx : TxPkt := { eq := 7, queue := egressQueue 71 7, bytes := [1, 2, 3], line := [1, 2, 3], stamp := 0 }
    let r := receiving { setup := 0x000C8000, defq := 40959, tx := some tx } 65 []
    (s.lnk.port 71).tx = none ∧ (s.lnk.port 71).sealOn = false ∧ (s.lnk.port 71).frame = none ∧ s.pickEgress 71 = some 7 ∧ ((s.net.queue (egressQueue 71 7)).takePkt).isSome = true ∧ (k.lnk.port 71).tx = none ∧
      (k.lnk.port 71).sealOn = true ∧ k.lnk.keyset 71 = true ∧ (k.lnk.port 71).kchgDue = true ∧ (k.lnk.port 71).frame = none ∧ ((ported { tx := some tx }).lnk.port 71).tx = some tx ∧
      ((ported { tx := some tx }).lnk.port 71).tstx.testBit 7 = false ∧ (r.lnk.port 71).tx = some tx ∧ (r.lnk.port 71).tstx.testBit 7 = true ∧ qdEnable (r.net.queue 40959).dir = true ∧
      (r.net.queue 40959).prodOf (epPortRx 71) = some 0 ∧ 64 < ((r.net.queue 40959).prod 0).credits := by decide +kernel
/-- A packet of 64 bytes and an FCS of zeros, which is not that of its bytes, on a port with FCS. -/
theorem test_meets_PacketsAndBulk_bad :
    let s := receiving { link := .up, setup := 0x002C0000, rx := some inFlight } 2 [0, 0]
    (s.lnk.port 71).fcs = true ∧ (s.lnk.port 71).streamOn = false ∧ [0, 0, 0, 0] ≠ leBytes 4 (crc32 inFlight.bytes).toNat ∧ ((s.net.queue 40959).prod 0).openWords ≠ [] := by decide +kernel
/-- Bulk channel 63 of seat 0, requests from queue 40,958, replies to queue 40,959. -/
def bulkState (req : List Byte) (own : Byte) (seqs : List Nat) : State :=
  let ws := queueWords req
  { risered own {} {} {} with
    lnk := { bdmas := [(63, { bind := 0x80, rq := 40958, tq := 40959, seqs := seqs })] }
    net := { queues := [(40958, { dir := dirOf 0 511 0 (epBdma 63) 0, bound := true, visible := [{ prod := 0, rank := 1, words := ws.map fun w => { data := w, side := 0 } }] }),
      (40959, { dir := dirOf 0 511 0 0 (epBdma 63), bound := true, prods := [(0, { credits := 576 })] })] } }
/-- A request's header: operation, sequence, space, plot, address, length, CRC-32C. -/
def bulkHdr (op seq space plot addr len crc : Nat) : List Byte :=
  leBytes 2 0xC5B1 ++ [BitVec.ofNat 8 op, 63] ++ leBytes 4 seq ++ [BitVec.ofNat 8 space, 0] ++ leBytes 2 plot ++ leBytes 4 addr ++ leBytes 2 len ++ [0, 0] ++ leBytes 4 crc ++ List.replicate 8 0
def sixtyFour : List Byte := List.replicate 64 0xA5
/-- A WRITE of the last line of plot 511. -/
def bulkWriteReq : List Byte := bulkHdr 1 0xFFFFFFFF 0 511 33554368 64 (crc32c sixtyFour).toNat ++ sixtyFour
theorem test_meets_PacketsAndBulk_write :
    let s := bulkState bulkWriteReq 0x80 []
    let again := bulkState bulkWriteReq 0x80 [0xFFFFFFFF]
    ∃ x, bulkFront s 63 = some x ∧ bulkFront again 63 = some x ∧ x.1 = 0 ∧ x.2.1.op = 1 ∧ x.2.1.fault 63 = none ∧ bulkHeld again 63 x.2.1 = false ∧ (s.lnk.bdma 63).part = none ∧ (s.lnk.bdma 63).wait = none ∧ bulkBusy s x.2.1.plot 524287 (.dma 63) = false ∧ (s.lnk.bdma 63).seqs.contains x.2.1.seq = false ∧ (again.lnk.bdma 63).seqs.contains x.2.1.seq = true ∧
      x.2.1.space = 0 ∧ x.2.1.len = 64 ∧ x.2.1.addr = 64 * 524287 ∧ x.2.1.payload.length = 64 ∧ (bulkAnswer s 63 x.2.1 x.2.2 4 0 x.2.1.addr []).isSome = true ∧ (bulkAnswer again 63 x.2.1 x.2.2 4 0 x.2.1.addr []).isSome = true ∧
      s.refusals x.2.1.plot 524287 (.dma 63) (some x.1) true = [] ∧ (s.stk.riser x.2.1.plot).wc = [] ∧ (s.stk.region x.2.1.plot (524287 / 16384)).isSealed = false := by
  refine ⟨_, rfl, ?_⟩; decide +kernel
theorem test_meets_PacketsAndBulk_read_and_bad :
    let s := bulkState (bulkHdr 2 1 3 0 0 32 0) 0x80 []
    let b := bulkState [1, 2, 3] 0x80 []
    (∃ x, bulkFront s 63 = some x ∧ x.2.1.op = 2 ∧ x.2.1.fault 63 = none ∧ x.2.1.space = 3 ∧
      (bulkAnswer s 63 x.2.1 x.2.2 3 0 x.2.1.addr (((s.stk.log.filter fun e => decide (x.2.1.addr ≤ e.seq) && s.stk.mayRead x.1 e).take (x.2.1.len / 32)).flatMap LogEntry.bytes)).isSome = true) ∧
      ∃ y, bulkFront b 63 = some y ∧ y.2.1.fault 63 = some stBadHeader ∧ (bulkAnswer b 63 y.2.1 y.2.2 5 stBadHeader y.2.1.addr []).isSome = true := by
  refine ⟨⟨_, rfl, ?_⟩, ⟨_, rfl, ?_⟩⟩ <;> decide +kernel
/-- The last line of the region is sealed under key 6 of epoch 1. -/
def passing : State :=
  let s := sealed { rk := 2, key0 := some 5, key1 := some 6, epoch := true, progress := 16383 } {}
  { s with stk := { s.stk with lines := [(268435455, sealLine 511 524287 true 7 6 0)] } }
theorem test_meets_SealKeysAndRekey_pass_line :
    (let g := passing.stk.region 511 31
     g.rk = 2 ∧ 524287 = 16384 * 31 + g.progress ∧ g.progress < 16384 ∧ passing.clocksOn = true ∧ passing.riserRuns 511 524287 = true ∧ (passing.stk.riser 511).wc = [] ∧ (passing.stk.riser 511).cmdWait.contains .copy = false ∧ g.marks.contains 524287 = false ∧ passing.retired 511 (524287 / 64) = false ∧
      g.isSealed = true ∧ g.key g.epoch = some 6) ∧
      readOut (passing.stk.region 511 31) 511 524287 (passing.stk.line (lineId 511 524287)) true = { resp := 0, data := 0 } := by
  refine ⟨by decide +kernel, ?_⟩
  have l : passing.stk.line (lineId 511 524287) = sealLine 511 524287 true 7 6 0 := rfl
  rw [l]
  exact readOut_sealLine _ _ _ _ _ _ _ _ rfl rfl (by decide)
/-! ## Bus, sessions and turns: what the statements assume can happen -/

/-- Seat 7 has its session open in Field. -/
def seated (x : SeatRec) : State := opened (up .field) 7 { x with credX := 1 }
/-- The request, tagged, is accepted there, and nothing runs. -/
theorem seated_admitted (x : SeatRec) (func : Nat) (r : Req) (k : r.seat = 7) (n : r.node = 0) (h : r.short = false) : admitted (seated x) (tagged (seated x) func r) func (met (seated x) r) := by
  refine tagged_admitted func ?_ ?_ h ?_ ?_
  · rfl
  · rw [n]; rfl
  · rfl
  · rw [k]; rfl
theorem seated_fresh (x : SeatRec) (func : Nat) (r : Req) (k : r.seat = 7) (l : x.last = none) (g : x.running = none) (e : x.seg = none) : fresh (seated x) (tagged (seated x) func r) := by
  have s : ((seated x).seat (tagged (seated x) func r).seat.val) = { { x with credX := 1 } with isOpen := true } := by rw [show (tagged (seated x) func r).seat = 7 from k]; rfl
  unfold fresh; rw [s]; simp [l, g, e]
/-- The tag is all that tagging changes. -/
theorem tagged_same (s : State) (func : Nat) (r : Req) :
    (tagged s func r).index = r.index ∧ (tagged s func r).sub = r.sub ∧ Req.payload (tagged s func r) = Req.payload r ∧ Req.long (tagged s func r) = Req.long r ∧ met s (tagged s func r) = met s r := ⟨rfl, rfl, rfl, rfl, rfl⟩
/-- A staged item that checks, and one that does not: the request word of the seat's own snapshot trigger, and GO of a hand that is not the seat's. -/
def goodItem : Item := { index := 0x2400, sub := 0x17, data := [0, 0, 0, 0] }
def badItem : Item := { index := 0x3000, sub := 0x18, data := [1] }
theorem test_meets_BusTransactions_read :
    let s := seated {}
    let bad := frame 7 0 0 []
    let ok := frame 7 0x1000 1 []
    (∀ func, admitted s (tagged s func bad) func (met s bad) ∧ fresh s (tagged s func bad)) ∧ objErrs (met s bad) 7 0 0 0 (Req.payload bad) (Req.long bad) ≠ [] ∧ objErrs (met s ok) 7 0x1000 1 0 (Req.payload ok) (Req.long ok) = [] ∧
      placeOf 0x1000 ≠ .user := by
  refine ⟨fun func => ⟨seated_admitted _ func _ rfl rfl rfl, seated_fresh _ func _ rfl rfl rfl rfl⟩, ?_, ?_, ?_⟩ <;> decide +kernel
/-- The last user index of seat 7 maps 4-byte registers of plot 511's engine, which the host may write. -/
def mapped (base : SeatRec) : State := { seated base with lnk := { umap := [(16383, BitVec.ofNat 64 (2 ^ 63 + 3 * 2 ^ 58 + 2 ^ 56 + 511 * 2 ^ 33))] } }
theorem test_meets_BusTransactions_user :
    let s := mapped {}
    let r := frame 7 0xBFFF 1 []
    let w := frame 7 0xBFFF 1 [1, 2, 3, 4]
    objErrs (met s r) 7 0xBFFF 1 0 (Req.payload r) (Req.long r) = [] ∧ placeOf 0xBFFF = .user ∧ (userRead (met s r) 0xBFFF 1).2 = (0, [0, 0, 0, 0]) ∧ userHeld (met s r) 7 0xBFFF 1 0 (Req.payload r) (Req.long r) = false ∧ userHeld (met s w) 7 0xBFFF 1 1 (Req.payload w) (Req.long w) = false ∧ objErrs (met s w) 7 0xBFFF 1 1 (Req.payload w) (Req.long w) = [] := by
  decide +kernel
/-- The last user index of seat 7 maps bytes of scratchpad block 0, which is the seat's and is being filled. -/
def mappedFill : State := { seated {} with lnk := { umap := [(16383, BitVec.ofNat 64 (2 ^ 63 + 2 ^ 62 + 3 * 2 ^ 58 + 2 ^ 56))] }, net := { scr := { own := [(0, 0x87)], filling := [0] } } }
theorem test_meets_BusTransactions_fill :
    let r := frame 7 0xBFFF 1 []
    let w := frame 7 0xBFFF 1 [1, 2, 3, 4]
    userHeld (met mappedFill r) 7 0xBFFF 1 0 (Req.payload r) (Req.long r) = true ∧ userHeld (met mappedFill w) 7 0xBFFF 1 1 (Req.payload w) (Req.long w) = true ∧ mappedFill.mc.window = false := by decide +kernel
/-- The memory error log holds an entry of a region of seat 7. -/
def logged : State :=
  { seated {} with stk := { log := [{ time := 0, seq := 5, kind := 1, plot := 511, die := 0, addr := 524287, sym0 := 0, sym1 := 0, source := 0, owner := 0x87, region := 31, isSealed := false, nsym := 0 }], logSeq := 6, regions := [(16383, { own := 0x87 })] } }
theorem test_meets_BusTransactions_log :
    let r := frame 7 0x2500 3 []
    objErrs (met (seated {}) r) 7 0x2500 3 0 (Req.payload r) (Req.long r) = [] ∧ nextLog (met (seated {}) r) 7 = none ∧ objErrs (met logged r) 7 0x2500 3 0 (Req.payload r) (Req.long r) = [] ∧ (nextLog (met logged r) 7).isSome = true := by
  decide +kernel
theorem test_meets_BusTransactions_write_and_stage :
    let s := seated {}
    let w := frame 7 0x2500 2 [5, 0, 0, 0]
    let st := frame 7 0x2400 0x17 [0, 0, 0, 0]
    s.mc.window = false ∧ objErrs (met s w) 7 0x2500 2 1 (Req.payload w) (Req.long w) = [] ∧ placeOf 0x2500 ≠ .user ∧ objErrs (met s w) 7 0x2500 2 2 (Req.payload w) (Req.long w) ≠ [] ∧
      objErrs (met s (frame 7 0x2500 1 [])) 7 0x2500 1 1 [] false ≠ [] ∧ objErrs (met s st) 7 0x2400 0x17 2 (Req.payload st) (Req.long st) = [] ∧
      putItems ((met s st).seat 7).staged [{ index := 0x2400, sub := 0x17, data := Req.payload st }] = some [goodItem] ∧ ({ s with mc := { s.mc with window := true } } : State).mc.window = true := by decide +kernel
theorem test_meets_BusTransactions_check_and_turn :
    let r := frame 7 0 0 []
    let g := met (seated { staged := [goodItem] }) r
    let b := met (seated { staged := [badItem] }) r
    Req.payload r = [] ∧ Req.long r = false ∧ (reportOf 0 1 [goodItem] (checkItems (g.checkBase 7) 7 [goodItem])).result ≠ 2 ∧ (reportOf 0 1 [badItem] (checkItems (b.checkBase 7) 7 [badItem])).result = 2 ∧
      (g.seat 7).staged = [goodItem] ∧ (b.seat 7).staged = [badItem] ∧ (g.seat 7).turn = none ∧ (g.seat 7).deferred = [] := by decide +kernel
theorem test_meets_BusTransactions_scheduled :
    let r := frame 7 0 0 (time80 1000000)
    let s := seated { staged := [goodItem] }
    (Req.payload r).length = 10 ∧ leField (Req.payload r) 0 4 < 1000000000 ∧ s.aon.now + 1000000 ≤ ofTime80 (Req.payload r) ∧ ofTime80 (Req.payload r) ≤ s.aon.now + 86400000000000 ∧ s.aon.mode ≠ some .sowing ∧
      ofTime80 (time80 86400000000000) = 86400000000000 := by decide +kernel
theorem test_meets_BusTransactions_discard_and_rest :
    let r := frame 7 0 0 [1]
    let s := seated { turn := some { items := [goodItem], at? := some 5, source := 1 } }
    Req.payload r = [1] ∧ (met s r).turnReached 7 = false ∧ (∀ q, ((met s r).seat 7).turn = some q → q.at? ≠ none) ∧
      (let w := frame 7 0x5050 0 [255, 63, 0, 0, 1]
       (winReadErrs (met (seated {}) w) 7 0x5050 (Req.payload w) (Req.long w)).1 = []) ∧
      (let w := frame 7 0x5030 0 [0, 0, 0]
       (winReadErrs (met (seated {}) w) 7 0x5030 (Req.payload w) (Req.long w)).1 ≠ []) ∧
      (let a := frame 7 0 0 [0, 0, 0, 0]
       (Req.payload a).length = 4 ∧ leNat (Req.payload a) ≤ ((met (seated {}) a).seat 7).attnSeq ∧ ((met (seated {}) a).seat 7).attnSeq < leNat [1, 0, 0, 0]) ∧
      (winWriteErrs (met (seated {}) (frame 7 0x5030 0 [])) 7 0x5030 [] false).1 ≠ [] ∧
      requestFunc 0x0D = false ∧ ((up .field).seat 7).isOpen = false ∧ (up .field).busUp = true ∧ (0 : BitVec 5) = (up .field).aon.node ∧ (up .field).aon.failedTest = 0 := by
  refine ⟨by decide +kernel, by decide +kernel, ?_, by decide +kernel, by decide +kernel, by decide +kernel, by decide +kernel, by decide, by decide, by decide, by decide, by decide⟩
  intro q h
  have : q = { items := [goodItem], at? := some 5, source := 1 } := by
    have e : some q = some { items := [goodItem], at? := some 5, source := 1 } := h.symm
    exact Option.some.inj e
  rw [this]; simp
/-- The dealer writes the last entry of the rotation window. -/
theorem test_meets_BusTransactions_winWrite :
    let w := frame 0 0x5030 0 [255, 127, 0, 0, 0, 7, 0, 0x80]
    let s := opened (up .field) 0 { staged := [] }
    (winWriteErrs (met s w) 0 0x5030 (Req.payload w) (Req.long w)).1 = [] ∧ (putItems ((met s w).seat 0).staged (winWriteErrs (met s w) 0 0x5030 (Req.payload w) (Req.long w)).2).isSome = true := by decide +kernel
theorem test_meets_SegmentsAndSessions_start :
    let r := frame 7 0x1002 0 []
    let w := frame 0 0x2101 0 [0xB0, 1, 0, 0]
    let s := { seated {} with nv := { certificate := [1, 2, 3] } }
    segErrs (met s r) 7 0x1002 0 false (Req.payload r) (Req.long r) = [] ∧ segErrs (met (opened (up .field) 0 {}) w) 0 0x2101 0 true (Req.payload w) (Req.long w) = [] ∧ ((met s r).seat 7).reqCtr < 4294967295 ∧
      ((met s r).seat 7).repCtr + 1 < 4294967295 ∧ Req.payload (frame 0 0 0 [7]) = [BitVec.ofNat 8 7] := by decide +kernel
/-- A transfer of the request's SEQ. -/
def transferring (g : Seg) : State := { opened (up .field) 0 { seg := some { g with seq := 7 } } with nv := { certificate := List.replicate 16385 9 } }
theorem test_meets_SegmentsAndSessions_frames :
    let d : Req := { frame 0 0 7 (List.replicate 52 1) with len := 1 }
    let e : Req := { frame 0 0 8 (List.replicate 52 1) with len := 0 }
    let want := fun (g : Seg) (r : Req) => min 52 (blockLen g.total g.block - 52 * (r.sub.toNat + 256 * r.len.toNat))
    let m : Seg := { isWrite := true, index := 0x1F30, total := 16777216, frame := 263 }
    let l : Seg := { isWrite := true, index := 0x2101, total := 432, frame := 8 }
    let a : Seg := { isWrite := false, index := 0x1002, total := 16385, block := 0 }
    0 < want m d ∧ want m d ≤ d.data.length ∧ d.sub.toNat + 256 * d.len.toNat = m.frame ∧ m.frame + 1 ≠ frameCount (blockLen m.total m.block) ∧
      0 < want l e ∧ want l e ≤ e.data.length ∧ e.sub.toNat + 256 * e.len.toNat = l.frame ∧ l.frame + 1 = frameCount (blockLen l.total l.block) ∧ l.blockOk = true ∧ l.ended = false ∧
      Req.payload (frame 0 0 0 [2, 0]) = [2, 0] ∧ a.total ≤ 16384 * leNat [2, 0] ∧ 16384 * leNat [1, 0] < a.total ∧ a.total = (transferring a).nv.certificate.length := by decide +kernel
theorem test_meets_SegmentsAndSessions_admitted (g : Seg) (func : Nat) (r : Req) (k : r.seat = 0) (n : r.node = 0) (h : r.short = false) :
    admitted (transferring g) (tagged (transferring g) func r) func (met (transferring g) r) := by
  refine tagged_admitted func rfl ?_ h rfl ?_
  · rw [n]; rfl
  · rw [k]; rfl
theorem test_meets_SegmentsAndSessions_seg (g : Seg) : ((transferring g).seat 0).seg = some { g with seq := 7 } := rfl
/-- A part of an opening of seat 7. -/
def partOf (n : Nat) (len : Nat) : OpenPart := { seat := 7, node := 0, prio := 1, seq := 3, part := BitVec.ofNat 8 n, data := List.replicate len 0x55 }
theorem test_meets_SegmentsAndSessions_open :
    let s := withSeat (up .field) 7 { credX := 1, opening := some { step := 1, part := 1, seq := 3 } }
    let u := withSeat (up .field) 7 { credX := 1, opening := some { step := 3, part := 1, seq := 3 } }
    let v := withSeat (up .field) 7 { credX := 1, opening := some { step := 3, part := 0, seq := 3 } }
    s.busUp = true ∧ (partOf 0 60).node = s.aon.node ∧ (partOf 0 60).part = 0 ∧ (partOf 0 60).data.length = 60 ∧ (partOf 1 36).part = 1 ∧ (partOf 1 36).data.length = 36 ∧ openErrs s 7 = [] ∧
      (s.seat 7).opening = some { step := 1, part := 1, seq := 3 } ∧ (u.seat 7).opening = some { step := 3, part := 1, seq := 3 } ∧ (v.seat 7).opening = some { step := 3, part := 0, seq := 3 } ∧ u.aon.mode ≠ some .zeroised ∧
      u.nv.life ≠ .decommissioned ∧ u.aon.failedTest = 0 ∧ hasCred u.nv 7 (u.seat 7) = true := by decide +kernel
/-- Seat 7's immediate turn is pending. -/
def turning (i : Item) : State := withSeat (up .field) 7 { turn := some { items := [i], at? := none, source := 1 } }
theorem test_meets_TurnsAndSnapshots_turns :
    let q := fun (i : Item) => ({ items := [i], at? := none, source := 1 } : Turn)
    let s := turning goodItem
    let f := turning badItem
    s.mcUp = true ∧ s.aon.failedTest = 0 ∧ s.mc.window = false ∧ s.windowTurns = [(7, q goodItem)] ∧ (q goodItem).at? = none ∧ takesSnap [(7, q goodItem)] = false ∧ takesSnap [(7, q badItem)] = false ∧ s.dueTurns = [(7, q goodItem)] ∧ f.dueTurns = [(7, q badItem)] ∧ s.mc.heldWrites = [] ∧ s.mc.orders = [] ∧
      (reportOf 0 1 [goodItem] (checkItems (({ s with mc := { s.mc with out := [] } } : State).recheckBase 7) 7 [goodItem])).result ≠ 2 ∧
      (reportOf 0 1 [badItem] (checkItems (({ f with mc := { f.mc with out := [] } } : State).recheckBase 7) 7 [badItem])).result = 2 := by decide +kernel
theorem test_meets_TurnsAndSnapshots_streams (j : Nat) : ((turning goodItem).seat j).stream = none := by
  have e : (turning goodItem).seat j = if 7 = j then { turn := some { items := [goodItem], at? := none, source := 1 } } else {} := by
    show tget _ _ _ = _
    by_cases h : 7 = j
    · subst h; rfl
    · simp [turning, withSeat, State.setSeat, up, tput, tget, tdel, tins, h]
  rw [e]; split <;> rfl
/-- Seat 7's last MC queue holds a request: PING of SEQ 9 with its reply in queue 40,957. -/
def asking (bytes : List Byte) : State :=
  { up .field with net := { queues := [(40957, { dir := BitVec.ofNat 256 (2 ^ 251 + 7 * 2 ^ 248 + 2 ^ 247 + 9 * 2 ^ 234 + epMc), bound := true, prods := [(0, { credits := 1 })] }),
    (mcQueue 7 15, { dir := dirOf 7 3 0 epMc 0, bound := true, visible := [{ prod := 0, rank := 1, words := (queueWords bytes).map fun w => { data := w, side := BitVec.ofNat 16 (bytes.length % 32) } }] })] } }
theorem test_meets_TurnsAndSnapshots_requests :
    let ping : List Byte := [0x0F, 9] ++ leBytes 2 40957 ++ [0, 0, 0, 0]
    ∀ b ∈ [ping, [1, 2]], ((asking b).clocksOn = true ∧ ((asking b).net.queue (mcQueue 7 15)).runs = true ∧ qdConsumer ((asking b).net.queue (mcQueue 7 15)).dir = epMc ∧
      ((((asking b).net.queue (mcQueue 7 15)).takePkt).map fun x => x.1.bytes) = some b ∧ (asking b).replyProd 7 40957 = some 0 ∧ leField ping 2 2 = 40957 ∧ byteAt ping 0 = 0x0F ∧ byteAt ping 7 = 0 ∧
      1 ≤ (((asking b).net.queue 40957).prod 0).credits ∧ (((asking b).net.queue 40957).prod 0).openWords = [] ∧ (((asking b).net.queue 40957).prod 0).discarding = false ∧
      ((asking b).seat 7).mcLast = none ∧ ((asking b).seat 7).mcRunning = none) := by decide +kernel
/-- The attention queue of seat 7 holds a packet. -/
def attending (bytes : List Byte) : State :=
  withQueue (withSeat (up .field) 7 { credX := 1 }) 41111
    { dir := dirOf 7 3 0 epMc 0, bound := true, visible := [{ prod := 0, rank := 1, words := (queueWords bytes).map fun w => { data := w, side := BitVec.ofNat 16 (bytes.length % 32) } }] }
theorem test_meets_TurnsAndSnapshots_attention :
    let s := attending (7 :: List.replicate 8 0)
    s.clocksOn = true ∧ (s.net.queue 41111).runs = true ∧ ((s.net.queue 41111).takePkt.map fun x => x.1.bytes) = some (7 :: List.replicate 8 0) ∧ hasCred s.nv 7 (s.seat 7) = true ∧
      (((attending [1]).net.queue 41111).takePkt.map fun x => x.1.bytes) = some [1] ∧ qdConsumer (s.net.queue 41111).dir = epMc := by decide +kernel
theorem test_meets_TurnsAndSnapshots_counters :
    let s := { ordered .field [.snap 7, .pmcClear 7 7, .pmcOvfClr 7 7] with eng := { engines := [(511, { pmcOwn := [(7, 0x87)], pmc := [(7, 5)], ovf := [7] })] } }
    let d := { up .field with mc := { snaps := [(0, { accept := 0x80, writing := true }), (7, { accept := 0x80, buf := 0x00010000 })], snapDue := [{ instant := 0, seat := 7 }] } }
    let w := { up .field with mc := { snaps := [(7, { writing := true, buf := 0x00010000 })] } }
    (takeOrder (.snap 7) s.mc.orders).isSome = true ∧ (takeOrder (.pmcClear 7 7) s.mc.orders).isSome = true ∧ (takeOrder (.pmcOvfClr 7 7) s.mc.orders).isSome = true ∧ s.mc.preSnap = [] ∧
      (s.eng.engine 511).pmcSeat 7 = some 7 ∧ d.stackHeld = true ∧ d.mc.snapDue = [{ instant := d.aon.now, seat := 7 }] ∧ (d.mc.snap 7).accept.getLsbD 7 = true ∧ (d.mc.snap 0).writing = true ∧ (d.mc.snap 7).buf ≠ 0 ∧
      (d.seat 7).seg = none ∧ d.mc.preSnap = [] ∧ d.clocksOn = true ∧ d.net.scr.held (1024 * bits (d.mc.snap 7).buf 15 0) = false ∧ d.net.scr.wordBad (1024 * bits (d.mc.snap 7).buf 15 0) = false ∧ w.net.scr.rangeHeld (16384 * bits (w.mc.snap 7).buf 15 0) (16384 * bits (w.mc.snap 7).buf 31 16) = false ∧ w.clocksOn = true ∧ (w.mc.snap 7).writing = true ∧ (w.mc.snap 7).buf ≠ 0 ∧ (ordered .field [.step 5]).mc.orders = [.step 5] ∧ (ordered .field [.offset (-5)]).mc.orders = [.offset (-5)] := by decide +kernel
/-! ## Ill-formed commands are refused, one per check -/

theorem test_ill_failed_test_code : Instr.wellFormed (.powerOn { node := 0, autorise := false, testFail := 11 }) = false := by decide
theorem test_ill_round_lists : Instr.wellFormed (.housekeepingRound { calmRound with phases := [] }) = false := by decide
theorem test_ill_round_monitors : Instr.wellFormed (.housekeepingRound { calmRound with monitors := [] }) = false := by decide
theorem test_ill_round_rails : Instr.wellFormed (.housekeepingRound { calmRound with rails := [] }) = false := by decide
theorem test_ill_round_feedOut : Instr.wellFormed (.housekeepingRound { calmRound with feedOut := [3] }) = false ∧ Instr.wellFormed (.housekeepingRound calmRound) = true := by decide
theorem test_ill_round_farthest : Instr.wellFormed (.housekeepingRound { calmRound with farthest := [0] }) = false := by decide
theorem test_ill_round_banks : Instr.wellFormed (.housekeepingRound { calmRound with banks := [] }) = false := by decide
theorem test_ill_request_length : Instr.wellFormed (.read (frame 0 0 0 [1, 2, 3])) = false := by decide
theorem test_ill_short_request : Instr.wellFormed (.ping { frame 0 0 0 [1, 2, 3, 4] with short := true }) = false := by decide
theorem test_ill_service_frame : Instr.wellFormed (.sspiErase [3, 0]) = false := by decide
theorem test_ill_reserved_service_frame : Instr.wellFormed (.sspiReservedCommand [5]) = false := by decide
theorem test_ill_flash_read_length : Instr.wellFormed (.bootFlashRead 0 16385) = false := by decide
theorem test_ill_flash_read_short : Instr.wellFormed (.bootFlashRead 0 3) = false := by decide
theorem test_ill_flash_read_end : Instr.wellFormed (.bootFlashRead 0xFFFFFFFF 4) = false := by decide
theorem test_ill_temperature_frame : Instr.wellFormed (.tempFrame (List.replicate 63 0)) = false := by decide
theorem test_ill_partial_write_none : Instr.wellFormed (.partialLineWrite 0 (.mc 0) 0 0 0) = false := by decide
theorem test_ill_partial_write_all : Instr.wellFormed (.partialLineWrite 0 (.mc 0) 0 (BitVec.allOnes 64) 0) = false := by decide
theorem test_ill_opening_part : Instr.wellFormed (.sessionOpenQh { seat := 0, node := 0, prio := 0, seq := 0, part := 0, data := List.replicate 65 0 } true) = false := by decide
theorem test_ill_reserved_function : Instr.wellFormed (.reservedFunc (frame 0 0 0 []) 0x01) = false := by decide
theorem test_ill_hash : Instr.wellFormed (.hash 0 0 31 1) = false := by decide
theorem test_ill_qlevel : Instr.wellFormed (.qlevel 0 0 1 2 7 false) = false := by decide
theorem test_ill_rdpmc : Instr.wellFormed (.rdpmc 0 0 1 0x1A) = false := by decide
theorem test_ill_wait : Instr.wellFormed (.wait 0 0 1 2 0) = false := by decide
theorem test_ill_fence : Instr.wellFormed (.fence 0 0 4) = false := by decide
theorem test_ill_illegal_of_a_legal_word : Instr.wellFormed (.illegal 0 0 0x04000000 0) = false := by decide
theorem test_ill_fail_log_element : Instr.wellFormed (.bistFailLog { addr := 0, bitNo := 0, expected := true, observed := false, element := 6, op := 0, opnum := 0 }) = false := by decide
theorem test_ill_fail_log_operation : Instr.wellFormed (.bistFailLog { addr := 0, bitNo := 0, expected := true, observed := false, element := 0, op := 5, opnum := 0 }) = false := by decide
theorem test_well_formed_ping : Instr.wellFormed (.ping (frame 0 0 0 [])) = true := by decide
/-! ## Engine words, written out field by field from R270–R272 -/

theorem test_word_add : decodeEng 0b000001_00011_00001_00010_00000000000 = some (.alu .add 3 1 2) := by decide
theorem test_word_sltu : decodeEng 0b000001_11111_00000_11110_00000000110 = some (.alu .sltu 31 0 30) := by decide
theorem test_word_mulhu : decodeEng 0b000001_00011_00001_00010_00000010010 = some (.alu .mulhu 3 1 2) := by decide
theorem test_word_clz : decodeEng 0b000001_00011_00001_00000_00000011000 = some (.clz 3 1) := by decide
theorem test_word_clz_rb : decodeEng 0b000001_00011_00001_00010_00000011000 = none := by decide
theorem test_word_crc4 : decodeEng 0b000001_00011_00001_00010_11000100000 = some (.crc 3 3 1 2) := by decide
theorem test_word_hash : decodeEng 0b000001_00010_00001_00000_00000100001 = some (.hash 2 1) := by decide
theorem test_word_hash_odd : decodeEng 0b000001_00011_00001_00000_00000100001 = none := by decide
theorem test_word_rori : decodeEng 0b000010_00011_00001_000000000_11_11111 = some (.shift .rori 3 1 31) := by decide
theorem test_word_addi : decodeEng 0b000011_00011_00001_1111111111111111 = some (.imm .addi 3 1 0xFFFF) := by decide
theorem test_word_lui : decodeEng 0b000111_00011_00000_0001001000110100 = some (.lui 3 0x1234) := by decide
theorem test_word_lui_ra : decodeEng 0b000111_00011_00001_0001001000110100 = none := by decide
theorem test_word_bfi : decodeEng 0b001000_00011_00001_11111_00111_1_00000 = some (.bf true 3 1 31 7) := by decide
theorem test_word_bfx_low_bits : decodeEng 0b001000_00011_00001_11111_00111_0_00001 = none := by decide
theorem test_word_ld_l : decodeEng 0b001001_00011_00001_1000000000000000 = some (.imm .ldL 3 1 0x8000) := by decide
theorem test_word_st_m : decodeEng 0b001100_00011_00001_0000000000000100 = some (.imm .stM 3 1 4) := by decide
theorem test_word_qpush : decodeEng 0b001101_00011_00001_00010_000_00000000 = some (.qpush 3 1 2) := by decide
theorem test_word_qcommit : decodeEng 0b001101_00000_00001_00010_001_00000000 = some (.qcommit 1 2) := by decide
theorem test_word_qlevel : decodeEng 0b001101_00011_00001_00000_110_00000110 = some (.qlevel 3 1 6) := by decide
theorem test_word_qlevel_reserved : decodeEng 0b001101_00011_00001_00000_110_00000111 = none := by decide
theorem test_word_qop_minor_7 : decodeEng 0b001101_00011_00001_00000_111_00000000 = none := by decide
theorem test_word_kwr : decodeEng 0b001111_00011_00001_0000000000000001 = some (.imm .kwr 3 1 1) := by decide
theorem test_word_callh : decodeEng 0b010000_00000_00001_0000000000111111 = some (.callh 1 63) := by decide
theorem test_word_rdpmc : decodeEng 0b010001_00011_00000_0000000000000101 = some (.rdpmc 3 5) := by decide
theorem test_word_wait : decodeEng 0b010010_00011_00001_0000000000000001 = some (.wait 3 1 1) := by decide
theorem test_word_fence : decodeEng 0b010011_00000_00000_0000000000000_111 = some (.fence 7) := by decide
theorem test_word_fence_inv : decodeEng 0b010011_00000_00000_0000000000000_101 = none := by decide
theorem test_word_trap : decodeEng 0b010100_00000_00000_1010101010101010 = some (.trap 0xAAAA) := by decide
theorem test_word_j : decodeEng 0b010101_11111111111111111111111111 = some (.j 0x3FFFFFF) := by decide
theorem test_word_jr : decodeEng 0b010111_00000_00001_0000000000000000 = some (.jr 1) := by decide
theorem test_word_bge : decodeEng 0b011011_00001_00010_1111111111111110 = some (.branch .bge 1 2 0xFFFE) := by decide
theorem test_word_opcode_0 : decodeEng 0 = none := by decide
theorem test_word_opcode_1C : decodeEng 0x70000000 = none := by decide
theorem test_table_word : decodeTableWord 8 0xFF = none := rfl
/-! ## The spec's worked examples -/

/-- The contention word of chapter 2's example under R75. -/
theorem test_example_contention_word : contentionWord 300 5 2 2 5 20 2 = 0x96589682 := by decide
/-- R158's example: element 1,000 of W2 lies in element 250 of W9. -/
theorem test_example_block_memory_bits : physBit 1 1000 0 = 2250 ∧ physBit 1 1000 1 = 2251 ∧ physBit 3 250 0 = 2250 ∧ physBit 3 250 8 = 2258 := by decide
theorem test_example_block_memory_write :
    let m := (({ word := 0x00000019 } : Bm).write 1 { addr := 1000, data := 2, be := 0 })
    (m.readElem 3 250).1 = 2 ∧ (m.readElem 1 1000).1 = 2 := by decide +kernel
/-- The rotation of PLOT_12 under R119, with the edges of the example's table, at the end of a slot with a call of a slot at an edge. -/
def plot12 (cur start : Nat) (call : Option (Nat × Nat)) : State :=
  let w : BitVec 32 := if cur = 0 then 0xB0000102 else if cur = 1 then 0xB0000201 else 0xB0000503
  { up .field with fab := {
      plots := [(12, { len := 3, gated := false, cur := cur, word := w, start := start, now := dwellOf w, call := call.map fun c => { slot := c.1, edge := c.2, port := 12 } })]
      hands := [(97, { own := 0x83, state := .live }), (98, { own := 0x83, state := .live }), (101, { own := 0x83, state := .live })]
      slots := [(768, 0xB0000102), (769, 0xB0000201), (770, 0xB0000503)]
      fplls := [(fpllOf 12, { group := 0, running := true, locked := true })] } }
/-- What runs after the boundary: the slot, its hand, its first edge and the call that waits. -/
def afterBoundary (s : State) : Nat × Option Nat × Nat × Option (Nat × Nat) :=
  let x := ((slotBoundary s 12).fab.plot 12)
  (x.cur, x.live, x.start, x.call.map fun c => (c.slot, c.edge))
theorem test_example_call_taken : afterBoundary (plot12 0 0 (some (2, 1))) = (2, some 5, 3, none) := by decide +kernel
theorem test_example_call_too_late : afterBoundary (plot12 0 7 (some (1, 9))) = (1, some 2, 10, some (1, 9)) := by decide +kernel
theorem test_example_call_taken_later : afterBoundary (plot12 1 10 (some (1, 9))) = (1, some 2, 12, none) := by decide +kernel
/-- The rotation estimate of PLOT_300 under R137: 231,000 µW, and 313,500 µW with SLOT_3 named. -/
def plot300 (last : BitVec 32) : Fabric :=
  { plots := [(300, { len := 4 })]
    hands := (List.range 4).map fun h => (2400 + h, { own := 0x82, state := .live })
    fplls := [(fpllOf 300, { fa := 800000 })]
    slots := [(19200, 0xA0000003), (19201, 0xA0000103), (19202, 0xA0000205), (19203, last)]
    diff := [(28 * 300 + diffIx 0 1, 1400000), (28 * 300 + diffIx 0 2, 1300000), (28 * 300 + diffIx 0 3, 1600000), (28 * 300 + diffIx 1 2, 1500000), (28 * 300 + diffIx 2 3, 1200000)] }
theorem test_example_rotation_power :
    (plot300 0xA0008001).period 300 = 16 ∧ (plot300 0xA0008001).clockKhz 300 = 800000 ∧ (plot300 0xA0008001).rotPower [] 2 300 = 231000 ∧ (plot300 0xA0000301).rotPower [] 2 300 = 313500 := by decide +kernel
/-- Chapter 7's address example and R310's identifier. -/
theorem test_example_line : lineRegion (0x013A5C40 / 64) = 19 ∧ linePage (0x013A5C40 / 64) = 0x13A5 ∧ lineId 300 (0x013A5C40 / 64) = 0x0964E971 ∧ (up .field).physDie 300 (0x013A5C40 / 64) = 3 ∧ columnOf 300 = 44 := by decide +kernel
/-- R359's counter block example. -/
theorem test_example_counter_block : counterBlock 1 300 0x4E971 true 5 2 = 0x01964E97180000005000000000000002 := by decide
/-- A 4-byte value of 0x11223344 written at byte address 0x1234A stands in lanes 10–13, its least significant byte first (R174). -/
theorem test_example_scratch_lanes :
    let s := (scratchAccess (up .field) false 0x1234 true false 10 4 [0x44, 0x33, 0x22, 0x11] .alone).1
    s.net.scr.byte 0x1234A = 0x44 ∧ s.net.scr.byte 0x1234D = 0x11 ∧ s.net.scr.byte 0x12349 = 0 := by decide +kernel
/-- R233's example: 45 bytes in 12 narrow words give two queue words, the second with VBYTES 13. -/
theorem test_example_packing :
    let push := fun (s : State) (v : Word × Option (Fin 4)) => match exec (.narrowWordPush 0 v.1 v.2) s with | .next t => t | _ => s
    let s := (List.replicate 11 ((1 : Word), (none : Option (Fin 4))) ++ [(0xFF, some 0)]).foldl push (packing (up .field) 0)
    ((s.net.queue 40960).flying.map fun k => k.words.map fun w => w.side.toNat % 32) = [[0, 13]] := by decide +kernel
/-- The governor's example for VF0: hot in rounds n to n + 2; in round n + 3 neither hot nor calm (R598, R599). -/
def readings (l : List Int) : List (Nat × Int) := l.zipIdx.map fun x => (1024000 * (20 - x.2), x.1)
theorem test_example_governor :
    predictsHot (readings [26304, 26240, 26176, 26112, 26048, 25984, 25920, 25856]) 64 = true ∧ predictsHot (readings [26336, 26304, 26240, 26176, 26112, 26048, 25984, 25920]) 64 = true ∧
      predictsHot (readings [26336, 26336, 26304, 26240, 26176, 26112, 26048, 25984]) 64 = true ∧ predictsHot (readings [26304, 26336, 26336, 26304, 26240, 26176, 26112, 26048]) 64 = false ∧
      predictsHot (readings [26304, 26336, 26336, 26304, 26240, 26176, 26112, 26048]) 128 = true := by decide
/-- R610's example: 3,652 half-cycles in bin 3 wear about 70,600,000 of 2^32. -/
theorem test_example_wear : wearFrac [0, 0, 3652, 0, 0] / 100000 = 705 := by decide
/-- R648's example: tile 44 of M2 is target 0x142C0000. -/
theorem test_example_target : tgKind 0x142C0000 = 1 ∧ tgDie 0x142C0000 = 2 ∧ tgIndex 0x142C0000 = 44 := by decide
/-- R512's example: the map entry of four U32 counters at KITTY_128 of PLOT_41. -/
theorem test_example_user_map :
    let w : BitVec 64 := 0x8D010C5200000080
    umKind w = 0 ∧ umType w = 3 ∧ umHostw w = 1 ∧ umReaders w = 1 ∧ umCount w = 4 ∧ umPlot w = 41 ∧ umBase w = 128 := by decide
theorem test_example_user_read :
    let s := { up .field with lnk := { umap := [(6146, 0x8D010C5200000080)] }, fab := { kitty := [] } }
    (userRead { s with fab := writeKitty s 41 130 7 15 |>.fab } 0x9802 3).2 = (0, [7, 0, 0, 0]) := by decide +kernel
/-- Chapter 10's example: SEAT_4 stages the key extraction word of PORT_305; the reply says STAGED and SESSION, 1 item of 4 bytes. -/
theorem test_example_stage :
    let r : Req := { prio := 4, seat := 4, node := 9, seq := 4, index := 0x4131, sub := 3, len := 4, data := [0x0F, 0xCE, 0x43, 0x55], short := false, tag := 0 }
    let s := opened { up .field with aon := { (up .field).aon with node := 9 }, lnk := { ports := [(305, { own := 0x84 })] } } 4 {}
    ((finish (met s r) r 0x03 (opStage (met s r) 4 0x4131 3 (Machine.Req.payload r) (Machine.Req.long r))).mc.out.map fun q => (q.status, q.error, q.aux, q.data)) = [(0x0A, 0, 4, [1, 0, 4, 0])] := by decide +kernel
/-- R404's setup word of the same example: RATE 15, PCS 5, FCS 1. -/
theorem test_example_setup : ({ setup := 0xFA200000 } : Port).rate = 15 ∧ ({ setup := 0xFA200000 } : Port).pcs = 5 ∧ ({ setup := 0xFA200000 } : Port).fcs = true := by decide
/-- RS(80,76) corrects two symbols (R313). -/
theorem test_two_symbols_corrected :
    rsDecode (bytesOf (lineFill 5 ^^^ BitVec.ofNat 640 (0x17 <<< 8 + 0xA0 <<< 632)).toNat 80) = .fixed [(1, 0x17), (79, 0xA0)] := by decide +kernel
/-- R313's generator: α^j is a root for j = 0–3. -/
theorem test_example_generator : ∀ j < 4, syndrome [1, 0x0F, 0x36, 0x78, 0x40] j = 0 := by decide +kernel

end Sys2Proof.Tests
end

section
/-! PROOF. The call port of a plot: what a call that is raised does to the fabric, and the statement about HAND_CALL (R117, R118, R123). -/

namespace Sys2Proof.Machine

/-! ## A counter's limit, and a port's signal that has been acted on -/

theorem sat32_eq_min (n : Nat) : sat32 n = min 4294967295 n := by
  unfold sat32 satTo
  split <;> omega

/-- The fabric with signal i of plot p's port acted on. -/
def Fabric.acted (f : Fabric) (p i : Nat) : Fabric := f.setPlot p ((f.plot p).done i)

@[simp] theorem Fabric.acted_slot (f : Fabric) (p i q k : Nat) : (f.acted p i).slot q k = f.slot q k := rfl
@[simp] theorem Fabric.acted_handOwner (f : Fabric) (p i q h : Nat) : (f.acted p i).handOwner q h = f.handOwner q h := rfl
theorem Fabric.acted_plot (f : Fabric) (p i q : Nat) : (f.acted p i).plot q = if q = p then (f.plot p).done i else f.plot q :=
  setPlot_plot _ _ _ _
@[simp] theorem Fabric.acted_plot_self (f : Fabric) (p i : Nat) : (f.acted p i).plot p = (f.plot p).done i := by simp [acted_plot]
/-- Acting on a port's signal changes only what that port captured. -/
theorem Fabric.acted_plot_eq (f : Fabric) (p i q : Nat) : (f.acted p i).plot q = { f.plot q with captured := ((f.acted p i).plot q).captured } := by
  rw [acted_plot]
  split
  · next e => rw [e]; rfl
  · rfl
@[simp] theorem Fabric.acted_call (f : Fabric) (p i q : Nat) : ((f.acted p i).plot q).call = (f.plot q).call := by rw [acted_plot_eq]
@[simp] theorem Fabric.acted_lenOf (f : Fabric) (p i q : Nat) : (f.acted p i).lenOf q = f.lenOf q := by unfold lenOf; rw [acted_plot_eq]
@[simp] theorem Fabric.acted_seqPlot (f : Fabric) (p i q : Nat) : (f.acted p i).seqPlot q = f.seqPlot q := by
  unfold seqPlot yoked; rw [acted_plot_eq]

/-! ## Changes to the records of some plots only -/

/-- Of the fabric, only the records of the listed plots differ. -/
def Fabric.plotsDiffer (f g : Fabric) (ps : List Nat) : Prop :=
  g = { f with plots := g.plots } ∧ ∀ j, ps.contains j = false → g.plot j = f.plot j

theorem Fabric.plotsDiffer_refl (f : Fabric) (ps : List Nat) : f.plotsDiffer f ps := ⟨rfl, fun _ _ => rfl⟩
theorem Fabric.plotsDiffer_setPlot {f g : Fabric} {ps : List Nat} (k : f.plotsDiffer g ps) {p : Nat} (m : p ∈ ps) (v : Plot) :
    f.plotsDiffer (g.setPlot p v) ps := by
  obtain ⟨frame, others⟩ := k
  refine ⟨by rw [frame]; rfl, fun j out => ?_⟩
  have ne : j ≠ p := by rintro rfl; simp [m] at out
  rw [setPlot_plot, if_neg ne, others j out]
theorem Fabric.plotsDiffer_acted (f : Fabric) {ps : List Nat} {p : Nat} (m : p ∈ ps) (i : Nat) : f.plotsDiffer (f.acted p i) ps :=
  plotsDiffer_setPlot (plotsDiffer_refl f ps) m _
/-- Of a state whose fabric changed so, nothing else differs. -/
theorem Fabric.plotsDiffer.onFab {s : State} {g : Fabric → Fabric} {ps : List Nat} (k : s.fab.plotsDiffer (g s.fab) ps) :
    s.onFab g = { s with fab := { s.fab with plots := (s.onFab g).fab.plots } } ∧ ∀ j, ps.contains j = false → (s.onFab g).fab.plot j = s.fab.plot j :=
  ⟨congrArg (fun f => { s with fab := f }) k.1, k.2⟩

/-! ## A call that is raised (R118, R123) -/

/-- The slot exists in the table of plot p's sequencer and is owned by the owner of hand h. -/
def Fabric.callLegal (f : Fabric) (p h slot : Nat) : Prop :=
  slot < f.lenOf (f.seqPlot p) ∧ slotOwner (f.slot (f.seqPlot p) slot) ≠ none ∧ slotOwner (f.slot (f.seqPlot p) slot) = f.handOwner p h

@[simp] theorem Fabric.acted_callLegal (f : Fabric) (p i q h slot : Nat) : (f.acted p i).callLegal q h slot ↔ f.callLegal q h slot := by
  simp [callLegal]

/-- The sequencer's test for a refusal. -/
theorem Fabric.refusal_iff (f : Fabric) (p h slot : Nat) :
    (f.lenOf (f.seqPlot p) ≤ slot || slotOwner (f.slot (f.seqPlot p) slot) = none || slotOwner (f.slot (f.seqPlot p) slot) != f.handOwner p h) = true ↔ ¬f.callLegal p h slot := by
  simp only [callLegal, Bool.or_eq_true, decide_eq_true_eq, bne_iff_ne, ne_eq, not_and_or, not_lt, not_not, or_assoc]

section
variable {f : Fabric} {p h slot : Nat}

theorem Fabric.raiseCall_refused (ill : ¬f.callLegal p h slot) (edge : Nat) :
    f.raiseCall p h slot edge = f.setPlot p { f.plot p with refusedCalls := sat32 ((f.plot p).refusedCalls + 1) } :=
  if_pos ((f.refusal_iff p h slot).mpr ill)
theorem Fabric.raiseCall_accepted (ok : f.callLegal p h slot) (free : (f.plot (f.seqPlot p)).call = none) (edge : Nat) :
    f.raiseCall p h slot edge = f.setPlot (f.seqPlot p) { f.plot (f.seqPlot p) with call := some { slot := slot, edge := edge, port := p } } := by
  unfold raiseCall
  dsimp only
  rw [if_neg ((f.refusal_iff p h slot).not_left.mpr ok), free]
theorem Fabric.raiseCall_lost (ok : f.callLegal p h slot) {c : Call} (held : (f.plot (f.seqPlot p)).call = some c) {edge : Nat}
    (first : ¬(c.edge = edge ∧ p < c.port)) : f.raiseCall p h slot edge = f.loseCall p := by
  unfold raiseCall
  dsimp only
  rw [if_neg ((f.refusal_iff p h slot).not_left.mpr ok), held]
  exact if_neg (by simpa using first)
theorem Fabric.raiseCall_displaces (ok : f.callLegal p h slot) {c : Call} (held : (f.plot (f.seqPlot p)).call = some c) {edge : Nat}
    (same : c.edge = edge) (higher : p < c.port) :
    f.raiseCall p h slot edge =
      (f.loseCall c.port).setPlot (f.seqPlot p) { (f.loseCall c.port).plot (f.seqPlot p) with call := some { slot := slot, edge := edge, port := p } } := by
  unfold raiseCall
  dsimp only
  rw [if_neg ((f.refusal_iff p h slot).not_left.mpr ok), held]
  exact if_pos (by simp [same, higher])

/-! ## HAND_CALL at an edge (R117) -/

/-- The effect of HAND_CALL on the fabric once the port asks for the slot. -/
def Fabric.portCalls (f : Fabric) (p h slot edge : Nat) : Fabric := (f.acted p 4166).raiseCall p h slot edge

/-- At an edge HAND_CALL acts once the port asks for the slot, and otherwise only the edges have passed. -/
theorem execHandCall_at {s u : State} {p : PlotIx} {edge h : Nat} (k : s.atEdge p.val edge = some (u, h)) (slot : BitVec 6) :
    exec (.handCall p slot edge) s = .next (if (u.fab.plot p.val).field 4166 1 = 1 ∧ (u.fab.plot p.val).field 4160 6 = slot.toNat
      then u.onFab fun f => f.portCalls p.val h slot.toNat edge else u) := by
  change execHandCall p slot edge s = _
  unfold execHandCall
  rw [k]
  simp only [Bool.and_eq_true, decide_eq_true_eq]
  split <;> rfl

theorem Fabric.portCalls_refused (ill : ¬f.callLegal p h slot) (edge : Nat) :
    f.plotsDiffer (f.portCalls p h slot edge) [p] ∧
      (f.portCalls p h slot edge).plot p = { (f.plot p).done 4166 with refusedCalls := min 4294967295 ((f.plot p).refusedCalls + 1) } := by
  unfold portCalls
  rw [raiseCall_refused (by simpa using ill)]
  refine ⟨plotsDiffer_setPlot (plotsDiffer_acted f (by simp) _) (by simp) _, ?_⟩
  simp [sat32_eq_min, Plot.done]
theorem Fabric.portCalls_accepted (ok : f.callLegal p h slot) (free : (f.plot (f.seqPlot p)).call = none) (edge : Nat) :
    f.plotsDiffer (f.portCalls p h slot edge) [p, f.seqPlot p] ∧
      ((f.portCalls p h slot edge).plot (f.seqPlot p)).call = some { slot := slot, edge := edge, port := p } ∧
      ((f.portCalls p h slot edge).plot p).lostCalls = (f.plot p).lostCalls ∧ ((f.portCalls p h slot edge).plot p).refusedCalls = (f.plot p).refusedCalls := by
  unfold portCalls
  rw [raiseCall_accepted (by simpa using ok) (by simpa using free), acted_seqPlot]
  refine ⟨plotsDiffer_setPlot (plotsDiffer_acted f (by simp) _) (by simp) _, by simp, ?_⟩
  rw [setPlot_plot]
  split
  · next e => rw [← e, acted_plot_self]; exact ⟨rfl, rfl⟩
  · rw [acted_plot_self]; exact ⟨rfl, rfl⟩
theorem Fabric.portCalls_lost (ok : f.callLegal p h slot) {c : Call} (held : (f.plot (f.seqPlot p)).call = some c) {edge : Nat}
    (first : ¬(c.edge = edge ∧ p < c.port)) :
    f.plotsDiffer (f.portCalls p h slot edge) [p] ∧
      (f.portCalls p h slot edge).plot p = { (f.plot p).done 4166 with lostCalls := min 4294967295 ((f.plot p).lostCalls + 1) } := by
  unfold portCalls
  rw [raiseCall_lost (by simpa using ok) (by simpa using held) first]
  refine ⟨plotsDiffer_setPlot (plotsDiffer_acted f (by simp) _) (by simp) _, ?_⟩
  simp [loseCall, sat32_eq_min, Plot.done]
theorem Fabric.portCalls_displaces (ok : f.callLegal p h slot) {c : Call} (held : (f.plot (f.seqPlot p)).call = some c) {edge : Nat}
    (same : c.edge = edge) (higher : p < c.port) :
    f.plotsDiffer (f.portCalls p h slot edge) [p, f.seqPlot p, c.port] ∧
      ((f.portCalls p h slot edge).plot (f.seqPlot p)).call = some { slot := slot, edge := edge, port := p } ∧
      ((f.portCalls p h slot edge).plot c.port).lostCalls = min 4294967295 ((f.plot c.port).lostCalls + 1) := by
  have other : (f.acted p 4166).plot c.port = f.plot c.port := by rw [acted_plot, if_neg higher.ne']
  have counted : (((f.acted p 4166).loseCall c.port).plot c.port).lostCalls = min 4294967295 ((f.plot c.port).lostCalls + 1) := by
    simp [loseCall, other, sat32_eq_min]
  unfold portCalls
  rw [raiseCall_displaces (by simpa using ok) (by simpa using held) same higher, acted_seqPlot]
  refine ⟨plotsDiffer_setPlot (plotsDiffer_setPlot (plotsDiffer_acted f (by simp) _) (by simp) _) (by simp) _, by simp, ?_⟩
  rw [setPlot_plot]
  split
  · next e => rw [← e]; exact counted
  · exact counted

end

/-- Settles O32: the port's signal is acted on and the call is raised; its four outcomes are those of `raiseCall`. -/
theorem handCallOutcomes : Obligations.HandCallOutcomes := by
  unfold Obligations.HandCallOutcomes
  intro p h slot edge s u k x q asked legal mine plotsOnly
  have acts (a : asked) : exec (.handCall p slot edge) s = .next (u.onFab fun f => f.portCalls p.val h slot.toNat edge) := by
    rw [execHandCall_at k, if_pos a]
  have passes (silent : x.field 4166 1 = 0) : exec (.handCall p slot edge) s = .next u := by
    rw [execHandCall_at k, if_neg fun a => by simp [x, a.1] at silent]
  refine ⟨fun a ill => ?_, fun a ok free => ?_, fun c a ok held first => ?_, fun c a ok held same higher => ?_, passes⟩
  · obtain ⟨frame, counted⟩ := Fabric.portCalls_refused ill edge
    exact ⟨_, acts a, frame.onFab, counted⟩
  · obtain ⟨frame, outcome⟩ := Fabric.portCalls_accepted ok free edge
    exact ⟨_, acts a, frame.onFab, outcome⟩
  · obtain ⟨frame, counted⟩ := Fabric.portCalls_lost ok held first
    exact ⟨_, acts a, frame.onFab, counted⟩
  · obtain ⟨frame, outcome⟩ := Fabric.portCalls_displaces ok held same higher
    exact ⟨_, acts a, frame.onFab, outcome⟩

end Sys2Proof.Machine
end

section
/-! PROOF. The retirement of an engine instruction that writes general registers alone (R248, R269, R612–R632), the values of the immediate, shift, bit-field and bit-counting operations, CRC and HASH (R272, R273), and the statement about them. -/

namespace Sys2Proof.Machine

/-! ## What counting and sampling change (R612–R632) -/

/-- Of the state, only plot p's engine record, the slot counters and the queues of plot p's store differ. -/
structure State.countsDiffer (s t : State) (p : Nat) : Prop where
  frame : t = { s with eng := { s.eng with engines := t.eng.engines, slots := t.eng.slots }, net := { s.net with queues := t.net.queues } }
  engine : ∀ j, j ≠ p → t.eng.engine j = s.eng.engine j
  queue : ∀ q, q / 64 ≠ p → t.net.queue q = s.net.queue q

theorem State.countsDiffer_refl (s : State) (p : Nat) : s.countsDiffer s p := ⟨rfl, fun _ _ => rfl, fun _ _ => rfl⟩
theorem State.countsDiffer.trans {s t u : State} {p : Nat} (k : s.countsDiffer t p) (l : t.countsDiffer u p) : s.countsDiffer u p where
  frame := by rw [l.frame, k.frame]
  engine j ne := (l.engine j ne).trans (k.engine j ne)
  queue q ne := (l.queue q ne).trans (k.queue q ne)
theorem State.countsDiffer_setEngine (s : State) (p : Nat) (x : Engines → Engine) : s.countsDiffer (s.onEng fun e => e.setEngine p (x e)) p :=
  ⟨rfl, fun j ne => by simp [ne], fun _ _ => rfl⟩
theorem State.countsDiffer_setQueue (s : State) (p : Nat) {q : Nat} (mine : q / 64 = p) (x : Queue) : s.countsDiffer (s.onNet fun n => n.setQueue q x) p where
  frame := rfl
  engine _ _ := rfl
  queue j ne := by
    have other : j ≠ q := by rintro rfl; exact ne mine
    simp [Net.queue, Net.setQueue, other]

/-- Writes to slot counters change nothing else of the engines. -/
theorem Engines.foldl_setSlotCnt (p : Nat) (v : Engines → Nat → SlotCnt) (l : List Nat) (e : Engines) :
    l.foldl (fun e k => e.setSlotCnt p k (v e k)) e = { e with slots := (l.foldl (fun e k => e.setSlotCnt p k (v e k)) e).slots } := by
  induction l generalizing e with
  | nil => rfl
  | cons k l ih => rw [List.foldl_cons, ih]; rfl
/-- The counting of slots and cycles writes the slot counters and the plot's engine record (R612–R615). -/
theorem Engines.account_eq_setEngine (e : Engines) (p h draw : Nat) : ∃ l x, e.account p h draw = ({ e with slots := l } : Engines).setEngine p x :=
  ⟨_, _, congrArg (Engines.setEngine · p _) (foldl_setSlotCnt p _ (List.range 8) e)⟩
theorem State.account_countsDiffer (s : State) (p h draw : Nat) : s.countsDiffer (s.onEng fun e => e.account p h draw) p := by
  obtain ⟨l, x, account⟩ := s.eng.account_eq_setEngine p h draw
  simp only [onEng, account]
  exact ⟨rfl, fun j ne => (Engines.setEngine_engine ..).trans (if_neg ne), fun _ _ => rfl⟩
theorem State.countMemCorr_countsDiffer (s : State) (p n : Nat) : s.countsDiffer (countMemCorr s p n) p := by
  unfold countMemCorr
  split
  · exact s.countsDiffer_refl p
  · exact s.countsDiffer_setEngine p _
theorem State.countPmc_countsDiffer (s : State) (p h : Nat) (events : List Nat) : s.countsDiffer (s.countPmc p h events) p := by
  unfold countPmc
  split
  · exact s.countsDiffer_refl p
  · exact s.countsDiffer_setEngine p _

theorem sampleQ_lt (w : BitVec 16) : sampleQ w < 64 := Nat.mod_lt _ (by decide)
/-- A sample record goes to a queue of the plot's own store, or counts as lost (R631). -/
theorem pushSample_countsDiffer (s : State) (p seat : Nat) {q : Nat} (le : q < 64) (rec : BitVec 256) : s.countsDiffer (pushSample s p seat q rec) p := by
  have mine : (64 * p + q) / 64 = p := by omega
  unfold pushSample
  dsimp only
  split
  · split
    · exact s.countsDiffer_setQueue p mine _
    · exact s.countsDiffer_setEngine p _
  · exact s.countsDiffer_setEngine p _
theorem sampleOne_countsDiffer (p h seat : Nat) (a : State × Bool) (j pc : Nat) (word : Word) (outcome : Nat) (taken : Bool) :
    a.1.countsDiffer (sampleOne p h seat a j pc word outcome taken).1 p := by
  unfold sampleOne
  dsimp only
  split
  · exact (a.1.countsDiffer_setEngine p _).trans (pushSample_countsDiffer _ p seat (sampleQ_lt _) _)
  · exact a.1.countsDiffer_setEngine p _
theorem State.sample_countsDiffer (s : State) (p h pc : Nat) (word : Word) (outcome : Nat) (taken : Bool) :
    s.countsDiffer (s.sample p h pc word outcome taken) p := by
  unfold sample
  split
  · exact s.countsDiffer_refl p
  · split
    · exact s.countsDiffer_refl p
    · refine State.countsDiffer.trans (List.foldlRecOn (motive := fun a : State × Bool => s.countsDiffer a.1 p) _ _ (s.countsDiffer_refl p) ?_) (sampleOne_countsDiffer ..)
      exact fun a k j _ => k.trans (sampleOne_countsDiffer ..)

theorem State.countsDiffer.unsampled {s t : State} {p : Nat} (k : s.countsDiffer t p) {q h : Nat} (off : s.unsampled q h) : t.unsampled q h := by
  rw [k.frame]; exact off
/-- The sampler does nothing for a thread that is not sampled. -/
theorem State.sample_unsampled {s : State} {p h : Nat} (off : s.unsampled p h) (pc : Nat) (word : Word) (outcome : Nat) (taken : Bool) :
    s.sample p h pc word outcome taken = s := by
  unfold sample
  split
  · rfl
  · next seat owned => simp [off seat owned]
@[simp] theorem State.countPmc_net (s : State) (p h : Nat) (events : List Nat) : (s.countPmc p h events).net = s.net := by unfold countPmc; split <;> rfl
@[simp] theorem countMemCorr_net (s : State) (p n : Nat) : (countMemCorr s p n).net = s.net := by unfold countMemCorr; split <;> rfl

/-- An instruction's retirement draws, counts and samples; with no sampling the queue network stays. -/
theorem State.retired'_countsDiffer (s : State) (p h pc : Nat) (word : Word) (events : List Nat) (outcome : Nat) (taken : Bool) :
    ∃ t, s.retired' p h pc word events outcome taken = t.drawn ∧ s.countsDiffer t p ∧ (s.unsampled p h → t.net = s.net) := by
  have counted := (s.account_countsDiffer p h s.aon.free).trans (countPmc_countsDiffer _ p h events)
  refine ⟨_, rfl, counted.trans (sample_countsDiffer ..), fun off => ?_⟩
  rw [sample_unsampled (counted.unsampled off)]
  simp

/-! ## An instruction that writes registers and retires (R248, R269) -/

theorem State.countsDiffer.setThread {s t : State} {p : Nat} (k : s.countsDiffer t p) (h : Nat) (x : Thread) :
    (s.onEng fun e => e.setThread p h x).countsDiffer (t.onEng fun e => e.setThread p h x) p where
  frame := by rw [k.frame]; rfl
  engine := k.engine
  queue := k.queue
theorem State.countsDiffer.thread {s t : State} {p : Nat} (k : s.countsDiffer t p) (q h : Nat) : t.eng.thread q h = s.eng.thread q h := by
  rw [k.frame]; rfl

/-- Once thread h of plot p has been written, twice, and nothing else but records differs, a retirement has changed registers only. -/
theorem retired'_registersOnly {s u : State} {p h : Nat} {x y : Thread}
    (k : ((s.onEng fun e => e.setThread p h x).onEng fun e => e.setThread p h y.discardInFlight).countsDiffer u p) (still : u.net = s.net)
    (pc : Nat) (word : Word) (events : List Nat) (outcome : Nat) (taken : Bool) : registersOnly s (u.retired' p h pc word events outcome taken) p h y := by
  obtain ⟨t, drawn, counted, quiet⟩ := u.retired'_countsDiffer p h pc word events outcome taken
  have l := k.trans counted
  rw [drawn]
  refine ⟨⟨?frame, ?threads, l.engine, ?_, ?_, ?_, ?_⟩, ?thread, ?_, ?_, ?_, l.queue, fun off => (quiet (k.unsampled off)).trans still⟩
  case threads =>
    intro j other
    rw [l.frame]
    simp [Engines.setThread, other]
  case thread => exact (l.thread p h).trans (by simp [Thread.discardInFlight])
  all_goals rw [l.frame]; rfl

theorem EngEnd.finish_retire (s : State) (npc : Word) (events : List Nat) (taken : Bool) (p h pc : Nat) (word : Word) :
    (EngEnd.retire s npc events taken).finish p h pc word =
      (s.onEng fun e => e.setThread p h ({ s.eng.thread p h with pc := npc } : Thread).discardInFlight).retired' p h pc word (0x01 :: events) 0 taken := rfl

/-- A retirement that has written the thread, and nothing else, changes registers only. -/
theorem finish_retire_registersOnly (s : State) (p h : Nat) (x : Thread) (npc : Word) (events : List Nat) (taken : Bool) (n pc : Nat) (word : Word) :
    registersOnly s (((EngEnd.retire (s.onEng fun e => e.setThread p h x) npc events taken).counted p n).finish p h pc word) p h { x with pc := npc } := by
  have corrected := (s.onEng fun e => e.setThread p h x).countMemCorr_countsDiffer p n
  have written : (countMemCorr (s.onEng fun e => e.setThread p h x) p n).eng.thread p h = x := (corrected.thread p h).trans (by simp)
  rw [EngEnd.counted, EngEnd.finish_retire, written]
  exact retired'_registersOnly (corrected.setThread h _) (by simp) ..

section
variable {s : State} {p h : Nat} {i : EngInsn} {body : State → Thread → EngEnd}

/-- An instruction that retires with its thread written, and nothing else, changes registers only. -/
theorem State.executes.retire_registersOnly (k : s.executes p h i) {x : Thread} {npc : Word} {events : List Nat} {taken : Bool}
    (retires : body s (s.eng.thread p h) = .retire (s.onEng fun e => e.setThread p h x) npc events taken) :
    registersOnly s (engStep s p h i body) p h { x with pc := npc } := by
  obtain ⟨runs, fetched, word, legal⟩ := k
  rw [engStep_executes s p h i body runs fetched word legal, retires]
  exact finish_retire_registersOnly ..

/-- A command whose meaning is an instruction that retires with v in rd leaves v in rd and goes on at pc + 4. -/
theorem exec_writes_register {c : Instr} {rd : RegIx} {w v : Word} (meaning : exec c s = .next (engStep s p h i body))
    (retires : body s (s.eng.thread p h) = retireReg s p h (s.eng.thread p h) rd w []) (value : w = v) (k : s.executes p h i) :
    ∃ t, exec c s = .next t ∧ registersOnly s t p h { (s.eng.thread p h).setReg rd v with pc := (s.eng.thread p h).pc + 4 } :=
  ⟨_, meaning, value ▸ k.retire_registersOnly retires⟩

end

/-! ## Values (R272, R273) -/

theorem clzBits_le (a : Word) (n : Nat) : clzBits a n ≤ n := by
  induction n with
  | zero => exact Nat.le_refl 0
  | succ n ih =>
    unfold clzBits
    split <;> omega

/-- The leading zeros of the low n bits: the value that the bits spell has no bit in their places, and, when it is not 0, a bit right below them. -/
theorem clzBits_spec (a : Word) (n : Nat) :
    a.toNat % 2 ^ n < 2 ^ (n - clzBits a n) ∧ (clzBits a n < n → 2 ^ (n - 1 - clzBits a n) ≤ a.toNat % 2 ^ n) := by
  induction n with
  | zero => simp [clzBits, Nat.mod_one]
  | succ n ih =>
    have parts : a.toNat % 2 ^ (n + 1) = a.toNat % 2 ^ n + 2 ^ n * (a.getLsbD n).toNat := by
      rw [Nat.mod_pow_succ, BitVec.getLsbD, Nat.toNat_testBit]
    unfold clzBits
    cases top : a.getLsbD n with
    | true =>
      simp only [top, Bool.toNat_true] at parts
      exact ⟨Nat.mod_lt _ (Nat.two_pow_pos _), fun _ => by simp; omega⟩
    | false =>
      have here : n + 1 - (1 + clzBits a n) = n - clzBits a n := by omega
      have below : n + 1 - 1 - (1 + clzBits a n) = n - 1 - clzBits a n := by omega
      simp only [top, Bool.toNat_false, Nat.mul_zero, Nat.add_zero] at parts
      simp only [Bool.false_eq_true, if_false, here, below, parts]
      exact ⟨ih.1, fun l => ih.2 (by omega)⟩

/-- CLZ's result as a word. -/
theorem clz_word_spec (a : Word) :
    let v : Word := BitVec.ofNat 32 (clzBits a 32)
    v.toNat ≤ 32 ∧ a.toNat < 2 ^ (32 - v.toNat) ∧ (v.toNat < 32 → 2 ^ (31 - v.toNat) ≤ a.toNat) := by
  have le := clzBits_le a 32
  have spec := clzBits_spec a 32
  rw [Nat.mod_eq_of_lt a.isLt] at spec
  have toNat : (BitVec.ofNat 32 (clzBits a 32)).toNat = clzBits a 32 := Nat.mod_eq_of_lt (by omega)
  simp only [toNat]
  exact ⟨le, spec⟩

/-- The set bits of the low n bits, counted one by one. -/
theorem popNat_eq_length (n x : Nat) : popNat n x = ((List.range n).filter fun i => x.testBit i).length := by
  induction n generalizing x with
  | zero => rfl
  | succ n ih =>
    have rest : (fun i => (x / 2).testBit i) = (fun i => x.testBit i) ∘ Nat.succ := by
      funext i; simp [Nat.testBit_succ]
    rw [popNat, ih, List.range_succ_eq_map, List.filter_cons, List.filter_map, rest]
    rcases Nat.mod_two_eq_zero_or_one x with e | e <;> simp [Nat.testBit_zero, e, Nat.add_comm]

/-- One step of CRC-32C. -/
def crcBit (c : Word) : Word := if c.getLsbD 0 then (c >>> 1) ^^^ 0x82F63B78 else c >>> 1

/-- n steps of CRC-32C are a fold of one step. -/
theorem crcBits_eq_foldl (c : Word) (n : Nat) : crcBits c n = (List.range n).foldl (fun c _ => crcBit c) c := by
  induction n generalizing c with
  | zero => rfl
  | succ n ih => rw [List.range_succ_eq_map, List.foldl_cons, List.foldl_map, crcBits, ih]; rfl
/-- CRC-32C takes bytes 0 to n − 1 of b, byte 0 first. -/
theorem crcStep_eq_foldl (c b : Word) (n : Nat) :
    crcStep c b n = (List.range n).foldl (fun c i => crcBits (c ^^^ ((b >>> (8 * i)) &&& 0xFF)) 8) c := by
  induction n generalizing c b with
  | zero => rfl
  | succ n ih =>
    rw [List.range_succ_eq_map, List.foldl_cons, List.foldl_map, crcStep, ih]
    simp only [← BitVec.shiftRight_add, Nat.succ_eq_add_one, Nat.mul_add, Nat.mul_one, Nat.mul_zero, BitVec.ushiftRight_zero, Nat.add_comm 8]

theorem zext16_shiftLeft_16 (v : BitVec 16) : zext16 v <<< 16 = BitVec.ofNat 32 (65536 * v.toNat) := by
  apply BitVec.eq_of_toNat_eq
  have := v.isLt
  simp [zext16, Nat.shiftLeft_eq]
  omega

/-- BFX of n + 1 bits, bit by bit. -/
theorem bfx_getLsbD (a : Word) (pos n : Nat) {i : Nat} (low : i < 32) : (bfx a pos (n + 1)).getLsbD i = (decide (i ≤ n) && a.getLsbD (pos + i)) := by
  rw [bfx, BitVec.getLsbD_ofNat, Nat.testBit_mod_two_pow, Nat.testBit_shiftRight]
  simp [low, BitVec.getLsbD]
/-- BFI of n + 1 bits, bit by bit. -/
theorem bfi_getLsbD (d a : Word) (pos n : Nat) {i : Nat} (low : i < 32) :
    (bfi d a pos (n + 1)).getLsbD i = if pos ≤ i ∧ i ≤ pos + n then a.getLsbD (i - pos) else d.getLsbD i := by
  have field : pos ≤ i ∧ i ≤ pos + n ↔ pos ≤ i ∧ i - pos < n + 1 := by omega
  rw [bfi, BitVec.getLsbD_or, BitVec.getLsbD_and, BitVec.getLsbD_not, BitVec.getLsbD_ofNat, BitVec.getLsbD_ofNat, Nat.testBit_shiftLeft, Nat.testBit_shiftLeft,
    Nat.testBit_two_pow_sub_one, Nat.testBit_mod_two_pow]
  simp only [field, low, decide_true, Bool.true_and]
  by_cases above : pos ≤ i <;> by_cases within : i - pos < n + 1 <;> simp [above, within, BitVec.getLsbD]

theorem ofNat_concat_words (hi lo : Word) : BitVec.ofNat 64 (hi.toNat * 4294967296 + lo.toNat) = hi ++ lo := by
  apply BitVec.eq_of_toNat_eq
  have := hi.isLt
  have := lo.isLt
  rw [BitVec.toNat_append, BitVec.toNat_ofNat, Nat.mod_eq_of_lt (by omega), ← Nat.shiftLeft_add_eq_or_of_lt lo.isLt, Nat.shiftLeft_eq]

/-- Settles O45: each instruction's meaning writes rd, HASH rd and rd + 1, and retires; the values are those of the lemmas above. -/
theorem engineImmediatesAndBits : Obligations.EngineImmediatesAndBits := by
  unfold Obligations.EngineImmediatesAndBits
  intro p h rd ra rb imm sh pos len n s x a bits8 gives
  -- ADDI, ANDI, ORI, XORI; LUI; SLLI, SRLI, SRAI, RORI; CLZ, POPC, CRC, BFX, BFI, HASH
  refine ⟨exec_writes_register rfl rfl rfl, exec_writes_register rfl rfl rfl, exec_writes_register rfl rfl rfl, exec_writes_register rfl rfl rfl,
    exec_writes_register rfl rfl (zext16_shiftLeft_16 imm),
    exec_writes_register rfl rfl rfl, exec_writes_register rfl rfl rfl, exec_writes_register rfl rfl rfl, exec_writes_register rfl rfl rfl,
    ?clz, exec_writes_register rfl rfl (congrArg _ (popNat_eq_length 32 a.toNat)), exec_writes_register rfl rfl ?crc, ?bfx, ?bfi, ?hash⟩
  case clz =>
    obtain ⟨le, above, below⟩ := clz_word_spec a
    exact ⟨_, le, above, below, exec_writes_register rfl rfl rfl⟩
  case crc =>
    simp only [crcStep_eq_foldl, crcBits_eq_foldl]
    rfl
  case bfx =>
    exact ⟨_, fun _ low => bfx_getLsbD _ _ _ low, exec_writes_register rfl rfl rfl⟩
  case bfi =>
    exact ⟨_, fun _ low => bfi_getLsbD _ _ _ _ low, exec_writes_register rfl rfl rfl⟩
  case hash =>
    intro k
    refine ⟨_, _, _, rfl, rfl, rfl, k.retire_registersOnly (taken := false) (events := []) ?_⟩
    simp only [hashStep, ofNat_concat_words, BitVec.setWidth_ushiftRight_eq_extractLsb]
    rfl

end Sys2Proof.Machine
end

section
/-! PROOF. The housekeeping round: what its stages leave of the time base, the mode and the housekeeping record, and the statements about the round's record and the governor (R584–R601, R611). -/

namespace Sys2Proof.Machine

/-! ## What no effect on hands, queues, risers, links and seats touches -/

/-- The AON domain but for the draw counter, and the housekeeping sequencer. -/
def State.sequencer (s : State) : Aon × Hk := ({ s.aon with free := 0 }, s.mc.hk)

@[simp] theorem State.onFab_sequencer (s : State) (g : Fabric → Fabric) : (s.onFab g).sequencer = s.sequencer := rfl
@[simp] theorem State.onNet_sequencer (s : State) (g : Net → Net) : (s.onNet g).sequencer = s.sequencer := rfl
@[simp] theorem State.onEng_sequencer (s : State) (g : Engines → Engines) : (s.onEng g).sequencer = s.sequencer := rfl
@[simp] theorem State.onStk_sequencer (s : State) (g : Stack → Stack) : (s.onStk g).sequencer = s.sequencer := rfl
@[simp] theorem State.onLnk_sequencer (s : State) (g : Links → Links) : (s.onLnk g).sequencer = s.sequencer := rfl
@[simp] theorem State.onMap_sequencer (s : State) (g : FallowMap → FallowMap) : (s.onMap g).sequencer = s.sequencer := rfl
@[simp] theorem State.onSeat_sequencer (s : State) (k : Nat) (g : SeatRec → SeatRec) : (s.onSeat k g).sequencer = s.sequencer := rfl
@[simp] theorem State.raise_sequencer (s : State) (e : Event) : (s.raise e).sequencer = s.sequencer := rfl
@[simp] theorem State.raiseAll_sequencer (s : State) (l : List Event) : (s.raiseAll l).sequencer = s.sequencer := rfl
@[simp] theorem State.raiseOnce_sequencer (s : State) (e : Event) (k : Nat) : (s.raiseOnce e k).sequencer = s.sequencer := by simp [sequencer]
@[simp] theorem State.drawn_sequencer (s : State) : s.drawn.sequencer = s.sequencer := rfl
@[simp] theorem State.send_sequencer (s : State) (r : Reply) : (s.send r).sequencer = s.sequencer := rfl
/-- A change of the management engines that leaves the housekeeping sequencer. -/
theorem State.onMc_sequencer (s : State) {g : Mc → Mc} (keeps : (g s.mc).hk = s.mc.hk) : (s.onMc g).sequencer = s.sequencer :=
  Prod.ext rfl keeps

/-- What each step of a fold leaves, the fold leaves. -/
theorem foldl_leaves {α β σ : Type} (v : σ → β) {g : σ → α → σ} (leaves : ∀ s a, v (g s a) = v s) (l : List α) (s : σ) : v (l.foldl g s) = v s :=
  List.foldlRecOn (motive := fun t => v t = v s) l g rfl fun t k a _ => (leaves t a).trans k

/-! ## Turns and sessions -/

@[simp] theorem endStream_sequencer (s : State) (k : Nat) : (endStream s k).sequencer = s.sequencer := by
  unfold endStream
  rw [State.onSeat_sequencer]
  split
  · split
    · split <;> rfl
    · rfl
  · rfl
@[simp] theorem endSession_sequencer (s : State) (k : Nat) : (endSession s k).sequencer = s.sequencer := by
  simp only [endSession, endSeg, State.onSeat_sequencer, apply_ite State.sequencer, endStream_sequencer, ite_self]
@[simp] theorem sendReply_sequencer (s : State) (r : Reply) : (sendReply s r).sequencer = s.sequencer := by
  simp [sendReply, wearSession, apply_ite State.sequencer]
@[simp] theorem respond_sequencer (s : State) (r : Req) (func err aux : Nat) (data : List Byte) : (respond s r func err aux data).sequencer = s.sequencer := by
  simp [respond, apply_ite State.sequencer]
theorem pushReply_sequencer {s t : State} {k q rank : Nat} {r : Reply} (pushed : pushReply s k q rank r = some t) : t.sequencer = s.sequencer := by
  unfold pushReply at pushed
  dsimp only at pushed
  split at pushed
  · cases pushed
  · split at pushed
    · cases pushed
    · cases pushed
      rfl
@[simp] theorem answerTurn_sequencer (s : State) (k : Nat) (t : Turn) (err : Nat) (data : List Byte) : (answerTurn s k t err data).sequencer = s.sequencer := by
  unfold answerTurn
  dsimp only
  split
  · simp
  · next r rq rank _ _ =>
    generalize pushed : pushReply _ k rq rank _ = u
    cases u with
    | none => rfl
    | some u => exact (pushReply_sequencer pushed).trans (s.onSeat_sequencer k _)
  · rfl
@[simp] theorem turnFailed_sequencer (s : State) (k : Nat) (t : Turn) (rep : Report) : (turnFailed s k t rep).sequencer = s.sequencer := by
  simp [turnFailed, apply_ite State.sequencer]
@[simp] theorem discardDue_sequencer (s : State) (scope : Item → Bool) : (discardDue s scope).sequencer = s.sequencer := by
  unfold discardDue
  dsimp only
  split
  · rfl
  · rw [foldl_leaves State.sequencer, foldl_leaves State.sequencer]
    all_goals
      intro u x
      split <;> simp

/-! ## Seed streams -/

@[simp] theorem completeImage_sequencer (s : State) (k : Nat) (t : Stream) : (completeImage s k t).sequencer = s.sequencer := by
  unfold completeImage closeStream
  dsimp only
  rw [State.onSeat_sequencer]
  split <;> split
  all_goals simp [apply_ite State.sequencer]
@[simp] theorem nextSection_sequencer (s : State) (k : Nat) : (nextSection s k).sequencer = s.sequencer := by
  unfold nextSection onStream
  dsimp only
  split
  · split
    · split
      · simp
      · rfl
    · rfl
  · rfl
@[simp] theorem refuseSection_sequencer (s : State) (k index sub reason detail : Nat) : (refuseSection s k index sub reason detail).sequencer = s.sequencer := by
  simp [refuseSection, refuse, onStream]
@[simp] theorem sweepSections_sequencer (s : State) : (sweepSections s).sequencer = s.sequencer := by
  unfold sweepSections
  refine foldl_leaves State.sequencer (fun u k => ?_) _ _
  split
  · split
    · simp [apply_ite State.sequencer]
    · rfl
  · rfl

/-! ## Ports, feed domains -/

@[simp] theorem rxStop_sequencer (s : State) (n cause : Nat) : (rxStop s n cause).sequencer = s.sequencer := by
  unfold rxStop
  split
  · rfl
  · split <;> rfl
@[simp] theorem portEvent_sequencer (s : State) (n code b : Nat) : (portEvent s n code b).sequencer = s.sequencer := by
  unfold portEvent
  split <;> simp
@[simp] theorem lockLost_sequencer (s : State) (n : Nat) : (lockLost s n).sequencer = s.sequencer := by
  simp [lockLost, State.onPort, apply_ite State.sequencer]
@[simp] theorem abortTest_sequencer (s : State) (cause : Nat) : (abortTest s cause).sequencer = s.sequencer := by
  simp [abortTest, apply_ite State.sequencer, State.onMc_sequencer]
@[simp] theorem showStops_sequencer (s : State) (sel : Nat × Queue → Nat → Bool) : (s.showStops sel).sequencer = s.sequencer := rfl
@[simp] theorem feedRequests_sequencer (s : State) (d : Nat) : (feedRequests s d).sequencer = s.sequencer := by
  unfold feedRequests
  dsimp only
  split <;> rfl
@[simp] theorem feedReset_sequencer (s : State) (d : Nat) : (feedReset s d).sequencer = s.sequencer := by
  unfold feedReset
  dsimp only
  rw [State.drawn_sequencer, State.raiseAll_sequencer, State.onNet_sequencer, feedRequests_sequencer, foldl_leaves State.sequencer,
    showStops_sequencer, apply_ite State.sequencer, abortTest_sequencer, discardDue_sequencer, ite_self]
  exact fun _ _ => rfl

/-! ## Fallowing, lanes -/

@[simp] theorem passSome_sequencer (s : State) (p : Nat) : (s.passSome p).sequencer = s.sequencer := by
  unfold State.passSome
  dsimp only
  split
  · rw [State.drawn_sequencer, (State.passEdges_keeps ..).1]
    rfl
  · rfl
@[simp] theorem fallowPlot_sequencer (s : State) (p : Nat) : (fallowPlot s p).sequencer = s.sequencer := by
  simp [fallowPlot, apply_ite State.sequencer]
@[simp] theorem answerB_sequencer (s : State) (src : MemSrc) (resp : Nat) (data : BitVec 512) : (answerB s src resp data).sequencer = s.sequencer := by
  unfold answerB
  dsimp only
  split <;> rfl
@[simp] theorem writeBackResp_sequencer (s : State) (p line resp : Nat) : (writeBackResp s p line resp).sequencer = s.sequencer := by
  unfold writeBackResp
  dsimp only
  split
  · rfl
  · split
    · rfl
    · split
      · rfl
      · split
        · rw [State.raise_sequencer, State.onEng_sequencer]
        · rw [State.onEng_sequencer]
@[simp] theorem answerWrite_sequencer (s : State) (p line resp : Nat) (src : MemSrc) : (answerWrite s p line resp src).sequencer = s.sequencer := by
  cases src <;> simp only [answerWrite, apply_ite State.sequencer, State.onFab_sequencer, State.onLnk_sequencer, writeBackResp_sequencer, answerB_sequencer, ite_self]
@[simp] theorem answerAll_sequencer (s : State) (p line resp : Nat) (l : List MemSrc) : (answerAll s p line resp l).sequencer = s.sequencer :=
  foldl_leaves State.sequencer (fun u x => answerWrite_sequencer u p line resp x) l s
@[simp] theorem riserDownTraffic_sequencer (s : State) (p : Nat) : (riserDownTraffic s p).sequencer = s.sequencer := by
  simp only [riserDownTraffic, foldl_leaves State.sequencer, State.onFab_sequencer, State.onStk_sequencer, answerAll_sequencer, answerB_sequencer, implies_true]
@[simp] theorem laneFailed_sequencer (s : State) (p lane : Nat) : (laneFailed s p lane).sequencer = s.sequencer := by
  unfold laneFailed
  dsimp only
  split <;> simp [riserEntry, apply_ite State.sequencer]
@[simp] theorem bondFailed_sequencer (s : State) (p g : Nat) : (bondFailed s p g).sequencer = s.sequencer := by
  simp [bondFailed, apply_ite State.sequencer]
@[simp] theorem finding_sequencer (s : State) (f : Finding) : (finding s f).sequencer = s.sequencer := by
  cases f <;> simp [finding, apply_ite State.sequencer, foldl_leaves State.sequencer]

/-! ## What a round hands on from stage to stage -/

/-- Time, and what of the housekeeping sequencer is fixed when a round's readings are taken. -/
structure RoundRecord where
  now : Nat
  rounds : Nat
  horizon : Nat
  roundTime : Nat
  temps : List (Nat × Option Int)
  hottest : Option Int

/-- What the governor changes of a rail, but for the count of rounds at step 15: step, calm count and past readings. -/
def Rail.governed (r : Rail) : Nat × Nat × List (Nat × Int) := (r.step, r.calm, r.hist)

/-- The record, with power, mode and the governed part of every rail. -/
structure RoundView where
  record : RoundRecord
  powered : Bool
  mode : Option Mode
  rails : Nat → Nat × Nat × List (Nat × Int)

def State.roundRecord (s : State) : RoundRecord :=
  { now := s.aon.now, rounds := s.mc.hk.rounds, horizon := s.mc.hk.horizon, roundTime := s.mc.hk.roundTime, temps := s.mc.hk.temps, hottest := s.mc.hk.hottest }
def State.roundView (s : State) : RoundView :=
  { record := s.roundRecord, powered := s.aon.powered, mode := s.aon.mode, rails := fun k => (s.mc.hk.rail k).governed }

section
variable {s t : State}

theorem State.roundView_of_sequencer (h : t.sequencer = s.sequencer) : t.roundView = s.roundView :=
  congrArg (fun x : Aon × Hk => RoundView.mk ⟨x.1.now, x.2.rounds, x.2.horizon, x.2.roundTime, x.2.temps, x.2.hottest⟩ x.1.powered x.1.mode fun k => (x.2.rail k).governed) h
theorem State.roundRecord_of_view (h : t.roundView = s.roundView) : t.roundRecord = s.roundRecord := congrArg RoundView.record h
theorem State.stackHeld_of_mode (p : t.aon.powered = s.aon.powered) (m : t.aon.mode = s.aon.mode) : t.stackHeld = s.stackHeld := by
  simp only [stackHeld, stackOn, p, m]
theorem State.stackHeld_of_view (h : t.roundView = s.roundView) : t.stackHeld = s.stackHeld :=
  stackHeld_of_mode (congrArg RoundView.powered h) (congrArg RoundView.mode h)
theorem State.limp_of_view (h : t.roundView = s.roundView) : t.limp = s.limp := congrArg (fun v => v.mode == some .limp) h

end

/-! ## The shutdown sequence (R532, R593) -/

theorem dropHeldWrites_sequencer (s : State) : (dropHeldWrites s).sequencer = s.sequencer := by
  unfold dropHeldWrites
  rw [foldl_leaves State.sequencer]
  · rfl
  · exact fun _ _ => rfl
theorem dropHeldFill_sequencer (s : State) : (dropHeldFill s).sequencer = s.sequencer := by
  unfold dropHeldFill
  rw [foldl_leaves State.sequencer]
  · rfl
  · intro u e
    simp [apply_ite State.sequencer]
theorem powerDown_roundRecord (s : State) : (powerDown s).roundRecord = s.roundRecord :=
  calc (powerDown s).roundRecord
    _ = (dropHeldFill s).roundRecord := rfl
    _ = s.roundRecord := State.roundRecord_of_view (State.roundView_of_sequencer (dropHeldFill_sequencer s))
theorem powerDown_mode (s : State) : (powerDown s).aon.mode = some .fallow := rfl

/-- The state that the shutdown sequence reaches before it marks a rail and tells the seats. -/
def State.stackDown (s : State) : State := if s.stackHeld then powerDown (dropHeldWrites (discardDue s fun _ => true)) else s

theorem State.stackDown_roundRecord (s : State) : s.stackDown.roundRecord = s.roundRecord := by
  unfold stackDown
  split
  · rw [powerDown_roundRecord]
    exact roundRecord_of_view (roundView_of_sequencer ((dropHeldWrites_sequencer _).trans (discardDue_sequencer _ _)))
  · rfl
theorem State.stackDown_stackHeld (s : State) : s.stackDown.stackHeld = false := by
  unfold stackDown
  split
  · simp [stackHeld, stackOn, powerDown_mode]
  · next off => simpa using off
/-- Beyond taking the stack down, the shutdown sequence sets the latch, shows a rail's fault and raises events. -/
theorem shutdown_eq (s : State) (cause detail : Nat) : ∃ (g : Hk → Hk) (l : List Event),
    (g = id ∨ g = fun h => h.setRail (cause - 64) { h.rail (cause - 64) with state := 5 }) ∧
      shutdown s cause detail = ((s.stackDown.onAon fun a => { a with thermalLatch := true }).onHk g).raiseAll l := by
  unfold shutdown
  dsimp only
  split
  · exact ⟨_, _, .inr rfl, rfl⟩
  · exact ⟨id, _, .inl rfl, rfl⟩
theorem shutdown_roundRecord (s : State) (cause detail : Nat) : (shutdown s cause detail).roundRecord = s.roundRecord := by
  obtain ⟨g, l, rfl | rfl, e⟩ := shutdown_eq s cause detail <;> exact e ▸ s.stackDown_roundRecord
theorem shutdown_stackHeld (s : State) (cause detail : Nat) : (shutdown s cause detail).stackHeld = false := by
  obtain ⟨g, l, -, e⟩ := shutdown_eq s cause detail
  exact e ▸ s.stackDown_stackHeld

/-! ## The stages of a round before the governor (R585, R587) -/

/-- Reading the monitors starts the shutdown sequence, or leaves what a round hands on. -/
theorem readMonitors_cases (s : State) (env : RoundEnv) :
    ∃ t, t.roundView = s.roundView ∧ (readMonitors s env = t ∨ ∃ cause detail, readMonitors s env = shutdown t cause detail) := by
  unfold readMonitors
  extract_lets record out h counted feeds count read lost
  have same : lost.roundView = s.roundView := by
    refine (State.roundView_of_sequencer ?_).trans (rfl : read.roundView = s.roundView)
    simp only [lost, apply_ite State.sequencer, foldl_leaves State.sequencer lockLost_sequencer, ite_self]
  split
  · exact ⟨lost, same, .inr ⟨_, _, rfl⟩⟩
  · refine ⟨_, (State.roundView_of_sequencer (foldl_leaves State.sequencer (fun u d => ?_) feeds lost)).trans same, .inl rfl⟩
    simp only [apply_ite State.sequencer, feedReset_sequencer, ite_self]
theorem readMonitors_roundRecord (s : State) (env : RoundEnv) : (readMonitors s env).roundRecord = s.roundRecord := by
  obtain ⟨t, same, e | ⟨_, _, e⟩⟩ := readMonitors_cases s env
  · exact e ▸ State.roundRecord_of_view same
  · rw [e, shutdown_roundRecord]
    exact State.roundRecord_of_view same
/-- While the stack stays powered, no shutdown sequence has run. -/
theorem readMonitors_roundView {s : State} {env : RoundEnv} (held : (readMonitors s env).stackHeld = true) : (readMonitors s env).roundView = s.roundView := by
  obtain ⟨t, same, e | ⟨_, _, e⟩⟩ := readMonitors_cases s env
  · exact e ▸ same
  · rw [e, shutdown_stackHeld] at held
    cases held

theorem clockFault_roundView (s : State) (p : Pll) : (clockFault s p).roundView = s.roundView := by
  cases p <;> simp only [clockFault, apply_ite State.roundView]
  case mc => rfl
  all_goals exact ite_self _
@[simp] theorem testLimits_sequencer (s : State) (env : RoundEnv) : (testLimits s env).sequencer = s.sequencer := by
  unfold testLimits
  extract_lets u
  have same : u.sequencer = s.sequencer := by
    unfold u
    split <;> simp [apply_ite State.sequencer]
  simp [apply_ite State.sequencer, same]
@[simp] theorem sweepShare_sequencer (s : State) (env : RoundEnv) : (sweepShare s env).sequencer = s.sequencer := by
  simp [sweepShare, apply_ite State.sequencer, foldl_leaves State.sequencer finding_sequencer]
@[simp] theorem rotationRound_sequencer (s : State) : (rotationRound s).sequencer = s.sequencer := by
  unfold rotationRound
  dsimp only
  rw [State.onFab_sequencer]
  refine foldl_leaves State.sequencer (fun u o => ?_) _ _
  split <;> simp

/-- New voltages and currents of some rails leave the governed part of each. -/
theorem foldl_readings_governed (m : Nat → Nat × Nat) (l : List Nat) (t : List (Nat × Rail)) (k : Nat) :
    (tget {} (l.foldl (fun t j => tput {} t j { tget ({} : Rail) t j with mv := (m j).1, ma := (m j).2 }) t) k).governed = (tget {} t k).governed := by
  refine foldl_leaves (fun t : List (Nat × Rail) => (tget {} t k).governed) (fun t j => ?_) l t
  dsimp only
  rw [tget_tput]
  split
  · next e => rw [e]; rfl
  · rfl
/-- Reading the rails leaves what a round hands on. -/
theorem readRails_roundView (s : State) (env : RoundEnv) : (readRails s env).roundView = s.roundView := by
  have rails (k : Nat) : ((readRails s env).mc.hk.rail k).governed = (s.mc.hk.rail k).governed := by
    unfold readRails
    simp only [State.onHk_mc, Hk.rail]
    exact foldl_readings_governed (fun k => if s.stackHeld then env.rails.getD k (0, 0) else (0, 0)) (List.range 5) s.mc.hk.rails k
  exact congrArg (RoundView.mk s.roundRecord s.aon.powered s.aon.mode) (funext rails)

/-- HOUSEKEEPING_ROUND from the reading of the monitors up to the governor. -/
def State.gathered (s : State) (env : RoundEnv) : State :=
  rotationRound ((sweepShare (testLimits (env.clockFaults.foldl clockFault (readRails (readMonitors s env) env)) env) env).onFab
    fun f => (List.range 32).foldl (fun f b => f.setBank b ((f.bank b).round b (env.banks.getD b 0))) f)

theorem State.gathered_roundView (s : State) (env : RoundEnv) : (s.gathered env).roundView = (readMonitors s env).roundView :=
  calc (s.gathered env).roundView
    _ = (env.clockFaults.foldl clockFault (readRails (readMonitors s env) env)).roundView := roundView_of_sequencer (by simp [gathered])
    _ = (readRails (readMonitors s env) env).roundView := foldl_leaves roundView clockFault_roundView _ _
    _ = (readMonitors s env).roundView := readRails_roundView _ _

/-! ## The governor (R540, R596–R599) -/

section
variable (r : Rail) (limpStack : Bool) (horizon start : Nat) (x : Int)

/-- A rail's readings with this round's in front, the last 8 kept. -/
def Rail.readings : List (Nat × Int) := ((start, x) :: r.hist).take 8

theorem Rail.govern_hist : (r.govern limpStack horizon start x).hist = r.readings start x := by
  unfold govern readings
  dsimp only
  split_ifs <;> rfl
theorem Rail.govern_step : (r.govern limpStack horizon start x).step =
    if limpStack then 15
    else if predictsHot (r.readings start x) horizon then min (r.step + 1) 15
    else if predictsHot (r.readings start x) (2 * horizon) then r.step
    else if r.calm + 1 = 64 then r.step - 1 else r.step := by
  unfold govern readings
  dsimp only
  split_ifs <;> simp_all
theorem Rail.govern_calm : (r.govern limpStack horizon start x).calm =
    if limpStack || predictsHot (r.readings start x) horizon || predictsHot (r.readings start x) (2 * horizon) || decide (r.calm + 1 = 64) then 0 else r.calm + 1 := by
  unfold govern readings
  dsimp only
  split_ifs <;> simp_all

end

/-- The governor's rule reads of a rail its governed part only. -/
theorem Rail.govern_governed {r u : Rail} (same : r.governed = u.governed) (limpStack : Bool) (horizon start : Nat) (x : Int) :
    (r.govern limpStack horizon start x).governed = (u.govern limpStack horizon start x).governed := by
  cases r
  cases u
  obtain ⟨rfl, rfl, rfl⟩ := by simpa [governed] using same
  simp only [governed, govern_step, govern_calm, govern_hist, readings]
  rfl

/-- Until there are 8 rounds the prediction is the present reading (R598). -/
theorem predictsHot_of_short {l : List (Nat × Int)} {h start : Nat} {x : Int} (short : ((start, x) :: l).length < 8) :
    predictsHot ((start, x) :: l) h = true ↔ 29440 ≤ x := by
  unfold predictsHot
  rw [List.getElem?_eq_none (by omega)]
  exact decide_eq_true_iff
/-- From 8 rounds on, the prediction lies on the line through the first and the last reading (R598). -/
theorem predictsHot_of_line {l : List (Nat × Int)} {h start t7 : Nat} {x x7 : Int} (last : ((start, x) :: l)[7]? = some (t7, x7)) (rises : t7 < start) :
    predictsHot ((start, x) :: l) h = true ↔ (29440 : Int) * ((start : Int) - t7) ≤ x * ((start : Int) - t7) + (x - x7) * (h * 1000000) := by
  unfold predictsHot
  rw [last]
  dsimp only
  rw [if_neg (by omega)]
  exact decide_eq_true_iff

/-- The temperature that governs rail k (R591, R597). -/
def railTemp (temps : List (Nat × Option Int)) (k : Nat) : Int := match hottestOf temps (railSensors k) with | some t => t.2 | none => hotLevel
/-- Rail k at the end of a round. -/
def Hk.governedRail (h : Hk) (limp : Bool) (k : Nat) : Rail := (h.rail k).govern (limp && decide (k < 4)) h.horizon h.roundTime (railTemp h.temps k)

/-- Governing some rails one after another steps each of them by its own record, and leaves the others. -/
theorem Hk.foldl_governedRail (limp : Bool) (l : List Nat) (nodup : l.Nodup) (h : Hk) :
    ∃ rails, l.foldl (fun h k => h.setRail k (h.governedRail limp k)) h = { h with rails := rails } ∧
      ∀ k, Hk.rail { h with rails := rails } k = if k ∈ l then h.governedRail limp k else h.rail k := by
  induction l generalizing h with
  | nil => exact ⟨h.rails, rfl, fun _ => rfl⟩
  | cons j l ih =>
    obtain ⟨fresh, rest⟩ := List.nodup_cons.1 nodup
    obtain ⟨rails, frame, each⟩ := ih rest (h.setRail j (h.governedRail limp j))
    refine ⟨rails, frame, fun k => (each k).trans ?_⟩
    by_cases e : k = j
    · subst e
      simp [fresh]
    · have other : (h.setRail j (h.governedRail limp j)).governedRail limp k = h.governedRail limp k := by simp [governedRail, railTemp, e]
      simp [e, other]

/-- The governor's step for rail k, with its attention (R601). -/
def governRail (limp : Bool) (s : State) (k : Nat) : State :=
  let n := s.mc.hk.governedRail limp k
  let t := s.onHk fun h => h.setRail k n
  if stepRaised (s.mc.hk.rail k).step n.step then t.raiseAll (eventsFor allSeats 0x0602 0x2202 k n.step) else t

theorem governRail_aon (limp : Bool) (s : State) (k : Nat) : (governRail limp s k).aon = s.aon := by
  simp [governRail, apply_ite State.aon]
theorem governRail_hk (limp : Bool) (s : State) (k : Nat) : (governRail limp s k).mc.hk = s.mc.hk.setRail k (s.mc.hk.governedRail limp k) := by
  unfold governRail
  dsimp only
  split <;> rfl

/-- Of a state that the governor has gone through some rails of, only those rails and attention differ. -/
theorem foldl_governRail (limp : Bool) {l : List Nat} (nodup : l.Nodup) (s : State) :
    ∃ rails, (l.foldl (governRail limp) s).aon = s.aon ∧ (l.foldl (governRail limp) s).mc.hk = { s.mc.hk with rails := rails } ∧
      ∀ k ∈ l, Hk.rail { s.mc.hk with rails := rails } k = s.mc.hk.governedRail limp k := by
  obtain ⟨rails, frame, each⟩ := s.mc.hk.foldl_governedRail limp l nodup
  have hk : (l.foldl (governRail limp) s).mc.hk = l.foldl (fun h k => h.setRail k (h.governedRail limp k)) s.mc.hk :=
    (List.foldl_hom (fun t : State => t.mc.hk) fun t k => (governRail_hk limp t k).symm).symm
  exact ⟨rails, foldl_leaves State.aon (governRail_aon limp) l s, hk.trans frame, fun k m => (each k).trans (if_pos m)⟩
theorem govern_of_held {s : State} (held : s.stackHeld = true) : ∃ armed : Hk → Bool,
    govern s = ((List.range 5).foldl (governRail s.limp) s).onHk fun h => { h with limpArmed := armed h } := by
  unfold govern
  rw [if_neg (by simp [held])]
  exact ⟨_, rfl⟩
/-- With the stack powered the governor steps each of the five rails by its own record, and otherwise none; it leaves the AON domain and the round's record. -/
theorem govern_cases (s : State) : ∃ rails armed, (govern s).aon = s.aon ∧ (govern s).mc.hk = { s.mc.hk with rails := rails, limpArmed := armed } ∧
    (s.stackHeld = true → ∀ k < 5, Hk.rail { s.mc.hk with rails := rails } k = s.mc.hk.governedRail s.limp k) := by
  by_cases held : s.stackHeld = true
  · obtain ⟨rails, aon, hk, each⟩ := foldl_governRail s.limp List.nodup_range s
    obtain ⟨armed, governs⟩ := govern_of_held held
    refine ⟨rails, armed { s.mc.hk with rails := rails }, ?_, ?_, fun _ k low => each k (List.mem_range.2 low)⟩
    · rw [governs, State.onHk_aon, aon]
    · rw [governs, State.onHk_mc, hk]
  · refine ⟨s.mc.hk.rails, false, ?_, ?_, fun k => absurd k held⟩
    all_goals
      unfold govern
      rw [if_pos (by simpa using held)]
      rfl

theorem govern_roundRecord (s : State) : (govern s).roundRecord = s.roundRecord := by
  obtain ⟨rails, armed, aon, hk, -⟩ := govern_cases s
  simp only [State.roundRecord, aon, hk]
theorem govern_stackHeld (s : State) : (govern s).stackHeld = s.stackHeld := by
  obtain ⟨rails, armed, aon, -⟩ := govern_cases s
  exact State.stackHeld_of_mode (congrArg Aon.powered aon) (congrArg Aon.mode aon)
theorem govern_rail {s : State} (held : s.stackHeld = true) {k : Nat} (low : k < 5) : (govern s).mc.hk.rail k = s.mc.hk.governedRail s.limp k := by
  obtain ⟨rails, armed, -, hk, each⟩ := govern_cases s
  rw [hk]
  exact each held k low

/-! ## HOTTEST (R592) -/

/-- One sensor's turn in the search for the hottest. -/
def hotter (temps : List (Nat × Option Int)) (best : Option (Nat × Int)) (k : Nat) : Option (Nat × Int) :=
  match tget none temps k, best with
  | none, b => b
  | some t, none => some (k, t)
  | some t, some (j, u) => if u < t then some (k, t) else some (j, u)

theorem hottestOf_eq (temps : List (Nat × Option Int)) (l : List Nat) : hottestOf temps l = l.foldl (hotter temps) none := rfl

theorem foldl_hotter_some (temps : List (Nat × Option Int)) (l : List Nat) (j : Nat) (u : Int) :
    (l.foldl (hotter temps) (some (j, u))).map (·.2) = some ((l.filterMap (tget none temps)).foldl max u) := by
  induction l generalizing j u with
  | nil => rfl
  | cons k l ih =>
    rw [List.foldl_cons]
    cases read : tget none temps k with
    | none => simp [hotter, read, ih]
    | some t =>
      by_cases less : u < t
      · simp [hotter, read, ih, less, max_eq_right less.le]
      · simp [hotter, read, ih, less, max_eq_left (not_lt.1 less)]
/-- The hottest reading is the maximum of the valid ones. -/
theorem hottestOf_map_snd (temps : List (Nat × Option Int)) (l : List Nat) : (hottestOf temps l).map (·.2) = (l.filterMap (tget none temps)).max? := by
  rw [hottestOf_eq]
  induction l with
  | nil => rfl
  | cons k l ih =>
    rw [List.foldl_cons]
    cases read : tget none temps k with
    | none => simpa [hotter, read] using ih
    | some t => simp [hotter, read, foldl_hotter_some, List.max?]
theorem hottestOf_eq_some_iff (temps : List (Nat × Option Int)) (n : Nat) (x : Int) : (hottestOf temps (List.range n)).map (·.2) = some x ↔
    (∃ j < n, tget none temps j = some x) ∧ ∀ j < n, ∀ y, tget none temps j = some y → y ≤ x := by
  rw [hottestOf_map_snd, List.max?_eq_some_iff]
  simp only [List.mem_filterMap, List.mem_range]
  constructor
  · rintro ⟨⟨j, low, read⟩, most⟩
    exact ⟨⟨j, low, read⟩, fun k lk y rk => most y ⟨k, lk, rk⟩⟩
  · rintro ⟨⟨j, low, read⟩, most⟩
    exact ⟨⟨j, low, read⟩, fun y ⟨k, lk, rk⟩ => most k lk y rk⟩

/-! ## The round as a whole (R584–R587) -/

/-- A round's start: the readings of its frame become its own, and rules that act once in a round may act again (R323). -/
def State.roundStarted (s : State) : State :=
  let s := { s with seats := (s.seats.map fun (e : Nat × SeatRec) => (e.1, { e.2 with raised := [] })).filter fun e => e.2 != ({} : SeatRec) }
  let s := s.onStk fun k => { k with risers := (k.risers.map fun (e : Nat × Riser) => (e.1, { e.2 with recent := [] })).filter fun e => e.2 != ({} : Riser) }
  s.onHk fun h => { h with roundTime := s.aon.now, temps := h.frameTemps, hottest := (hottestOf h.frameTemps (List.range 64)).map (·.2) }
/-- A round's end: the ledger, the published record, and ROUNDS last. -/
def State.roundEnded (s : State) : State :=
  (s.onHk fun h => { h.wearRound s.stackHeld with railRec := h.rails, failedRec := h.failedRail }).onHk
    fun h => { h with rounds := wrap32 (h.rounds + 1), ledgerDue := h.ledgerDue || (h.rounds + 1) % 256 = 0 }

theorem Hk.wearRound_eq (h : Hk) (on : Bool) : ∃ wear, h.wearRound on = { h with wear := wear } := ⟨_, by unfold wearRound; with_reducible rfl⟩
/-- A round's end writes the ledger, the record and ROUNDS of the sequencer. -/
theorem State.roundEnded_eq (s : State) : ∃ wear, s.roundEnded = s.onHk fun h =>
    { h with wear := wear, railRec := h.rails, failedRec := h.failedRail, rounds := wrap32 (h.rounds + 1), ledgerDue := h.ledgerDue || (h.rounds + 1) % 256 = 0 } := by
  obtain ⟨wear, e⟩ := s.mc.hk.wearRound_eq s.stackHeld
  refine ⟨wear, ?_⟩
  simp only [roundEnded, onHk, e]
theorem State.roundEnded_roundRecord (s : State) : s.roundEnded.roundRecord = { s.roundRecord with rounds := (s.mc.hk.rounds + 1) % 4294967296 } := by
  obtain ⟨wear, e⟩ := s.roundEnded_eq
  simp only [e, roundRecord, onHk_mc, onHk_aon, wrap32]
theorem State.roundEnded_railRec (s : State) : s.roundEnded.mc.hk.railRec = s.roundEnded.mc.hk.rails := by
  obtain ⟨wear, e⟩ := s.roundEnded_eq
  simp only [e, onHk_mc]
theorem State.roundEnded_ledgerDue {s : State} (due : (s.mc.hk.rounds + 1) % 256 = 0) : s.roundEnded.mc.hk.ledgerDue = true := by
  obtain ⟨wear, e⟩ := s.roundEnded_eq
  simp [e, due]
theorem State.roundEnded_stackHeld (s : State) : s.roundEnded.stackHeld = s.stackHeld := by
  obtain ⟨wear, e⟩ := s.roundEnded_eq
  exact stackHeld_of_mode (by simp only [e, onHk_aon]) (by simp only [e, onHk_aon])
theorem State.roundEnded_rail (s : State) (k : Nat) : s.roundEnded.mc.hk.rail k = s.mc.hk.rail k := by
  obtain ⟨wear, e⟩ := s.roundEnded_eq
  simp only [e, onHk_mc, Hk.rail]

theorem exec_housekeepingRound {s : State} (up : s.mcUp = true) (env : RoundEnv) :
    exec (.housekeepingRound env) s = .next (govern (s.roundStarted.gathered env)).roundEnded := by
  change execHousekeepingRound env s = _
  unfold execHousekeepingRound
  rw [if_neg (by rw [up]; decide)]
  unfold State.roundEnded State.gathered State.roundStarted
  with_reducible rfl

theorem State.roundStarted_roundRecord (s : State) : s.roundStarted.roundRecord =
    { s.roundRecord with roundTime := s.aon.now, temps := s.mc.hk.frameTemps, hottest := (hottestOf s.mc.hk.frameTemps (List.range 64)).map (·.2) } := by
  simp only [roundStarted, roundRecord, onHk_mc, onHk_aon, onStk_mc, onStk_aon]
theorem State.roundStarted_limp (s : State) : s.roundStarted.limp = s.limp := rfl
theorem State.roundStarted_rail (s : State) (k : Nat) : s.roundStarted.mc.hk.rail k = s.mc.hk.rail k := rfl

/-- The governor finds the record with which the round has started. -/
theorem State.gathered_roundRecord (s : State) (env : RoundEnv) : (s.gathered env).roundRecord = s.roundRecord :=
  (roundRecord_of_view (s.gathered_roundView env)).trans (readMonitors_roundRecord s env)
/-- While the stack stays powered, the governor finds the mode and the rails, too. -/
theorem State.gathered_roundView_of_held {s : State} {env : RoundEnv} (held : (s.gathered env).stackHeld = true) : (s.gathered env).roundView = s.roundView := by
  have same := s.gathered_roundView env
  rw [stackHeld_of_view same] at held
  exact same.trans (readMonitors_roundView held)

/-- What a state publishes at a round's end when the stages have left the record with which the round has started. -/
theorem State.roundEnded_publishes {s u : State} (kept : u.roundRecord = s.roundStarted.roundRecord) :
    u.roundEnded.roundRecord = { s.roundStarted.roundRecord with rounds := (s.mc.hk.rounds + 1) % 4294967296 } ∧ u.roundEnded.mc.hk.railRec = u.roundEnded.mc.hk.rails ∧
      ((s.mc.hk.rounds + 1) % 256 = 0 → u.roundEnded.mc.hk.ledgerDue = true) := by
  have rounds : u.mc.hk.rounds = s.mc.hk.rounds := by
    rw [s.roundStarted_roundRecord] at kept
    exact congrArg RoundRecord.rounds kept
  refine ⟨?_, u.roundEnded_railRec, fun due => u.roundEnded_ledgerDue (rounds ▸ due)⟩
  rw [u.roundEnded_roundRecord, kept, rounds]
/-- The rail that the governor leaves, where it has found mode, record and rails of the round's start. -/
theorem State.governedRail_of_view {s u : State} (view : u.roundView = s.roundStarted.roundView) (k : Nat) :
    (u.mc.hk.governedRail u.limp k).governed =
      ((s.mc.hk.rail k).govern (s.limp && decide (k < 4)) s.mc.hk.horizon s.aon.now (railTemp s.mc.hk.frameTemps k)).governed := by
  have record := (roundRecord_of_view view).trans s.roundStarted_roundRecord
  have limp : u.limp = s.limp := (limp_of_view view).trans s.roundStarted_limp
  have rail : (u.mc.hk.rail k).governed = (s.mc.hk.rail k).governed :=
    (congrFun (congrArg RoundView.rails view) k).trans (congrArg Rail.governed (s.roundStarted_rail k))
  have horizon : u.mc.hk.horizon = s.mc.hk.horizon := congrArg RoundRecord.horizon record
  have start : u.mc.hk.roundTime = s.aon.now := congrArg RoundRecord.roundTime record
  have temps : u.mc.hk.temps = s.mc.hk.frameTemps := congrArg RoundRecord.temps record
  simp only [Hk.governedRail, limp, horizon, start, temps]
  exact Rail.govern_governed rail _ _ _ _

/-- A round publishes the record with which it has started and one more round; every 256th makes the ledger due. -/
theorem housekeepingRound_publishes {s : State} (up : s.mcUp = true) (env : RoundEnv) : ∃ t, exec (.housekeepingRound env) s = .next t ∧
    t.roundRecord = { s.roundStarted.roundRecord with rounds := (s.mc.hk.rounds + 1) % 4294967296 } ∧ t.mc.hk.railRec = t.mc.hk.rails ∧
      ((s.mc.hk.rounds + 1) % 256 = 0 → t.mc.hk.ledgerDue = true) :=
  ⟨_, exec_housekeepingRound up env, State.roundEnded_publishes ((govern_roundRecord _).trans (s.roundStarted.gathered_roundRecord env))⟩
/-- Where the stack stays powered, a round steps each rail from its state at the round's start. -/
theorem housekeepingRound_governs {s t : State} {env : RoundEnv} (up : s.mcUp = true) (runs : exec (.housekeepingRound env) s = .next t) (held : t.stackHeld = true)
    {k : Nat} (low : k < 5) : (t.mc.hk.rail k).governed =
      ((s.mc.hk.rail k).govern (s.limp && decide (k < 4)) s.mc.hk.horizon s.aon.now (railTemp s.mc.hk.frameTemps k)).governed := by
  have e : (govern (s.roundStarted.gathered env)).roundEnded = t := Host.Outcome.next.inj ((exec_housekeepingRound up env).symm.trans runs)
  have before : (s.roundStarted.gathered env).stackHeld = true := by rw [← govern_stackHeld, ← State.roundEnded_stackHeld, e, held]
  rw [← e, State.roundEnded_rail, govern_rail before low]
  exact State.governedRail_of_view (State.gathered_roundView_of_held before) k

/-- Settles O19: no stage between a round's start and its end touches the record, and HOTTEST is the maximum of the valid readings. -/
theorem roundPublishesItsRecord : Obligations.RoundPublishesItsRecord := by
  unfold Obligations.RoundPublishesItsRecord
  intro env s up
  obtain ⟨t, runs, record, railRec, ledger⟩ := housekeepingRound_publishes up env
  rw [s.roundStarted_roundRecord] at record
  have hottest : t.mc.hk.hottest = (hottestOf s.mc.hk.frameTemps (List.range 64)).map (·.2) := congrArg RoundRecord.hottest record
  refine ⟨t, runs, congrArg RoundRecord.rounds record, congrArg RoundRecord.roundTime record, congrArg RoundRecord.temps record, railRec, fun x => ?_, ledger,
    congrArg RoundRecord.now record⟩
  rw [hottest]
  exact hottestOf_eq_some_iff _ 64 x

/-- Settles O20: while the stack stays powered the governor finds the mode and the rails as they were at the round's start; the rest says what the rule of R599 gives. -/
theorem governorStepsRails : Obligations.GovernorStepsRails := by
  unfold Obligations.GovernorStepsRails
  constructor
  · intro env s t up _ runs held k low x n
    have same : (t.mc.hk.rail k).governed = n.governed := housekeepingRound_governs up runs held low
    simpa [Rail.governed] using same
  · intro r h start x hist
    have e : hist = r.readings start x := rfl
    clear_value hist
    subst e
    -- held at step 15; too hot; neither too hot nor calm; calm; calm for the 64th time; the prediction from 8 rounds on, and before
    refine ⟨by simp [Rail.govern_step], by simp [Rail.govern_calm], fun hot => ?_, fun cool near => ?_, fun cool far more => ?_, fun cool far last => ?_,
      fun t7 x7 => predictsHot_of_line, predictsHot_of_short⟩
    · simp [Rail.govern_step, Rail.govern_calm, hot]
    · simp [Rail.govern_step, Rail.govern_calm, cool, near]
    · simp [Rail.govern_step, Rail.govern_calm, cool, far, more.ne]
    · simp [Rail.govern_step, Rail.govern_calm, cool, far, last]

end Sys2Proof.Machine
end

section
/-! PROOF. What the model's operations leave of OTP and MRAM: all of it, or all but the fields that are not OTP's own (R635). -/

namespace Sys2Proof.Machine

/-- What of OTP and MRAM is OTP's own: all that commands write of the rest left out. -/
def Nv.otp (n : Nv) : Nv :=
  { lcMfg := n.lcMfg, lcOwn := n.lcOwn, lcDecom := n.lcDecom, svcCount := n.svcCount, provHash := n.provHash, duk := n.duk, serial := n.serial, idkeyX := n.idkeyX, idkeyY := n.idkeyY, fwKeyHash := n.fwKeyHash }
@[simp] theorem State.onMap_otp (s : State) (g : FallowMap → FallowMap) : (s.onMap g).nv.otp = s.nv.otp := rfl
@[simp] theorem State.onPort_nv (s : State) (n : Nat) (g : Port → Port) : (s.onPort n g).nv = s.nv := rfl
@[simp] theorem outcomeState_next (s t : State) : outcomeState s (.next t) = t := rfl

/-! ### Machine/Ops -/

@[simp] theorem tick_nv (s : State) : (tick s).nv = s.nv := by
  unfold tick
  simp only [State.onAon_nv, apply_ite State.nv, ite_self]

/-! ### Machine/Cache -/

@[simp] theorem writeBackResp_nv (s : State) (p line resp : Nat) : (writeBackResp s p line resp).nv = s.nv := by
  unfold writeBackResp
  dsimp only
  repeat' split
  all_goals simp only [State.onEng_nv, State.raise_nv]

/-! ### Machine/Fabric -/

@[simp] theorem State.edgeOn_nv (s : State) (t : State) (p : Nat) : (s.edgeOn t p).nv = t.nv := by
  unfold State.edgeOn
  dsimp only
  split <;> simp only [State.onFab_nv]
@[simp] theorem State.clockEdge_nv (s : State) (c : Nat × Nat) : (s.clockEdge c).nv = s.nv := by rw [(s.clockEdge_keeps c).1]
@[simp] theorem State.passEdges_nv (s : State) (p n : Nat) : (s.passEdges p n).nv = s.nv := by rw [(s.passEdges_keeps p n).1]
@[simp] theorem State.toEdge_nv (s : State) (p e : Nat) : (s.toEdge p e).nv = s.nv := by rw [(s.toEdge_keeps p e).1]
@[simp] theorem State.passSome_nv (s : State) (p : Nat) : (s.passSome p).nv = s.nv := by
  unfold passSome
  simp only [apply_ite State.nv, drawn_nv, passEdges_nv, ite_self]
@[simp] theorem State.showStops_nv (s : State) (sel : Nat × Queue → Nat → Bool) : (s.showStops sel).nv = s.nv := rfl
@[simp] theorem slotBoundary_nv (s : State) (p : Nat) : (slotBoundary s p).nv = s.nv := by
  unfold slotBoundary
  simp only [apply_ite State.nv, State.onFab_nv, State.toEdge_nv, ite_self]
@[simp] theorem State.wireFight_nv (s : State) (p wire edge khz : Nat) (ps : List Nat) : (s.wireFight p wire edge khz ps).nv = s.nv := by
  simp only [wireFight, toEdge_nv, onFab_nv]
@[simp] theorem handOrder_nv (s : State) (p h cmd : Nat) : (handOrder s p h cmd).nv = s.nv := by
  unfold handOrder
  split
  · rfl
  · simp only [apply_ite State.nv, State.onFab_nv, State.onMc_nv, State.passSome_nv, ite_self]
@[simp] theorem fallowPlot_otp (s : State) (p : Nat) : (fallowPlot s p).nv.otp = s.nv.otp := by
  unfold fallowPlot
  split
  · rfl
  · simp only [State.raiseAll_nv, State.onFab_nv, State.onNet_nv, State.onMap_otp, State.passSome_nv]
@[simp] theorem freezeHand_nv (s : State) (p h : Nat) : (freezeHand s p h).nv = s.nv := by
  unfold freezeHand
  split <;> simp only [apply_ite State.nv, State.onFab_nv, State.passSome_nv, ite_self]
@[simp] theorem patrolPlot_nv (s : State) (p h w : Nat) (upset : BitVec 72) : (patrolPlot s p h w upset).nv = s.nv := by
  unfold patrolPlot
  extract_lets f x e n correct frozen stopped double
  have corrected (m : BitVec 72) : (correct m).nv = s.nv := State.onFab_nv ..
  have held : stopped.nv = s.nv := by
    rw [State.onNet_nv, State.showStops_nv, freezeHand_nv, State.onFab_nv]
  have doubled : double.nv = s.nv := by
    unfold double
    split <;> simp only [State.raise_nv, held]
  repeat' split
  all_goals simp [corrected, doubled]

/-! ### Machine/Riser -/

@[simp] theorem countRetired_nv (s : State) (p resp : Nat) (n : Nat := 1) : (countRetired s p resp n).nv = s.nv := by
  unfold countRetired
  simp only [State.onStk_nv, apply_ite State.nv, ite_self]
@[simp] theorem riserEntry_nv (s : State) (p die kind source nsym sym1 sym0 : Nat) : (riserEntry s p die kind source nsym sym1 sym0).nv = s.nv := by
  unfold riserEntry
  exact State.onStk_nv ..
@[simp] theorem logLine_nv (s : State) (p a source : Nat) (e : LineErr) (spare : Bool := false) : (logLine s p a source e spare).nv = s.nv := by
  unfold logLine
  simp only [State.onStk_nv, State.raiseOnce_nv, State.raise_nv, apply_ite State.nv, ite_self]
@[simp] theorem noteHistory_nv (s : State) (p : Nat) (syms : List Nat) : (noteHistory s p syms).nv = s.nv := rfl
@[simp] theorem upsetLine_nv (s : State) (key : Nat) (upset : BitVec 640) : (upsetLine s key upset).nv = s.nv := by
  unfold upsetLine
  simp only [State.onStk_nv, apply_ite State.nv, ite_self]
@[simp] theorem readLine_nv (s : State) (p a source : Nat) (upset : BitVec 640) (needTag : Bool) : (readLine s p a source upset needTag).1.nv = s.nv := by
  unfold readLine
  dsimp only
  split <;> simp only [logLine_nv, noteHistory_nv, upsetLine_nv]
@[simp] theorem readSpare_nv (s : State) (c n : Nat) (upset : BitVec 640) : (readSpare s c n upset).nv = s.nv := by
  unfold readSpare
  dsimp only
  split <;> simp only [upsetLine_nv, noteHistory_nv, logLine_nv]
@[simp] theorem answerB_nv (s : State) (src : MemSrc) (resp : Nat) (data : BitVec 512) : (answerB s src resp data).nv = s.nv := by
  unfold answerB
  simp only [State.onStk_nv, State.onMc_nv, apply_ite State.nv, ite_self]
@[simp] theorem answerWrite_nv (s : State) (p line resp : Nat) (src : MemSrc) : (answerWrite s p line resp src).nv = s.nv := by
  cases src <;> simp only [answerWrite, apply_ite State.nv, State.onFab_nv, State.onLnk_nv, writeBackResp_nv, answerB_nv, ite_self]
@[simp] theorem answerAll_nv (s : State) (p line resp : Nat) (l : List MemSrc) : (answerAll s p line resp l).nv = s.nv :=
  foldl_leaves State.nv (fun u x => answerWrite_nv u p line resp x) l s
@[simp] theorem performEntry_nv (s : State) (p : Nat) (e : WcEntry) (upset : BitVec 640) : (performEntry s p e upset).nv = s.nv := by
  unfold performEntry
  dsimp only
  simp only [apply_ite State.nv, answerAll_nv, countRetired_nv, State.onStk_nv, readLine_nv]
  repeat' split
  all_goals simp only [answerAll_nv, State.onStk_nv, readLine_nv]
@[simp] theorem flushLine_nv (s : State) (p a : Nat) (upset : BitVec 640) : (flushLine s p a upset).nv = s.nv := by
  unfold flushLine
  dsimp only
  split <;> simp only [performEntry_nv, State.onStk_nv]
@[simp] theorem flushWhere_nv (s : State) (p : Nat) (g : Nat → Bool) : (flushWhere s p g).nv = s.nv :=
  foldl_leaves State.nv (fun u a => flushLine_nv u p a 0) _ s
@[simp] theorem enterWc_nv (s : State) (p a : Nat) (be : BitVec 64) (data : BitVec 512) (src : MemSrc) : (enterWc s p a be data src).nv = s.nv := by
  unfold enterWc
  dsimp only
  repeat' split
  all_goals simp only [flushLine_nv, State.onStk_nv]
@[simp] theorem State.fillRegion_nv (s : State) (p r : Nat) (g : Nat → BitVec 640) : (s.fillRegion p r g).nv = s.nv := rfl
@[simp] theorem requeueHeld_nv (s : State) (p r : Nat) : (requeueHeld s p r).nv = s.nv := by
  unfold requeueHeld
  dsimp only
  rw [State.onStk_nv]
  refine foldl_leaves State.nv (fun u e => foldl_leaves State.nv (fun v x => ?_) _ u) _ s
  repeat' split
  all_goals rfl
@[simp] theorem wipeRegion_nv (s : State) (p r : Nat) : (wipeRegion s p r).nv = s.nv := by
  unfold wipeRegion
  dsimp only
  split <;> simp only [State.fillRegion_nv, State.onStk_nv, requeueHeld_nv]
@[simp] theorem dropCached_nv (s : State) (p r : Nat) : (dropCached s p r).nv = s.nv := rfl
@[simp] theorem riserDownTraffic_nv (s : State) (p : Nat) : (riserDownTraffic s p).nv = s.nv := by
  simp only [riserDownTraffic, foldl_leaves State.nv, State.onFab_nv, State.onStk_nv, answerAll_nv, answerB_nv, implies_true]
@[simp] theorem abortTest_nv (s : State) (cause : Nat) : (abortTest s cause).nv = s.nv := by
  unfold abortTest
  simp only [State.onMc_nv, apply_ite State.nv, ite_self]
@[simp] theorem laneFailed_otp (s : State) (p lane : Nat) : (laneFailed s p lane).nv.otp = s.nv.otp := by
  unfold laneFailed
  dsimp only
  split <;> simp only [State.raiseAll_nv, riserEntry_nv, riserDownTraffic_nv, apply_ite State.nv, abortTest_nv, State.onMap_otp, ite_self]

/-! ### Machine/Queues -/

@[simp] theorem showRewind_nv (s : State) (p h qp sel : Nat) : (showRewind s p h qp sel).nv = s.nv := rfl
@[simp] theorem handPush_nv (s : State) (p h qp sel : Nat) (data : BitVec 256) (rank : Nat) (last : Option Nat) : (handPush s p h qp sel data rank last).nv = s.nv := by
  unfold handPush
  dsimp only
  repeat' split
  all_goals simp only [State.onNet_nv, showRewind_nv]
@[simp] theorem handAbort_nv (s : State) (p h qp sel : Nat) : (handAbort s p h qp sel).nv = s.nv := by
  unfold handAbort
  repeat' split
  all_goals simp only [State.onNet_nv]
@[simp] theorem handConsume_nv (s : State) (p h qp sel : Nat) (g : Queue → Queue) : (handConsume s p h qp sel g).nv = s.nv := by
  unfold handConsume
  repeat' split
  all_goals simp only [State.onNet_nv]
@[simp] theorem handPop_nv (s : State) (p h qp sel : Nat) : (handPop s p h qp sel).nv = s.nv := by
  unfold handPop
  simp only [State.onNet_nv, handConsume_nv, apply_ite State.nv, ite_self]
@[simp] theorem onQueue_nv (s : State) (q : BitVec 16) (g : Queue → Queue) : (onQueue s q g).nv = s.nv := by
  unfold onQueue
  simp only [State.onNet_nv, apply_ite State.nv, ite_self]

/-! ### Machine/BlockMem -/

@[simp] theorem bmErrors_nv (s : State) (p k a : Nat) (sbe dbe : Bool) : (bmErrors s p k a sbe dbe).nv = s.nv := by
  unfold bmErrors
  dsimp only
  split <;> simp only [State.onFab_nv, State.raiseOnce_nv, apply_ite State.nv, ite_self]
@[simp] theorem bmRead_nv (s : State) (p k : Nat) (portB : Bool) (addr : Nat) (other : Option BmW) (upset : BitVec 72) : (bmRead s p k portB addr other upset).nv = s.nv := by
  unfold bmRead
  simp only [bmErrors_nv, State.onFab_nv, apply_ite State.nv, ite_self]

/-! ### Machine/Links -/

@[simp] theorem portEvent_nv (s : State) (n code b : Nat) : (portEvent s n code b).nv = s.nv := by
  unfold portEvent
  repeat' split
  all_goals simp only [State.raiseOnce_nv]
@[simp] theorem quadPll_nv (s : State) (k : Nat) : (quadPll s k).nv = s.nv := rfl
@[simp] theorem rxStop_nv (s : State) (n cause : Nat) : (rxStop s n cause).nv = s.nv := by
  unfold rxStop
  dsimp only
  repeat' split
  all_goals simp only [State.onPort_nv, State.onNet_nv]
@[simp] theorem applyPower_nv (s : State) (n : Nat) (retrain : Bool) : (applyPower s n retrain).nv = s.nv := by
  unfold applyPower
  dsimp only
  simp only [quadPll_nv, apply_ite State.nv, State.onPort_nv, rxStop_nv, ite_self]
@[simp] theorem lockLost_nv (s : State) (n : Nat) : (lockLost s n).nv = s.nv := by
  unfold lockLost
  simp only [apply_ite State.nv, portEvent_nv, State.onPort_nv, rxStop_nv, ite_self]
@[simp] theorem discardRx_nv (s : State) (n : Nat) (bytes : List Byte) : (discardRx s n bytes).nv = s.nv := rfl
@[simp] theorem beginRx_nv (s : State) (n q i rank : Nat) (bytes : List Byte) : (beginRx s n q i rank bytes).nv = s.nv := rfl
@[simp] theorem finishRx_nv (s : State) (n : Nat) (r : RxPkt) (bytes : List Byte) : (finishRx s n r bytes).nv = s.nv := by
  unfold finishRx
  dsimp only
  repeat' split
  all_goals simp only [State.onPort_nv, State.onNet_nv]
@[simp] theorem judgeFrame_nv (s : State) (n : Nat) : (judgeFrame s n).nv = s.nv := by
  unfold judgeFrame
  dsimp only
  repeat' split
  all_goals simp only [State.onPort_nv, rxStop_nv, portEvent_nv, finishRx_nv]
@[simp] theorem txRecord_nv (s : State) (n : Nat) (t : TxPkt) : (txRecord s n t).nv = s.nv := by
  unfold txRecord
  dsimp only
  repeat' split
  all_goals simp only [State.onNet_nv]
@[simp] theorem portReset_nv (s : State) (n : Nat) : (portReset s n).nv = s.nv := by
  unfold portReset
  dsimp only
  split <;> simp only [txRecord_nv, rxStop_nv, State.onLnk_nv, quadPll_nv]

/-! ### Machine/RiserPort -/

@[simp] theorem portRequest_nv (s : State) (p h : Nat) (we : Bool) (line : BitVec 19) (be : BitVec 64) (data : BitVec 512) (tag : Byte) : (portRequest s p h we line be data tag).nv = s.nv := by
  unfold portRequest
  dsimp only
  repeat' split
  all_goals simp only [State.onFab_nv, countRetired_nv]
@[simp] theorem readAfter_nv (s : State) (p a : Nat) (src : MemSrc) (upset : BitVec 640) : (readAfter s p a src upset).1.nv = s.nv := by
  unfold readAfter
  dsimp only
  split <;> simp only [readLine_nv, flushLine_nv]
@[simp] theorem serveRead_nv (s : State) (p a : Nat) (src : MemSrc) (upset : BitVec 640) : (serveRead s p a src upset).1.nv = s.nv := by
  unfold serveRead
  dsimp only
  split <;> simp only [countRetired_nv, readAfter_nv]
@[simp] theorem fullWrite_nv (s : State) (p a : Nat) (src : MemSrc) (data : BitVec 512) : (fullWrite s p a src data).nv = s.nv := by
  simp only [fullWrite, performEntry_nv, flushLine_nv]
@[simp] theorem takeWrite_nv (s : State) (p a : Nat) (src : MemSrc) (be : BitVec 64) (data : BitVec 512) : (takeWrite s p a src be data).nv = s.nv := by
  simp only [takeWrite, apply_ite State.nv, fullWrite_nv, enterWc_nv, ite_self]
theorem serveB_nv {s t : State} {p : Nat} {x : HeldAcc} {upset : BitVec 640} (served : serveB s p x upset = some t) : t.nv = s.nv := by
  unfold serveB at served
  have read := readAfter_nv s p x.line x.src upset
  dsimp only at served
  (repeat' split at served) <;> cases served
  · simp only [answerB_nv, countRetired_nv]
  · exact takeWrite_nv ..
  · next e => rw [answerB_nv, ← read, e]
@[simp] theorem requestB_nv (s : State) (p : Nat) (x : HeldAcc) (upset : BitVec 640) : (requestB s p x upset).nv = s.nv := by
  unfold requestB
  dsimp only
  split
  · simp only [State.onStk_nv, upsetLine_nv]
  · cases served : serveB s p x upset with
    | none => simp only [Option.getD_none, State.onStk_nv, upsetLine_nv, flushLine_nv]
    | some t => exact serveB_nv served
@[simp] theorem retryB_nv (s : State) (p : Nat) : (retryB s p).nv = s.nv :=
  foldl_leaves State.nv (fun u x => requestB_nv u p x 0) _ _
@[simp] theorem serveWrite_nv (s : State) (p a : Nat) (src : MemSrc) (be : BitVec 64) (data : BitVec 512) : (serveWrite s p a src be data).nv = s.nv := by
  unfold serveWrite
  dsimp only
  repeat' split
  all_goals simp only [State.onFab_nv, countRetired_nv, takeWrite_nv, requestB_nv]

/-! ### Machine/Scratch -/

@[simp] theorem scratchEvent_nv (s : State) (w code : Nat) (once : Bool) : (scratchEvent s w code once).nv = s.nv := by
  unfold scratchEvent
  dsimp only
  repeat' split
  all_goals simp only [State.raiseOnce_nv, State.raise_nv]
@[simp] theorem scratchCorrected_nv (s : State) (w : Nat) : (scratchCorrected s w).nv = s.nv := by
  unfold scratchCorrected
  simp only [scratchEvent_nv, State.onNet_nv]
@[simp] theorem scratchUncorr_nv (s : State) (w : Nat) : (scratchUncorr s w).nv = s.nv := by
  unfold scratchUncorr
  simp only [scratchEvent_nv, State.onNet_nv]
@[simp] theorem scratchAccess_nv (s : State) (portB : Bool) (w : Nat) (write full : Bool) (rot len : Nat) (data : List Byte) (coll : Coll) :
    (scratchAccess s portB w write full rot len data coll).1.nv = s.nv := by
  unfold scratchAccess
  dsimp only
  repeat' split
  all_goals simp only [scratchUncorr_nv, scratchCorrected_nv, State.onNet_nv, State.drawn_nv]
@[simp] theorem scratchUpset_nv (s : State) (w : Nat) (upset : BitVec 144) : (scratchUpset s w upset).nv = s.nv := by
  unfold scratchUpset
  simp only [State.onNet_nv, apply_ite State.nv, ite_self]
theorem scratchServe_nv {s : State} {seat : Option Nat} {portB path : Bool} {req : BitVec 256} {write : Bool} {coll : Coll} {upset : BitVec 144} {r : State × BitVec 256}
    (served : scratchServe s seat portB path req write coll upset = some r) : r.1.nv = s.nv := by
  unfold scratchServe at served
  dsimp only at served
  (repeat' split at served) <;> cases served
  all_goals simp only [scratchAccess_nv, scratchUpset_nv]
@[simp] theorem scratchStep_nv (s : State) (r : Requester) (write : Bool) (coll : Coll) (upset : BitVec 144) : (scratchStep s r write coll upset).nv = s.nv := by
  unfold scratchStep
  split
  · rfl
  · cases r
    case hand =>
      dsimp only
      split
      next => rfl
      next =>
        split
        · rfl
        · split
          next => rfl
          next served => rw [State.onNet_nv]; exact scratchServe_nv served
    case thread =>
      dsimp only
      split
      next => rfl
      next =>
        split
        next => rfl
        next served => rw [State.onNet_nv]; exact scratchServe_nv served
@[simp] theorem scratchFetch_nv (s : State) (w : Nat) (full : Bool) (rot len : Nat) : (scratchFetch s w full rot len).1.nv = s.nv := by
  simp only [scratchFetch, apply_ite State.nv, State.drawn_nv, scratchAccess_nv, ite_self]
@[simp] theorem scratchReadWords_nv (n : Nat) (s : State) (w : Nat) : (scratchReadWords n s w).1.nv = s.nv := by
  induction n generalizing s w with
  | zero => rfl
  | succ n ih =>
    unfold scratchReadWords
    dsimp only
    split <;> simp only [ih, scratchFetch_nv]
@[simp] theorem scratchWriteWords_nv (n : Nat) (s : State) (w : Nat) (l : List Byte) : (scratchWriteWords n s w l).1.nv = s.nv := by
  induction n generalizing s w l with
  | zero => rfl
  | succ n ih =>
    unfold scratchWriteWords
    dsimp only
    repeat' split
    all_goals simp only [ih, scratchAccess_nv]

/-! ### Machine/Bulk -/

theorem bulkReply_nv {s t : State} {c rank : Nat} {l : List Byte} (sent : bulkReply s c rank l = some t) : t.nv = s.nv := by
  unfold bulkReply at sent
  dsimp only at sent
  (repeat' split at sent) <;> cases sent
  all_goals exact State.onNet_nv ..
theorem bulkAnswer_nv {s t : State} {c : Nat} {r : BulkReq} {q' : Queue} {op status addr : Nat} {payload : List Byte}
    (sent : bulkAnswer s c r q' op status addr payload = some t) : t.nv = s.nv := by
  unfold bulkAnswer at sent
  dsimp only at sent
  obtain ⟨u, replied, rfl⟩ := Option.map_eq_some_iff.mp sent
  rw [State.onLnk_nv, bulkReply_nv replied, State.onNet_nv]
@[simp] theorem bulkLines_nv (p seat : Nat) (c : Fin 64) (n : Nat) (s : State) (a : Nat) (l : List Byte) : (bulkLines p seat c n s a l).1.nv = s.nv := by
  induction n generalizing s a l with
  | zero => rfl
  | succ n ih =>
    unfold bulkLines
    dsimp only
    repeat' split
    all_goals simp only [ih, countRetired_nv, fullWrite_nv, State.onLnk_nv]
@[simp] theorem bulkGoOn_nv (s : State) (c : Fin 64) (seat : Nat) (r : BulkReq) : (bulkGoOn s c seat r).1.nv = s.nv := by
  unfold bulkGoOn
  dsimp only
  repeat' split
  all_goals simp only [bulkLines_nv, State.onLnk_nv]
@[simp] theorem bulkWords_nv (seat n : Nat) (s : State) (w : Nat) (l : List Byte) : (bulkWords seat n s w l).1.nv = s.nv := by
  induction n generalizing s w l with
  | zero => rfl
  | succ n ih =>
    unfold bulkWords
    dsimp only
    repeat' split
    all_goals simp only [ih, scratchAccess_nv]
@[simp] theorem seedAdvance_nv (s : State) (seat upTo : Nat) : (seedAdvance s seat upTo).nv = s.nv := rfl
theorem seedRelease_nv {seat n : Nat} {s t : State} (released : seedRelease seat n s = some t) : t.nv = s.nv := by
  induction n generalizing s with
  | zero => cases released; rfl
  | succ n ih =>
    unfold seedRelease at released
    dsimp only at released
    split at released
    · cases released; rfl
    · split at released
      · cases released
      · next replied => rw [ih released, bulkReply_nv replied, State.onLnk_nv, seedAdvance_nv]
theorem bulkSeed_nv {s t : State} {c seat : Nat} {r : BulkReq} {q' : Queue} (taken : bulkSeed s c seat r q' = some t) : t.nv = s.nv := by
  have released {u : State} {upTo : Nat} {g : State → State} (leaves : ∀ v, (g v).nv = v.nv)
      (e : ((bulkAnswer (seedAdvance s seat upTo) c r q' 4 0 r.addr []).map g).bind (seedRelease seat 1024) = some u) : u.nv = s.nv := by
    obtain ⟨w, mapped, rest⟩ := Option.bind_eq_some_iff.mp e
    obtain ⟨v, sent, rfl⟩ := Option.map_eq_some_iff.mp mapped
    rw [seedRelease_nv rest, leaves, bulkAnswer_nv sent, seedAdvance_nv]
  unfold bulkSeed at taken
  dsimp only at taken
  repeat' split at taken
  all_goals first
    | exact bulkAnswer_nv taken
    | exact released (fun v => v.onLnk_nv _) taken
    | (cases taken; rfl)
@[simp] theorem bulkReadLines_nv (p seat : Nat) (src : MemSrc) (n : Nat) (s : State) (a : Nat) : (bulkReadLines p seat src n s a).1.nv = s.nv := by
  induction n generalizing s a with
  | zero => rfl
  | succ n ih =>
    unfold bulkReadLines
    dsimp only
    repeat' split
    all_goals simp only [ih, countRetired_nv, readLine_nv, flushLine_nv]
@[simp] theorem bulkReadWords_nv (seat n : Nat) (s : State) (w : Nat) : (bulkReadWords seat n s w).1.nv = s.nv := by
  induction n generalizing s w with
  | zero => rfl
  | succ n ih =>
    unfold bulkReadWords
    dsimp only
    repeat' split
    all_goals simp only [ih, scratchFetch_nv]

/-! ### Machine/Kitty -/

@[simp] theorem kittyTrigger_nv (s : State) (k p reg : Nat) : (kittyTrigger s k p reg).nv = s.nv := by
  unfold kittyTrigger
  simp only [State.onMc_nv, apply_ite State.nv, ite_self]
@[simp] theorem writeKitty_nv (s : State) (p reg : Nat) (data : Word) (be : BitVec 4) : (writeKitty s p reg data be).nv = s.nv := by
  unfold writeKitty
  dsimp only
  repeat' split
  all_goals simp only [State.onFab_nv, State.onEng_nv]
@[simp] theorem kittyRefused_nv (s : State) (p h reg : Nat) : (kittyRefused s p h reg).nv = s.nv := by
  unfold kittyRefused
  dsimp only
  split <;> simp only [State.onFab_nv, State.raiseOnce_nv]
@[simp] theorem fabricKittyWrite_nv (s : State) (p h reg : Nat) (data : Word) (be : BitVec 4) : (fabricKittyWrite s p h reg data be).nv = s.nv := by
  unfold fabricKittyWrite
  dsimp only
  repeat' split
  all_goals simp only [writeKitty_nv, State.onFab_nv, kittyTrigger_nv, kittyRefused_nv]
@[simp] theorem fabricKittyRead_nv (s : State) (p h reg : Nat) : (fabricKittyRead s p h reg).nv = s.nv := by
  unfold fabricKittyRead
  simp only [kittyRefused_nv, State.onFab_nv, apply_ite State.nv, ite_self]
@[simp] theorem engineKittyWrite_nv (s : State) (p reg : Nat) (data : Word) : (engineKittyWrite s p reg data).nv = s.nv := by
  unfold engineKittyWrite
  dsimp only
  split <;> simp only [writeKitty_nv, State.onFab_nv, State.drawn_nv, apply_ite State.nv, ite_self]

/-! ### Machine/Operands -/

@[simp] theorem countMemCorr_nv (s : State) (p n : Nat) : (countMemCorr s p n).nv = s.nv := by
  unfold countMemCorr
  simp only [State.onEng_nv, apply_ite State.nv, ite_self]

/-! ### Machine/Pipeline -/

@[simp] theorem State.countPmc_nv (s : State) (p h : Nat) (events : List Nat) : (s.countPmc p h events).nv = s.nv := by
  unfold State.countPmc
  dsimp only
  split <;> simp only [State.onEng_nv]
@[simp] theorem pushSample_nv (s : State) (p seat q : Nat) (rec : BitVec 256) : (pushSample s p seat q rec).nv = s.nv := by
  unfold pushSample
  dsimp only
  split <;> simp only [State.onNet_nv, State.onEng_nv, apply_ite State.nv, ite_self]
@[simp] theorem sampleOne_nv (p h seat : Nat) (a : State × Bool) (j pc : Nat) (word : Word) (outcome : Nat) (taken : Bool) :
    (sampleOne p h seat a j pc word outcome taken).1.nv = a.1.nv := by
  rw [(sampleOne_countsDiffer p h seat a j pc word outcome taken).frame]
@[simp] theorem State.sample_nv (s : State) (p h pc : Nat) (word : Word) (outcome : Nat) (taken : Bool) : (s.sample p h pc word outcome taken).nv = s.nv := by
  rw [(s.sample_countsDiffer p h pc word outcome taken).frame]
@[simp] theorem State.retired'_nv (s : State) (p h pc : Nat) (word : Word) (events : List Nat) (outcome : Nat) (taken : Bool) :
    (s.retired' p h pc word events outcome taken).nv = s.nv := by
  obtain ⟨t, drawn, counted, -⟩ := s.retired'_countsDiffer p h pc word events outcome taken
  rw [drawn, drawn_nv, counted.frame]
@[simp] theorem takeTrap_nv (s : State) (p h cause info addr : Nat) : (takeTrap s p h cause info addr).nv = s.nv := by
  unfold takeTrap
  dsimp only
  split <;> simp only [State.onEng_nv, State.raise_nv]
/-- The state that an instruction's effect leaves. -/
def EngEnd.left : EngEnd → State
  | .retire s _ _ _ => s
  | .trap s _ _ _ => s
  | .wait s => s
@[simp] theorem EngEnd.left_retire (s : State) (npc : Word) (events : List Nat) (taken : Bool) : (EngEnd.retire s npc events taken).left = s := rfl
@[simp] theorem EngEnd.left_trap (s : State) (cause info addr : Nat) : (EngEnd.trap s cause info addr).left = s := rfl
@[simp] theorem EngEnd.left_wait (s : State) : (EngEnd.wait s).left = s := rfl
@[simp] theorem EngEnd.finish_nv (r : EngEnd) (p h pc : Nat) (word : Word) : (r.finish p h pc word).nv = r.left.nv := by
  cases r <;> simp only [finish, left, State.retired'_nv, State.onEng_nv, takeTrap_nv]
@[simp] theorem EngEnd.counted_nv (r : EngEnd) (p n : Nat) : (r.counted p n).left.nv = r.left.nv := by
  cases r <;> simp only [counted, left, countMemCorr_nv]
/-- An engine event leaves OTP and MRAM when its instruction's effect does. -/
theorem engStep_nv (s : State) (p h : Nat) (i : EngInsn) {body : State → Thread → EngEnd} (effect : ∀ t, (body s t).left.nv = s.nv) : (engStep s p h i body).nv = s.nv := by
  rcases engStep_cases s p h i body with e | ⟨c, n, a, w, e⟩ | ⟨r, n, w, k, e⟩ <;> rw [e]
  · exact EngEnd.finish_nv ..
  · rw [EngEnd.finish_nv, EngEnd.counted_nv]
    rcases k with rfl | ⟨c, m, a, rfl⟩
    · exact effect _
    · rfl
@[simp] theorem retireReg_nv (s : State) (p h : Nat) (t : Thread) (rd : RegIx) (v : Word) (events : List Nat) : (retireReg s p h t rd v events).left.nv = s.nv := rfl

/-! ### Machine/IsaMem -/

@[simp] theorem loadLocal_nv (s : State) (p h : Nat) (t : Thread) (rd ra : RegIx) (imm : BitVec 16) (upset : BitVec 39) : (loadLocal s p h t rd ra imm upset).left.nv = s.nv := by
  unfold loadLocal
  dsimp only
  repeat' split
  all_goals simp
@[simp] theorem awaitLine_nv (s : State) (p h : Nat) (t : Thread) (line : Nat) (store : Bool) : (awaitLine s p h t line store).left.nv = s.nv := by
  unfold awaitLine
  repeat' split
  all_goals rfl
@[simp] theorem storeLine_nv (s : State) (p k : Nat) (c : CLine) (a : Nat) (v : Word) : (storeLine s p k c a v).nv = s.nv := rfl
theorem fillFor_nv {s : State} {p h line : Nat} {upset : BitVec 640} {r : State × Nat} (filled : fillFor s p h line upset = some r) : r.1.nv = s.nv := by
  have read {u : State} {o : Option LineOut} (e : serveRead s p line (.engine (Fin.ofNat 8 h)) upset = (u, o)) : u.nv = s.nv := by
    rw [← serveRead_nv s p line (.engine (Fin.ofNat 8 h)) upset, e]
  unfold fillFor at filled
  dsimp only at filled
  (repeat' split at filled) <;> cases filled
  · rfl
  · next e _ => exact read e
  · next e _ _ _ _ => rw [State.drawn_nv, State.onEng_nv, read e]
@[simp] theorem kittyTrap_nv (s : State) (p : Nat) : (kittyTrap s p).left.nv = s.nv := rfl

/-! ### Machine/Threads -/

@[simp] theorem threadCmd_nv (s : State) (p h cmd pc : Nat) : (threadCmd s p h cmd pc).nv = s.nv := by
  unfold threadCmd
  simp only [State.onEng_nv, State.onNet_nv, apply_ite State.nv, ite_self]
@[simp] theorem threadOrder_nv (s : State) (p h cmd : Nat) : (threadOrder s p h cmd).nv = s.nv := by
  unfold threadOrder
  repeat' split
  all_goals simp only [threadCmd_nv, State.onMc_nv]
@[simp] theorem wipeThread_nv (s : State) (p h : Nat) (owned : Bool) : (wipeThread s p h owned).nv = s.nv := rfl
@[simp] theorem fillEngBlock_nv (s : State) (p : Nat) (ldb : Bool) (k : Nat) : (fillEngBlock s p ldb k).nv = s.nv := rfl
@[simp] theorem onPmcs_nv (s : State) (seat k : Nat) (g : Engine → Engine) : (onPmcs s seat k g).nv = s.nv := rfl

/-! ### Machine/Window -/

@[simp] theorem userRead_nv (s : State) (i k : Nat) : (userRead s i k).1.nv = s.nv := by
  unfold userRead
  dsimp only
  repeat' split
  all_goals simp only [scratchFetch_nv]
@[simp] theorem userWrite_nv (s : State) (i k : Nat) (l : List Byte) : (userWrite s i k l).1.nv = s.nv := by
  unfold userWrite
  dsimp only
  repeat' split
  all_goals simp only [writeKitty_nv, scratchAccess_nv]

/-! ### Machine/Items -/

@[simp] theorem State.order_nv (s : State) (o : Order) : (s.order o).nv = s.nv := rfl
@[simp] theorem changeKitty_nv (s : State) (p b : Nat) (w : Byte) : (changeKitty s p b w).nv = s.nv := by
  unfold changeKitty
  simp only [State.onFab_nv, State.onLnk_nv, State.onMc_nv, apply_ite State.nv, ite_self]
@[simp] theorem changeScratch_nv (s : State) (k : Nat) (w : Byte) : (changeScratch s k w).nv = s.nv := by
  unfold changeScratch
  simp only [State.onNet_nv, State.onLnk_nv, State.onMc_nv, apply_ite State.nv, ite_self]
@[simp] theorem changeHand_nv (s : State) (p h : Nat) (w : Byte) : (changeHand s p h w).nv = s.nv := by
  unfold changeHand
  simp only [State.onNet_nv, State.onFab_nv, wipeThread_nv, apply_ite State.nv, ite_self]
@[simp] theorem changeBm_nv (s : State) (p k : Nat) (w : BitVec 32) : (changeBm s p k w).nv = s.nv := by
  unfold changeBm
  simp only [State.onFab_nv, apply_ite State.nv, ite_self]
@[simp] theorem changeImb_nv (s : State) (p k : Nat) (w : Byte) : (changeImb s p k w).nv = s.nv := by
  unfold changeImb
  simp only [fillEngBlock_nv, State.onEng_nv, apply_ite State.nv, ite_self]
@[simp] theorem changeLdb_nv (s : State) (p k : Nat) (w : Byte) : (changeLdb s p k w).nv = s.nv := by
  unfold changeLdb
  simp only [fillEngBlock_nv, State.onEng_nv, apply_ite State.nv, ite_self]
@[simp] theorem changePmc_nv (s : State) (p k : Nat) (w : Byte) : (changePmc s p k w).nv = s.nv := by
  unfold changePmc
  simp only [State.onEng_nv, apply_ite State.nv, ite_self]
@[simp] theorem changeBank_nv (s : State) (b : Nat) (w : Byte) : (changeBank s b w).nv = s.nv := by
  unfold changeBank
  simp only [State.onFab_nv, apply_ite State.nv, ite_self]
@[simp] theorem changePort_nv (s : State) (n : Nat) (w : Byte) : (changePort s n w).nv = s.nv := by
  simp only [changePort, apply_ite State.nv, State.onPort_nv, portReset_nv, ite_self]
@[simp] theorem changeBdma_nv (s : State) (n : Nat) (w : Byte) : (changeBdma s n w).nv = s.nv := by
  unfold changeBdma
  simp only [State.onLnk_nv, apply_ite State.nv, ite_self]
@[simp] theorem restartRotation_nv (s : State) (q : Nat) (pair : Bool) : (restartRotation s q pair).nv = s.nv := rfl
@[simp] theorem unbindQueue_nv (s : State) (q : Nat) : (unbindQueue s q).nv = s.nv := rfl
@[simp] theorem changeQueue_nv (s : State) (q : Nat) (d : BitVec 256) : (changeQueue s q d).nv = s.nv := by
  simp only [changeQueue, apply_ite State.nv, State.onNet_nv, unbindQueue_nv, ite_self]
@[simp] theorem applySteer_nv (s : State) (seat v : Nat) : (applySteer s seat v).nv = s.nv := by
  unfold applySteer
  simp only [State.onLnk_nv, apply_ite State.nv, ite_self]
@[simp] theorem changeFpll_nv (s : State) (k : Nat) (v : Fpll) : (changeFpll s k v).nv = s.nv := rfl
@[simp] theorem applyMode_nv (s : State) (sub v : Nat) : (applyMode s sub v).nv = s.nv := by
  unfold applyMode
  repeat' split
  all_goals simp only [State.order_nv]
@[simp] theorem applyTime_nv (s : State) (sub : Nat) (i : Item) : (applyTime s sub i).nv = s.nv := by
  unfold applyTime
  repeat' split
  all_goals simp only [State.onAon_nv, State.order_nv]
@[simp] theorem applyFpll_nv (s : State) (sub : Nat) (i : Item) : (applyFpll s sub i).nv = s.nv := by
  unfold applyFpll
  simp only [changeFpll_nv, apply_ite State.nv, ite_self]
@[simp] theorem applyEpll_nv (s : State) (sub v : Nat) : (applyEpll s sub v).nv = s.nv := rfl
@[simp] theorem applySelfTest_nv (s : State) (sub v : Nat) : (applySelfTest s sub v).nv = s.nv := by
  unfold applySelfTest
  dsimp only
  repeat' split
  all_goals simp only [State.onMc_nv, State.order_nv]
@[simp] theorem startDieMap_nv (s : State) (d : Nat) : (startDieMap s d).nv = s.nv := by
  unfold startDieMap
  exact State.onStk_nv ..
@[simp] theorem applyFallowMap_nv (s : State) (sub v : Nat) : (applyFallowMap s sub v).nv = s.nv := by
  unfold applyFallowMap
  repeat' split
  all_goals simp only [startDieMap_nv, State.onStk_nv]
@[simp] theorem applySnapshot_nv (s : State) (seat sub v : Nat) : (applySnapshot s seat sub v).nv = s.nv := by
  unfold applySnapshot
  simp only [State.onMc_nv, State.order_nv, apply_ite State.nv, ite_self]
@[simp] theorem applyPlot_nv (b s : State) (seat p sub : Nat) (i : Item) : (applyPlot b s seat p sub i).nv = s.nv := by
  unfold applyPlot
  dsimp only
  repeat' split
  all_goals simp only [State.onFab_nv, changeHand_nv, State.order_nv, changeKitty_nv, changeBm_nv]
@[simp] theorem applyEngine_nv (s : State) (p sub : Nat) (i : Item) : (applyEngine s p sub i).nv = s.nv := by
  unfold applyEngine
  simp only [State.onEng_nv, State.order_nv, changeImb_nv, changeLdb_nv, changePmc_nv, apply_ite State.nv, ite_self]
@[simp] theorem applySealWord_nv (b s : State) (seat p r v : Nat) : (applySealWord b s seat p r v).nv = s.nv := by
  unfold applySealWord
  dsimp only
  simp only [apply_ite State.nv, State.order_nv, wipeRegion_nv, dropCached_nv, State.onStk_nv, flushWhere_nv, ite_self]
@[simp] theorem applyRiser_nv (b s : State) (seat p sub v : Nat) : (applyRiser b s seat p sub v).nv = s.nv := by
  simp only [applyRiser, apply_ite State.nv, applySealWord_nv, State.onStk_nv, ite_self]
@[simp] theorem applyPort_nv (s : State) (n sub : Nat) (i : Item) : (applyPort s n sub i).nv = s.nv := by
  unfold applyPort
  split <;> simp only [apply_ite State.nv, applyPower_nv, State.onPort_nv, changePort_nv, State.order_nv, rxStop_nv, ite_self]
@[simp] theorem applyQuad_nv (s : State) (k sub v : Nat) : (applyQuad s k sub v).nv = s.nv := by
  unfold applyQuad
  split <;> simp only [foldl_leaves State.nv, applyPower_nv, State.onLnk_nv, implies_true]
@[simp] theorem applyBdma_nv (s : State) (n sub : Nat) (i : Item) : (applyBdma s n sub i).nv = s.nv := by
  unfold applyBdma
  dsimp only
  split <;> simp only [State.onLnk_nv, changeBdma_nv]
@[simp] theorem applyBank_nv (s : State) (b sub : Nat) (i : Item) : (applyBank s b sub i).nv = s.nv := by
  unfold applyBank
  simp only [changeBank_nv, State.onFab_nv, apply_ite State.nv, ite_self]
@[simp] theorem changeCred_nv (s : State) (k : Nat) (g : SeatRec → SeatRec) : (changeCred s k g).nv = s.nv := rfl
@[simp] theorem applySeat_nv (s : State) (k sub : Nat) (i : Item) : (applySeat s k sub i).nv = s.nv := by
  unfold applySeat
  dsimp only
  split <;> simp only [changeCred_nv, State.onSeat_nv]
@[simp] theorem applyWindow_otp (s : State) (seat : Nat) (i : Item) : (applyWindow s seat i).nv.otp = s.nv.otp := by
  unfold applyWindow
  dsimp only
  simp only [apply_ite State.nv, apply_ite Nv.otp, applySteer_nv, State.onNet_nv, changeQueue_nv, State.onMap_otp, flushWhere_nv, State.onFab_nv, State.onLnk_nv, ite_self]
@[simp] theorem applyItem_otp (b : State) (seat : Nat) (s : State) (i : Item) : (applyItem b seat s i).nv.otp = s.nv.otp := by
  unfold applyItem
  simp only [apply_ite State.nv, apply_ite Nv.otp, applyWindow_otp, applyMode_nv, applyTime_nv, applyFpll_nv, applyEpll_nv, State.onHk_nv, applySelfTest_nv, applyFallowMap_nv, applySnapshot_nv,
    changeScratch_nv, applyPlot_nv, applyEngine_nv, applyRiser_nv, applyPort_nv, applyQuad_nv, applyBdma_nv, applyBank_nv, applySeat_nv, userWrite_nv, ite_self]
@[simp] theorem applyItems_otp (b : State) (seat : Nat) (items : List Item) : (applyItems b seat items).nv.otp = b.nv.otp := by
  have all (l : List Item) (s : State) : (l.foldl (applyItem b seat) s).nv.otp = s.nv.otp := foldl_leaves (fun s => s.nv.otp) (applyItem_otp b seat) l s
  unfold applyItems
  dsimp only
  rw [State.onFab_nv, foldl_leaves State.nv fun _ _ => restartRotation_nv .., all, all, all, foldl_leaves State.nv State.passSome_nv]

/-! ### Machine/Check -/

@[simp] theorem State.inForce_otp (s : State) (seat : Nat) : (s.inForce seat).nv.otp = s.nv.otp := by
  simp only [inForce, apply_ite State.nv, apply_ite Nv.otp, applyItems_otp, ite_self]
@[simp] theorem OpOut.fail_st (s : State) (errs : List Nat) : (OpOut.fail s errs).st = s := rfl

/-! ### Machine/Staging -/

@[simp] theorem stageItems_nv (s : State) (seat : Nat) (errs : List Nat) (items : List Item) : (stageItems s seat errs items).st.nv = s.nv := by
  unfold stageItems
  repeat' split
  all_goals rfl
@[simp] theorem State.checkBase_otp (s : State) (seat : Nat) : (s.checkBase seat).nv.otp = s.nv.otp := by
  simp only [checkBase, apply_ite State.nv, apply_ite Nv.otp, inForce_otp, ite_self]
@[simp] theorem opCheck_nv (s : State) (seat : Nat) (data : List Byte) (long : Bool) : (opCheck s seat data long).st.nv = s.nv := by
  unfold opCheck checkSet
  dsimp only
  repeat' split
  all_goals rfl
@[simp] theorem startPlls_nv (s : State) (seat : Nat) (items : List Item) : (startPlls s seat items).nv = s.nv := rfl
@[simp] theorem opTurn_nv (s : State) (seat : Nat) (data : List Byte) (long : Bool) (how : Turn) : (opTurn s seat data long how).st.nv = s.nv := by
  unfold opTurn checkSet
  dsimp only
  repeat' split
  all_goals rfl
@[simp] theorem opDiscard_nv (s : State) (seat : Nat) (data : List Byte) (long : Bool) : (opDiscard s seat data long).st.nv = s.nv := by
  unfold opDiscard
  dsimp only
  repeat' split
  all_goals rfl

/-! ### Machine/Sowing -/

@[simp] theorem onStream_nv (s : State) (seat : Nat) (g : Stream → Stream) : (onStream s seat g).nv = s.nv := rfl
@[simp] theorem closeStream_nv (s : State) (seat : Nat) : (closeStream s seat).nv = s.nv := rfl
@[simp] theorem refuse_nv (s : State) (seat index sub reason detail : Nat) : (refuse s seat index sub reason detail).nv = s.nv := rfl
@[simp] theorem completeImage_nv (s : State) (seat : Nat) (t : Stream) : (completeImage s seat t).nv = s.nv := by
  unfold completeImage
  dsimp only
  repeat' split
  all_goals simp only [State.onSeat_nv, closeStream_nv]
@[simp] theorem nextSection_nv (s : State) (seat : Nat) : (nextSection s seat).nv = s.nv := by
  unfold nextSection
  dsimp only
  repeat' split
  all_goals simp only [onStream_nv, completeImage_nv]
@[simp] theorem refuseSection_nv (s : State) (seat index sub reason detail : Nat) : (refuseSection s seat index sub reason detail).nv = s.nv := by
  unfold refuseSection
  simp only [nextSection_nv, refuse_nv]
@[simp] theorem sownState_nv (s : State) (seat p h : Nat) (cfg : List (Nat × BitVec 64)) : (sownState s seat p h cfg).nv = s.nv := rfl
@[simp] theorem sweepSections_nv (s : State) : (sweepSections s).nv = s.nv := by
  unfold sweepSections
  refine foldl_leaves State.nv (fun u k => ?_) _ _
  repeat' split
  all_goals simp only [refuseSection_nv]
@[simp] theorem endStream_nv (s : State) (seat : Nat) : (endStream s seat).nv = s.nv := by
  unfold endStream
  dsimp only
  repeat' split
  all_goals simp only [State.onFab_nv, State.onSeat_nv]
@[simp] theorem stageOne_nv (s : State) (seat : Nat) (i : StageItem) : (stageOne s seat i).st.nv = s.nv := by
  unfold stageOne opStage opWinWrite
  dsimp only
  repeat' split
  all_goals simp
@[simp] theorem sectionTurn_nv (s : State) (seat source : Nat) : (sectionTurn s seat source).nv = s.nv := by
  unfold sectionTurn
  dsimp only
  simp only [apply_ite State.nv, onStream_nv, State.raise_nv, State.drawn_nv, opTurn_nv, ite_self]
@[simp] theorem refuseStaging_nv (s : State) (seat reason : Nat) : (refuseStaging s seat reason).nv = s.nv := by
  unfold refuseStaging
  simp only [refuseSection_nv, State.drawn_nv]

/-! ### Machine/Findings -/

@[simp] theorem bondFailed_otp (s : State) (p g : Nat) : (bondFailed s p g).nv.otp = s.nv.otp := by
  simp only [bondFailed, apply_ite State.nv, apply_ite Nv.otp, fallowPlot_otp, State.onFab_nv, ite_self]
@[simp] theorem finding_otp (s : State) (f : Finding) : (finding s f).nv.otp = s.nv.otp := by
  have fallows (l : List Nat) (s : State) : (l.foldl fallowPlot s).nv.otp = s.nv.otp := foldl_leaves (fun s => s.nv.otp) fallowPlot_otp l s
  cases f <;> simp only [finding, apply_ite State.nv, apply_ite Nv.otp, laneFailed_otp, bondFailed_otp, sweepSections_nv, fallows, State.onMap_otp, ite_self]
@[simp] theorem riseFallow_otp (s : State) (p : Nat) : (riseFallow s p).nv.otp = s.nv.otp := by
  simp only [riseFallow, apply_ite State.nv, apply_ite Nv.otp, State.raise_nv, fallowPlot_otp, ite_self]
@[simp] theorem riseFinding_otp (s : State) (f : Finding) : (riseFinding s f).nv.otp = s.nv.otp := by
  have fallows (l : List Nat) (s : State) : (l.foldl riseFallow s).nv.otp = s.nv.otp := foldl_leaves (fun s => s.nv.otp) riseFallow_otp l s
  unfold riseFinding
  dsimp only
  repeat' split
  all_goals simp only [State.raise_nv, laneFailed_otp, riseFallow_otp, State.onMap_otp, fallows]

/-! ### Machine/Protocol -/

@[simp] theorem endSeg_nv (s : State) (k : Nat) : (endSeg s k).nv = s.nv := by
  unfold endSeg
  simp only [endStream_nv, State.onSeat_nv, apply_ite State.nv, ite_self]
@[simp] theorem endSession_nv (s : State) (k : Nat) : (endSession s k).nv = s.nv := by
  unfold endSession
  simp only [endSeg_nv, State.onSeat_nv]
@[simp] theorem wearSession_nv (s : State) (k : Nat) : (wearSession s k).nv = s.nv := by
  unfold wearSession
  simp only [endSession_nv, apply_ite State.nv, ite_self]
@[simp] theorem sendReply_nv (s : State) (r : Reply) : (sendReply s r).nv = s.nv := by
  unfold sendReply
  simp only [wearSession_nv, State.send_nv, State.onSeat_nv, apply_ite State.nv, ite_self]
@[simp] theorem respond_nv (s : State) (r : Req) (func err aux : Nat) (data : List Byte) : (respond s r func err aux data).nv = s.nv := by
  unfold respond
  simp only [State.onSeat_nv, sendReply_nv, apply_ite State.nv, ite_self]
@[simp] theorem respondOnly_nv (s : State) (r : Req) (func err aux : Nat) (data : List Byte) : (respondOnly s r func err aux data).nv = s.nv := by
  unfold respondOnly
  simp only [sendReply_nv]
@[simp] theorem opRead_nv (s : State) (seat i sub : Nat) (data : List Byte) (long : Bool) : (opRead s seat i sub data long).st.nv = s.nv := by
  unfold opRead
  dsimp only
  repeat' split
  all_goals simp
@[simp] theorem writeSms_otp (s : State) (k : Nat) (v : BitVec 256) : (writeSms s k v).nv.otp = s.nv.otp := by
  unfold writeSms
  dsimp only
  rw [foldl_leaves State.nv fun u x => wipeRegion_nv u _ _]
  rfl
@[simp] theorem applyWrite_otp (s : State) (seat i sub : Nat) (data : List Byte) : (applyWrite s seat i sub data).nv.otp = s.nv.otp := by
  have rated (v : Nat) : (s.onNv fun n => if sub = 1 then { n with nominalRate := v } else { n with dataRate := v }).nv.otp = s.nv.otp := by
    rw [State.onNv_nv]
    split <;> rfl
  unfold applyWrite
  dsimp only
  simp only [apply_ite State.nv, apply_ite Nv.otp, rated, State.onSeat_nv, State.onHk_nv, writeSms_otp, State.onNet_nv, State.onFab_nv, State.onEng_nv, State.onStk_nv, State.onPort_nv, State.onLnk_nv,
    ite_self]
@[simp] theorem opWrite_otp (s : State) (seat i sub : Nat) (data : List Byte) (long : Bool) : (opWrite s seat i sub data long).st.nv.otp = s.nv.otp := by
  unfold opWrite
  dsimp only
  repeat' split
  · rfl
  · rw [userWrite_nv]
  · exact applyWrite_otp ..
@[simp] theorem opWinRead_nv (s : State) (seat i : Nat) (data : List Byte) (long : Bool) : (opWinRead s seat i data long).st.nv = s.nv := by
  unfold opWinRead
  dsimp only
  split <;> rfl
@[simp] theorem opPing_nv (s : State) (data : List Byte) (long : Bool) : (opPing s data long).st.nv = s.nv := by
  unfold opPing
  split <;> rfl
@[simp] theorem opAttnAck_nv (s : State) (seat : Nat) (data : List Byte) (long : Bool) : (opAttnAck s seat data long).st.nv = s.nv := by
  unfold opAttnAck
  dsimp only
  split <;> rfl
theorem pushReply_nv {s t : State} {k q rank : Nat} {r : Reply} (pushed : pushReply s k q rank r = some t) : t.nv = s.nv := by
  unfold pushReply at pushed
  dsimp only at pushed
  (repeat' split at pushed) <;> cases pushed
  all_goals exact State.onNet_nv ..
@[simp] theorem answerTurn_nv (s : State) (k : Nat) (t : Turn) (err : Nat) (data : List Byte) : (answerTurn s k t err data).nv = s.nv := by
  unfold answerTurn
  dsimp only
  split
  · simp only [sendReply_nv, State.onSeat_nv]
  · next r rq rank _ _ =>
    generalize he : pushReply _ k rq rank _ = o
    cases o with
    | none => rfl
    | some u => exact (pushReply_nv he).trans (State.onSeat_nv ..)
  · rfl
@[simp] theorem cancelled_nv (before s : State) (seat : Nat) : (cancelled before s seat).nv = s.nv := by
  unfold cancelled
  split <;> simp only [apply_ite State.nv, State.drawn_nv, answerTurn_nv, ite_self]
@[simp] theorem finish_nv (s : State) (r : Req) (func : Nat) (o : OpOut) : (finish s r func o).nv = o.st.nv := by
  simp only [finish, apply_ite State.nv, State.onSeat_nv, respond_nv, ite_self]
@[simp] theorem holdFill_nv (s : State) (func : Nat) (r : Req) : (holdFill s func r).nv = s.nv := by
  unfold holdFill
  simp only [State.onMc_nv, State.onSeat_nv, apply_ite State.nv, ite_self]
@[simp] theorem performRead_nv (s : State) (r : Req) : (performRead s r).nv = s.nv := by
  simp only [performRead, apply_ite State.nv, holdFill_nv, finish_nv, opRead_nv, ite_self]
@[simp] theorem performWrite_otp (s : State) (r : Req) : (performWrite s r).nv.otp = s.nv.otp := by
  simp only [performWrite, apply_ite State.nv, apply_ite Nv.otp, holdFill_nv, finish_nv, opWrite_otp, ite_self]
@[simp] theorem releaseWrites_otp (s : State) : (releaseWrites s).nv.otp = s.nv.otp := by
  unfold releaseWrites
  refine (foldl_leaves (fun s : State => s.nv.otp) (fun u r => ?_) _ _).trans rfl
  simp only [apply_ite State.nv, apply_ite Nv.otp, performWrite_otp, State.onSeat_nv, ite_self]
@[simp] theorem segFail_nv (s : State) (r : Req) (func err : Nat) : (segFail s r func err).nv = s.nv := by
  unfold segFail
  simp only [respond_nv, endSeg_nv]
@[simp] theorem tokenDone_otp (s : State) (r : Req) (block : Nat) (t : List Byte) (sigOk pointsOk : Bool) : (tokenDone s r block t sigOk pointsOk).nv.otp = s.nv.otp := by
  have replied : (respond ((endSeg s r.seat.val).onMc fun m => { m with tokenResult := tokenErr s t sigOk pointsOk }) r 0x09 (tokenErr s t sigOk pointsOk) block []).nv = s.nv := by
    rw [respond_nv, State.onMc_nv, endSeg_nv]
  unfold tokenDone
  dsimp only
  split
  · rw [State.onMc_nv, State.onNv_nv, replied]
    rfl
  · rw [replied]
@[simp] theorem seedDone_nv (s : State) (r : Req) (block : Nat) : (seedDone s r block).nv = s.nv := by
  unfold seedDone
  dsimp only
  repeat' split
  all_goals simp only [respond_nv, endSeg_nv, State.drawn_nv]
@[simp] theorem blockEnd_otp (s : State) (r : Req) (g : Seg) (sigOk pointsOk : Bool) : (blockEnd s r g sigOk pointsOk).nv.otp = s.nv.otp := by
  unfold blockEnd
  dsimp only
  repeat' split
  all_goals simp only [respondOnly_nv, State.onSeat_nv, tokenDone_otp, segFail_nv, holdFill_nv, seedDone_nv, onStream_nv, scratchWriteWords_nv]
@[simp] theorem sendFrames_nv (r : Req) (n : Nat) (s : State) (f : Nat) (l : List Byte) : (sendFrames r n s f l).nv = s.nv := by
  induction n generalizing s f l with
  | zero => rfl
  | succ n ih =>
    unfold sendFrames
    split <;> simp only [ih, respondOnly_nv]
@[simp] theorem sendImageBlock_nv (s : State) (r : Req) (g : Seg) (b : Nat) : (sendImageBlock s r g b).nv = s.nv := by
  unfold sendImageBlock
  dsimp only
  split
  · simp only [segFail_nv]
  · next buf _ =>
    split
    · simp only [holdFill_nv]
    · have read := scratchReadWords_nv ((blockLen g.total b + 15) / 16) s (((s.imageAt r.seat.val).1 + 16384 * b) / 16)
      split
      · next e => rw [segFail_nv, ← read, e]
      · next e => split <;> simp only [sendFrames_nv, segFail_nv, scratchWriteWords_nv] <;> rw [← read, e]
@[simp] theorem releaseFill_otp (s : State) : (releaseFill s).nv.otp = s.nv.otp := by
  unfold releaseFill
  refine (foldl_leaves (fun s : State => s.nv.otp) (fun u e => ?_) _ _).trans rfl
  dsimp only
  repeat' split
  all_goals simp only [performRead_nv, performWrite_otp, blockEnd_otp, sendImageBlock_nv, State.onMc_nv, State.onSeat_nv]
@[simp] theorem mcOp_otp (s : State) (k func i sub : Nat) (d : List Byte) (long : Bool) : (mcOp s k func i sub d long).st.nv.otp = s.nv.otp := by
  unfold mcOp opStage opWinWrite
  dsimp only
  split <;> simp only [opRead_nv, opWrite_otp, stageItems_nv, opCheck_nv, opTurn_nv, cancelled_nv, opDiscard_nv, OpOut.fail_st, opWinRead_nv, opPing_nv, opAttnAck_nv]

/-! ### Machine/Snapshots -/

@[simp] theorem preSnapshot_nv (s : State) : (preSnapshot s).nv = s.nv := rfl
@[simp] theorem clearMagic_nv (s : State) (w : Nat) : (clearMagic s w).nv = s.nv := by
  simp only [clearMagic, apply_ite State.nv, scratchWriteWords_nv, ite_self]
@[simp] theorem takeShadow_nv (s : State) (i : Nat) (mask : Byte) (pre : Option (List (Nat × List Byte × Nat))) (k : Nat) : (takeShadow s i mask pre k).nv = s.nv := by
  unfold takeShadow
  dsimp only
  simp only [apply_ite State.nv, State.onMc_nv, clearMagic_nv, ite_self]

/-! ### Machine/Turns -/

@[simp] theorem turnFailed_nv (s : State) (k : Nat) (t : Turn) (rep : Report) : (turnFailed s k t rep).nv = s.nv := by
  simp only [turnFailed, apply_ite State.nv, State.raise_nv, State.onSeat_nv, answerTurn_nv, ite_self]
@[simp] theorem turnPassed_nv (s : State) (k : Nat) (t : Turn) : (turnPassed s k t).nv = s.nv := by
  simp only [turnPassed, apply_ite State.nv, State.raise_nv, State.drawn_nv, answerTurn_nv, ite_self]
@[simp] theorem discardDue_nv (s : State) (scope : Item → Bool) : (discardDue s scope).nv = s.nv := by
  unfold discardDue
  dsimp only
  split
  · rfl
  · rw [foldl_leaves State.nv, foldl_leaves State.nv]
    all_goals
      intro u x
      split <;> simp only [turnFailed_nv, State.onSeat_nv]
@[simp] theorem afterTurn_nv (s : State) (k : Nat) : (afterTurn s k).nv = s.nv := by
  unfold afterTurn
  dsimp only
  simp only [apply_ite State.nv, State.onFab_nv, foldl_leaves State.nv, applyPower_nv, State.onSeat_nv, implies_true, ite_self]
@[simp] theorem settleStreams_nv (s : State) : (settleStreams s).nv = s.nv := by
  unfold settleStreams
  rw [foldl_leaves State.nv, sweepSections_nv]
  intro u k
  split <;> simp only [apply_ite State.nv, endStream_nv, ite_self]
@[simp] theorem applyTurn_otp (s : State) (k : Nat) (items : List Item) : (applyTurn s k items).nv.otp = s.nv.otp := by
  unfold applyTurn
  dsimp only
  simp only [apply_ite State.nv, State.onSeat_nv, applyItems_otp, ite_self]
@[simp] theorem performTurn_otp (s : State) (k : Nat) (t : Turn) : (performTurn s k t).nv.otp = s.nv.otp := by
  unfold performTurn
  dsimp only
  simp only [apply_ite State.nv, apply_ite Nv.otp, turnFailed_nv, turnPassed_nv, settleStreams_nv, afterTurn_nv, applyTurn_otp, State.onSeat_nv, ite_self]

/-! ### Machine/Power -/

@[simp] theorem dropHeldFill_nv (s : State) : (dropHeldFill s).nv = s.nv := by
  unfold dropHeldFill
  rw [foldl_leaves State.nv]
  · rfl
  · intro u e
    simp only [apply_ite State.nv, respond_nv, State.onSeat_nv, ite_self]
@[simp] theorem powerDown_otp (s : State) : (powerDown s).nv.otp = s.nv.otp := by
  rw [← dropHeldFill_nv s]
  rfl
@[simp] theorem dropHeldWrites_nv (s : State) : (dropHeldWrites s).nv = s.nv := by
  unfold dropHeldWrites
  rw [foldl_leaves State.nv]
  · rfl
  · exact fun u r => State.onSeat_nv ..
@[simp] theorem shutdown_otp (s : State) (cause detail : Nat) : (shutdown s cause detail).nv.otp = s.nv.otp := by
  unfold shutdown
  dsimp only
  simp only [State.raiseAll_nv, apply_ite State.nv, apply_ite Nv.otp, State.onHk_nv, State.onAon_nv, powerDown_otp, dropHeldWrites_nv, discardDue_nv, ite_self]
@[simp] theorem boot_otp (s : State) (env : BootEnv) (jtag : Jtag) : (boot s env jtag).nv.otp = s.nv.otp := by
  have settled (c : Prop) [Decidable c] : (if c then { s.nv with smsCopy := [], lcPending := false } else s.nv).otp = s.nv.otp := by split <;> rfl
  unfold boot
  dsimp only
  simp only [apply_ite State.nv, State.onAon_nv, State.fresh, settled, ite_self]
@[simp] theorem zeroise_otp (s : State) : (zeroise s).nv.otp = s.nv.otp := by
  unfold zeroise
  dsimp only
  rw [State.onAon_nv, apply_ite State.nv, apply_ite Nv.otp, powerDown_otp, ite_self]
  rfl
@[simp] theorem mapFailedTile_otp (s : State) (t : Nat) : (mapFailedTile s t).nv.otp = s.nv.otp := by
  simp only [mapFailedTile, apply_ite State.nv, apply_ite Nv.otp, State.onMap_otp, ite_self]
@[simp] theorem secure_nv (s : State) (env : RiseEnv) : (secure s env).nv = s.nv := by
  unfold secure
  dsimp only
  rw [State.onAon_nv, State.raiseAll_nv, State.raiseAll_nv, foldl_leaves State.nv, State.onEng_nv, State.onNet_nv, State.onLnk_nv, State.onStk_nv]
  exact fun _ _ => State.onSeat_nv ..
@[simp] theorem railsUp_nv (s : State) : (railsUp s).nv = s.nv := rfl
@[simp] theorem rise_otp (s : State) (env : RiseEnv) : (rise s env).nv.otp = s.nv.otp := by
  have found (l : List Finding) (s : State) : (l.foldl riseFinding s).nv.otp = s.nv.otp := foldl_leaves (fun s => s.nv.otp) riseFinding_otp l s
  have mapped (l : List Nat) (s : State) : (l.foldl mapFailedTile s).nv.otp = s.nv.otp := foldl_leaves (fun s => s.nv.otp) mapFailedTile_otp l s
  unfold rise
  dsimp only
  rw [State.onAon_nv, found, foldl_leaves State.nv fun u p => u.onFab_nv _, mapped, secure_nv, railsUp_nv, State.onAon_nv]
theorem State.dropRise_nv {s t : State} (dropped : s.dropRise = some t) : t.nv = s.nv := by
  unfold dropRise at dropped
  (repeat' split at dropped) <;> cases dropped
  all_goals rfl

/-! ### Machine/Startup -/

@[simp] theorem startSlot_nv (s : State) (g : Nat) : (startSlot s g).nv = s.nv := by
  unfold startSlot
  dsimp only
  split
  · rw [foldl_leaves State.nv, State.onAon_nv]
    exact fun _ _ => startPlls_nv ..
  · rw [foldl_leaves State.nv, State.onAon_nv]
    exact fun _ _ => applyPower_nv ..
@[simp] theorem bindSeat_otp (s : State) (k : Nat) : (bindSeat s k).nv.otp = s.nv.otp := by
  simp only [bindSeat, apply_ite State.nv, apply_ite Nv.otp, performTurn_otp, State.onSeat_nv, ite_self]

/-! ### Machine/Resets -/

@[simp] theorem deadRx_nv (s : State) (q d : Nat) : (deadRx s q d).nv = s.nv := rfl
@[simp] theorem feedRequests_nv (s : State) (d : Nat) : (feedRequests s d).nv = s.nv := by
  unfold feedRequests
  simp only [State.onFab_nv, State.onEng_nv, State.onNet_nv, apply_ite State.nv, ite_self]
@[simp] theorem feedReset_nv (s : State) (d : Nat) : (feedReset s d).nv = s.nv := by
  unfold feedReset
  dsimp only
  rw [State.drawn_nv, State.raiseAll_nv, State.onNet_nv, feedRequests_nv, foldl_leaves State.nv, State.showStops_nv, apply_ite State.nv, abortTest_nv, discardDue_nv, ite_self]
  exact fun _ _ => deadRx_nv ..
@[simp] theorem riserReset_nv (s : State) (p : Nat) : (riserReset s p).nv = s.nv := by
  unfold riserReset
  dsimp only
  simp only [foldl_leaves State.nv, answerB_nv, answerAll_nv, State.onStk_nv, implies_true]
@[simp] theorem queueDieReset_nv (s : State) (d q : Nat) : (queueDieReset s d q).nv = s.nv := by
  unfold queueDieReset
  simp only [unbindQueue_nv, State.onNet_nv, apply_ite State.nv, ite_self]
@[simp] theorem dieReset_nv (s : State) (d : Nat) : (dieReset s d).nv = s.nv := by
  unfold dieReset
  dsimp only
  simp only [State.drawn_nv, State.raiseAll_nv, State.onNet_nv, State.onStk_nv, foldl_leaves State.nv, apply_ite State.nv, riserReset_nv, State.passSome_nv, queueDieReset_nv, abortTest_nv, discardDue_nv,
    implies_true, ite_self]

/-! ### Machine/Modes -/

@[simp] theorem haltPlots_nv (s : State) : (haltPlots s).nv = s.nv := by
  unfold haltPlots
  dsimp only
  rw [State.onFab_nv, foldl_leaves State.nv State.passSome_nv]
@[simp] theorem resumePlots_nv (s : State) : (resumePlots s).nv = s.nv := rfl
@[simp] theorem enterLimp_nv (s : State) : (enterLimp s).nv = s.nv := by
  unfold enterLimp
  dsimp only
  rw [State.onAon_nv, State.onHk_nv, State.onEng_nv, State.onFab_nv, foldl_leaves State.nv State.passSome_nv, abortTest_nv]

/-! ### Machine/Housekeeping -/

@[simp] theorem govern_nv (s : State) : (govern s).nv = s.nv := by
  unfold govern
  simp only [State.onHk_nv, State.raiseAll_nv, apply_ite State.nv, ite_self, foldl_leaves State.nv, implies_true]
@[simp] theorem readMonitors_otp (s : State) (env : RoundEnv) : (readMonitors s env).nv.otp = s.nv.otp := by
  unfold readMonitors
  dsimp only
  split
  · simp only [shutdown_otp, apply_ite State.nv, foldl_leaves State.nv, lockLost_nv, State.drawn_nv, State.onHk_nv, implies_true, ite_self]
  · simp only [foldl_leaves State.nv, apply_ite State.nv, feedReset_nv, lockLost_nv, State.drawn_nv, State.onHk_nv, implies_true, ite_self]
@[simp] theorem clockFault_nv (s : State) (p : Pll) : (clockFault s p).nv = s.nv := by
  unfold clockFault
  dsimp only
  split <;> simp only [State.onHk_nv, State.onFab_nv, State.onEng_nv, State.onLnk_nv, apply_ite State.nv, ite_self]
@[simp] theorem testLimits_nv (s : State) (env : RoundEnv) : (testLimits s env).nv = s.nv := by
  unfold testLimits
  dsimp only
  repeat' split
  all_goals simp only [abortTest_nv]
/-- The rotation's round raises events, and keeps the switched bits. -/
theorem rotationRound_rest (s : State) : ∃ l f, rotationRound s = { s with seats := l, fab := f } := by
  unfold rotationRound
  extract_lets period told
  have raised : ∃ l, told = { s with seats := l } := by
    unfold told
    refine List.foldlRecOn (motive := fun v : State => ∃ l, v = { s with seats := l }) _ _ ⟨s.seats, rfl⟩ ?_
    rintro v ⟨l, rfl⟩ o -
    extract_lets
    split <;> exact ⟨_, rfl⟩
  obtain ⟨l, e⟩ := raised
  rw [e]
  exact ⟨_, _, rfl⟩
@[simp] theorem rotationRound_nv (s : State) : (rotationRound s).nv = s.nv := by
  obtain ⟨l, f, e⟩ := rotationRound_rest s
  rw [e]
@[simp] theorem sweepShare_otp (s : State) (env : RoundEnv) : (sweepShare s env).nv.otp = s.nv.otp := by
  unfold sweepShare
  simp only [apply_ite State.nv, apply_ite Nv.otp, State.onFab_nv, sweepSections_nv, foldl_leaves (fun s : State => s.nv.otp) finding_otp, ite_self]
@[simp] theorem readRails_nv (s : State) (env : RoundEnv) : (readRails s env).nv = s.nv := rfl

/-! ### Machine/Service -/

@[simp] theorem State.sspiResult_nv (s : State) (e : Nat) : (s.sspiResult e).nv = s.nv := rfl

/-! ### Machine/Life -/

@[simp] theorem dropRegionKeys_nv (s : State) : (dropRegionKeys s).nv = s.nv := by
  unfold dropRegionKeys
  simp only [foldl_leaves State.nv, answerAll_nv, State.onStk_nv, implies_true]
@[simp] theorem lifeWipe_otp (s : State) : (lifeWipe s).nv.otp = s.nv.otp := by
  have ended : ((List.range 8).foldl endSession (dropHeldWrites s)).nv = s.nv := (foldl_leaves State.nv endSession_nv _ _).trans (dropHeldWrites_nv s)
  unfold lifeWipe
  dsimp only
  simp only [apply_ite State.nv, dropRegionKeys_nv, State.onLnk_nv, State.onNet_nv, abortTest_nv, State.onMc_nv, State.onNv_nv, ended, Nv.otp, ite_self]

/-! ### Machine/Bist -/

@[simp] theorem fillTile_nv (s : State) (w : BitVec 32) : (fillTile s w).nv = s.nv := rfl
@[simp] theorem clearHands_nv (s : State) (p : Nat) : (clearHands s p).nv = s.nv := by
  unfold clearHands
  simp only [State.onFab_nv]
@[simp] theorem restoreTarget_nv (s : State) (w : BitVec 32) : (restoreTarget s w).nv = s.nv := by
  unfold restoreTarget
  dsimp only
  split <;> simp only [fillTile_nv, clearHands_nv, State.onFab_nv, State.onEng_nv]
@[simp] theorem verdictMap_otp (s : State) (w : BitVec 32) (alg verdict : Nat) : (verdictMap s w alg verdict).nv.otp = s.nv.otp := by
  simp only [verdictMap, apply_ite State.nv, apply_ite Nv.otp, State.onMap_otp, sweepSections_nv, fallowPlot_otp, ite_self]
@[simp] theorem endTest_otp (s : State) (ops : Nat) (signature : Word) : (endTest s ops signature).nv.otp = s.nv.otp := by
  unfold endTest
  dsimp only
  split
  · rfl
  · simp only [verdictMap_otp, restoreTarget_nv, State.onMc_nv, State.onNet_nv]
@[simp] theorem State.reclaimed_nv (s : State) (r : Nat) : (s.reclaimed r).nv = s.nv := rfl
@[simp] theorem reclaimPlot_otp (s : State) (p : Nat) (groups : List Nat) (marchOk : Bool) : (reclaimPlot s p groups marchOk).nv.otp = s.nv.otp := by
  unfold reclaimPlot
  dsimp only
  simp only [apply_ite State.nv, apply_ite Nv.otp, State.reclaimed_nv, clearHands_nv, State.onMap_otp, ite_self]
@[simp] theorem reclaimRiser_otp (s : State) (p : Nat) (lanes : List Nat) : (reclaimRiser s p lanes).nv.otp = s.nv.otp := by
  unfold reclaimRiser
  dsimp only
  simp only [apply_ite State.nv, apply_ite Nv.otp, State.reclaimed_nv, State.onMap_otp, ite_self]

/-! ### Machine/Jtag -/

@[simp] theorem State.tap_nv (s : State) (ir : Byte) (dr : Nat) : (s.tap ir dr).nv = s.nv := rfl

end Sys2Proof.Machine
end
section
/-! PROOF. What each instruction leaves of OTP and MRAM, and the step that keeps the one-way bits (R635). -/

namespace Sys2Proof.Machine

/-! ### Machine/Fabric -/

@[simp] theorem execSlotBoundary_nv (p : PlotIx) (s : State) : (outcomeState s (execSlotBoundary p s)).nv = s.nv := by
  simp [execSlotBoundary]
@[simp] theorem execContention_nv (p : PlotIx) (h : HandIx) (kind : Fin 3) (rowcol pos : Fin 16) (track : Fin 32) (drivers : BitVec 5) (edge : Nat) (s : State) : (outcomeState s (execContention p h kind rowcol pos track drivers edge s)).nv = s.nv := by
  unfold execContention
  dsimp only
  repeat' split
  all_goals simp
@[simp] theorem execGo_nv (p : PlotIx) (h : HandIx) (s : State) : (outcomeState s (execGo p h s)).nv = s.nv := by
  simp [execGo]
@[simp] theorem execPark_nv (p : PlotIx) (h : HandIx) (s : State) : (outcomeState s (execPark p h s)).nv = s.nv := by
  simp [execPark]
@[simp] theorem execHandRestart_nv (p : PlotIx) (h : HandIx) (s : State) : (outcomeState s (execHandRestart p h s)).nv = s.nv := by
  simp [execHandRestart]
@[simp] theorem execHandWipeDone_nv (p : PlotIx) (h : HandIx) (s : State) : (outcomeState s (execHandWipeDone p h s)).nv = s.nv := by
  simp [execHandWipeDone]
@[simp] theorem execPllLock_nv (pll : Pll) (s : State) : (outcomeState s (execPllLock pll s)).nv = s.nv := by
  unfold execPllLock
  repeat' split
  all_goals simp

/-! ### Machine/Queues -/

@[simp] theorem execPacketVisible_nv (x : QueueProd) (s : State) : (outcomeState s (execPacketVisible x s)).nv = s.nv := by
  simp [execPacketVisible]
@[simp] theorem execRewindArrival_nv (x : QueueProd) (s : State) : (outcomeState s (execRewindArrival x s)).nv = s.nv := by
  simp [execRewindArrival]
@[simp] theorem execCreditReturn_nv (x : QueueProd) (s : State) : (outcomeState s (execCreditReturn x s)).nv = s.nv := by
  simp [execCreditReturn]
@[simp] theorem execPopActsAtStore_nv (q : BitVec 16) (s : State) : (outcomeState s (execPopActsAtStore q s)).nv = s.nv := by
  simp [execPopActsAtStore]
@[simp] theorem execNarrowWordPush_nv (q : Fin 3) (data : Word) (last : Option (Fin 4)) (s : State) : (outcomeState s (execNarrowWordPush q data last s)).nv = s.nv := by
  unfold execNarrowWordPush
  dsimp only
  repeat' split
  all_goals simp

/-! ### Machine/BlockMem -/

@[simp] theorem execBmClearDone_nv (p : PlotIx) (k : Fin 64) (s : State) : (outcomeState s (execBmClearDone p k s)).nv = s.nv := by
  simp [execBmClearDone]

/-! ### Machine/Links -/

@[simp] theorem execPortWakeDone_nv (n : PortIx) (s : State) : (outcomeState s (execPortWakeDone n s)).nv = s.nv := by
  unfold execPortWakeDone
  dsimp only
  repeat' split
  all_goals simp
@[simp] theorem execLinkUp_nv (n : PortIx) (s : State) : (outcomeState s (execLinkUp n s)).nv = s.nv := by
  unfold execLinkUp
  split <;> simp
@[simp] theorem execLockLoss_nv (n : PortIx) (s : State) : (outcomeState s (execLockLoss n s)).nv = s.nv := by
  unfold execLockLoss
  split <;> simp
@[simp] theorem execLinkReacquire_nv (n : PortIx) (s : State) : (outcomeState s (execLinkReacquire n s)).nv = s.nv := by
  unfold execLinkReacquire
  split <;> simp
@[simp] theorem execSealFrameRx_nv (n : PortIx) (tag : List Byte) (s : State) : (outcomeState s (execSealFrameRx n tag s)).nv = s.nv := by
  unfold execSealFrameRx
  split <;> simp
@[simp] theorem execStreamRxPacket_nv (n : PortIx) (bytes : List Byte) (s : State) : (outcomeState s (execStreamRxPacket n bytes s)).nv = s.nv := by
  unfold execStreamRxPacket
  dsimp only
  repeat' split
  all_goals simp
@[simp] theorem execKchg_nv (n : PortIx) (s : State) : (outcomeState s (execKchg n s)).nv = s.nv := by
  unfold execKchg
  split <;> simp
@[simp] theorem execPacketTxStart_nv (n : PortIx) (s : State) : (outcomeState s (execPacketTxStart n s)).nv = s.nv := by
  unfold execPacketTxStart
  dsimp only
  repeat' split
  all_goals simp
@[simp] theorem execPacketTxEnd_nv (n : PortIx) (s : State) : (outcomeState s (execPacketTxEnd n s)).nv = s.nv := by
  unfold execPacketTxEnd
  split <;> simp
@[simp] theorem execStep_nv (s : State) : (outcomeState s (execStep s)).nv = s.nv := by
  unfold execStep
  repeat' split
  all_goals simp
@[simp] theorem execOffset_nv (s : State) : (outcomeState s (execOffset s)).nv = s.nv := by
  unfold execOffset
  repeat' split
  all_goals simp

/-! ### Machine/RiserPort -/

@[simp] theorem execFullLineWrite_nv (p : PlotIx) (src : MemSrc) (line : BitVec 19) (data : BitVec 512) (s : State) : (outcomeState s (execFullLineWrite p src line data s)).nv = s.nv := by
  simp [execFullLineWrite]
@[simp] theorem execPartialLineWrite_nv (p : PlotIx) (src : MemSrc) (line : BitVec 19) (be : BitVec 64) (data : BitVec 512) (s : State) : (outcomeState s (execPartialLineWrite p src line be data s)).nv = s.nv := by
  unfold execPartialLineWrite
  split <;> simp
@[simp] theorem execWriteCombineTimeout_nv (p : PlotIx) (line : BitVec 19) (upset : BitVec 640) (s : State) : (outcomeState s (execWriteCombineTimeout p line upset s)).nv = s.nv := by
  unfold execWriteCombineTimeout
  split <;> simp
@[simp] theorem execCacheWriteback_nv (p : PlotIx) (set : Fin 64) (way : Fin 4) (s : State) : (outcomeState s (execCacheWriteback p set way s)).nv = s.nv := by
  unfold execCacheWriteback
  dsimp only
  repeat' split
  all_goals simp
@[simp] theorem execCommandRetry_nv (w : CmdWord) (crcOk : Bool) (s : State) : (outcomeState s (execCommandRetry w crcOk s)).nv = s.nv := by
  unfold execCommandRetry
  dsimp only
  repeat' split
  all_goals simp
@[simp] theorem execMemPatrolRead_nv (p : PlotIx) (upset : BitVec 640) (s : State) : (outcomeState s (execMemPatrolRead p upset s)).nv = s.nv := by
  unfold execMemPatrolRead
  dsimp only
  repeat' split
  all_goals simp
@[simp] theorem execRegionWipeDone_nv (p : PlotIx) (r : Fin 32) (s : State) : (outcomeState s (execRegionWipeDone p r s)).nv = s.nv := by
  unfold execRegionWipeDone
  split <;> simp
@[simp] theorem execTileCopyLine_nv (p : PlotIx) (upset : BitVec 640) (s : State) : (outcomeState s (execTileCopyLine p upset s)).nv = s.nv := by
  unfold execTileCopyLine
  dsimp only
  repeat' split
  all_goals simp
@[simp] theorem execKeySlotLoad_nv (p : PlotIx) (r : Fin 32) (s : State) : (outcomeState s (execKeySlotLoad p r s)).nv = s.nv := by
  unfold execKeySlotLoad
  dsimp only
  repeat' split
  all_goals simp
@[simp] theorem execRkreq_nv (p : PlotIx) (r : Fin 32) (s : State) : (outcomeState s (execRkreq p r s)).nv = s.nv := by
  unfold execRkreq
  dsimp only
  repeat' split
  all_goals simp
@[simp] theorem execRekeyPassLine_nv (p : PlotIx) (r : Fin 32) (upset : BitVec 640) (s : State) : (outcomeState s (execRekeyPassLine p r upset s)).nv = s.nv := by
  unfold execRekeyPassLine
  dsimp only
  repeat' split
  all_goals simp
@[simp] theorem execRekeyPassEnd_nv (p : PlotIx) (r : Fin 32) (s : State) : (outcomeState s (execRekeyPassEnd p r s)).nv = s.nv := by
  unfold execRekeyPassEnd
  dsimp only
  repeat' split
  all_goals simp
@[simp] theorem execHoldTimeout_nv (p : PlotIx) (r : Fin 32) (s : State) : (outcomeState s (execHoldTimeout p r s)).nv = s.nv := by
  unfold execHoldTimeout
  dsimp only
  repeat' split
  all_goals simp

/-! ### Machine/Scratch -/

@[simp] theorem execScratchRead_nv (r : Requester) (coll : Coll) (upset : BitVec 144) (s : State) : (outcomeState s (execScratchRead r coll upset s)).nv = s.nv := by
  simp [execScratchRead]
@[simp] theorem execScratchWrite_nv (r : Requester) (coll : Coll) (upset : BitVec 144) (s : State) : (outcomeState s (execScratchWrite r coll upset s)).nv = s.nv := by
  simp [execScratchWrite]
@[simp] theorem execSecurePartitionFillDone_nv (s : State) : (outcomeState s (execSecurePartitionFillDone s)).nv = s.nv := by
  simp [execSecurePartitionFillDone]

/-! ### Machine/Threads -/

@[simp] theorem execThreadStart_nv (p : PlotIx) (h : HandIx) (s : State) : (outcomeState s (execThreadStart p h s)).nv = s.nv := by
  simp [execThreadStart]
@[simp] theorem execThreadStop_nv (p : PlotIx) (h : HandIx) (s : State) : (outcomeState s (execThreadStop p h s)).nv = s.nv := by
  simp [execThreadStop]
@[simp] theorem execThreadContinue_nv (p : PlotIx) (h : HandIx) (s : State) : (outcomeState s (execThreadContinue p h s)).nv = s.nv := by
  simp [execThreadContinue]
@[simp] theorem execImbLdbFillDone_nv (p : PlotIx) (ldb : Bool) (k : Fin 16) (s : State) : (outcomeState s (execImbLdbFillDone p ldb k s)).nv = s.nv := by
  simp [execImbLdbFillDone]
@[simp] theorem execEpllStop_nv (k : Fin 4) (s : State) : (outcomeState s (execEpllStop k s)).nv = s.nv := by
  unfold execEpllStop
  dsimp only
  repeat' split
  all_goals simp
@[simp] theorem execEpllTimerStart_nv (p : PlotIx) (h : HandIx) (s : State) : (outcomeState s (execEpllTimerStart p h s)).nv = s.nv := by
  unfold execEpllTimerStart
  dsimp only
  repeat' split
  all_goals simp
@[simp] theorem execPmcClear_nv (seat : Seat) (k : Fin 8) (s : State) : (outcomeState s (execPmcClear seat k s)).nv = s.nv := by
  unfold execPmcClear
  split <;> simp
@[simp] theorem execPmcOvfclr_nv (seat : Seat) (k : Fin 8) (sameEdgeSet : Bool) (s : State) : (outcomeState s (execPmcOvfclr seat k sameEdgeSet s)).nv = s.nv := by
  unfold execPmcOvfclr
  repeat' split
  all_goals simp

/-! ### Machine/Sowing -/

@[simp] theorem execSeedImageHeader_nv (seat : Seat) (src : SeedSource) (hdr : ImageHdr) (s : State) : (outcomeState s (execSeedImageHeader seat src hdr s)).nv = s.nv := by
  unfold execSeedImageHeader
  dsimp only
  repeat' split
  all_goals simp
@[simp] theorem execHandSection_nv (seat : Seat) (bytes : List Byte) (s : State) : (outcomeState s (execHandSection seat bytes s)).nv = s.nv := by
  unfold execHandSection
  dsimp only
  repeat' split
  all_goals simp
@[simp] theorem execHandSowingStart_nv (p : PlotIx) (h : HandIx) (s : State) : (outcomeState s (execHandSowingStart p h s)).nv = s.nv := by
  unfold execHandSowingStart
  dsimp only
  repeat' split
  all_goals simp
@[simp] theorem execHandSowingEnd_nv (p : PlotIx) (h : HandIx) (head body tag : List Byte) (s : State) : (outcomeState s (execHandSowingEnd p h head body tag s)).nv = s.nv := by
  unfold execHandSowingEnd
  dsimp only
  repeat' split
  all_goals simp
@[simp] theorem execBmSection_nv (seat : Seat) (head body tag : List Byte) (s : State) : (outcomeState s (execBmSection seat head body tag s)).nv = s.nv := by
  unfold execBmSection
  dsimp only
  repeat' split
  all_goals simp
@[simp] theorem execEngineSection_nv (seat : Seat) (head body tag : List Byte) (s : State) : (outcomeState s (execEngineSection seat head body tag s)).nv = s.nv := by
  unfold execEngineSection
  dsimp only
  repeat' split
  all_goals simp

/-! ### Machine/Protocol -/

@[simp] theorem execCanFrameIgnored_nv (_why : IgnoreReason) (s : State) : (outcomeState s (execCanFrameIgnored _why s)).nv = s.nv := by
  simp [execCanFrameIgnored]
@[simp] theorem execScratchBlockFillDone_otp (k : Fin 992) (s : State) : (outcomeState s (execScratchBlockFillDone k s)).nv.otp = s.nv.otp := by
  simp [execScratchBlockFillDone]
@[simp] theorem execSegTransferTimeout_nv (seat : Seat) (s : State) : (outcomeState s (execSegTransferTimeout seat s)).nv = s.nv := by
  simp [execSegTransferTimeout]
@[simp] theorem execSessionOpenTimeout_nv (seat : Seat) (s : State) : (outcomeState s (execSessionOpenTimeout seat s)).nv = s.nv := by
  simp [execSessionOpenTimeout]
@[simp] theorem execUserAttention_nv (seat : Seat) (s : State) : (outcomeState s (execUserAttention seat s)).nv = s.nv := by
  unfold execUserAttention
  dsimp only
  repeat' split
  all_goals simp

/-! ### Machine/Snapshots -/

@[simp] theorem execSnap_nv (seat : Seat) (s : State) : (outcomeState s (execSnap seat s)).nv = s.nv := by
  unfold execSnap
  split <;> simp
@[simp] theorem execSnapshotImageWritten_nv (seat : Seat) (s : State) : (outcomeState s (execSnapshotImageWritten seat s)).nv = s.nv := by
  unfold execSnapshotImageWritten
  dsimp only
  repeat' split
  all_goals simp

/-! ### Machine/Turns -/

@[simp] theorem execPllGroupStop_nv (g : Fin 8) (s : State) : (outcomeState s (execPllGroupStop g s)).nv = s.nv := by
  unfold execPllGroupStop
  dsimp only
  repeat' split
  all_goals simp

/-! ### Machine/Power -/

@[simp] theorem execPowerOn_otp (env : BootEnv) (s : State) : (outcomeState s (execPowerOn env s)).nv.otp = s.nv.otp := by
  unfold execPowerOn
  split <;> simp
@[simp] theorem execResetN_otp (lowNs : Nat) (env : BootEnv) (s : State) : (outcomeState s (execResetN lowNs env s)).nv.otp = s.nv.otp := by
  unfold execResetN
  dsimp only
  repeat' split
  all_goals simp
@[simp] theorem execTrstN_nv (s : State) : (outcomeState s (execTrstN s)).nv = s.nv := by
  simp [execTrstN]
@[simp] theorem execAutoriseRise_otp (env : RiseEnv) (s : State) : (outcomeState s (execAutoriseRise env s)).nv.otp = s.nv.otp := by
  unfold execAutoriseRise
  split <;> simp
@[simp] theorem execRise_otp (env : RiseEnv) (s : State) : (outcomeState s (execRise env s)).nv.otp = s.nv.otp := by
  unfold execRise
  dsimp only
  repeat' split
  all_goals simp
@[simp] theorem execRestart_otp (env : RiseEnv) (s : State) : (outcomeState s (execRestart env s)).nv.otp = s.nv.otp := by
  unfold execRestart
  dsimp only
  repeat' split
  all_goals simp
@[simp] theorem execRequestFallow_otp (s : State) : (outcomeState s (execRequestFallow s)).nv.otp = s.nv.otp := by
  unfold execRequestFallow
  dsimp only
  repeat' split
  all_goals simp
@[simp] theorem execContinuousTestFail_otp (code : Fin 3) (s : State) : (outcomeState s (execContinuousTestFail code s)).nv.otp = s.nv.otp := by
  unfold execContinuousTestFail
  dsimp only
  repeat' split
  all_goals simp

/-! ### Machine/Startup -/

@[simp] theorem execBootFlashRead_nv (addr : BitVec 32) (len : Nat) (s : State) : (outcomeState s (execBootFlashRead addr len s)).nv = s.nv := by
  unfold execBootFlashRead
  repeat' split
  all_goals simp
@[simp] theorem execSowingFinalTimeout_nv (s : State) : (outcomeState s (execSowingFinalTimeout s)).nv = s.nv := by
  unfold execSowingFinalTimeout
  split <;> simp
@[simp] theorem execTrainingSlotEnd_nv (s : State) : (outcomeState s (execTrainingSlotEnd s)).nv = s.nv := by
  unfold execTrainingSlotEnd
  split <;> simp

/-! ### Machine/Resets -/

@[simp] theorem execFeedDomainReset_nv (d : Fin 7) (s : State) : (outcomeState s (execFeedDomainReset d s)).nv = s.nv := by
  unfold execFeedDomainReset
  split <;> simp
@[simp] theorem execFeedRetrainDone_nv (d : Fin 7) (s : State) : (outcomeState s (execFeedRetrainDone d s)).nv = s.nv := by
  unfold execFeedRetrainDone
  split <;> simp
@[simp] theorem execDieReset_nv (d : Fin 2) (s : State) : (outcomeState s (execDieReset d s)).nv = s.nv := by
  unfold execDieReset
  split <;> simp
@[simp] theorem execDieResetRequest_nv (s : State) : (outcomeState s (execDieResetRequest s)).nv = s.nv := by
  unfold execDieResetRequest
  dsimp only
  repeat' split
  all_goals simp
@[simp] theorem execDieResetRelease_nv (d : Fin 2) (s : State) : (outcomeState s (execDieResetRelease d s)).nv = s.nv := by
  simp [execDieResetRelease]

/-! ### Machine/Modes -/

@[simp] theorem execLimpAutoEntry_nv (s : State) : (outcomeState s (execLimpAutoEntry s)).nv = s.nv := by
  unfold execLimpAutoEntry
  split <;> simp

/-! ### Machine/Housekeeping -/

@[simp] theorem execTempFrame_otp (counts : List Nat) (s : State) : (outcomeState s (execTempFrame counts s)).nv.otp = s.nv.otp := by
  unfold execTempFrame
  dsimp only
  repeat' split
  all_goals simp
@[simp] theorem execCurrentLimitSkip_otp (rail : Fin 5) (milliamps : Nat) (s : State) : (outcomeState s (execCurrentLimitSkip rail milliamps s)).nv.otp = s.nv.otp := by
  unfold execCurrentLimitSkip
  dsimp only
  repeat' split
  all_goals simp
@[simp] theorem execIoNominalVoltageFix_nv (b : Fin 32) (s : State) : (outcomeState s (execIoNominalVoltageFix b s)).nv = s.nv := by
  unfold execIoNominalVoltageFix
  dsimp only
  repeat' split
  all_goals simp
@[simp] theorem execMemRefresh_nv (die : Fin 5) (s : State) : (outcomeState s (execMemRefresh die s)).nv = s.nv := by
  unfold execMemRefresh
  split <;> simp

/-! ### Machine/Service -/

@[simp] theorem execSspiStatus_nv (s : State) : (outcomeState s (execSspiStatus s)).nv = s.nv := by
  unfold execSspiStatus
  split <;> simp

/-! ### Machine/Bist -/

@[simp] theorem execSelfTestStart_otp (lim : TestLimits) (s : State) : (outcomeState s (execSelfTestStart lim s)).nv.otp = s.nv.otp := by
  unfold execSelfTestStart
  dsimp only
  repeat' split
  all_goals simp
@[simp] theorem execSelfTestAbort_nv (s : State) : (outcomeState s (execSelfTestAbort s)).nv = s.nv := by
  unfold execSelfTestAbort
  split <;> simp
@[simp] theorem execBistFailLog_nv (e : FailEntry) (s : State) : (outcomeState s (execBistFailLog e s)).nv = s.nv := by
  unfold execBistFailLog
  dsimp only
  repeat' split
  all_goals simp
@[simp] theorem execSelfTestEnd_otp (opsDone : Nat) (elems : Nat) (signature : Word) (s : State) : (outcomeState s (execSelfTestEnd opsDone elems signature s)).nv.otp = s.nv.otp := by
  unfold execSelfTestEnd
  dsimp only
  repeat' split
  all_goals simp
@[simp] theorem execSelfTestRestoreDone_nv (s : State) : (outcomeState s (execSelfTestRestoreDone s)).nv = s.nv := by
  unfold execSelfTestRestoreDone
  split <;> simp
@[simp] theorem execReclaim_otp (findings : List Finding) (marchOk : Bool) (s : State) : (outcomeState s (execReclaim findings marchOk s)).nv.otp = s.nv.otp := by
  unfold execReclaim
  dsimp only
  repeat' split
  all_goals simp

/-! ### Machine/Jtag -/

@[simp] theorem execIdcode_nv (s : State) : (outcomeState s (execIdcode s)).nv = s.nv := by
  unfold execIdcode
  split <;> simp
@[simp] theorem execSamplePreload_nv (cells : List Bool) (s : State) : (outcomeState s (execSamplePreload cells s)).nv = s.nv := by
  unfold execSamplePreload
  split <;> simp
@[simp] theorem execBypass_nv (s : State) : (outcomeState s (execBypass s)).nv = s.nv := by
  unfold execBypass
  split <;> simp

/-! ### Machine/Fabric -/

theorem State.atEdge_nv {s t : State} {p edge h : Nat} (at' : s.atEdge p edge = some (t, h)) : t.nv = s.nv := by
  rw [(State.atEdge_eq at').2, State.toEdge_nv]

/-! ### Machine/Queues -/

theorem atPort_nv {s : State} {p edge i : Nat} {asks : Plot → Bool} {g : State → Nat → State} (leaves : ∀ t h, (g t h).nv = t.nv) :
    (outcomeState s (atPort s p edge asks i g)).nv = s.nv := by
  unfold atPort
  split
  · rfl
  next t h at' => split <;> simp [leaves, State.atEdge_nv at']

/-! ### Machine/Fabric -/

@[simp] theorem execHandCall_nv (p : PlotIx) (slot : BitVec 6) (edge : Nat) (s : State) : (outcomeState s (execHandCall p slot edge s)).nv = s.nv := by
  unfold execHandCall
  split
  · rfl
  next t h at' => dsimp only; split <;> simp [State.atEdge_nv at']
@[simp] theorem execConfigPatrol_nv (upsets : List (PlotIx × BitVec 72)) (s : State) : (outcomeState s (execConfigPatrol upsets s)).nv = s.nv := by
  unfold execConfigPatrol
  split
  · rfl
  · dsimp only
    generalize List.range 512 = ps
    rw [outcomeState_next, State.onFab_nv]
    exact foldl_leaves State.nv (fun _ _ => patrolPlot_nv ..) ps s
@[simp] theorem execBondSpared_otp (p : PlotIx) (group : Fin 11520) (s : State) : (outcomeState s (execBondSpared p group s)).nv.otp = s.nv.otp := by
  unfold execBondSpared
  dsimp only
  repeat' split
  all_goals simp only [outcomeState_next, State.onFab_nv, State.onMap_otp, State.raiseAll_nv]

/-! ### Machine/Queues -/

@[simp] theorem execQoPush_nv (a : PlotEdge) (qp : Fin 8) (sel : Fin 4) (data : BitVec 256) (rank : BitVec 3) (s : State) : (outcomeState s (execQoPush a qp sel data rank s)).nv = s.nv :=
  atPort_nv fun _ _ => handPush_nv ..
@[simp] theorem execQoLast_nv (a : PlotEdge) (qp : Fin 8) (sel : Fin 4) (data : BitVec 256) (rank : BitVec 3) (vb : BitVec 5) (s : State) : (outcomeState s (execQoLast a qp sel data rank vb s)).nv = s.nv :=
  atPort_nv fun _ _ => handPush_nv ..
@[simp] theorem execQoAbort_nv (a : PlotEdge) (qp : Fin 8) (sel : Fin 4) (s : State) : (outcomeState s (execQoAbort a qp sel s)).nv = s.nv :=
  atPort_nv fun _ _ => by simp
@[simp] theorem execQiPop_nv (a : PlotEdge) (qp : Fin 8) (sel : Fin 4) (s : State) : (outcomeState s (execQiPop a qp sel s)).nv = s.nv :=
  atPort_nv fun _ _ => handPop_nv ..
@[simp] theorem execQiDrop_nv (a : PlotEdge) (qp : Fin 8) (sel : Fin 4) (s : State) : (outcomeState s (execQiDrop a qp sel s)).nv = s.nv :=
  atPort_nv fun _ _ => by simp
@[simp] theorem execQiWmclr_nv (a : PlotEdge) (qp : Fin 8) (sel : Fin 4) (sameEdgeSet : Bool) (s : State) : (outcomeState s (execQiWmclr a qp sel sameEdgeSet s)).nv = s.nv :=
  atPort_nv fun _ _ => handConsume_nv ..
@[simp] theorem execQueueBindDone_nv (q : BitVec 16) (s : State) : (outcomeState s (execQueueBindDone q s)).nv = s.nv := by
  unfold execQueueBindDone
  extract_lets
  split <;> rfl

/-! ### Machine/BlockMem -/

@[simp] theorem execBmRead_nv (a : PlotEdge) (k : Fin 64) (portB : Bool) (addr : Nat) (other : Option BmW) (upset : BitVec 72) (s : State) : (outcomeState s (execBmRead a k portB addr other upset s)).nv = s.nv := by
  unfold execBmRead
  split
  · rfl
  next t h at' => dsimp only; split <;> simp [State.atEdge_nv at']
@[simp] theorem execBmWrite_nv (a : PlotEdge) (k : Fin 64) (portB : Bool) (w : BmW) (other : Option BmW) (s : State) : (outcomeState s (execBmWrite a k portB w other s)).nv = s.nv := by
  unfold execBmWrite
  split
  · rfl
  next t h at' => dsimp only; split <;> simp [State.atEdge_nv at']

/-! ### Machine/Links -/

@[simp] theorem execSteeringLookup_nv (n : PortIx) (bytes : List Byte) (s : State) : (outcomeState s (execSteeringLookup n bytes s)).nv = s.nv := by
  unfold execSteeringLookup
  extract_lets t x line dead seen hit q rank miss drop
  have missed (u : State) : (miss u).nv = u.nv := State.onPort_nv ..
  have dropped (u : State) (k : Nat) : (drop u k).nv = u.nv := discardRx_nv ..
  have judged : t.nv = s.nv := judgeFrame_nv ..
  clear_value hit t miss drop
  repeat' split
  all_goals simp [missed, dropped, judged]
@[simp] theorem execPacketRxEnd_nv (n : PortIx) (e : RxEnd) (s : State) : (outcomeState s (execPacketRxEnd n e s)).nv = s.nv := by
  unfold execPacketRxEnd
  extract_lets t x met seen whole all body fcsOk fec lostWords crcBad bad counted told
  have judged : t.nv = s.nv := judgeFrame_nv ..
  have toldKeeps : told.nv = s.nv := by
    unfold told
    repeat' split
    all_goals simp [counted, judged]
  repeat' split
  all_goals simp [judged, toldKeeps]

/-! ### Machine/RiserPort -/

@[simp] theorem execMemPortRequest_nv (a : PlotEdge) (we : Bool) (line : BitVec 19) (be : BitVec 64) (data : BitVec 512) (tag : Byte) (s : State) : (outcomeState s (execMemPortRequest a we line be data tag s)).nv = s.nv :=
  atPort_nv fun _ _ => portRequest_nv ..
@[simp] theorem execMsPop_nv (a : PlotEdge) (s : State) : (outcomeState s (execMsPop a s)).nv = s.nv :=
  atPort_nv fun _ _ => State.onFab_nv ..
@[simp] theorem execLineRead_nv (p : PlotIx) (src : MemSrc) (line : BitVec 19) (upset : BitVec 640) (s : State) : (outcomeState s (execLineRead p src line upset s)).nv = s.nv := by
  unfold execLineRead
  dsimp only
  split
  case h_1 h =>
    split
    · rfl
    · split
      · rfl
      next q _ =>
        split
        · rfl
        · split
          · simp
          · have read := readAfter_nv s p.val line.toNat (.fabric h) upset
            split <;> simp_all
  case h_2 h =>
    have read := serveRead_nv s p.val line.toNat (.engine h) upset
    split
    · split
      · rfl
      · split
        · simp_all
        · split
          · simp_all
          · split <;> simp_all
    · rfl
  case h_3 => split <;> simp
@[simp] theorem execRiserLaneCheck_otp (p : PlotIx) (failed : List (Fin 98)) (s : State) : (outcomeState s (execRiserLaneCheck p failed s)).nv.otp = s.nv.otp := by
  unfold execRiserLaneCheck
  extract_lets x share mine
  split
  · rfl
  · simp only [outcomeState_next, retryB_nv]
    exact foldl_leaves (fun t : State => t.nv.otp) (fun _ _ => laneFailed_otp ..) mine _
@[simp] theorem execRekeyFlip_nv (p : PlotIx) (r : Fin 32) (s : State) : (outcomeState s (execRekeyFlip p r s)).nv = s.nv := by
  unfold execRekeyFlip
  extract_lets g others pass first held t
  split
  · rfl
  · simp only [outcomeState_next, retryB_nv]
    exact foldl_leaves State.nv (fun _ _ => performEntry_nv ..) held t

/-! ### Machine/Bulk -/

@[simp] theorem execBulkBadRequest_nv (c : Fin 64) (s : State) : (outcomeState s (execBulkBadRequest c s)).nv = s.nv := by
  unfold execBulkBadRequest
  split
  · rfl
  · split
    · rfl
    · split
      next answered => exact bulkAnswer_nv answered
      next => rfl

/-! ### Machine/Kitty -/

@[simp] theorem execKittyWrite_nv (a : PlotEdge) (reg : BitVec 11) (data : Word) (be : BitVec 4) (s : State) : (outcomeState s (execKittyWrite a reg data be s)).nv = s.nv :=
  atPort_nv fun _ _ => by simp
@[simp] theorem execKittyRead_nv (a : PlotEdge) (reg : BitVec 11) (s : State) : (outcomeState s (execKittyRead a reg s)).nv = s.nv := by
  unfold execKittyRead
  split
  · rfl
  next t h at' => split <;> simp [State.atEdge_nv at']

/-! ### Machine/IsaMem -/

@[simp] theorem execLdmMissResponse_nv (p : PlotIx) (h : HandIx) (upset : BitVec 640) (s : State) : (outcomeState s (execLdmMissResponse p h upset s)).nv = s.nv := by
  unfold execLdmMissResponse
  dsimp only
  split
  · split
    · rfl
    · split
      next => rfl
      next filled => rw [outcomeState_next, State.onEng_nv]; exact fillFor_nv filled
  · rfl
@[simp] theorem execStmFillResponse_nv (p : PlotIx) (h : HandIx) (upset : BitVec 640) (s : State) : (outcomeState s (execStmFillResponse p h upset s)).nv = s.nv := by
  unfold execStmFillResponse
  dsimp only
  split
  next rs ra imm _ _ =>
    split
    · rfl
    · split
      · simp
      · split <;> simp
      · split
        next => rfl
        next filled =>
          have := fillFor_nv filled
          split
          · simp_all
          · split <;> simp_all
  next => rfl

/-! ### Machine/Sowing -/

theorem stageEach_nv (seat : Nat) (l : List StageItem) (s : State) : (stageEach seat l s).1.nv = s.nv := by
  induction l generalizing s with
  | nil => rfl
  | cons i t ih =>
    unfold stageEach
    dsimp only
    split <;> simp [ih]
@[simp] theorem execStagingSection_nv (seat : Seat) (head body tag : List Byte) (s : State) : (outcomeState s (execStagingSection seat head body tag s)).nv = s.nv := by
  unfold execStagingSection
  dsimp only
  split
  next e t x _ _ _ =>
    have staged := stageEach_nv seat.val ((sectionItems 257 x.content).getD []) s
    split
    · rfl
    · split
      · simp
      · split
        · simp
        · split
          next => simp
          next staged' =>
            rw [staged'] at staged
            split <;> simp_all
  next => rfl

/-! ### Machine/Bulk -/

@[simp] theorem execBulkReadReq_nv (c : Fin 64) (s : State) : (outcomeState s (execBulkReadReq c s)).nv = s.nv := by
  unfold execBulkReadReq
  split
  · rfl
  next seat r q' _ =>
    split
    · rfl
    · extract_lets o unit done
      have read : o.1.nv = s.nv := by
        unfold o
        split
        · exact bulkReadLines_nv ..
        · split
          · exact bulkReadWords_nv ..
          · rfl
      have answered {t : State} (ends : done = some t) : t.nv = o.1.nv := by
        unfold done at ends
        split at ends <;> exact bulkAnswer_nv ends
      clear_value done
      split
      next => exact (answered rfl).trans read
      next => rfl
@[simp] theorem execBulkWrite_nv (c : Fin 64) (s : State) : (outcomeState s (execBulkWrite c s)).nv = s.nv := by
  unfold execBulkWrite
  split
  · rfl
  next seat r q' _ =>
    split
    · rfl
    · extract_lets finish w done
      have finished {u t : State} {n resp : Nat} (ends : finish u n resp = some t) : t.nv = u.nv := by
        unfold finish at ends
        split at ends
        all_goals
          obtain ⟨v, answered, rfl⟩ := Option.map_eq_some_iff.1 ends
          exact (State.onLnk_nv ..).trans (bulkAnswer_nv answered)
      have performed {t : State} (ends : done = some t) : t.nv = s.nv := by
        unfold done at ends
        have goesOn := bulkGoOn_nv s c seat r
        split at ends
        · exact (bulkReply_nv ends).trans (State.onNet_nv ..)
        · split at ends
          · exact bulkSeed_nv ends
          · split at ends
            · split at ends
              next at' => cases ends; rw [State.onLnk_nv]; rw [at'] at goesOn; exact goesOn
              next at' => rw [at'] at goesOn; exact (finished ends).trans goesOn
            · exact (finished ends).trans (bulkWords_nv ..)
      clear_value done
      split
      next => exact performed rfl
      next => rfl

/-! ### Machine/RiserPort -/

@[simp] theorem execTileCopyDone_otp (p : PlotIx) (s : State) : (outcomeState s (execTileCopyDone p s)).nv.otp = s.nv.otp := by
  unfold execTileCopyDone
  dsimp only
  split
  · rw [outcomeState_next, State.raiseAll_nv, riserEntry_nv, State.onStk_nv, State.onMap_otp]
  · rfl
@[simp] theorem execDieMapDone_otp (d : Fin 4) (s : State) : (outcomeState s (execDieMapDone d s)).nv.otp = s.nv.otp := by
  unfold execDieMapDone
  dsimp only
  split
  · rw [outcomeState_next, State.raiseAll_nv, riserEntry_nv, State.onMap_otp, State.onStk_nv]
  · rfl
/-- The state that stands when a request has been looked at, whether it goes on or is over. -/
def Admission.left : Admission → State
  | .done s => s
  | .go s => s
@[simp] theorem Admission.left_done (s : State) : (Admission.done s).left = s := rfl
@[simp] theorem Admission.left_go (s : State) : (Admission.go s).left = s := rfl

/-! ### Machine/Protocol -/

@[simp] theorem acceptSeq_nv (s : State) (r : Req) (func : Nat) (seg : Bool) : (acceptSeq s r func seg).left.nv = s.nv := by
  unfold acceptSeq
  dsimp only
  repeat' split
  all_goals simp
@[simp] theorem accept_nv (s : State) (r : Req) (func : Nat) (seg : Bool) : (accept s r func seg).left.nv = s.nv := by
  unfold accept
  dsimp only
  repeat' split
  all_goals simp
theorem accept_done_nv {s t : State} {r : Req} {func : Nat} {seg : Bool} (done : accept s r func seg = .done t) : t.nv = s.nv := by
  simpa [done] using accept_nv s r func seg
theorem accept_go_nv {s t : State} {r : Req} {func : Nat} {seg : Bool} (go : accept s r func seg = .go t) : t.nv = s.nv := by
  simpa [go] using accept_nv s r func seg
theorem serve_nv {s : State} {r : Req} {func : Nat} {op : State → Nat → List Byte → Bool → OpOut} (leaves : ∀ s k d l, (op s k d l).st.nv = s.nv) :
    (outcomeState s (serve s r func op)).nv = s.nv := by
  unfold serve
  split
  next done => exact accept_done_nv done
  next go => simp [leaves, accept_go_nv go]
@[simp] theorem serveWrite'_otp (s : State) (r : Req) : (outcomeState s (serveWrite' s r)).nv.otp = s.nv.otp := by
  unfold serveWrite'
  split
  next done => simp [accept_done_nv done]
  next go => split <;> simp [accept_go_nv go]
@[simp] theorem execRead_nv (r : Req) (s : State) : (outcomeState s (execRead r s)).nv = s.nv := by
  unfold execRead
  split
  next done => exact accept_done_nv done
  next go => simp [accept_go_nv go]
@[simp] theorem execNextEntry_nv (r : Req) (s : State) : (outcomeState s (execNextEntry r s)).nv = s.nv := by
  unfold execNextEntry
  split
  · exact serve_nv fun _ _ _ _ => opRead_nv ..
  · rfl
@[simp] theorem execWrite_otp (r : Req) (s : State) : (outcomeState s (execWrite r s)).nv.otp = s.nv.otp := serveWrite'_otp ..
@[simp] theorem execSmsWrite_otp (r : Req) (s : State) : (outcomeState s (execSmsWrite r s)).nv.otp = s.nv.otp := by
  unfold execSmsWrite
  split
  · exact serveWrite'_otp ..
  · rfl

/-! ### Machine/Staging -/

@[simp] theorem opStage_nv (s : State) (seat index sub : Nat) (data : List Byte) (long : Bool) : (opStage s seat index sub data long).st.nv = s.nv :=
  stageItems_nv ..
@[simp] theorem opWinWrite_nv (s : State) (seat index : Nat) (data : List Byte) (long : Bool) : (opWinWrite s seat index data long).st.nv = s.nv :=
  stageItems_nv ..

/-! ### Machine/Protocol -/

@[simp] theorem execStage_nv (r : Req) (s : State) : (outcomeState s (execStage r s)).nv = s.nv := serve_nv fun _ _ _ _ => by simp
@[simp] theorem execCheck_nv (r : Req) (s : State) : (outcomeState s (execCheck r s)).nv = s.nv := serve_nv fun _ _ _ _ => by simp
@[simp] theorem execTurn_nv (r : Req) (s : State) : (outcomeState s (execTurn r s)).nv = s.nv := serve_nv fun _ _ _ _ => by simp
@[simp] theorem execDiscard_nv (r : Req) (s : State) : (outcomeState s (execDiscard r s)).nv = s.nv := serve_nv fun _ _ _ _ => by simp
@[simp] theorem execWinRead_nv (r : Req) (s : State) : (outcomeState s (execWinRead r s)).nv = s.nv := serve_nv fun _ _ _ _ => by simp
@[simp] theorem execPing_nv (r : Req) (s : State) : (outcomeState s (execPing r s)).nv = s.nv := serve_nv fun _ _ _ _ => by simp
@[simp] theorem execAttnAck_nv (r : Req) (s : State) : (outcomeState s (execAttnAck r s)).nv = s.nv := serve_nv fun _ _ _ _ => by simp
@[simp] theorem execWinWrite_nv (r : Req) (s : State) : (outcomeState s (execWinWrite r s)).nv = s.nv := serve_nv fun _ _ _ _ => by simp
@[simp] theorem execReservedFunc_nv (r : Req) (func : Byte) (s : State) : (outcomeState s (execReservedFunc r func s)).nv = s.nv := by
  unfold execReservedFunc
  split
  · rfl
  · exact serve_nv fun _ _ _ _ => rfl
@[simp] theorem execSessionClose_nv (r : Req) (s : State) : (outcomeState s (execSessionClose r s)).nv = s.nv := by
  unfold execSessionClose
  split
  next done => exact accept_done_nv done
  next go => dsimp only; split <;> simp [accept_go_nv go]
@[simp] theorem execSegRead_nv (r : Req) (s : State) : (outcomeState s (execSegRead r s)).nv = s.nv := by
  unfold execSegRead
  split
  next done => exact accept_done_nv done
  next go => dsimp only; split <;> simp [accept_go_nv go]
@[simp] theorem execSegWrite_nv (r : Req) (s : State) : (outcomeState s (execSegWrite r s)).nv = s.nv := by
  unfold execSegWrite
  split
  next done => exact accept_done_nv done
  next go => dsimp only; split <;> simp [accept_go_nv go]
@[simp] theorem execSegData_otp (r : Req) (sigOk pointsOk : Bool) (s : State) : (outcomeState s (execSegData r sigOk pointsOk s)).nv.otp = s.nv.otp := by
  unfold execSegData
  split
  next done => simp [accept_done_nv done]
  next go =>
    dsimp only
    repeat' split
    all_goals simp [accept_go_nv go]
@[simp] theorem execSegAck_nv (r : Req) (s : State) : (outcomeState s (execSegAck r s)).nv = s.nv := by
  unfold execSegAck
  split
  next done => exact accept_done_nv done
  next go =>
    dsimp only
    repeat' split
    all_goals simp [accept_go_nv go]
@[simp] theorem openReply_nv (s : State) (o : OpenPart) (err step part : Nat) (data : List Byte) : (openReply s o err step part data).nv = s.nv :=
  State.send_nv ..
@[simp] theorem openFail_nv (s : State) (o : OpenPart) (err step part : Nat) : (openFail s o err step part).nv = s.nv :=
  (openReply_nv ..).trans (State.onSeat_nv ..)
theorem openReplies_nv (o : OpenPart) (part : Nat → List Byte) (l : List Nat) (s : State) :
    (l.foldl (fun s i => openReply s o errOk 2 i (part i)) s).nv = s.nv :=
  foldl_leaves State.nv (fun _ _ => openReply_nv ..) l s
@[simp] theorem execSessionOpenQh_nv (o : OpenPart) (pointOk : Bool) (s : State) : (outcomeState s (execSessionOpenQh o pointOk s)).nv = s.nv := by
  unfold execSessionOpenQh
  dsimp only
  repeat' split
  all_goals simp [openReplies_nv]
@[simp] theorem execSessionOpenSigh_nv (o : OpenPart) (sigOk : Bool) (s : State) : (outcomeState s (execSessionOpenSigh o sigOk s)).nv = s.nv := by
  unfold execSessionOpenSigh
  dsimp only
  repeat' split
  all_goals simp
theorem takeShadows_nv (i : Nat) (mask : Byte) (pre : Option (List (Nat × List Byte × Nat))) (l : List Nat) (s : State) :
    (l.foldl (fun s k => takeShadow s i mask pre k) s).nv = s.nv := foldl_leaves State.nv (fun _ _ => takeShadow_nv ..) l s

/-! ### Machine/Snapshots -/

@[simp] theorem execSnapshot_nv (s : State) : (outcomeState s (execSnapshot s)).nv = s.nv := by
  unfold execSnapshot
  dsimp only
  split
  · rfl
  · split <;> simp [takeShadows_nv]

/-! ### Machine/Turns -/

@[simp] theorem execTurnWindowStart_nv (s : State) : (outcomeState s (execTurnWindowStart s)).nv = s.nv := by
  unfold execTurnWindowStart
  dsimp only
  split
  · rfl
  · rw [outcomeState_next, State.onMc_nv]
    exact foldl_leaves State.nv (fun u x => by split <;> simp) _ _
theorem turnsApplied_otp (l : List (Nat × Turn)) (s : State) :
    (l.foldl (fun s x => if s.modeOrdered then s else performTurn s x.1 x.2) s).nv.otp = s.nv.otp :=
  foldl_leaves (fun t : State => t.nv.otp) (fun u x => by split <;> simp) l s
@[simp] theorem execTurnApply_otp (s : State) : (outcomeState s (execTurnApply s)).nv.otp = s.nv.otp := by
  unfold execTurnApply
  dsimp only
  split
  · rfl
  · rw [outcomeState_next, apply_ite State.nv, apply_ite Nv.otp]
    simp [turnsApplied_otp, apply_ite State.nv]

/-! ### Machine/Power -/

@[simp] theorem execPowerLoss_nv (s : State) : (outcomeState s (execPowerLoss s)).nv = s.nv := rfl
@[simp] theorem execTamper_otp (source : Fin 7) (s : State) : (outcomeState s (execTamper source s)).nv.otp = s.nv.otp := by
  unfold execTamper
  dsimp only
  split
  · rfl
  · rw [outcomeState_next]
    split
    · exact (zeroise_otp _).trans rfl
    · rfl
@[simp] theorem execSoftStartFail_nv (rail : Fin 5) (s : State) : (outcomeState s (execSoftStartFail rail s)).nv = s.nv := by
  unfold execSoftStartFail
  split
  · rfl
  · split
    next => rfl
    next dropped => rw [outcomeState_next, State.onHk_nv]; exact State.dropRise_nv dropped

/-! ### Machine/Protocol -/

@[simp] theorem execMcDictionaryRequest_otp (seat : Seat) (j : Fin 16) (s : State) : (outcomeState s (execMcDictionaryRequest seat j s)).nv.otp = s.nv.otp := by
  unfold execMcDictionaryRequest
  extract_lets k n q x
  split
  · rfl
  · split
    next => rfl
    next p q' _ =>
      extract_lets b s' func seq rq again answer reply len d long o
      have answered (u : State) (r : Reply) (keep : Bool) (same : u.nv.otp = s.nv.otp) : (outcomeState s (answer u r keep)).nv.otp = s.nv.otp := by
        unfold answer
        dsimp only
        split
        next pushed => rw [outcomeState_next, pushReply_nv pushed]; split <;> simp [same]
        next => rfl
      have taken : s'.nv.otp = s.nv.otp := rfl
      split
      · exact taken
      · split
        · exact answered _ _ _ taken
        · split
          · exact taken
          · split
            · exact answered _ _ _ taken
            · have done : o.st.nv.otp = s.nv.otp := (mcOp_otp ..).trans taken
              split
              · rfl
              · split
                · rw [outcomeState_next, State.onSeat_nv, done]
                · exact answered _ _ _ done

/-! ### Machine/IsaAlu -/

@[simp] theorem jumpTo_nv (s : State) (p h : Nat) (t : Thread) (target : Word) (wrong : Bool) : (jumpTo s p h t target wrong).left.nv = s.nv := rfl

/-! ### Machine/IsaQueue -/

@[simp] theorem waitDone_nv (s : State) (p h : Nat) (t : Thread) (rd : RegIx) (holds : Nat) (unbound sameEdgeSet : Bool) :
    (waitDone s p h t rd holds unbound sameEdgeSet).left.nv = s.nv := rfl
@[simp] theorem prodInsn_nv (s : State) (p h : Nat) (t : Thread) (w : Word) (act : Queue → Nat → Queue) (event : Queue → Nat → List Nat) :
    (prodInsn s p h t w act event).left.nv = s.nv := by
  unfold prodInsn
  dsimp only
  split
  · rfl
  · split <;> rfl
@[simp] theorem popInsn_nv (s : State) (p h : Nat) (t : Thread) (rd : RegIx) (w a : Word) (take : Bool) : (popInsn s p h t rd w a take).left.nv = s.nv := by
  unfold popInsn
  dsimp only
  repeat' split
  all_goals simp

/-! ### Machine/IsaAlu -/

@[simp] theorem runAlu_nv (s : State) (p h : Nat) (f : Alu3) (rd ra rb : RegIx) : (runAlu s p h f rd ra rb).nv = s.nv := by
  rw [runAlu, engStep_nv]
  exact fun _ => retireReg_nv ..
@[simp] theorem runShift_nv (s : State) (p h : Nat) (f : ShiftOp) (rd ra : RegIx) (sh : BitVec 5) : (runShift s p h f rd ra sh).nv = s.nv := by
  rw [runShift, engStep_nv]
  exact fun _ => retireReg_nv ..
@[simp] theorem runImm_nv (s : State) (p h : Nat) (f : ImmOp) (rd ra : RegIx) (v : BitVec 16) : (runImm s p h f rd ra v).nv = s.nv := by
  rw [runImm, engStep_nv]
  exact fun _ => retireReg_nv ..
@[simp] theorem runBranch_nv (s : State) (p h : Nat) (f : BranchOp) (ra rb : RegIx) (off : BitVec 16) : (runBranch s p h f ra rb off).nv = s.nv := by
  rw [runBranch, engStep_nv]
  intro t
  dsimp only
  split <;> simp
@[simp] theorem execAdd_nv (p : PlotIx) (h : HandIx) (rd ra rb : RegIx) (s : State) : (outcomeState s (execAdd p h rd ra rb s)).nv = s.nv := runAlu_nv ..
@[simp] theorem execSub_nv (p : PlotIx) (h : HandIx) (rd ra rb : RegIx) (s : State) : (outcomeState s (execSub p h rd ra rb s)).nv = s.nv := runAlu_nv ..
@[simp] theorem execAnd_nv (p : PlotIx) (h : HandIx) (rd ra rb : RegIx) (s : State) : (outcomeState s (execAnd p h rd ra rb s)).nv = s.nv := runAlu_nv ..
@[simp] theorem execOr_nv (p : PlotIx) (h : HandIx) (rd ra rb : RegIx) (s : State) : (outcomeState s (execOr p h rd ra rb s)).nv = s.nv := runAlu_nv ..
@[simp] theorem execXor_nv (p : PlotIx) (h : HandIx) (rd ra rb : RegIx) (s : State) : (outcomeState s (execXor p h rd ra rb s)).nv = s.nv := runAlu_nv ..
@[simp] theorem execSlt_nv (p : PlotIx) (h : HandIx) (rd ra rb : RegIx) (s : State) : (outcomeState s (execSlt p h rd ra rb s)).nv = s.nv := runAlu_nv ..
@[simp] theorem execSltu_nv (p : PlotIx) (h : HandIx) (rd ra rb : RegIx) (s : State) : (outcomeState s (execSltu p h rd ra rb s)).nv = s.nv := runAlu_nv ..
@[simp] theorem execSll_nv (p : PlotIx) (h : HandIx) (rd ra rb : RegIx) (s : State) : (outcomeState s (execSll p h rd ra rb s)).nv = s.nv := runAlu_nv ..
@[simp] theorem execSrl_nv (p : PlotIx) (h : HandIx) (rd ra rb : RegIx) (s : State) : (outcomeState s (execSrl p h rd ra rb s)).nv = s.nv := runAlu_nv ..
@[simp] theorem execSra_nv (p : PlotIx) (h : HandIx) (rd ra rb : RegIx) (s : State) : (outcomeState s (execSra p h rd ra rb s)).nv = s.nv := runAlu_nv ..
@[simp] theorem execMul_nv (p : PlotIx) (h : HandIx) (rd ra rb : RegIx) (s : State) : (outcomeState s (execMul p h rd ra rb s)).nv = s.nv := runAlu_nv ..
@[simp] theorem execMulh_nv (p : PlotIx) (h : HandIx) (rd ra rb : RegIx) (s : State) : (outcomeState s (execMulh p h rd ra rb s)).nv = s.nv := runAlu_nv ..
@[simp] theorem execMulhu_nv (p : PlotIx) (h : HandIx) (rd ra rb : RegIx) (s : State) : (outcomeState s (execMulhu p h rd ra rb s)).nv = s.nv := runAlu_nv ..
@[simp] theorem execSlli_nv (p : PlotIx) (h : HandIx) (rd ra : RegIx) (sh : BitVec 5) (s : State) : (outcomeState s (execSlli p h rd ra sh s)).nv = s.nv := runShift_nv ..
@[simp] theorem execSrli_nv (p : PlotIx) (h : HandIx) (rd ra : RegIx) (sh : BitVec 5) (s : State) : (outcomeState s (execSrli p h rd ra sh s)).nv = s.nv := runShift_nv ..
@[simp] theorem execSrai_nv (p : PlotIx) (h : HandIx) (rd ra : RegIx) (sh : BitVec 5) (s : State) : (outcomeState s (execSrai p h rd ra sh s)).nv = s.nv := runShift_nv ..
@[simp] theorem execRori_nv (p : PlotIx) (h : HandIx) (rd ra : RegIx) (sh : BitVec 5) (s : State) : (outcomeState s (execRori p h rd ra sh s)).nv = s.nv := runShift_nv ..
@[simp] theorem execAddi_nv (p : PlotIx) (h : HandIx) (rd ra : RegIx) (imm : BitVec 16) (s : State) : (outcomeState s (execAddi p h rd ra imm s)).nv = s.nv := runImm_nv ..
@[simp] theorem execAndi_nv (p : PlotIx) (h : HandIx) (rd ra : RegIx) (imm : BitVec 16) (s : State) : (outcomeState s (execAndi p h rd ra imm s)).nv = s.nv := runImm_nv ..
@[simp] theorem execOri_nv (p : PlotIx) (h : HandIx) (rd ra : RegIx) (imm : BitVec 16) (s : State) : (outcomeState s (execOri p h rd ra imm s)).nv = s.nv := runImm_nv ..
@[simp] theorem execXori_nv (p : PlotIx) (h : HandIx) (rd ra : RegIx) (imm : BitVec 16) (s : State) : (outcomeState s (execXori p h rd ra imm s)).nv = s.nv := runImm_nv ..
@[simp] theorem execBeq_nv (p : PlotIx) (h : HandIx) (ra rb : RegIx) (off : BitVec 16) (s : State) : (outcomeState s (execBeq p h ra rb off s)).nv = s.nv := runBranch_nv ..
@[simp] theorem execBne_nv (p : PlotIx) (h : HandIx) (ra rb : RegIx) (off : BitVec 16) (s : State) : (outcomeState s (execBne p h ra rb off s)).nv = s.nv := runBranch_nv ..
@[simp] theorem execBlt_nv (p : PlotIx) (h : HandIx) (ra rb : RegIx) (off : BitVec 16) (s : State) : (outcomeState s (execBlt p h ra rb off s)).nv = s.nv := runBranch_nv ..
@[simp] theorem execBge_nv (p : PlotIx) (h : HandIx) (ra rb : RegIx) (off : BitVec 16) (s : State) : (outcomeState s (execBge p h ra rb off s)).nv = s.nv := runBranch_nv ..
@[simp] theorem execClz_nv (p : PlotIx) (h : HandIx) (rd ra : RegIx) (s : State) : (outcomeState s (execClz p h rd ra s)).nv = s.nv := by
  rw [execClz, outcomeState_next, engStep_nv]
  exact fun _ => rfl
@[simp] theorem execPopc_nv (p : PlotIx) (h : HandIx) (rd ra : RegIx) (s : State) : (outcomeState s (execPopc p h rd ra s)).nv = s.nv := by
  rw [execPopc, outcomeState_next, engStep_nv]
  exact fun _ => rfl
@[simp] theorem execCrc_nv (p : PlotIx) (h : HandIx) (rd ra rb : RegIx) (n : Fin 4) (s : State) : (outcomeState s (execCrc p h rd ra rb n s)).nv = s.nv := by
  rw [execCrc, outcomeState_next, engStep_nv]
  exact fun _ => rfl
@[simp] theorem execHash_nv (p : PlotIx) (h : HandIx) (rd ra : RegIx) (s : State) : (outcomeState s (execHash p h rd ra s)).nv = s.nv := by
  rw [execHash, outcomeState_next, engStep_nv]
  exact fun _ => rfl
@[simp] theorem execLui_nv (p : PlotIx) (h : HandIx) (rd : RegIx) (imm : BitVec 16) (s : State) : (outcomeState s (execLui p h rd imm s)).nv = s.nv := by
  rw [execLui, outcomeState_next, engStep_nv]
  exact fun _ => rfl
@[simp] theorem execBfx_nv (p : PlotIx) (h : HandIx) (rd ra : RegIx) (pos len : BitVec 5) (s : State) : (outcomeState s (execBfx p h rd ra pos len s)).nv = s.nv := by
  rw [execBfx, outcomeState_next, engStep_nv]
  exact fun _ => rfl
@[simp] theorem execBfi_nv (p : PlotIx) (h : HandIx) (rd ra : RegIx) (pos len : BitVec 5) (s : State) : (outcomeState s (execBfi p h rd ra pos len s)).nv = s.nv := by
  rw [execBfi, outcomeState_next, engStep_nv]
  exact fun _ => rfl
@[simp] theorem execJ_nv (p : PlotIx) (h : HandIx) (off : BitVec 26) (s : State) : (outcomeState s (execJ p h off s)).nv = s.nv := by
  rw [execJ, outcomeState_next, engStep_nv]
  exact fun _ => rfl
@[simp] theorem execJal_nv (p : PlotIx) (h : HandIx) (off : BitVec 26) (s : State) : (outcomeState s (execJal p h off s)).nv = s.nv := by
  rw [execJal, outcomeState_next, engStep_nv]
  exact fun _ => rfl
@[simp] theorem execTrap_nv (p : PlotIx) (h : HandIx) (code : BitVec 16) (s : State) : (outcomeState s (execTrap p h code s)).nv = s.nv := by
  rw [execTrap, outcomeState_next, engStep_nv]
  exact fun _ => rfl

/-! ### Machine/IsaQueue -/

@[simp] theorem execQcommit_nv (p : PlotIx) (h : HandIx) (rq ra : RegIx) (s : State) : (outcomeState s (execQcommit p h rq ra s)).nv = s.nv := by
  rw [execQcommit, outcomeState_next, engStep_nv]
  simp
@[simp] theorem execQabort_nv (p : PlotIx) (h : HandIx) (rq : RegIx) (s : State) : (outcomeState s (execQabort p h rq s)).nv = s.nv := by
  rw [execQabort, outcomeState_next, engStep_nv]
  simp
@[simp] theorem execQpop_nv (p : PlotIx) (h : HandIx) (rd rq ra : RegIx) (s : State) : (outcomeState s (execQpop p h rd rq ra s)).nv = s.nv := by
  rw [execQpop, outcomeState_next, engStep_nv]
  simp
@[simp] theorem execQpeek_nv (p : PlotIx) (h : HandIx) (rd rq ra : RegIx) (s : State) : (outcomeState s (execQpeek p h rd rq ra s)).nv = s.nv := by
  rw [execQpeek, outcomeState_next, engStep_nv]
  simp

/-! ### Machine/IsaMem -/

@[simp] theorem execLdL_nv (p : PlotIx) (h : HandIx) (rd ra : RegIx) (imm : BitVec 16) (upset : BitVec 39) (s : State) : (outcomeState s (execLdL p h rd ra imm upset s)).nv = s.nv := by
  rw [execLdL, outcomeState_next, engStep_nv]
  simp

/-! ### Machine/IsaAlu -/

@[simp] theorem execJr_nv (p : PlotIx) (h : HandIx) (ra : RegIx) (s : State) : (outcomeState s (execJr p h ra s)).nv = s.nv := by
  rw [execJr, outcomeState_next, engStep_nv]
  intro t
  dsimp only
  repeat' split
  all_goals simp

/-! ### Machine/IsaMem -/

@[simp] theorem execStL_nv (p : PlotIx) (h : HandIx) (rs ra : RegIx) (imm : BitVec 16) (s : State) : (outcomeState s (execStL p h rs ra imm s)).nv = s.nv := by
  rw [execStL, outcomeState_next, engStep_nv]
  intro t
  dsimp only
  repeat' split
  all_goals simp
@[simp] theorem execCallh_nv (p : PlotIx) (h : HandIx) (ra : RegIx) (imm : BitVec 16) (s : State) : (outcomeState s (execCallh p h ra imm s)).nv = s.nv := by
  rw [execCallh, outcomeState_next, engStep_nv]
  intro t
  dsimp only
  repeat' split
  all_goals simp
@[simp] theorem execRdpmc_nv (p : PlotIx) (h : HandIx) (rd : RegIx) (sel : BitVec 16) (s : State) : (outcomeState s (execRdpmc p h rd sel s)).nv = s.nv := by
  rw [execRdpmc, outcomeState_next, engStep_nv]
  intro t
  dsimp only
  repeat' split
  all_goals simp
@[simp] theorem execFence_nv (p : PlotIx) (h : HandIx) (what : BitVec 3) (s : State) : (outcomeState s (execFence p h what s)).nv = s.nv := by
  rw [execFence, outcomeState_next, engStep_nv]
  intro t
  dsimp only
  repeat' split
  all_goals simp

/-! ### Machine/IsaQueue -/

@[simp] theorem execQdrop_nv (p : PlotIx) (h : HandIx) (rq : RegIx) (s : State) : (outcomeState s (execQdrop p h rq s)).nv = s.nv := by
  rw [execQdrop, outcomeState_next, engStep_nv]
  intro t
  dsimp only
  repeat' split
  all_goals simp
@[simp] theorem execQlevel_nv (p : PlotIx) (h : HandIx) (rd rq : RegIx) (sel : Byte) (sameEdgeSet : Bool) (s : State) : (outcomeState s (execQlevel p h rd rq sel sameEdgeSet s)).nv = s.nv := by
  rw [execQlevel, outcomeState_next, engStep_nv]
  intro t
  dsimp only
  repeat' split
  all_goals simp
@[simp] theorem execQpush_nv (p : PlotIx) (h : HandIx) (rd rq ra : RegIx) (s : State) : (outcomeState s (execQpush p h rd rq ra s)).nv = s.nv := by
  rw [execQpush, outcomeState_next, engStep_nv]
  intro t
  dsimp only
  repeat' split
  all_goals simp
@[simp] theorem execWait_nv (p : PlotIx) (h : HandIx) (rd ra : RegIx) (mask : BitVec 16) (s : State) : (outcomeState s (execWait p h rd ra mask s)).nv = s.nv := by
  rw [execWait, outcomeState_next, engStep_nv]
  intro t
  dsimp only
  repeat' split
  all_goals simp

/-! ### Machine/IsaMem -/

@[simp] theorem execTimeNsRead_nv (p : PlotIx) (h : HandIx) (rd ra : RegIx) (imm : BitVec 16) (s : State) : (outcomeState s (execTimeNsRead p h rd ra imm s)).nv = s.nv := by
  unfold execTimeNsRead
  split
  · rw [outcomeState_next, engStep_nv]
    exact fun _ => loadLocal_nv ..
  · rfl
@[simp] theorem execKrd_nv (p : PlotIx) (h : HandIx) (rd ra : RegIx) (imm : BitVec 16) (s : State) : (outcomeState s (execKrd p h rd ra imm s)).nv = s.nv := by
  rw [execKrd, outcomeState_next, engStep_nv]
  intro t
  split <;> simp
@[simp] theorem execKwr_nv (p : PlotIx) (h : HandIx) (rs ra : RegIx) (imm : BitVec 16) (s : State) : (outcomeState s (execKwr p h rs ra imm s)).nv = s.nv := by
  rw [execKwr, outcomeState_next, engStep_nv]
  intro t
  split <;> simp
@[simp] theorem execLdM_nv (p : PlotIx) (h : HandIx) (rd ra : RegIx) (imm : BitVec 16) (s : State) : (outcomeState s (execLdM p h rd ra imm s)).nv = s.nv := by
  rw [execLdM, outcomeState_next, engStep_nv]
  intro t
  dsimp only
  split
  case h_4 =>
    have awaited := awaitLine_nv s p h t ((memAddr t ra imm).toNat / 64) false
    split
    next trapped => rwa [trapped] at awaited
    next => exact awaited
  all_goals
    repeat' split
    all_goals simp
@[simp] theorem execStM_nv (p : PlotIx) (h : HandIx) (rs ra : RegIx) (imm : BitVec 16) (s : State) : (outcomeState s (execStM p h rs ra imm s)).nv = s.nv := by
  rw [execStM, outcomeState_next, engStep_nv]
  intro t
  dsimp only
  split
  case h_4 =>
    have awaited := awaitLine_nv s p h t ((memAddr t ra imm).toNat / 64) true
    split
    next trapped => rwa [trapped] at awaited
    next => exact awaited
  all_goals
    repeat' split
    all_goals simp

/-! ### Machine/Ops -/

theorem State.onNv_otp {s : State} {g : Nv → Nv} (leaves : (g s.nv).otp = s.nv.otp) : (s.onNv g).nv.otp = s.nv.otp := leaves

/-! ### Machine/Modes -/

theorem State.takeRequest_nv {s t : State} {m : Nat} (taken : s.takeRequest m = some t) : t.nv = s.nv := by
  obtain ⟨rest, -, rfl⟩ := Option.map_eq_some_iff.1 taken
  rfl

/-! ### Machine/Startup -/

@[simp] theorem execSowingEnd_nv (s : State) : (outcomeState s (execSowingEnd s)).nv = s.nv := by
  unfold execSowingEnd
  split
  · rfl
  · rw [outcomeState_next, startSlot_nv, State.onAon_nv]
    exact foldl_leaves State.nv (fun u k => by split <;> simp) _ s
@[simp] theorem execBindingTick_otp (s : State) : (outcomeState s (execBindingTick s)).nv.otp = s.nv.otp := by
  have turned (l : List (Nat × Turn)) (u : State) : (l.foldl (fun s x => performTurn s x.1 x.2) u).nv.otp = u.nv.otp :=
    foldl_leaves (fun t : State => t.nv.otp) (fun _ _ => performTurn_otp ..) l u
  have bound (l : List Nat) (u : State) : (l.foldl bindSeat u).nv.otp = u.nv.otp :=
    foldl_leaves (fun t : State => t.nv.otp) (fun _ _ => bindSeat_otp ..) l u
  unfold execBindingTick
  dsimp only
  split <;> simp [bound, turned]
theorem portsStopped_nv (cause : Nat) (l : List Nat) (s : State) : (l.foldl (fun s n => rxStop s n cause) s).nv = s.nv :=
  foldl_leaves State.nv (fun _ _ => rxStop_nv ..) l s

/-! ### Machine/Modes -/

@[simp] theorem execRequestRetention_nv (s : State) : (outcomeState s (execRequestRetention s)).nv = s.nv := by
  unfold execRequestRetention
  split
  · rfl
  next taken => dsimp only; split <;> simp [portsStopped_nv, State.takeRequest_nv taken]
@[simp] theorem execRequestField_nv (s : State) : (outcomeState s (execRequestField s)).nv = s.nv := by
  unfold execRequestField
  split
  · rfl
  next taken =>
    have same := State.takeRequest_nv taken
    dsimp only
    repeat' split
    all_goals simp [same]
@[simp] theorem execRequestLimp_nv (s : State) : (outcomeState s (execRequestLimp s)).nv = s.nv := by
  unfold execRequestLimp
  split
  · rfl
  next taken => rw [outcomeState_next]; split <;> simp [State.takeRequest_nv taken]
@[simp] theorem execRequestTest_nv (s : State) : (outcomeState s (execRequestTest s)).nv = s.nv := by
  unfold execRequestTest
  split
  · rfl
  next taken => dsimp only; split <;> simp [State.takeRequest_nv taken]
@[simp] theorem execRetentionExitDone_nv (s : State) : (outcomeState s (execRetentionExitDone s)).nv = s.nv := by
  have powered (l : List Nat) (u : State) : (l.foldl (fun s n => applyPower s n false) u).nv = u.nv :=
    foldl_leaves State.nv (fun _ _ => applyPower_nv ..) l u
  unfold execRetentionExitDone
  dsimp only
  split
  · rfl
  · simp [powered]

/-! ### Machine/Housekeeping -/

@[simp] theorem execWearLedgerSave_otp (s : State) : (outcomeState s (execWearLedgerSave s)).nv.otp = s.nv.otp := by
  unfold execWearLedgerSave
  split <;> rfl
theorem clockFaults_nv (l : List Pll) (s : State) : (l.foldl clockFault s).nv = s.nv :=
  foldl_leaves State.nv clockFault_nv l s
@[simp] theorem execHousekeepingRound_otp (env : RoundEnv) (s : State) : (outcomeState s (execHousekeepingRound env s)).nv.otp = s.nv.otp := by
  unfold execHousekeepingRound
  split
  · rfl
  · dsimp only
    rw [outcomeState_next, State.onHk_nv, State.onHk_nv, govern_nv, rotationRound_nv, State.onFab_nv, sweepShare_otp, testLimits_nv,
      clockFaults_nv, readRails_nv, readMonitors_otp, State.onHk_nv, State.onStk_nv]

/-! ### Machine/Service -/

theorem sspiFrame_otp {s : State} {frame : List Byte} {cmd : Nat → Bool} {perform : State → Out}
    (leaves : ∀ t : State, (outcomeState s (perform t)).nv.otp = t.nv.otp) : (outcomeState s (sspiFrame s frame cmd perform)).nv.otp = s.nv.otp := by
  unfold sspiFrame
  dsimp only
  repeat' split
  all_goals simp [leaves]
theorem sspiOnSlot_otp {u s : State} {frame : List Byte} {act : Nat → Nat → State} (leaves : ∀ k a, (act k a).nv.otp = s.nv.otp) :
    (outcomeState u (sspiOnSlot s frame act)).nv.otp = s.nv.otp := by
  unfold sspiOnSlot
  repeat' split
  all_goals simp [leaves]
@[simp] theorem execSspiErase_otp (frame : List Byte) (s : State) : (outcomeState s (execSspiErase frame s)).nv.otp = s.nv.otp :=
  sspiFrame_otp fun _ => sspiOnSlot_otp fun _ _ => rfl
@[simp] theorem execSspiWrite_otp (frame : List Byte) (s : State) : (outcomeState s (execSspiWrite frame s)).nv.otp = s.nv.otp :=
  sspiFrame_otp fun _ => sspiOnSlot_otp fun _ _ => by dsimp only; split <;> rfl
@[simp] theorem execSspiVerify_otp (frame : List Byte) (s : State) : (outcomeState s (execSspiVerify frame s)).nv.otp = s.nv.otp :=
  sspiFrame_otp fun _ => by
    dsimp only
    repeat' split
    all_goals rfl
@[simp] theorem execSspiRestart_otp (frame : List Byte) (env : BootEnv) (s : State) : (outcomeState s (execSspiRestart frame env s)).nv.otp = s.nv.otp :=
  sspiFrame_otp fun _ => by
    repeat' split
    all_goals simp
@[simp] theorem execSspiReservedCommand_otp (frame : List Byte) (s : State) : (outcomeState s (execSspiReservedCommand frame s)).nv.otp = s.nv.otp :=
  sspiFrame_otp fun _ => rfl

/-! ### Machine/IsaAlu -/

@[simp] theorem execIllegal_nv (p : PlotIx) (h : HandIx) (word : Word) (upset : BitVec 39) (s : State) : (outcomeState s (execIllegal p h word upset s)).nv = s.nv := by
  unfold execIllegal
  dsimp only
  repeat' split
  all_goals simp

/-! ### Machine/IsaQueue -/

@[simp] theorem execWaitWake_nv (p : PlotIx) (h : HandIx) (sameEdgeSet : Bool) (s : State) : (outcomeState s (execWaitWake p h sameEdgeSet s)).nv = s.nv := by
  unfold execWaitWake
  dsimp only
  repeat' split
  all_goals simp

/-! ### Machine/Jtag -/

@[simp] theorem scanLoad_nv (s : State) (ir : Byte) (boundary : Bool) : (outcomeState s (scanLoad s ir boundary)).nv = s.nv := by
  unfold scanLoad
  repeat' split
  all_goals rfl
@[simp] theorem execExtest_nv (s : State) : (outcomeState s (execExtest s)).nv = s.nv := scanLoad_nv ..
@[simp] theorem execHighz_nv (s : State) : (outcomeState s (execHighz s)).nv = s.nv := scanLoad_nv ..
@[simp] theorem execClamp_nv (s : State) : (outcomeState s (execClamp s)).nv = s.nv := scanLoad_nv ..
@[simp] theorem execExtestPulse_nv (s : State) : (outcomeState s (execExtestPulse s)).nv = s.nv := scanLoad_nv ..
@[simp] theorem execExtestTrain_nv (s : State) : (outcomeState s (execExtestTrain s)).nv = s.nv := scanLoad_nv ..
@[simp] theorem execDebug_nv (_addr : Nat) (_we : Bool) (_value : Word) (s : State) : (outcomeState s (execDebug _addr _we _value s)).nv = s.nv := by
  unfold execDebug
  repeat' split
  all_goals rfl
/-- An outcome read from another state of the same OTP and MRAM leaves them when it does from the first. -/
theorem outcomeState_nv_of {s t : State} {o : Out} (same : t.nv = s.nv) (leaves : (outcomeState t o).nv = t.nv) : (outcomeState s o).nv = s.nv := by
  cases o
  case next => exact leaves.trans same
  all_goals rfl
@[simp] theorem execMemacc_nv (we : Bool) (p : PlotIx) (line : BitVec 19) (data : BitVec 512) (upset : BitVec 640) (s : State) :
    (outcomeState s (execMemacc we p line data upset s)).nv = s.nv := by
  unfold execMemacc
  split
  · rfl
  · refine outcomeState_nv_of (t := s.tap 0x10 0) rfl ?_
    dsimp only
    split <;> simp

/-! ### Machine/Modes -/

@[simp] theorem idlePorts_nv (s : State) : (idlePorts s).nv = s.nv := by
  unfold idlePorts
  rw [State.onLnk_nv]
  exact foldl_leaves State.nv (fun u n => by split <;> simp) _ s
@[simp] theorem serveHand_nv (s : State) (p h : Nat) (q : MemReq) : (serveHand s p h q).nv = s.nv := by
  unfold serveHand
  dsimp only
  repeat' split
  all_goals simp
@[simp] theorem drainRisers_nv (s : State) : (drainRisers s).nv = s.nv := by
  unfold drainRisers
  exact (foldl_leaves State.nv (fun _ _ => flushWhere_nv ..) _ _).trans (foldl_leaves State.nv (fun _ _ => serveHand_nv ..) _ s)
@[simp] theorem execRetentionEntryDone_nv (s : State) : (outcomeState s (execRetentionEntryDone s)).nv = s.nv := by
  unfold execRetentionEntryDone
  dsimp only
  repeat' split
  all_goals simp

/-! ## The one-way bits -/

theorem Nv.otpKept_iff_otp {n m m' : Nv} (same : m.otp = m'.otp) : n.otpKept m ↔ n.otpKept m' := by
  simp only [Nv.otp, Nv.mk.injEq] at same
  simp [Nv.otpKept, same]
theorem Nv.otpKept_of_otp {n m : Nv} (same : m.otp = n.otp) (bound : n.svcCount ≤ 64) : n.otpKept m :=
  (Nv.otpKept_iff_otp same).2 ⟨rfl, id, id, Nat.le_refl _, bound, rfl, rfl, rfl, rfl, rfl, rfl⟩
theorem Nv.otpKept_own {n m : Nv} (bound : n.svcCount ≤ 64) (same : m.otp = { n.otp with lcOwn := true }) : n.otpKept m := by
  refine (Nv.otpKept_iff_otp (m' := { n with lcOwn := true }) same).2 ⟨rfl, fun _ => rfl, id, Nat.le_refl _, bound, rfl, rfl, rfl, rfl, rfl, rfl⟩
theorem Nv.otpKept_decom {n m : Nv} (bound : n.svcCount ≤ 64) (same : m.otp = { n.otp with lcDecom := true }) : n.otpKept m := by
  refine (Nv.otpKept_iff_otp (m' := { n with lcDecom := true }) same).2 ⟨rfl, id, fun _ => rfl, Nat.le_refl _, bound, rfl, rfl, rfl, rfl, rfl, rfl⟩
theorem Nv.otpKept_svc {n m : Nv} (bound : n.svcCount ≤ 64) (same : m.otp = { n.otp with svcCount := min 64 (n.svcCount + 1) }) : n.otpKept m := by
  refine (Nv.otpKept_iff_otp (m' := { n with svcCount := min 64 (n.svcCount + 1) }) same).2 ⟨rfl, id, id, ?_, ?_, rfl, rfl, rfl, rfl, rfl, rfl⟩
  all_goals dsimp only; omega

/-- A life-cycle transition that keeps OTP's one-way bits when its burn does. -/
theorem transition_otpKept {s : State} {kind : Nat} {burn : Token → Nv → Nv} (bound : s.nv.svcCount ≤ 64)
    (burnt : ∀ tok, s.nv.otpKept (burn tok { s.nv with lcPending := false })) : s.nv.otpKept (transition s kind burn).nv := by
  unfold transition
  split
  · exact Nv.otpKept_of_otp rfl bound
  · dsimp only
    split
    · exact (Nv.otpKept_iff_otp (lifeWipe_otp _)).2 (burnt _)
    · exact Nv.otpKept_of_otp rfl bound
theorem execProvision_otpKept {s : State} (bound : s.nv.svcCount ≤ 64) : s.nv.otpKept (outcomeState s (execProvision s)).nv :=
  transition_otpKept bound fun _ => Nv.otpKept_own bound rfl
theorem execEnterService_otpKept {s : State} (bound : s.nv.svcCount ≤ 64) : s.nv.otpKept (outcomeState s (execEnterService s)).nv :=
  transition_otpKept bound fun _ => Nv.otpKept_svc bound rfl
theorem execLeaveService_otpKept {s : State} (bound : s.nv.svcCount ≤ 64) : s.nv.otpKept (outcomeState s (execLeaveService s)).nv :=
  transition_otpKept bound fun _ => Nv.otpKept_svc bound rfl
theorem execDecommission_otpKept {s : State} (bound : s.nv.svcCount ≤ 64) : s.nv.otpKept (outcomeState s (execDecommission s)).nv := by
  have burnt : s.nv.otpKept (transition s 4 fun _ n => { n with lcDecom := true }).nv := transition_otpKept bound fun _ => Nv.otpKept_decom bound rfl
  unfold execDecommission
  dsimp only
  rw [outcomeState_next]
  split
  · exact (Nv.otpKept_iff_otp (zeroise_otp _)).2 burnt
  · exact burnt

/-- Whatever an instruction does, OTP's one-way bits only gain bits: only the four life-cycle transitions burn at all. -/
theorem exec_otpKept {s : State} (bound : s.nv.svcCount ≤ 64) (c : Instr) : s.nv.otpKept (outcomeState s (exec c s)).nv := by
  cases c
  case provision => exact execProvision_otpKept bound
  case enterService => exact execEnterService_otpKept bound
  case leaveService => exact execLeaveService_otpKept bound
  case decommission => exact execDecommission_otpKept bound
  all_goals exact Nv.otpKept_of_otp (by simp [exec]) bound

/-- Settles O5: only the life-cycle transitions write OTP, and each burns one-way bits. -/
theorem otpOnlyGainsBits : Obligations.OtpOnlyGainsBits := by
  intro s t bound stepped
  unfold step at stepped
  split at stepped
  · cases stepped
    exact Nv.otpKept_of_otp (by simp) bound
  next c rest _ =>
    have kept := exec_otpKept (s := { s with pending := rest }) bound c
    rwa [stepped] at kept

end Sys2Proof.Machine
end

section
/-! PROOF. The words of engine instructions: what each field of a laid-out word reads back, and what a word with a form was laid out from (R270–R272). -/

namespace Sys2Proof.Machine

theorem aluOf_of_le {f : Nat} (h : 19 ≤ f) : aluOf f = none := by
  unfold aluOf
  iterate 13 rw [if_neg (by omega)]
theorem immOf_of_le {op : Nat} (h : 16 ≤ op) : immOf op = none := by
  unfold immOf
  iterate 10 rw [if_neg (by omega)]
theorem aluOf_eq_some_iff {f : Nat} {g : Alu3} : aluOf f = some g ↔ funcOf g = f := by
  constructor
  · intro h
    have small : ∀ f < 19, (aluOf f).all (fun g => funcOf g == f) = true := by decide
    by_cases hf : f < 19
    · simpa [h] using small f hf
    · simp [aluOf_of_le (Nat.le_of_not_lt hf)] at h
  · rintro rfl
    cases g <;> rfl
theorem immOf_eq_some_iff {op : Nat} {g : ImmOp} : immOf op = some g ↔ opOf g = op := by
  constructor
  · intro h
    have small : ∀ op < 16, (immOf op).all (fun g => opOf g == op) = true := by decide
    by_cases hop : op < 16
    · simpa [h] using small op hop
    · simp [immOf_of_le (Nat.le_of_not_lt hop)] at h
  · rintro rfl
    cases g <;> rfl
theorem regAt_val (w : Word) (lo : Nat) : (regAt w lo).val = w.toNat / 2 ^ lo % 32 := rfl

theorem wordI_toNat {op a b v : Nat} (hop : op < 64) (ha : a < 32) (hb : b < 32) (hv : v < 65536) :
    (wordI op a b v).toNat = op * 67108864 + a * 2097152 + b * 65536 + v := by
  simp only [wordI, BitVec.toNat_ofNat]
  omega

section Fields
variable {op : Nat} {a b c : RegIx} {v f : Nat}

theorem wordI_op (hop : op < 64) (hv : v < 65536) : (wordI op a.val b.val v).toNat / 67108864 = op := by
  rw [wordI_toNat hop a.isLt b.isLt hv]; omega
theorem wordI_rd (hop : op < 64) (hv : v < 65536) : regAt (wordI op a.val b.val v) 21 = a := by
  ext; rw [regAt_val, wordI_toNat hop a.isLt b.isLt hv]; omega
theorem wordI_ra (hop : op < 64) (hv : v < 65536) : regAt (wordI op a.val b.val v) 16 = b := by
  ext; rw [regAt_val, wordI_toNat hop a.isLt b.isLt hv]; omega
theorem wordI_imm (hop : op < 64) (hv : v < 65536) : (wordI op a.val b.val v).toNat % 65536 = v := by
  rw [wordI_toNat hop a.isLt b.isLt hv]; omega
theorem wordI_rb (hop : op < 64) (hf : f < 2048) : regAt (wordI op a.val b.val (c.val * 2048 + f)) 11 = c := by
  ext; rw [regAt_val, wordI_toNat hop a.isLt b.isLt (by omega)]; omega
theorem wordI_func (hop : op < 64) (hf : f < 2048) : (wordI op a.val b.val (c.val * 2048 + f)).toNat % 2048 = f := by
  rw [wordI_toNat hop a.isLt b.isLt (by omega)]; omega
end Fields
theorem wordR_eq_wordI (op a b c f : Nat) : wordR op a b c f = wordI op a b (c * 2048 + f) := by
  rw [wordR, wordI, Nat.add_assoc]

theorem wordI_fields {w : Word} {op a b v : Nat} (hop : w.toNat / 67108864 = op) (ha : (regAt w 21).val = a) (hb : (regAt w 16).val = b)
    (hv : w.toNat % 65536 = v) : wordI op a b v = w := by
  have := w.isLt
  rw [regAt_val] at ha hb
  apply BitVec.eq_of_toNat_eq
  simp only [wordI, BitVec.toNat_ofNat]
  omega
theorem wordR_fields {w : Word} {op a b c f : Nat} (hop : w.toNat / 67108864 = op) (ha : (regAt w 21).val = a) (hb : (regAt w 16).val = b)
    (hc : (regAt w 11).val = c) (hf : w.toNat % 2048 = f) : wordR op a b c f = w := by
  rw [regAt_val] at hc
  rw [wordR_eq_wordI]
  exact wordI_fields hop ha hb (by omega)
theorem wordJ_fields {w : Word} {op v : Nat} (hop : w.toNat / 67108864 = op) (hv : w.toNat % 67108864 = v) : wordJ op v = w := by
  have := w.isLt
  apply BitVec.eq_of_toNat_eq
  simp only [wordJ, BitVec.toNat_ofNat]
  omega

theorem decodeOpr_wordR {a b c : RegIx} {f : Nat} (hf : f < 2048) : decodeOpr (wordR 1 a.val b.val c.val f) =
    if f = 0x018 then (if c = 0 then some (.clz a b) else none)
    else if f = 0x019 then (if c = 0 then some (.popc a b) else none)
    else if f = 0x021 then (if c = 0 then some (.hash a b) else none)
    else if f % 512 = 0x020 then some (.crc ⟨f / 512 % 4, Nat.mod_lt _ (by decide)⟩ a b c)
    else (aluOf f).map fun g => .alu g a b c := by
  have hv : c.val * 2048 + f < 65536 := by omega
  simp only [decodeOpr, wordR_eq_wordI, wordI_rd (by decide : 1 < 64) hv, wordI_ra (by decide : 1 < 64) hv,
    wordI_rb (by decide : 1 < 64) hf, wordI_func (by decide : 1 < 64) hf]

theorem decodeForm_wordI {op : Nat} {a b : RegIx} {v : Nat} (hop : op < 64) (hv : v < 65536) : decodeForm (wordI op a.val b.val v) =
    if op = 0x01 then decodeOpr (wordI op a.val b.val v)
    else if op = 0x02 then (if v < 128 then some (.shift (shiftOf (v / 32)) a b (BitVec.ofNat 5 v)) else none)
    else if op = 0x07 then (if b = 0 then some (.lui a (BitVec.ofNat 16 v)) else none)
    else if op = 0x08 then
      (if v % 32 = 0 then some (.bf (v / 32 % 2 == 1) a b (BitVec.ofNat 5 (v / 2048)) (BitVec.ofNat 5 (v / 64))) else none)
    else if op = 0x0D then decodeQop (wordI op a.val b.val v)
    else if op = 0x10 then (if a = 0 then some (.callh b (BitVec.ofNat 16 v)) else none)
    else if op = 0x11 then (if b = 0 then some (.rdpmc a (BitVec.ofNat 16 v)) else none)
    else if op = 0x12 then some (.wait a b (BitVec.ofNat 16 v))
    else if op = 0x13 then (if a = 0 && b = 0 && decide (v < 8) then some (.fence (BitVec.ofNat 3 v)) else none)
    else if op = 0x14 then (if a = 0 && b = 0 then some (.trap (BitVec.ofNat 16 v)) else none)
    else if op = 0x15 then some (.j (BitVec.ofNat 26 (wordI op a.val b.val v).toNat))
    else if op = 0x16 then some (.jal (BitVec.ofNat 26 (wordI op a.val b.val v).toNat))
    else if op = 0x17 then (if a = 0 && v = 0 then some (.jr b) else none)
    else if op = 0x18 then some (.branch .beq a b (BitVec.ofNat 16 v))
    else if op = 0x19 then some (.branch .bne a b (BitVec.ofNat 16 v))
    else if op = 0x1A then some (.branch .blt a b (BitVec.ofNat 16 v))
    else if op = 0x1B then some (.branch .bge a b (BitVec.ofNat 16 v))
    else (immOf op).map fun f => .imm f a b (BitVec.ofNat 16 v) := by
  simp only [decodeForm, wordI_op hop hv, wordI_rd hop hv, wordI_ra hop hv, wordI_imm hop hv]

theorem decodeQop_wordR {a b c : RegIx} {m v : Nat} (hm : m < 8) (hv : v < 256) : decodeQop (wordR 0x0D a.val b.val c.val (256 * m + v)) =
    if m = 0 then (if v = 0 then some (.qpush a b c) else none)
    else if m = 1 then (if v = 0 && a = 0 then some (.qcommit b c) else none)
    else if m = 2 then (if v = 0 && a = 0 && c = 0 then some (.qabort b) else none)
    else if m = 3 then (if v = 0 then some (.qpop a b c) else none)
    else if m = 4 then (if v = 0 then some (.qpeek a b c) else none)
    else if m = 5 then (if v = 0 && a = 0 && c = 0 then some (.qdrop b) else none)
    else if m = 6 then (if c = 0 then some (.qlevel a b (BitVec.ofNat 8 v)) else none)
    else none := by
  have hf : 256 * m + v < 2048 := by omega
  have hi : c.val * 2048 + (256 * m + v) < 65536 := by omega
  have func := wordI_func (op := 0x0D) (a := a) (b := b) (c := c) (by decide) hf
  have minor : (wordI 0x0D a.val b.val (c.val * 2048 + (256 * m + v))).toNat / 256 % 8 = m := by omega
  have low : (wordI 0x0D a.val b.val (c.val * 2048 + (256 * m + v))).toNat % 256 = v := by omega
  simp only [decodeQop, wordR_eq_wordI, wordI_rd (by decide : 0x0D < 64) hi, wordI_ra (by decide : 0x0D < 64) hi,
    wordI_rb (by decide : 0x0D < 64) hf, minor, low]

theorem decodeForm_wordR_opr {a b c : RegIx} {f : Nat} (hf : f < 2048) : decodeForm (wordR 1 a.val b.val c.val f) = decodeOpr (wordR 1 a.val b.val c.val f) := by
  rw [wordR_eq_wordI, decodeForm_wordI (by decide) (by omega), if_pos rfl]
theorem decodeForm_wordR_qop {a b c : RegIx} {f : Nat} (hf : f < 2048) : decodeForm (wordR 0x0D a.val b.val c.val f) = decodeQop (wordR 0x0D a.val b.val c.val f) := by
  rw [wordR_eq_wordI, decodeForm_wordI (by decide) (by omega)]
  simp
theorem wordJ_toNat {op v : Nat} (hop : op < 64) (hv : v < 67108864) : (wordJ op v).toNat = op * 67108864 + v := by
  simp only [wordJ, BitVec.toNat_ofNat]
  omega
theorem funcOf_lt (f : Alu3) : funcOf f < 0x018 := by cases f <;> decide
theorem shiftOf_shiftCode (f : ShiftOp) : shiftOf (shiftCode f) = f := by cases f <;> rfl
theorem shiftCode_lt (f : ShiftOp) : shiftCode f < 4 := by cases f <;> decide

theorem decodeForm_alu (f : Alu3) (rd ra rb : RegIx) : decodeForm (encodeEng (.alu f rd ra rb)) = some (.alu f rd ra rb) := by
  have := funcOf_lt f
  rw [encodeEng, decodeForm_wordR_opr (by omega), decodeOpr_wordR (by omega), aluOf_eq_some_iff.2 rfl,
    if_neg (by omega), if_neg (by omega), if_neg (by omega), if_neg (by omega), Option.map_some]
theorem decodeForm_crc (n : Fin 4) (rd ra rb : RegIx) : decodeForm (encodeEng (.crc n rd ra rb)) = some (.crc n rd ra rb) := by
  have := n.isLt
  rw [encodeEng, decodeForm_wordR_opr (by omega), decodeOpr_wordR (by omega),
    if_neg (by omega), if_neg (by omega), if_neg (by omega), if_pos (by omega)]
  congr 3
  omega
theorem decodeForm_shift (f : ShiftOp) (rd ra : RegIx) (sh : BitVec 5) : decodeForm (encodeEng (.shift f rd ra sh)) = some (.shift f rd ra sh) := by
  have := sh.isLt
  have code := shiftCode_lt f
  have quotient : (32 * shiftCode f + sh.toNat) / 32 = shiftCode f := by omega
  have amount : BitVec.ofNat 5 (32 * shiftCode f + sh.toNat) = sh := by
    apply BitVec.eq_of_toNat_eq
    rw [BitVec.toNat_ofNat]
    omega
  rw [encodeEng, decodeForm_wordI (by decide) (by omega), if_neg (by decide), if_pos rfl, if_pos (by omega), quotient, shiftOf_shiftCode, amount]
theorem decodeForm_imm (f : ImmOp) (rd ra : RegIx) (v : BitVec 16) : decodeForm (encodeEng (.imm f rd ra v)) = some (.imm f rd ra v) := by
  have := v.isLt
  rw [encodeEng, decodeForm_wordI (by cases f <;> decide) (by omega)]
  cases f <;> simp [opOf, immOf]
theorem decodeForm_branch (f : BranchOp) (ra rb : RegIx) (o : BitVec 16) : decodeForm (encodeEng (.branch f ra rb o)) = some (.branch f ra rb o) := by
  have := o.isLt
  rw [encodeEng, decodeForm_wordI (by cases f <;> decide) (by omega)]
  cases f <;> simp [branchOp]
theorem decodeForm_bf (k : Bool) (rd ra : RegIx) (pos len : BitVec 5) : decodeForm (encodeEng (.bf k rd ra pos len)) = some (.bf k rd ra pos len) := by
  have := pos.isLt
  have := len.isLt
  have start : BitVec.ofNat 5 ((pos.toNat * 2048 + (64 * len.toNat + if k then 32 else 0)) / 2048) = pos := by
    apply BitVec.eq_of_toNat_eq
    rw [BitVec.toNat_ofNat]
    split <;> omega
  have size : BitVec.ofNat 5 ((pos.toNat * 2048 + (64 * len.toNat + if k then 32 else 0)) / 64) = len := by
    apply BitVec.eq_of_toNat_eq
    rw [BitVec.toNat_ofNat]
    split <;> omega
  have insert : ((pos.toNat * 2048 + (64 * len.toNat + if k then 32 else 0)) / 32 % 2 == 1) = k := by
    cases k <;> simp <;> omega
  rw [encodeEng, wordR_eq_wordI, decodeForm_wordI (by decide) (by split <;> omega), if_neg (by decide), if_neg (by decide), if_neg (by decide), if_pos rfl,
    if_pos (by split <;> omega), start, size, insert]
theorem decodeForm_qop {a b c : RegIx} {m v : Nat} (hm : m < 8) (hv : v < 256) :
    decodeForm (wordR 0x0D a.val b.val c.val (256 * m + v)) = decodeQop (wordR 0x0D a.val b.val c.val (256 * m + v)) :=
  decodeForm_wordR_qop (by omega)
theorem decodeForm_of_j {w : Word} (op : w.toNat / 67108864 = 0x15) : decodeForm w = some (.j (BitVec.ofNat 26 w.toNat)) := by
  simp only [decodeForm, op]
  rfl
theorem decodeForm_of_jal {w : Word} (op : w.toNat / 67108864 = 0x16) : decodeForm w = some (.jal (BitVec.ofNat 26 w.toNat)) := by
  simp only [decodeForm, op]
  rfl
theorem wordJ_op {op : Nat} (v : BitVec 26) (hop : op < 64) : (wordJ op v.toNat).toNat / 67108864 = op := by
  have := v.isLt
  rw [wordJ_toNat hop (by omega)]
  omega
theorem wordJ_off {op : Nat} (v : BitVec 26) (hop : op < 64) : BitVec.ofNat 26 (wordJ op v.toNat).toNat = v := by
  have := v.isLt
  apply BitVec.eq_of_toNat_eq
  rw [BitVec.toNat_ofNat, wordJ_toNat hop (by omega)]
  omega

/-- Each engine instruction's word has its form back. -/
theorem decodeForm_encodeEng (i : EngInsn) : decodeForm (encodeEng i) = some i := by
  cases i with
  | alu f rd ra rb => exact decodeForm_alu f rd ra rb
  | crc n rd ra rb => exact decodeForm_crc n rd ra rb
  | shift f rd ra sh => exact decodeForm_shift f rd ra sh
  | imm f rd ra v => exact decodeForm_imm f rd ra v
  | bf k rd ra pos len => exact decodeForm_bf k rd ra pos len
  | branch f ra rb o => exact decodeForm_branch f ra rb o
  -- one operand field is 0
  | clz rd ra => exact (decodeForm_wordR_opr (c := 0) (by decide)).trans (decodeOpr_wordR (by decide))
  | popc rd ra => exact (decodeForm_wordR_opr (c := 0) (by decide)).trans (decodeOpr_wordR (by decide))
  | hash rd ra => exact (decodeForm_wordR_opr (c := 0) (by decide)).trans (decodeOpr_wordR (by decide))
  | qpush rd rq ra => exact (decodeForm_qop (m := 0) (v := 0) (by decide) (by decide)).trans (decodeQop_wordR (by decide) (by decide))
  | qcommit rq ra => exact (decodeForm_qop (a := 0) (m := 1) (v := 0) (by decide) (by decide)).trans (decodeQop_wordR (by decide) (by decide))
  | qabort rq => exact ((decodeForm_qop (a := 0) (b := rq) (c := 0) (m := 2) (v := 0) (by decide) (by decide)).trans (decodeQop_wordR (by decide) (by decide))).trans (by simp)
  | qpop rd rq ra => exact (decodeForm_qop (m := 3) (v := 0) (by decide) (by decide)).trans (decodeQop_wordR (by decide) (by decide))
  | qpeek rd rq ra => exact (decodeForm_qop (m := 4) (v := 0) (by decide) (by decide)).trans (decodeQop_wordR (by decide) (by decide))
  | qdrop rq => exact ((decodeForm_qop (a := 0) (b := rq) (c := 0) (m := 5) (v := 0) (by decide) (by decide)).trans (decodeQop_wordR (by decide) (by decide))).trans (by simp)
  | qlevel rd rq sel =>
    refine ((decodeForm_qop (c := 0) (m := 6) (by decide) sel.isLt).trans (decodeQop_wordR (by decide) sel.isLt)).trans ?_
    simp
  | lui rd v => exact (decodeForm_wordI (b := 0) (by decide) v.isLt).trans (by simp)
  | callh ra v => exact (decodeForm_wordI (a := 0) (by decide) v.isLt).trans (by simp)
  | rdpmc rd sel => exact (decodeForm_wordI (b := 0) (by decide) sel.isLt).trans (by simp)
  | wait rd ra mask => exact (decodeForm_wordI (by decide) mask.isLt).trans (by simp)
  | fence w =>
    have := w.isLt
    exact (decodeForm_wordI (a := 0) (b := 0) (by decide) (by omega)).trans (by simp [this])
  | trap c => exact (decodeForm_wordI (a := 0) (b := 0) (by decide) c.isLt).trans (by simp)
  | jr ra => exact (decodeForm_wordI (a := 0) (by decide) (by decide)).trans (by simp)
  | j o => rw [encodeEng, decodeForm_of_j (w := wordJ 0x15 o.toNat) (wordJ_op (op := 0x15) o (by decide)), wordJ_off o (by decide)]
  | jal o => rw [encodeEng, decodeForm_of_jal (w := wordJ 0x16 o.toNat) (wordJ_op (op := 0x16) o (by decide)), wordJ_off o (by decide)]

/-- A word that has the form OPR is the word of its instruction. -/
theorem encodeEng_of_decodeOpr {w : Word} {i : EngInsn} (op : w.toNat / 67108864 = 1) (h : decodeOpr w = some i) : encodeEng i = w := by
  unfold decodeOpr at h
  dsimp only at h
  split_ifs at h with clz rb popc rb hash rb crc
  · cases h; exact wordR_fields op rfl rfl (by rw [rb]; rfl) clz
  · cases h; exact wordR_fields op rfl rfl (by rw [rb]; rfl) popc
  · cases h; exact wordR_fields op rfl rfl (by rw [rb]; rfl) hash
  · cases h; exact wordR_fields op rfl rfl rfl (by dsimp only; omega)
  · obtain ⟨g, func, rfl⟩ := Option.map_eq_some_iff.1 h
    exact wordR_fields op rfl rfl rfl (aluOf_eq_some_iff.1 func).symm
/-- A word that has the form QOP is the word of its instruction. -/
theorem encodeEng_of_decodeQop {w : Word} {i : EngInsn} (op : w.toNat / 67108864 = 0x0D) (h : decodeQop w = some i) : encodeEng i = w := by
  unfold decodeQop at h
  dsimp only at h
  split_ifs at h with m v m v m v m v m v m v m v
  all_goals try simp only [Bool.and_eq_true, decide_eq_true_eq] at v
  · cases h; exact wordR_fields op rfl rfl rfl (by omega)
  · obtain ⟨low, rd⟩ := v
    cases h; exact wordR_fields op (by rw [rd]; rfl) rfl rfl (by omega)
  · obtain ⟨⟨low, rd⟩, ra⟩ := v
    cases h; exact wordR_fields op (by rw [rd]; rfl) rfl (by rw [ra]; rfl) (by omega)
  · cases h; exact wordR_fields op rfl rfl rfl (by omega)
  · cases h; exact wordR_fields op rfl rfl rfl (by omega)
  · obtain ⟨⟨low, rd⟩, ra⟩ := v
    cases h; exact wordR_fields op (by rw [rd]; rfl) rfl (by rw [ra]; rfl) (by omega)
  · cases h; exact wordR_fields op rfl rfl (by rw [v]; rfl) (by rw [BitVec.toNat_ofNat]; omega)
theorem shiftCode_shiftOf {n : Nat} (h : n < 4) : shiftCode (shiftOf n) = n := by
  interval_cases n <;> rfl
/-- A word that has a form is the word of its instruction. -/
theorem encodeEng_of_decodeForm {w : Word} {i : EngInsn} (h : decodeForm w = some i) : encodeEng i = w := by
  unfold decodeForm at h
  dsimp only at h
  have imm : (BitVec.ofNat 16 (w.toNat % 65536)).toNat = w.toNat % 65536 := by rw [BitVec.toNat_ofNat]; omega
  have off : (BitVec.ofNat 26 w.toNat).toNat = w.toNat % 67108864 := BitVec.toNat_ofNat ..
  simp only [ite_eq_iff, Option.some.injEq, reduceCtorEq, and_false, or_false] at h
  rcases h with ⟨op, h⟩ | ⟨-, ⟨op, v, rfl⟩ | ⟨-, ⟨op, ra, rfl⟩ | ⟨-, ⟨op, v, rfl⟩ | ⟨-, ⟨op, h⟩ | ⟨-, ⟨op, rd, rfl⟩ | ⟨-, ⟨op, ra, rfl⟩ | ⟨-, ⟨op, rfl⟩ |
    ⟨-, ⟨op, zero, rfl⟩ | ⟨-, ⟨op, zero, rfl⟩ | ⟨-, ⟨op, rfl⟩ | ⟨-, ⟨op, rfl⟩ | ⟨-, ⟨op, zero, rfl⟩ | ⟨-, ⟨op, rfl⟩ | ⟨-, ⟨op, rfl⟩ | ⟨-, ⟨op, rfl⟩ | ⟨-, ⟨op, rfl⟩ |
    ⟨-, h⟩⟩⟩⟩⟩⟩⟩⟩⟩⟩⟩⟩⟩⟩⟩⟩⟩
  · exact encodeEng_of_decodeOpr op h
  · refine wordI_fields op rfl rfl ?_
    rw [shiftCode_shiftOf (by omega), BitVec.toNat_ofNat]
    omega
  · exact wordI_fields op rfl (by rw [ra]; rfl) imm.symm
  · refine wordR_fields op rfl rfl (by rw [regAt_val, BitVec.toNat_ofNat]; omega) ?_
    rw [BitVec.toNat_ofNat]
    simp only [beq_iff_eq]
    split <;> omega
  · exact encodeEng_of_decodeQop op h
  · exact wordI_fields op (by rw [rd]; rfl) rfl imm.symm
  · exact wordI_fields op rfl (by rw [ra]; rfl) imm.symm
  · exact wordI_fields op rfl rfl imm.symm
  · simp only [Bool.and_eq_true, decide_eq_true_eq] at zero
    obtain ⟨⟨rd, ra⟩, small⟩ := zero
    exact wordI_fields op (by rw [rd]; rfl) (by rw [ra]; rfl) (by rw [BitVec.toNat_ofNat]; omega)
  · simp only [Bool.and_eq_true, decide_eq_true_eq] at zero
    obtain ⟨rd, ra⟩ := zero
    exact wordI_fields op (by rw [rd]; rfl) (by rw [ra]; rfl) imm.symm
  · exact wordJ_fields op off.symm
  · exact wordJ_fields op off.symm
  · simp only [Bool.and_eq_true, decide_eq_true_eq] at zero
    obtain ⟨rd, none⟩ := zero
    exact wordI_fields op (by rw [rd]; rfl) rfl none
  · exact wordI_fields op rfl rfl imm.symm
  · exact wordI_fields op rfl rfl imm.symm
  · exact wordI_fields op rfl rfl imm.symm
  · exact wordI_fields op rfl rfl imm.symm
  · obtain ⟨g, of, rfl⟩ := Option.map_eq_some_iff.1 h
    exact wordI_fields (immOf_eq_some_iff.1 of).symm rfl rfl imm.symm

theorem decodeEng_eq_some_iff {w : Word} {i : EngInsn} : decodeEng w = some i ↔ decodeForm w = some i ∧ legalEng i = true := by
  unfold decodeEng
  split
  next j form =>
    rw [form]
    constructor
    · intro h
      split at h
      next legal => cases h; exact ⟨rfl, legal⟩
      next => cases h
    · rintro ⟨same, legal⟩
      cases same
      exact if_pos legal
  next form => simp [form]

/-- Settles O51: a word's fields are the operands it was laid out from, form by form. -/
theorem engineWordsRoundTrip : Obligations.EngineWordsRoundTrip := by
  constructor
  · intro i legal
    exact decodeEng_eq_some_iff.2 ⟨decodeForm_encodeEng i, legal⟩
  · intro w i h
    obtain ⟨form, legal⟩ := decodeEng_eq_some_iff.1 h
    exact ⟨encodeEng_of_decodeForm form, legal⟩

end Sys2Proof.Machine
end

section
/-! PROOF. The step, the reset state, boot, power-on, RESET_N and tamper; the rise of the stack; the boot flash and the service port (R530-R558, R643-R646). -/

namespace Sys2Proof.Machine

/-! ## The step, the time base and the reset state -/

/-- Settles O1: the step is defined on the queue's two shapes. -/
theorem stepRunsFrontCommand : Obligations.StepRunsFrontCommand := by
  refine fun c s => ⟨rfl, fun empty => ?_⟩
  simp [step, empty]

/-- Settles O9: both are updates of the named parts alone. -/
theorem powerLossKeepsOtpAndMram : Obligations.PowerLossKeepsOtpAndMram :=
  fun _ => ⟨rfl, rfl⟩

theorem ownerOf_zero : ownerOf 0 = none := by decide

/-- Settles O3: every table of the reset state is empty, so a read gives the default. -/
theorem resetLeavesDefaults : Obligations.ResetLeavesDefaults := by
  have unowned (p r : Nat) : State.reset.stk.regionOwner p r = none := ownerOf_zero
  have disabled (q : Nat) : qdOwner (State.reset.net.queue q).dir = none ∧ qdEnable (State.reset.net.queue q).dir = false := by
    change qdOwner ({} : Queue).dir = none ∧ qdEnable ({} : Queue).dir = false
    decide
  have unassigned (p k : Nat) : State.reset.fab.bmOwner p k = none := by
    change ownerOf ((({} : Bm).word >>> 24).setWidth 8) = none
    decide
  have free (p h : Nat) : State.reset.fab.handOwner p h = none := by
    change ownerOf ({} : Hand).own = none
    decide
  refine ⟨rfl, rfl, rfl, rfl, fun _ => ⟨rfl, rfl, rfl, rfl, rfl⟩, fun p h => ⟨rfl, free p h, rfl⟩, fun p k => ⟨rfl, rfl, rfl, unassigned p k⟩, disabled,
    fun p r => ⟨unowned p r, rfl⟩, fun _ => ⟨rfl, rfl, rfl, rfl⟩, rfl, rfl, rfl, rfl, rfl, rfl, rfl⟩

/-- Settles O4: the tables are empty, and SVC_COUNT is 0. -/
theorem resetMeetsInvariants : Obligations.ResetMeetsInvariants :=
  ⟨by decide, Nv.otpKept_of_otp rfl (by decide)⟩

theorem tick_powered {s : State} (up : s.aon.powered = true) : tick s = s.onAon fun a =>
    let sum : Int := (s.aon.rem : Int) + 250 * (1099511627776 + s.aon.freqAdj.toInt)
    { a with now := min maxTime (a.now + (sum / 1099511627776).toNat), rem := (sum % 1099511627776).toNat } := by
  rw [tick, if_pos up]

/-- Settles O2: FREQ_ADJ is at least -2^31, so the corrected tick is positive and its quotient and remainder are natural numbers. -/
theorem tickAdvancesTimeBase : Obligations.TickAdvancesTimeBase := by
  intro s empty up
  have stepped : step s = .next (tick s) := by rw [step, empty]
  rw [tick_powered up] at stepped
  have low : (-2147483648 : Int) ≤ s.aon.freqAdj.toInt := s.aon.freqAdj.le_toInt
  refine ⟨_, stepped, rfl, rfl, fun early => ?_, ?_, fun _ => Nat.min_le_left ..⟩
  · simp only [State.onAon_aon] at early ⊢
    omega
  · simp only [State.onAon_aon]
    omega

/-! ## Boot and reset -/

theorem boot_keeps (env : BootEnv) (s : State) (jtag : Jtag) :
    (boot s env jtag).aon.powered = true ∧ (boot s env jtag).aon.now = 0 ∧ (boot s env jtag).aon.node = env.node ∧ (boot s env jtag).seats = [] ∧
      (boot s env jtag).pending = s.pending := by
  unfold boot
  dsimp only
  generalize (if s.nv.lcPending then { s.nv with smsCopy := [], lcPending := false } else s.nv) = nv
  split_ifs <;> exact ⟨rfl, rfl, rfl, rfl, rfl⟩
theorem boot_nv (env : BootEnv) (s : State) (jtag : Jtag) :
    (boot s env jtag).nv = if s.nv.lcPending then { s.nv with smsCopy := [], lcPending := false } else s.nv := by
  unfold boot
  dsimp only
  generalize (if s.nv.lcPending then { s.nv with smsCopy := [], lcPending := false } else s.nv) = nv
  split_ifs <;> rfl
theorem boot_nv_life (env : BootEnv) (s : State) (jtag : Jtag) : (boot s env jtag).nv.life = s.nv.life := by
  rw [boot_nv]
  split <;> rfl
section
variable {env : BootEnv} {s : State} {jtag : Jtag}

theorem boot_decommissioned (life : (boot s env jtag).nv.life = .decommissioned) : (boot s env jtag).aon.mode = some .zeroised := by
  rw [boot_nv] at life
  rw [boot, if_pos life]
  rfl
theorem boot_slotA (pass : env.testFail = 0) (life : (boot s env jtag).nv.life ≠ .decommissioned) (valid : (boot s env jtag).nv.slotValid 0 = true) :
    (boot s env jtag).aon.mode = some .fallow ∧ (boot s env jtag).aon.fwSlot = 0 ∧ (boot s env jtag).aon.fwVersion = (boot s env jtag).nv.slotVersion 0 := by
  rw [boot_nv] at *
  rw [boot, if_neg life, pass]
  simp [valid, inRange]
theorem boot_slotB (pass : env.testFail = 0) (life : (boot s env jtag).nv.life ≠ .decommissioned) (invalid : (boot s env jtag).nv.slotValid 0 = false)
    (valid : (boot s env jtag).nv.slotValid 1 = true) :
    (boot s env jtag).aon.mode = some .fallow ∧ (boot s env jtag).aon.fwSlot = 1 ∧ (boot s env jtag).aon.fwVersion = (boot s env jtag).nv.slotVersion 1 := by
  rw [boot_nv] at *
  rw [boot, if_neg life, pass]
  simp [invalid, valid, inRange]
theorem boot_recovery (pass : env.testFail = 0) (life : (boot s env jtag).nv.life ≠ .decommissioned) (invalidA : (boot s env jtag).nv.slotValid 0 = false)
    (invalidB : (boot s env jtag).nv.slotValid 1 = false) : (boot s env jtag).aon.mode = some .recovery := by
  rw [boot_nv] at *
  rw [boot, if_neg life, pass]
  simp [invalidA, invalidB, inRange]
theorem boot_failed (low : 1 ≤ env.testFail.toNat) (high : env.testFail.toNat ≤ 10) (life : s.nv.life ≠ .decommissioned) :
    (boot s env jtag).aon.mode = some .fallow ∧ (boot s env jtag).aon.failedTest = env.testFail ∧ (boot s env jtag).aon.autoDue = false := by
  have alive := boot_nv_life env s jtag ▸ life
  rw [boot_nv] at alive
  rw [boot, if_neg alive]
  simp [inRange, low, high, State.fresh]
end

theorem exec_powerOn (env : BootEnv) {s : State} (off : s.aon.powered = false) : exec (.powerOn env) s = .next (boot s env {}) := by
  simp [exec, execPowerOn, off]

/-- Settles O6: the boot's outcome by life-cycle state and valid slots. -/
theorem powerOnBoots : Obligations.PowerOnBoots := by
  intro env s off pass
  obtain ⟨powered, now, node, seats, pending⟩ := boot_keeps env s {}
  exact ⟨_, exec_powerOn env off, powered, now, node, seats, pending, boot_nv .., boot_decommissioned, boot_slotA pass, boot_slotB pass, boot_recovery pass⟩

/-- Settles O7: a failed test is looked at before the slots, and AUTORISE after. -/
theorem failedTestHoldsFallow : Obligations.FailedTestHoldsFallow :=
  fun env _ off low high life => ⟨_, exec_powerOn env off, boot_failed low high life⟩

/-- What the boot keeps of the state before it: the draw counter, OTP and MRAM and the queue; the TAP is as it is told. -/
theorem boot_of_unpowered (env : BootEnv) (s : State) (jtag : Jtag) :
    boot s env jtag = { boot { s with aon := { s.aon with powered := false } } env {} with mc := { (boot { s with aon := { s.aon with powered := false } } env {}).mc with jtag := jtag } } := by
  unfold boot
  dsimp only
  generalize (if s.nv.lcPending then { s.nv with smsCopy := [], lcPending := false } else s.nv) = nv
  split_ifs <;> rfl

theorem exec_resetN_restarts {lowNs : Nat} (env : BootEnv) {s : State} (up : s.aon.powered = true)
    (long : 2000 ≤ lowNs ∨ 500 < lowNs ∧ Config.freeNat s.aon.free % 2 = 1) : exec (.resetN lowNs env) s = .next (boot s env s.mc.jtag).drawn := by
  have restarts : (decide (2000 ≤ lowNs) || decide (500 < lowNs) && decide (Config.freeNat s.aon.free % 2 = 1)) = true := by simpa using long
  simp [exec, execResetN, up, restarts]
theorem exec_resetN_ignored {lowNs : Nat} (env : BootEnv) {s : State} (up : s.aon.powered = true)
    (short : ¬(2000 ≤ lowNs ∨ 500 < lowNs ∧ Config.freeNat s.aon.free % 2 = 1)) : exec (.resetN lowNs env) s = .next s.drawn := by
  have ignored : (decide (2000 ≤ lowNs) || decide (500 < lowNs) && decide (Config.freeNat s.aon.free % 2 = 1)) = false := by
    rw [Bool.eq_false_iff]; simpa using short
  simp [exec, execResetN, up, ignored]

/-- Settles O8: the restart is the boot of a power cycle but for the TAP; between the two lengths the model draws which it is. -/
theorem resetPulseRestarts : Obligations.ResetPulseRestarts := by
  intro lowNs env s up
  refine ⟨fun long => ?_, fun short => exec_resetN_ignored env up (by omega), fun low high => ?_⟩
  · refine ⟨_, _, exec_resetN_restarts env up (.inl long), exec_powerOn env rfl, ?_⟩
    rw [boot_of_unpowered]
    rfl
  · by_cases drawn : Config.freeNat s.aon.free % 2 = 1
    · exact .inr ((exec_resetN_restarts env up (.inr ⟨low, drawn⟩)).trans (exec_resetN_restarts env up (.inl (Nat.le_refl _))).symm)
    · exact .inl (exec_resetN_ignored env up (by omega))

/-! ## Tamper -/

/-- What holds of a table's values and its default holds of every read. -/
theorem tget_of_forall {α : Type} {P : α → Prop} {d : α} {t : List (Nat × α)} (default : P d) (values : ∀ e ∈ t, P e.2) (k : Nat) : P (tget d t k) := by
  induction t with
  | nil => exact default
  | cons e t ih =>
    rw [tget_cons]
    split
    · exact values e List.mem_cons_self
    · exact ih fun x m => values x (List.mem_cons_of_mem _ m)
theorem tget_map {α β : Type} (d : α) (f : α → β) (t : List (Nat × α)) (k : Nat) : tget (f d) (t.map fun e => (e.1, f e.2)) k = f (tget d t k) := by
  induction t with
  | nil => rfl
  | cons e t ih =>
    rw [List.map_cons, tget_cons, tget_cons, ih]
    split <;> rfl

/-- What a seat loses when the device zeroises. -/
def SeatRec.idle (x : SeatRec) : Prop := x.isOpen = false ∧ x.sms = none ∧ x.smr = none ∧ x.staged = [] ∧ x.turn = none

theorem SeatRec.idle_powerDown {x : SeatRec} (idle : x.idle) : x.powerDown.idle := by
  obtain ⟨closed, sms, smr, staged, turn⟩ := idle
  exact ⟨closed, rfl, rfl, staged, by simp [powerDown, turn]⟩
theorem dropHeldFill_of_nil {s : State} (empty : s.mc.heldFill = []) : dropHeldFill s = s := by
  unfold dropHeldFill
  rw [empty, List.foldl_nil]
  change { s with mc := { s.mc with heldFill := [] } } = s
  rw [← empty]
theorem powerDown_seat (s : State) (k : Nat) : (powerDown s).seat k = ((dropHeldFill s).seat k).powerDown := by
  have default : SeatRec.powerDown {} = {} := rfl
  have read := tget_map {} SeatRec.powerDown (dropHeldFill s).seats k
  rwa [default] at read
theorem powerDown_smsCopy (s : State) : (powerDown s).nv.smsCopy =
    allSeats.foldl (fun l k => if ((dropHeldFill s).seat k).sms = none then l else tput none l k ((dropHeldFill s).seat k).sms) (dropHeldFill s).nv.smsCopy := rfl
theorem powerDown_smsCopy_of_none {s : State} (empty : s.mc.heldFill = []) (none : ∀ k, (s.seat k).sms = none) : (powerDown s).nv.smsCopy = s.nv.smsCopy := by
  rw [powerDown_smsCopy, dropHeldFill_of_nil empty]
  simp [allSeats, none]

/-- The state that zeroising reaches before it takes the stack down. -/
def State.erased (s : State) : State :=
  { s with
    nv := { s.nv with smsCopy := [] }
    seats := s.seats.map fun e => (e.1, { (e.2.endSession.dropTurns) with sms := none, smr := none, opening := none })
    mc := { s.mc with heldWrites := [], heldFill := [], orders := [], window := false } }
theorem zeroise_eq (s : State) : zeroise s = (if s.stackHeld then powerDown s.erased else s.erased).onAon fun a => { a with mode := some .zeroised, step := 0, autoDue := false } := rfl
theorem State.erased_idle (s : State) (k : Nat) : (s.erased.seat k).idle := by
  refine tget_of_forall (P := SeatRec.idle) ⟨rfl, rfl, rfl, rfl, rfl⟩ ?_ k
  intro e m
  obtain ⟨x, -, rfl⟩ := List.mem_map.1 m
  exact ⟨rfl, rfl, rfl, rfl, rfl⟩
theorem zeroise_seat_idle (s : State) (k : Nat) : ((zeroise s).seat k).idle := by
  rw [zeroise_eq]
  change ((if s.stackHeld then powerDown s.erased else s.erased).seat k).idle
  split
  · rw [powerDown_seat, dropHeldFill_of_nil rfl]
    exact SeatRec.idle_powerDown (s.erased_idle k)
  · exact s.erased_idle k
theorem zeroise_nv (s : State) : (zeroise s).nv = if s.stackHeld then { s.nv with smsCopy := [], wearSaved := s.mc.hk.wear } else { s.nv with smsCopy := [] } := by
  rw [zeroise_eq]
  change (if s.stackHeld then powerDown s.erased else s.erased).nv = _
  split
  · have copies : (powerDown s.erased).nv.smsCopy = [] := powerDown_smsCopy_of_none rfl fun k => (s.erased_idle k).2.1
    have rest : (powerDown s.erased).nv = { s.nv with smsCopy := (powerDown s.erased).nv.smsCopy, wearSaved := s.mc.hk.wear } := rfl
    rw [rest, copies]
  · rfl
theorem zeroise_stack {s : State} (held : s.stackHeld = true) :
    (zeroise s).stk.regions = [] ∧ (zeroise s).stk.lines = [] ∧ (zeroise s).lnk.ports = [] ∧ (zeroise s).net.scr = {} ∧ (zeroise s).fab.cfg = [] ∧ (zeroise s).stackHeld = false := by
  rw [zeroise_eq, if_pos held]
  refine ⟨rfl, rfl, rfl, rfl, rfl, ?_⟩
  simp [State.stackHeld, State.stackOn]

theorem Nv.armed_iff (n : Nv) (source : Fin 7) :
    n.armed (source.val + 1) = true ↔ (n.life = .owned ∨ n.life = .service) ∧ (2 ≤ source.val ∨ n.tamperEn.getLsbD source.val = true) := by
  unfold armed
  by_cases low : source.val < 2
  · have few : source.val + 1 ≤ 2 := by omega
    have not : ¬2 ≤ source.val := by omega
    simp [few, not]
  · have many : ¬source.val + 1 ≤ 2 := by omega
    have source2 : 2 ≤ source.val := by omega
    simp [many, source2]

/-- The state after a firing has been counted. -/
def State.tampered (s : State) (source : Fin 7) : State :=
  s.onNv fun n => { n with tamperCount := sat32 (n.tamperCount + 1), tamperLastCode := source.val + 1, tamperLastTime := s.aon.now }
theorem exec_tamper {s : State} (up : s.mcUp = true) (source : Fin 7) :
    exec (.tamper source) s = .next (if s.nv.armed (source.val + 1) then zeroise (s.tampered source) else s.tampered source) := by
  simp [exec, execTamper, up]
  rfl

/-- Settles O10: the firing is counted first; what follows depends on the source's arming alone. -/
theorem tamperZeroisesWhenArmed : Obligations.TamperZeroisesWhenArmed := by
  intro source s up counted armed
  have same : (s.tampered source).nv = counted := by
    unfold State.tampered
    rw [State.onNv_nv, sat32_eq_min]
  have ran := exec_tamper up source
  refine ⟨fun safe => ?_, fun fires => ?_⟩
  · rw [if_neg (mt (s.nv.armed_iff source).1 safe)] at ran
    rw [ran, ← same]
    rfl
  · rw [if_pos ((s.nv.armed_iff source).2 fires)] at ran
    have seats := zeroise_seat_idle (s.tampered source)
    have nv := zeroise_nv (s.tampered source)
    rw [same] at nv
    refine ⟨_, ran, rfl, ?_, ?_, ?_, ?_, seats, fun held => zeroise_stack held⟩
    all_goals
      rw [nv]
      split <;> rfl

/-! ## The power-down and a worn-out session -/

/-- A seat-1 READ that waits for a block's fill. -/
def wornRequest : Req := { seat := 1, prio := 0, node := 0, seq := 0, index := 0, sub := 0, len := 0, data := [], short := false, tag := 0 }
/-- The device in Field, REQUEST 0 ordered, with that READ held and one reply left in its session's counter. -/
def wornOut : State :=
  { State.reset with
    aon := { powered := true, mode := some .field }
    seats := [(1, { isOpen := true, repCtr := 4294967294, running := some 0 })]
    mc := { orders := [.request 0], heldFill := [(1, wornRequest)] } }

theorem exec_requestFallow_wornOut : exec .requestFallow wornOut = .next (powerDown (wornOut.onMc fun m => { m with orders := [] })) := rfl
/-- The held READ's refusal is the session's last reply, which ends it. -/
theorem powerDown_ends_worn_session : ((powerDown (wornOut.onMc fun m => { m with orders := [] })).seat 1).isOpen = false := by decide

/-- Refutes O12: sessions do not always stay. The power-down answers a held READ, and a reply that uses up the session's counter ends the session. -/
theorem not_stackGoesDownIntoFallow : ¬ Obligations.StackGoesDownIntoFallow := by
  intro all
  obtain ⟨-, ordered, -⟩ := all wornOut []
  obtain ⟨t, runs, lost⟩ := ordered rfl rfl
  cases runs
  obtain ⟨-, -, -, -, -, -, -, -, seats⟩ := lost
  obtain ⟨same, -⟩ := seats 1
  rw [powerDown_ends_worn_session] at same
  exact absurd same (by decide)

/-! ## The rise -/

theorem railsUp_rail (s : State) {k : Nat} (low : k < 5) : ((railsUp s).mc.hk.rail k).state = 2 ∧ ((railsUp s).mc.hk.rail k).step = 0 := by
  unfold railsUp
  interval_cases k <;> simp [Hk.rail, List.range_succ]

/-- The AON domain but for the draw counter, the housekeeping sequencer, and the orders that wait. -/
def State.commanded (s : State) : (Aon × Hk) × List Order := (s.sequencer, s.mc.orders)

theorem State.commanded_of_sequencer {s t : State} (same : t.sequencer = s.sequencer) (orders : t.mc.orders = s.mc.orders) : t.commanded = s.commanded :=
  Prod.ext same orders
@[simp] theorem State.onFab_commanded (s : State) (g : Fabric → Fabric) : (s.onFab g).commanded = s.commanded := rfl
@[simp] theorem State.onNet_commanded (s : State) (g : Net → Net) : (s.onNet g).commanded = s.commanded := rfl
@[simp] theorem State.onEng_commanded (s : State) (g : Engines → Engines) : (s.onEng g).commanded = s.commanded := rfl
@[simp] theorem State.onStk_commanded (s : State) (g : Stack → Stack) : (s.onStk g).commanded = s.commanded := rfl
@[simp] theorem State.onLnk_commanded (s : State) (g : Links → Links) : (s.onLnk g).commanded = s.commanded := rfl
@[simp] theorem State.onMap_commanded (s : State) (g : FallowMap → FallowMap) : (s.onMap g).commanded = s.commanded := rfl
@[simp] theorem State.onSeat_commanded (s : State) (k : Nat) (g : SeatRec → SeatRec) : (s.onSeat k g).commanded = s.commanded := rfl
@[simp] theorem State.raise_commanded (s : State) (e : Event) : (s.raise e).commanded = s.commanded := rfl
@[simp] theorem State.raiseAll_commanded (s : State) (l : List Event) : (s.raiseAll l).commanded = s.commanded := rfl
@[simp] theorem abortTest_commanded (s : State) (cause : Nat) : (abortTest s cause).commanded = s.commanded := by
  refine State.commanded_of_sequencer (abortTest_sequencer s cause) ?_
  unfold abortTest
  split <;> rfl
@[simp] theorem passSome_commanded (s : State) (p : Nat) : (s.passSome p).commanded = s.commanded := by
  refine State.commanded_of_sequencer (passSome_sequencer s p) ?_
  unfold State.passSome
  dsimp only
  split
  · rw [State.drawn_mc, (State.passEdges_keeps ..).1]
  · rfl
@[simp] theorem fallowPlot_commanded (s : State) (p : Nat) : (fallowPlot s p).commanded = s.commanded := by
  simp [fallowPlot, apply_ite State.commanded]
@[simp] theorem answerB_commanded (s : State) (src : MemSrc) (resp : Nat) (data : BitVec 512) : (answerB s src resp data).commanded = s.commanded := by
  unfold answerB
  dsimp only
  split <;> rfl
@[simp] theorem writeBackResp_commanded (s : State) (p line resp : Nat) : (writeBackResp s p line resp).commanded = s.commanded := by
  refine State.commanded_of_sequencer (writeBackResp_sequencer s p line resp) ?_
  unfold writeBackResp
  dsimp only
  repeat' split
  all_goals simp
@[simp] theorem answerWrite_commanded (s : State) (p line resp : Nat) (src : MemSrc) : (answerWrite s p line resp src).commanded = s.commanded := by
  cases src <;> simp only [answerWrite, apply_ite State.commanded, State.onFab_commanded, State.onLnk_commanded, writeBackResp_commanded, answerB_commanded, ite_self]
@[simp] theorem answerAll_commanded (s : State) (p line resp : Nat) (l : List MemSrc) : (answerAll s p line resp l).commanded = s.commanded :=
  foldl_leaves State.commanded (fun u x => answerWrite_commanded u p line resp x) l s
@[simp] theorem riserDownTraffic_commanded (s : State) (p : Nat) : (riserDownTraffic s p).commanded = s.commanded := by
  simp only [riserDownTraffic, foldl_leaves State.commanded, State.onFab_commanded, State.onStk_commanded, answerAll_commanded, answerB_commanded, implies_true]
@[simp] theorem laneFailed_commanded (s : State) (p lane : Nat) : (laneFailed s p lane).commanded = s.commanded := by
  unfold laneFailed
  dsimp only
  split <;> simp [riserEntry, apply_ite State.commanded]
@[simp] theorem riseFallow_commanded (s : State) (p : Nat) : (riseFallow s p).commanded = s.commanded := by
  simp [riseFallow, apply_ite State.commanded]
@[simp] theorem riseFinding_commanded (s : State) (f : Finding) : (riseFinding s f).commanded = s.commanded := by
  cases f with
  | riserLane p lane =>
    simp only [riseFinding]
    split <;> simp
  | cfgBond p g => simp [riseFinding, apply_ite State.commanded]
  | feedLane c lane => simp [riseFinding, foldl_leaves State.commanded]
@[simp] theorem mapFailedTile_commanded (s : State) (t : Nat) : (mapFailedTile s t).commanded = s.commanded := by
  simp [mapFailedTile, apply_ite State.commanded]
theorem State.skip_commanded (s : State) (n : Nat) : (s.onAon fun a => { a with free := a.free + n }).commanded = s.commanded := rfl
@[simp] theorem secure_commanded (s : State) (env : RiseEnv) : (secure s env).commanded = s.commanded := by
  unfold secure
  dsimp only
  rw [State.skip_commanded, State.raiseAll_commanded, State.raiseAll_commanded, foldl_leaves State.commanded fun _ _ => State.onSeat_commanded ..,
    State.onEng_commanded, State.onNet_commanded, State.onLnk_commanded, State.onStk_commanded]

/-- The state in which the rise's steps 5 and 6 begin. -/
def State.rising (s : State) : State :=
  railsUp (s.onAon fun a => { a with mode := some .sowing, step := 4, autoDue := false, finalTimeout := false, thermalLatch := false, trainGroup := 0, seedRead := 0 })
/-- Steps 5 and 6 leave the mode, the rails and the orders as the rails' start has left them, whatever they find. -/
theorem rise_commanded (s : State) (env : RiseEnv) : ∃ u : State, rise s env = u.onAon (fun a => { a with step := 7 }) ∧ u.commanded = s.rising.commanded := by
  refine ⟨_, rfl, ?_⟩
  rw [foldl_leaves State.commanded riseFinding_commanded, foldl_leaves State.commanded fun _ _ => State.onFab_commanded ..,
    foldl_leaves State.commanded mapFailedTile_commanded, secure_commanded]
  rfl
theorem State.commanded_iff {s t : State} : t.commanded = s.commanded ↔
    { t.aon with free := 0 } = { s.aon with free := 0 } ∧ t.mc.hk = s.mc.hk ∧ t.mc.orders = s.mc.orders := by
  simp [commanded, sequencer, and_assoc]

/-- Sowing at step 7, with every rail regulating at step 0. -/
def State.risen (t : State) : Prop :=
  t.aon.mode = some .sowing ∧ t.aon.step = 7 ∧ t.aon.thermalLatch = false ∧ t.aon.autoDue = false ∧ t.aon.failedTest = 0 ∧
    t.mc.hk.failedRail = 0 ∧ ∀ k < 5, (t.mc.hk.rail k).state = 2 ∧ (t.mc.hk.rail k).step = 0
theorem rise_risen {s : State} (pass : s.aon.failedTest = 0) (env : RiseEnv) : (rise s env).risen ∧ (rise s env).mc.orders = s.mc.orders := by
  obtain ⟨u, e, same⟩ := rise_commanded s env
  obtain ⟨aon, hk, orders⟩ := State.commanded_iff.1 same
  have mode : u.aon.mode = some .sowing := congrArg Aon.mode aon
  have latch : u.aon.thermalLatch = false := congrArg Aon.thermalLatch aon
  have auto : u.aon.autoDue = false := congrArg Aon.autoDue aon
  have test : u.aon.failedTest = s.aon.failedTest := by
    have read := congrArg Aon.failedTest aon
    exact read
  have rail : u.mc.hk.failedRail = 0 := congrArg Hk.failedRail hk
  rw [e]
  refine ⟨⟨mode, rfl, latch, auto, test.trans pass, rail, fun k low => ?_⟩, orders⟩
  rw [State.onAon_mc, hk]
  exact railsUp_rail _ low

theorem exec_autoriseRise (env : RiseEnv) {s : State} (mode : s.aon.mode = some .fallow) (due : s.aon.autoDue = true) (pass : s.aon.failedTest = 0)
    (cool : s.aon.thermalLatch = false) (supply : s.supplyOut = false) : exec (.autoriseRise env) s = .next (rise s env) := by
  simp [exec, execAutoriseRise, mode, due, pass, cool, supply]
section
variable (env : RiseEnv) {s : State} {rest : List Order} (mode : s.aon.mode = some .fallow)
include mode

theorem exec_rise (order : takeOrder .rise s.mc.orders = some rest) (pass : s.aon.failedTest = 0) (cool : s.aon.thermalLatch = false) :
    exec (.rise env) s = .next (rise (s.onMc fun m => { m with orders := rest }) env) := by
  simp [exec, execRise, order, mode, pass, cool]
theorem exec_restart (order : takeOrder .restart s.mc.orders = some rest) (pass : s.aon.failedTest = 0) :
    exec (.restart env) s = .next (rise (s.onMc fun m => { m with orders := rest }) env) := by
  simp [exec, execRestart, order, mode, pass]
end
theorem exec_rise_refused (env : RiseEnv) {s : State} {rest : List Order} (order : takeOrder .rise s.mc.orders = some rest)
    (stays : s.aon.failedTest ≠ 0 ∨ s.aon.thermalLatch = true) : exec (.rise env) s = .next (s.onMc fun m => { m with orders := rest }) := by
  rcases stays with failed | hot
  · simp only [exec, execRise, order]
    exact if_neg fun all => failed (of_decide_eq_true (Bool.and_eq_true_iff.1 all).2)
  · simp [exec, execRise, order, hot]
theorem exec_restart_refused (env : RiseEnv) {s : State} {rest : List Order} (order : takeOrder .restart s.mc.orders = some rest) (stays : s.aon.failedTest ≠ 0) :
    exec (.restart env) s = .next (s.onMc fun m => { m with orders := rest }) := by
  simp only [exec, execRestart, order]
  exact if_neg fun all => stays (of_decide_eq_true (Bool.and_eq_true_iff.1 all).2)

/-- Settles O11: whichever way the rise is begun, its steps leave the mode, the rails and the orders. -/
theorem riseReachesSowing : Obligations.RiseReachesSowing := by
  intro env s rest mode risen taken
  refine ⟨fun due pass cool supply => ?_, fun order => ⟨fun pass cool => ?_, exec_rise_refused env order⟩, fun order => ⟨fun pass => ?_, exec_restart_refused env order⟩⟩
  · exact ⟨_, exec_autoriseRise env mode due pass cool supply, rise_risen pass env⟩
  · exact ⟨_, exec_rise env mode order pass cool, rise_risen (s := taken) pass env⟩
  · exact ⟨_, exec_restart env mode order pass, rise_risen (s := taken) pass env⟩

/-! ## Little-endian fields -/

theorem leNat_leBytes (n v : Nat) : leNat (leBytes n v) = v % 256 ^ n := by
  induction n generalizing v with
  | zero => simp [leBytes, leNat, Nat.mod_one]
  | succ n ih =>
    have low : (BitVec.ofNat 8 v).toNat = v % 256 := BitVec.toNat_ofNat ..
    rw [leBytes, leNat, ih, low, Nat.pow_succ', Nat.mod_mul]
theorem leField_leBytes (a b : List Byte) {i n : Nat} (v : Nat) (at' : a.length = i) : leField (a ++ leBytes n v ++ b) i n = v % 256 ^ n := by
  subst at'
  rw [leField, List.append_assoc, List.drop_left, List.take_left' (leBytes_length n v), leNat_leBytes]

/-! ## Boot-flash reads and the status record -/

theorem sspiRecord_length (s : State) : s.sspiRecord.length = 16 := by simp [State.sspiRecord, leBytes_length]
theorem sspiRecord_fwVersion (s : State) : leField s.sspiRecord 4 4 = s.aon.fwVersion.toNat := by
  unfold State.sspiRecord
  rw [List.append_assoc, leField_leBytes (i := 4) _ _ _ rfl]
  omega
theorem sspiRecord_next (s : State) : leField s.sspiRecord 8 4 = s.mc.sspi.next.toNat := by
  unfold State.sspiRecord
  rw [leField_leBytes (i := 8) _ _ _ (by simp [leBytes_length])]
  omega
theorem sspiRecord_zero (s : State) : leField s.sspiRecord 12 4 = 0 := by
  unfold State.sspiRecord leField
  rw [List.drop_left' (by simp [leBytes_length])]
  rfl

/-- Settles O14: the read's packet is the queue's, and the record is laid out field by field. -/
theorem flashReadsAndStatusRecord : Obligations.FlashReadsAndStatusRecord := by
  intro s
  refine ⟨fun addr len q up low high inside packs => ?_, fun up => ⟨s.sspiRecord, ?_, sspiRecord_length s, rfl, rfl, rfl, sspiRecord_fwVersion s, sspiRecord_next s, sspiRecord_zero s⟩⟩
  · have range : inRange 4 16384 len = true := by simp [inRange, low, high]
    have fits : ¬2 ^ 32 < addr.toNat + len := by omega
    simp only [exec, execBootFlashRead, up, range, fits, packs]
    rfl
  · simp only [exec, execSspiStatus, up]
    rfl

/-! ## The service port -/

section
variable {s : State} {frame : List Byte} {q : Queue} {cmd : Nat → Bool} {perform : State → Out} (up : s.mcUp = true) (names : cmd (byteAt frame 0).toNat = true)
include up names

theorem sspiFrame_performs (long : 8 ≤ frame.length) (short : frame.length ≤ 16384) (packs : (s.net.queue 40961).packPacket 1 frame = some q) :
    sspiFrame s frame cmd perform = perform (s.onNet fun n => n.setQueue 40961 q) := by
  unfold sspiFrame
  rw [up, names, packs]
  simp [Nat.not_lt.2 long, Nat.not_lt.2 short]
theorem sspiFrame_short (short : frame.length < 8) : sspiFrame s frame cmd perform = .next (s.sspiResult errTypeLength) := by
  unfold sspiFrame
  rw [up, names]
  simp [short]
end
theorem sspiOnSlot_refused {s : State} {frame : List Byte} {act : Nat → Nat → State} (other : s.aon.mode ≠ some .recovery) :
    sspiOnSlot s frame act = .next (s.sspiResult errLifecycle) := by
  simp [sspiOnSlot, other]
theorem sspiOnSlot_acts {s : State} {frame : List Byte} {act : Nat → Nat → State} {k a : Nat} (mode : s.aon.mode = some .recovery)
    (slot : sspiSlot frame = some k) (addr : s.nv.slotAddr k = some a) : sspiOnSlot s frame act = .next (act k a) := by
  simp [sspiOnSlot, mode, slot, addr]

section
variable {s : State} {frame : List Byte} {q : Queue} (up : s.mcUp = true) (long : 8 ≤ frame.length) (short : frame.length ≤ 16384)
  (packs : (s.net.queue 40961).packPacket 1 frame = some q)
include up long short packs

theorem exec_sspiErase (c : byteAt frame 0 = 2) : exec (.sspiErase frame) s = sspiOnSlot (s.onNet fun n => n.setQueue 40961 q) frame fun _ a =>
    ((s.onNet fun n => n.setQueue 40961 q).onNv fun n => { n with flash := n.flash.filter fun c => decide (c.1 < a) || decide (a + slotSize ≤ c.1) }).sspiResult errOk := by
  change execSspiErase frame s = _
  rw [execSspiErase, sspiFrame_performs up ?_ long short packs]
  rw [c]; rfl
theorem exec_sspiWrite (c : byteAt frame 0 = 3) : exec (.sspiWrite frame) s = sspiOnSlot (s.onNet fun n => n.setQueue 40961 q) frame fun _ a =>
    if slotSize < leField frame 4 4 + (frame.drop 8).length then (s.onNet fun n => n.setQueue 40961 q).sspiResult errRange
    else (((s.onNet fun n => n.setQueue 40961 q).onNv fun n => { n with
        flash := ((frame.drop 8).foldl (fun (x : List Host.Cell × Nat) b => (tput 0xFF x.1 x.2 b, x.2 + 1)) (n.flash, a + leField frame 4 4)).1 }).onMc
      fun m => { m with sspi := { m.sspi with next := BitVec.ofNat 32 (leField frame 4 4 + (frame.drop 8).length) } }).sspiResult errOk := by
  change execSspiWrite frame s = _
  rw [execSspiWrite, sspiFrame_performs up ?_ long short packs]
  rw [c]; rfl
theorem exec_sspiVerify (c : byteAt frame 0 = 4) : exec (.sspiVerify frame) s =
    if s.aon.mode != some .recovery then .next ((s.onNet fun n => n.setQueue 40961 q).sspiResult errLifecycle)
    else match sspiSlot frame with
      | none => .next (((s.onNet fun n => n.setQueue 40961 q).onMc fun m => { m with sspi := { m.sspi with verified := false } }).sspiResult errRange)
      | some k => .next (((s.onNet fun n => n.setQueue 40961 q).onMc fun m => { m with sspi := { m.sspi with verified := s.nv.slotValid k } }).sspiResult
          (if s.nv.slotValid k then errOk else errCheckFailed)) := by
  change execSspiVerify frame s = _
  rw [execSspiVerify, sspiFrame_performs up ?_ long short packs]
  · rfl
  · rw [c]; rfl
theorem exec_sspiRestart (env : BootEnv) (c : byteAt frame 0 = 5) : exec (.sspiRestart frame env) s =
    if s.aon.mode != some .recovery then .next ((s.onNet fun n => n.setQueue 40961 q).sspiResult errLifecycle)
    else if !s.mc.sspi.verified then .next ((s.onNet fun n => n.setQueue 40961 q).sspiResult errState)
    else .next (boot (s.onNet fun n => n.setQueue 40961 q) env s.mc.jtag) := by
  change execSspiRestart frame env s = _
  rw [execSspiRestart, sspiFrame_performs up ?_ long short packs]
  · rfl
  · rw [c]; rfl
theorem exec_sspiReservedCommand (c : byteAt frame 0 = 0 ∨ 6 ≤ (byteAt frame 0).toNat) : exec (.sspiReservedCommand frame) s =
    .next ((s.onNet fun n => n.setQueue 40961 q).sspiResult errRange) := by
  change execSspiReservedCommand frame s = _
  rw [execSspiReservedCommand, sspiFrame_performs up ?_ long short packs]
  rcases c with zero | high
  · rw [zero]; rfl
  · simp [high]
end

/-- Settles O16: a frame is refused by its length first, then by the mode. -/
theorem servicePortRefusals : Obligations.ServicePortRefusals := by
  intro s frame env q up result
  refine ⟨fun long short packs => ⟨fun other => ⟨fun c => ?_, fun c => ?_, fun c => ?_, fun c => ?_⟩, exec_sspiReservedCommand up long short packs⟩, fun short c => ?_⟩
  · exact (exec_sspiErase up long short packs c).trans (sspiOnSlot_refused other)
  · exact (exec_sspiWrite up long short packs c).trans (sspiOnSlot_refused other)
  · exact (exec_sspiVerify up long short packs c).trans (if_pos (by simpa using other))
  · exact (exec_sspiRestart up long short packs env c).trans (if_pos (by simpa using other))
  · change execSspiErase frame s = _
    rw [execSspiErase, sspiFrame_short up ?_ short]
    · rfl
    · rw [c]; rfl

/-- Writing bytes one after another from an address on changes those addresses alone. -/
theorem flash_written (data : List Byte) (flash : List Host.Cell) (a i : Nat) :
    tget 0xFF (data.foldl (fun (x : List Host.Cell × Nat) b => (tput 0xFF x.1 x.2 b, x.2 + 1)) (flash, a)).1 i =
      if a ≤ i ∧ i < a + data.length then byteAt data (i - a) else tget 0xFF flash i := by
  induction data generalizing flash a with
  | nil => simp
  | cons b data ih =>
    rw [List.foldl_cons, ih, tget_tput, List.length_cons]
    by_cases first : i = a
    · subst first
      simp [byteAt]
    · by_cases later : a + 1 ≤ i ∧ i < a + 1 + data.length
      · have here : a ≤ i ∧ i < a + (data.length + 1) := by omega
        rw [if_pos later, if_pos here, byteAt, byteAt, show i - a = i - (a + 1) + 1 by omega, List.getD_cons_succ]
      · have not : ¬(a ≤ i ∧ i < a + (data.length + 1)) := by omega
        rw [if_neg later, if_neg not, if_neg first]
theorem byteAt_drop (l : List Byte) (n i : Nat) : byteAt (l.drop n) i = byteAt l (n + i) := by
  simp [byteAt, List.getD_eq_getElem?_getD]
/-- Erasing a range of addresses leaves the others. -/
theorem flash_erased (flash : List Host.Cell) (a n i : Nat) :
    tget 0xFF (flash.filter fun c => decide (c.1 < a) || decide (a + n ≤ c.1)) i = if a ≤ i ∧ i < a + n then 0xFF else tget 0xFF flash i := by
  induction flash with
  | nil => simp [tget_nil]
  | cons c flash ih =>
    rw [List.filter_cons, tget_cons]
    split
    next kept =>
      rw [tget_cons, ih]
      by_cases here : c.1 = i
      · have out : ¬(a ≤ i ∧ i < a + n) := by
          simp only [Bool.or_eq_true, decide_eq_true_eq] at kept
          omega
        rw [if_pos here, if_neg out]
        simp [here]
      · simp [here]
    next gone =>
      rw [ih]
      simp only [Bool.or_eq_true, decide_eq_true_eq, not_or, not_lt, not_le] at gone
      by_cases here : c.1 = i
      · have within : a ≤ i ∧ i < a + n := by omega
        rw [if_pos within, if_pos within]
      · simp [here]

/-- Settles O15: the frame is packed first; then each command does its own. -/
theorem servicePortWorksInRecovery : Obligations.ServicePortWorksInRecovery := by
  intro s frame k a q powered mode long short slot addr packs
  have up : s.mcUp = true := by simp [State.mcUp, powered, mode]
  refine ⟨fun c => ?_, fun c fits => ?_, fun c => ?_, fun env c good => ?_, fun env c bad => ?_⟩
  · have ran := (exec_sspiErase up long short packs c).trans (sspiOnSlot_acts mode slot addr)
    exact ⟨_, ran, rfl, rfl, flash_erased s.nv.flash a slotSize⟩
  · have ran := (exec_sspiWrite up long short packs c).trans (sspiOnSlot_acts mode slot addr)
    have size : (frame.drop 8).length = frame.length - 8 := List.length_drop ..
    have within : ¬slotSize < leField frame 4 4 + (frame.drop 8).length := by
      rw [size]
      exact Nat.not_lt.2 fits
    rw [if_neg within] at ran
    refine ⟨_, ran, rfl, rfl, ?_, fun i => ?_⟩
    · change (BitVec.ofNat 32 (leField frame 4 4 + (frame.drop 8).length)).toNat = _
      rw [size, BitVec.toNat_ofNat]
      omega
    · refine (flash_written (frame.drop 8) s.nv.flash (a + leField frame 4 4) i).trans ?_
      rw [size, byteAt_drop]
      rfl
  · have ran := exec_sspiVerify up long short packs c
    rw [if_neg (by simp [mode]), slot] at ran
    refine ⟨_, ran, rfl, ?_, rfl, rfl⟩
    dsimp only [State.sspiResult, State.onMc_mc]
    split <;> rfl
  · have ran := exec_sspiRestart up long short packs env c
    rw [if_neg (by simp [mode]), if_neg (by simp [good]), boot_of_unpowered] at ran
    exact ⟨_, exec_powerOn env rfl, ran⟩
  · have ran := exec_sspiRestart up long short packs env c
    rw [if_neg (by simp [mode]), if_pos (by simp [bad])] at ran
    exact ⟨_, ran, rfl, rfl⟩

end Sys2Proof.Machine
end

section
/-! PROOF. Life-cycle wipes and transitions (R635–R644). -/

namespace Sys2Proof.Machine

/-! ## Tables with one entry for a key -/

/-- The table has at most one entry for the key. -/
def sole {α : Type} (t : List (Nat × α)) (k : Nat) : Prop := (t.filter fun e => e.1 = k).length ≤ 1

theorem tdel_filter_key {α : Type} (t : List (Nat × α)) (j k : Nat) :
    (tdel t j).filter (fun e => e.1 = k) = if j = k then [] else t.filter fun e => e.1 = k := by
  rw [tdel_eq_filter, List.filter_filter]
  split
  next same =>
    subst same
    simp
  next other =>
    refine List.filter_congr fun e _ => ?_
    by_cases here : e.1 = k <;> simp [here, Ne.symm other]
theorem tins_filter_key_length {α : Type} (t : List (Nat × α)) (j k : Nat) (v : α) :
    ((tins t j v).filter fun e => e.1 = k).length = (t.filter fun e => e.1 = k).length + if j = k then 1 else 0 := by
  induction t with
  | nil => by_cases here : j = k <;> simp [tins, here]
  | cons e t ih =>
    unfold tins
    split
    · by_cases here : j = k <;> simp [List.filter_cons, here]
    · rw [List.filter_cons, List.filter_cons]
      split
      · rw [List.length_cons, List.length_cons, ih]
        omega
      · exact ih
theorem sole_tput_self {α : Type} [DecidableEq α] (d : α) (t : List (Nat × α)) (k : Nat) (v : α) : sole (tput d t k v) k := by
  unfold sole tput
  split
  · simp [tdel_filter_key]
  · rw [tins_filter_key_length, tdel_filter_key]
    simp
theorem sole_tput {α : Type} [DecidableEq α] (d : α) {t : List (Nat × α)} {k : Nat} (one : sole t k) (j : Nat) (v : α) : sole (tput d t j v) k := by
  by_cases here : j = k
  · subst here
    exact sole_tput_self ..
  · unfold sole tput
    split
    · rw [tdel_filter_key, if_neg here]
      exact one
    · rw [tins_filter_key_length, tdel_filter_key, if_neg here, if_neg here]
      exact one
theorem sole_map {α β : Type} {t : List (Nat × α)} {k : Nat} (f : α → β) : sole (t.map fun e => (e.1, f e.2)) k ↔ sole t k := by
  unfold sole
  rw [List.filter_map, List.length_map]
  rfl
/-- A key with one entry reads the same when the entries at the default are dropped. -/
theorem tget_filter_sole {α : Type} [DecidableEq α] (d : α) {t : List (Nat × α)} {k : Nat} (one : sole t k) : tget d (t.filter fun e => e.2 != d) k = tget d t k := by
  have absent {l : List (Nat × α)} (none : l.filter (fun e => e.1 = k) = []) : tget d l k = d := by
    induction l with
    | nil => rfl
    | cons e l ih =>
      simp only [List.filter_eq_nil_iff, List.mem_cons, decide_eq_true_eq, forall_eq_or_imp] at none ih
      rw [tget_cons, if_neg none.1, ih none.2]
  induction t with
  | nil => rfl
  | cons e t ih =>
    unfold sole at one ih
    rw [List.filter_cons] at one
    by_cases here : e.1 = k
    · simp only [here, decide_true, if_true, List.length_cons] at one
      have rest : t.filter (fun e => e.1 = k) = [] := List.eq_nil_of_length_eq_zero (by omega)
      rw [tget_cons, if_pos here, List.filter_cons]
      split
      · rw [tget_cons, if_pos here]
      next gone =>
        have zero : e.2 = d := by simpa using gone
        rw [zero]
        refine absent ?_
        rw [List.filter_filter, List.filter_congr fun e _ => Bool.and_comm .., ← List.filter_filter, rest, List.filter_nil]
    · simp only [here, decide_false, if_neg, Bool.false_eq_true, not_false_eq_true] at one
      rw [tget_cons, if_neg here, ← ih one, List.filter_cons]
      split
      · rw [tget_cons, if_neg here]
      · rfl

/-! ## Life-cycle wipes -/

/-- What a wipe is about, of a seat: its session, its staging set, turn and secrets, and its credential. -/
def SeatRec.wipeView (x : SeatRec) : Bool × List Item × Option Turn × Option (BitVec 256) × Option (BitVec 256) × BitVec 384 :=
  (x.isOpen, x.staged, x.turn, x.sms, x.smr, x.credX)

@[simp] theorem State.raise_wipeView (s : State) (e : Event) (k : Nat) : ((s.raise e).seat k).wipeView = (s.seat k).wipeView := by
  rw [State.raise_seat]
  split
  next mine =>
    rw [Bool.and_eq_true, decide_eq_true_eq] at mine
    rw [mine.1]
    rfl
  next => rfl
theorem endStream_seats (s : State) (j : Nat) : (endStream s j).seats = (s.onSeat j fun r => { r with stream := none }).seats := by
  unfold endStream
  dsimp only
  repeat' split
  all_goals rfl
theorem endSeg_eq (s : State) (j : Nat) : ∃ u, endSeg s j = u.onSeat j (fun r => { r with seg := none }) ∧ (u = endStream s j ∨ u = s) :=
  ⟨_, rfl, ite_eq_or_eq ..⟩
theorem State.onSeat_wipeView (s : State) {j : Nat} {g : SeatRec → SeatRec} (keeps : ∀ r, (g r).wipeView = r.wipeView) (k : Nat) :
    ((s.onSeat j g).seat k).wipeView = (s.seat k).wipeView := by
  rw [State.onSeat_seat]
  split
  next mine => rw [keeps, mine]
  next => rfl
theorem endSeg_wipeView (s : State) (j k : Nat) : ((endSeg s j).seat k).wipeView = (s.seat k).wipeView := by
  have closes (u : State) : ((u.onSeat j fun r => { r with seg := none }).seat k).wipeView = (u.seat k).wipeView := by
    refine State.onSeat_wipeView u ?_ k
    exact fun _ => rfl
  obtain ⟨u, e, rfl | rfl⟩ := endSeg_eq s j
  · rw [e, closes]
    unfold State.seat
    rw [endStream_seats]
    refine State.onSeat_wipeView s ?_ k
    exact fun _ => rfl
  · rw [e, closes]
theorem endSession_seat (s : State) (j k : Nat) : (endSession s j).seat k = if k = j then ((endSeg s j).seat j).endSession else (endSeg s j).seat k := by
  rw [endSession, State.onSeat_seat]
theorem endSession_closed (s : State) (j k : Nat) : ((endSession s j).seat k).isOpen = (decide (k ≠ j) && (s.seat k).isOpen) := by
  have kept := congrArg Prod.fst (endSeg_wipeView s j k)
  rw [endSession_seat]
  split
  next mine => simp [mine, SeatRec.endSession]
  next other => simpa [other, SeatRec.wipeView] using kept
theorem endSession_credX (s : State) (j k : Nat) : ((endSession s j).seat k).credX = (s.seat k).credX := by
  have kept : ((endSeg s j).seat k).credX = (s.seat k).credX := congrArg (fun v => v.2.2.2.2.2) (endSeg_wipeView s j k)
  rw [endSession_seat]
  split
  next mine => subst mine; exact kept
  next => exact kept
theorem endSession_sole (s : State) (j k : Nat) (one : j = k ∨ sole s.seats k) : sole (endSession s j).seats k := by
  rcases one with mine | one
  · subst mine
    exact sole_tput_self ..
  · obtain ⟨u, e, rfl | rfl⟩ := endSeg_eq s j
    · refine sole_tput _ ?_ _ _
      rw [e]
      refine sole_tput _ ?_ _ _
      rw [endStream_seats]
      exact sole_tput _ one _ _
    · refine sole_tput _ ?_ _ _
      rw [e]
      exact sole_tput _ one _ _
/-- Ending the sessions of some seats. -/
theorem endSessions_seat (l : List Nat) (s : State) (k : Nat) :
    ((l.foldl endSession s).seat k).isOpen = (decide (k ∉ l) && (s.seat k).isOpen) ∧ ((l.foldl endSession s).seat k).credX = (s.seat k).credX ∧
      (k ∈ l ∨ sole s.seats k → sole (l.foldl endSession s).seats k) := by
  induction l generalizing s with
  | nil => simp
  | cons j l ih =>
    obtain ⟨closed, cred, one⟩ := ih (endSession s j)
    refine ⟨?_, cred.trans (endSession_credX s j k), fun named => one ?_⟩
    · rw [List.foldl_cons, closed, endSession_closed]
      by_cases mine : k = j <;> by_cases later : k ∈ l <;> simp [mine, later]
    · by_cases later : k ∈ l
      · exact .inl later
      · refine .inr (endSession_sole s j k ?_)
        simp only [List.mem_cons, later, or_false] at named
        exact named.imp Eq.symm id

/-- What a wipe reads or writes outside OTP and MRAM: a seat's part, the regions, the ports and the scratchpad, with the AON domain and housekeeping. -/
structure WipeView where
  seat : Bool × List Item × Option Turn × Option (BitVec 256) × Option (BitVec 256) × BitVec 384
  regions : List (Nat × Region)
  ports : List (Nat × Port)
  scr : Scratch
  sequencer : Aon × Hk
/-- The parts of a wipe, for seat k. -/
def State.wipe (s : State) (k : Nat) : WipeView := ⟨(s.seat k).wipeView, s.stk.regions, s.lnk.ports, s.net.scr, s.sequencer⟩

theorem State.raise_wipe (s : State) (e : Event) (k : Nat) : (s.raise e).wipe k = s.wipe k := by
  simp only [wipe, raise_wipeView, raise_sequencer]
  rfl
theorem writeBackResp_wipe (s : State) (p line resp k : Nat) : (writeBackResp s p line resp).wipe k = s.wipe k := by
  have engines (u : State) (g : Engines → Engines) : (u.onEng g).wipe k = u.wipe k := rfl
  unfold writeBackResp
  dsimp only
  repeat' split
  all_goals simp only [State.raise_wipe, engines]
theorem answerB_wipe (s : State) (src : MemSrc) (resp : Nat) (data : BitVec 512) (k : Nat) : (answerB s src resp data).wipe k = s.wipe k := by
  unfold answerB
  dsimp only
  split <;> rfl
theorem answerWrite_wipe (s : State) (p line resp : Nat) (src : MemSrc) (k : Nat) : (answerWrite s p line resp src).wipe k = s.wipe k := by
  have links (u : State) (c : Nat) (x : Bdma) : (u.onLnk fun l => l.setBdma c x).wipe k = u.wipe k := rfl
  have fabric (u : State) (g : Fabric → Fabric) : (u.onFab g).wipe k = u.wipe k := rfl
  cases src <;> simp only [answerWrite, apply_ite (State.wipe · k), fabric, links, writeBackResp_wipe, answerB_wipe, ite_self]
theorem answerAll_wipe (s : State) (p line resp : Nat) (l : List MemSrc) (k : Nat) : (answerAll s p line resp l).wipe k = s.wipe k :=
  foldl_leaves (State.wipe · k) (fun u x => answerWrite_wipe u p line resp x k) l s

/-- One region loses its keys, and its held writes are answered. -/
def dropOneRegion (s : State) (e : Nat × Region) : State :=
  let p := e.1 / 32
  let r := e.1 % 32
  let g := s.stk.region p r
  g.heldWrites.foldl (fun s w => answerAll s p w.line respProtected w.waiters) (s.onStk fun k => k.setRegion p r g.dropKeys)
theorem dropRegionKeys_eq (s : State) : dropRegionKeys s = s.stk.regions.foldl dropOneRegion s := rfl
theorem dropOneRegion_wipe (s : State) (e : Nat × Region) (k : Nat) :
    (dropOneRegion s e).wipe k = (s.onStk fun j => j.setRegion (e.1 / 32) (e.1 % 32) (s.stk.region (e.1 / 32) (e.1 % 32)).dropKeys).wipe k := by
  unfold dropOneRegion
  exact foldl_leaves (State.wipe · k) (fun u w => answerAll_wipe u _ _ _ _ k) _ _
theorem dropOneRegion_region (s : State) (e : Nat × Region) (p r : Nat) :
    (dropOneRegion s e).stk.region p r = if e.1 = 32 * p + r then (s.stk.region p r).dropKeys else s.stk.region p r := by
  have same : (dropOneRegion s e).stk.regions = _ := congrArg WipeView.regions (dropOneRegion_wipe s e 0)
  have split_key : 32 * (e.1 / 32) + e.1 % 32 = e.1 := Nat.div_add_mod ..
  unfold Stack.region
  rw [same]
  change (s.stk.setRegion (e.1 / 32) (e.1 % 32) (s.stk.region (e.1 / 32) (e.1 % 32)).dropKeys).region p r = _
  rw [Stack.setRegion_region, split_key]
  by_cases here : e.1 = 32 * p + r
  · rw [if_pos here, if_pos here.symm]
    unfold Stack.region
    rw [split_key, here]
  · rw [if_neg here, if_neg (Ne.symm here)]
    rfl
/-- Folding over listed regions: a region that is listed, or was without keys, ends without them, and sealing stays. -/
theorem dropRegions_region (l : List (Nat × Region)) (s : State) (p r : Nat) :
    ((l.foldl dropOneRegion s).stk.region p r).isSealed = (s.stk.region p r).isSealed ∧
      ((32 * p + r ∈ l.map Prod.fst ∨ (s.stk.region p r).key0 = none ∧ (s.stk.region p r).key1 = none) →
        ((l.foldl dropOneRegion s).stk.region p r).key0 = none ∧ ((l.foldl dropOneRegion s).stk.region p r).key1 = none) := by
  induction l generalizing s with
  | nil => simp
  | cons e l ih =>
    obtain ⟨kept, lost⟩ := ih (dropOneRegion s e)
    rw [List.foldl_cons, List.map_cons, List.mem_cons]
    rw [dropOneRegion_region] at kept lost
    by_cases here : e.1 = 32 * p + r
    · rw [if_pos here] at kept lost
      exact ⟨kept, fun _ => lost (.inr ⟨rfl, rfl⟩)⟩
    · rw [if_neg here] at kept lost
      exact ⟨kept, fun named => lost (named.imp_left fun m => m.resolve_left (Ne.symm here))⟩
theorem tget_of_not_mem {α : Type} (d : α) {t : List (Nat × α)} {k : Nat} (absent : k ∉ t.map Prod.fst) : tget d t k = d := by
  induction t with
  | nil => rfl
  | cons e t ih =>
    rw [List.map_cons, List.mem_cons, not_or] at absent
    rw [tget_cons, if_neg (Ne.symm absent.1), ih absent.2]
theorem dropRegionKeys_region (s : State) (p r : Nat) :
    ((dropRegionKeys s).stk.region p r).key0 = none ∧ ((dropRegionKeys s).stk.region p r).key1 = none ∧ ((dropRegionKeys s).stk.region p r).isSealed = (s.stk.region p r).isSealed := by
  obtain ⟨kept, lost⟩ := dropRegions_region s.stk.regions s p r
  have keyless : 32 * p + r ∈ s.stk.regions.map Prod.fst ∨ (s.stk.region p r).key0 = none ∧ (s.stk.region p r).key1 = none := by
    by_cases listed : 32 * p + r ∈ s.stk.regions.map Prod.fst
    · exact .inl listed
    · refine .inr ?_
      unfold Stack.region
      rw [tget_of_not_mem _ listed]
      exact ⟨rfl, rfl⟩
  rw [dropRegionKeys_eq]
  exact ⟨(lost keyless).1, (lost keyless).2, kept⟩
/-- Dropping the region keys leaves the seats' parts, the ports, the scratchpad, the AON domain and housekeeping. -/
theorem dropRegionKeys_wipe (s : State) (k : Nat) :
    ((dropRegionKeys s).seat k).wipeView = (s.seat k).wipeView ∧ (dropRegionKeys s).lnk.ports = s.lnk.ports ∧ (dropRegionKeys s).net.scr = s.net.scr ∧ (dropRegionKeys s).sequencer = s.sequencer := by
  have one (u : State) (e : Nat × Region) : { (dropOneRegion u e).wipe k with regions := [] } = { u.wipe k with regions := [] } := by
    rw [dropOneRegion_wipe]
    rfl
  have all := foldl_leaves (fun u => { u.wipe k with regions := [] }) one s.stk.regions s
  rw [← dropRegionKeys_eq] at all
  rw [WipeView.mk.injEq] at all
  obtain ⟨seat, -, ports, scr, sequencer⟩ := all
  exact ⟨seat, ports, scr, sequencer⟩

theorem endStream_parts (s : State) (j : Nat) : ∃ f x, endStream s j = { s with fab := f, seats := x } := by
  unfold endStream
  dsimp only
  repeat' split
  all_goals exact ⟨_, _, rfl⟩
theorem endSession_parts (s : State) (j : Nat) : ∃ f x, endSession s j = { s with fab := f, seats := x } := by
  obtain ⟨u, e, rfl | rfl⟩ := endSeg_eq s j
  · obtain ⟨f, x, same⟩ := endStream_parts s j
    rw [endSession, e, same]
    exact ⟨f, _, rfl⟩
  · rw [endSession, e]
    exact ⟨u.fab, _, rfl⟩
theorem endSessions_parts (l : List Nat) (s : State) : ∃ f x, l.foldl endSession s = { s with fab := f, seats := x } := by
  induction l generalizing s with
  | nil => exact ⟨_, _, rfl⟩
  | cons j l ih =>
    obtain ⟨f, x, one⟩ := endSession_parts s j
    obtain ⟨g, y, rest⟩ := ih (endSession s j)
    exact ⟨g, y, by rw [List.foldl_cons, rest, one]⟩
theorem dropHeldWrites_parts (s : State) : ∃ x, dropHeldWrites s = { s with seats := x, mc := { s.mc with heldWrites := [] } } := by
  have dropped (l : List Req) (u : State) : ∃ x, l.foldl (fun s r => s.onSeat r.seat.val fun x => { x with running := none }) u = { u with seats := x } := by
    induction l generalizing u with
    | nil => exact ⟨_, rfl⟩
    | cons r l ih =>
      obtain ⟨x, rest⟩ := ih (u.onSeat r.seat.val fun x => { x with running := none })
      exact ⟨x, by rw [List.foldl_cons, rest]; rfl⟩
  exact dropped ..
theorem dropHeldWrites_credX (s : State) (k : Nat) : ((dropHeldWrites s).seat k).credX = (s.seat k).credX := by
  unfold dropHeldWrites
  refine foldl_leaves (fun u : State => (u.seat k).credX) (fun u r => ?_) _ _
  rw [State.onSeat_seat]
  split
  next mine => rw [mine]
  next => rfl
theorem abortTest_parts (s : State) (cause : Nat) : ∃ b, abortTest s cause = s.onMc fun m => { m with bist := b } := by
  unfold abortTest
  split
  · exact ⟨_, rfl⟩
  · exact ⟨s.mc.bist, rfl⟩

/-- A seat after the wipe of its sessions and secrets. -/
def SeatRec.wiped (x : SeatRec) : SeatRec := { x.dropTurns with sms := none, smr := none }
/-- The state of a wipe before the stack is looked at. -/
@[irreducible] def State.wipedAon (s : State) : State :=
  let u := (List.range 8).foldl endSession (dropHeldWrites s)
  let u := { u with seats := (u.seats.map fun (e : Nat × SeatRec) => (e.1, e.2.wiped)).filter fun e => e.2 != ({} : SeatRec) }
  abortTest ((u.onNv fun n => { n with smsCopy := [] }).onMc fun m => { m with window := false }) 7
/-- The stack's part of a wipe, before the region keys. -/
def State.wipedPorts (s : State) : State :=
  (s.onNet fun n => n.onScr Scratch.fillSecure).onLnk fun l => { l with ports := (l.ports.map fun (e : Nat × Port) => (e.1, e.2.clearKeys)).filter fun e => e.2 != ({} : Port) }
theorem lifeWipe_eq (s : State) : lifeWipe s = if !s.wipedAon.stackHeld then s.wipedAon else dropRegionKeys s.wipedAon.wipedPorts := by
  unfold State.wipedAon
  rfl

theorem State.wipedAon_parts (s : State) : ∃ f x m, s.wipedAon = { s with fab := f, seats := x, mc := m, nv := { s.nv with smsCopy := [] } } ∧ m.hk = s.mc.hk := by
  obtain ⟨y, dropped⟩ := dropHeldWrites_parts s
  obtain ⟨f, x, ended⟩ := endSessions_parts (List.range 8) (dropHeldWrites s)
  unfold wipedAon
  obtain ⟨b, e⟩ := abortTest_parts _ 7
  dsimp only
  rw [e, ended, dropped]
  exact ⟨_, _, _, rfl, rfl⟩
theorem State.wipedAon_stackHeld (s : State) : s.wipedAon.stackHeld = s.stackHeld := by
  obtain ⟨f, x, m, e, -⟩ := s.wipedAon_parts
  rw [e]
  rfl
theorem State.wipedAon_seat {s : State} {k : Nat} (low : k < 8) :
    (s.wipedAon.seat k).isOpen = false ∧ (s.wipedAon.seat k).staged = [] ∧ (s.wipedAon.seat k).turn = none ∧ (s.wipedAon.seat k).sms = none ∧ (s.wipedAon.seat k).smr = none ∧
      (s.wipedAon.seat k).credX = (s.seat k).credX := by
  obtain ⟨closed, cred, one⟩ := endSessions_seat (List.range 8) (dropHeldWrites s) k
  generalize ended : (List.range 8).foldl endSession (dropHeldWrites s) = u at closed cred one
  have read : s.wipedAon.seat k = (u.seat k).wiped := by
    have default : SeatRec.wiped {} = {} := rfl
    have mapped := tget_map {} SeatRec.wiped u.seats k
    rw [default] at mapped
    refine Eq.trans ?_ mapped
    refine Eq.trans ?_ (tget_filter_sole {} ((sole_map SeatRec.wiped).2 (one (.inl (List.mem_range.2 low)))))
    unfold wipedAon
    obtain ⟨b, e⟩ := abortTest_parts _ 7
    dsimp only
    rw [e, ended]
    rfl
  rw [read]
  simp only [List.mem_range, low, not_true, decide_false, Bool.false_and] at closed
  exact ⟨closed, rfl, rfl, rfl, rfl, cred.trans (dropHeldWrites_credX s k)⟩
theorem clearKeys_lk0 (l : List (Nat × Port)) (n : Nat) :
    (tget ({} : Port) ((l.map fun (e : Nat × Port) => (e.1, e.2.clearKeys)).filter fun e => e.2 != ({} : Port)) n).lk0 = none := by
  refine tget_of_forall (P := fun x : Port => x.lk0 = none) rfl (fun e m => ?_) n
  obtain ⟨x, -, rfl⟩ := List.mem_map.1 (List.mem_filter.1 m).1
  rfl
@[simp] theorem State.wipedPorts_nv (s : State) : s.wipedPorts.nv = s.nv := rfl
@[simp] theorem State.wipedPorts_seat (s : State) (k : Nat) : s.wipedPorts.seat k = s.seat k := rfl
@[simp] theorem State.wipedPorts_stk (s : State) : s.wipedPorts.stk = s.stk := rfl
@[simp] theorem State.wipedPorts_sequencer (s : State) : s.wipedPorts.sequencer = s.sequencer := rfl
theorem State.wipedPorts_lk0 (s : State) (n : Nat) : (tget ({} : Port) s.wipedPorts.lnk.ports n).lk0 = none := clearKeys_lk0 ..
theorem State.wipedPorts_secFilling (s : State) : s.wipedPorts.net.scr.secFilling = true := rfl
theorem State.wipedAon_nv (s : State) : s.wipedAon.nv = { s.nv with smsCopy := [] } := by
  obtain ⟨f, x, m, e, -⟩ := s.wipedAon_parts
  rw [e]
theorem State.wipedAon_stk (s : State) : s.wipedAon.stk = s.stk := by
  obtain ⟨f, x, m, e, -⟩ := s.wipedAon_parts
  rw [e]
theorem State.wipedAon_sequencer (s : State) : s.wipedAon.sequencer = s.sequencer := by
  obtain ⟨f, x, m, e, hk⟩ := s.wipedAon_parts
  rw [e]
  exact congrArg (fun h => (({ s.aon with free := 0 }, h) : Aon × Hk)) hk
theorem lifeWipe_nv (s : State) : (lifeWipe s).nv = { s.nv with smsCopy := [] } := by
  rw [lifeWipe_eq]
  split
  · exact s.wipedAon_nv
  · rw [dropRegionKeys_nv, State.wipedPorts_nv, s.wipedAon_nv]
theorem lifeWipe_sequencer (s : State) : (lifeWipe s).sequencer = s.sequencer := by
  rw [lifeWipe_eq]
  split
  · exact s.wipedAon_sequencer
  · rw [(dropRegionKeys_wipe _ 0).2.2.2, State.wipedPorts_sequencer, s.wipedAon_sequencer]
theorem State.mode_of_sequencer {s t : State} (same : t.sequencer = s.sequencer) : t.aon.mode = s.aon.mode := congrArg (fun v => v.1.mode) same
theorem lifeWipe_mode (s : State) : (lifeWipe s).aon.mode = s.aon.mode := State.mode_of_sequencer (lifeWipe_sequencer s)
theorem lifeWipe_wipeView (s : State) (k : Nat) : ((lifeWipe s).seat k).wipeView = (s.wipedAon.seat k).wipeView := by
  rw [lifeWipe_eq]
  split
  · rfl
  · exact (dropRegionKeys_wipe _ k).1
/-- What a life-cycle wipe leaves. -/
theorem lifeWipe_wiped (s : State) : lifeWiped s (lifeWipe s) := by
  refine ⟨fun k low => ?_, by rw [lifeWipe_nv], by rw [lifeWipe_nv], by rw [lifeWipe_nv], lifeWipe_mode s, fun held => ?_⟩
  · have kept := lifeWipe_wipeView s k
    simp only [SeatRec.wipeView, Prod.ext_iff] at kept
    obtain ⟨isOpen, staged, turn, sms, smr, cred⟩ := kept
    rw [isOpen, staged, turn, sms, smr, cred]
    exact s.wipedAon_seat low
  · rw [lifeWipe_eq, State.wipedAon_stackHeld, held, Bool.not_true, if_neg Bool.false_ne_true]
    refine ⟨fun p r => ?_, fun n => ?_, ?_⟩
    · obtain ⟨key0, key1, isSealed⟩ := dropRegionKeys_region s.wipedAon.wipedPorts p r
      exact ⟨key0, key1, isSealed.trans (by rw [State.wipedPorts_stk, State.wipedAon_stk])⟩
    · unfold Links.port
      rw [(dropRegionKeys_wipe _ 0).2.1, State.wipedPorts_lk0]
    · rw [(dropRegionKeys_wipe _ 0).2.2.1, State.wipedPorts_secFilling]

/-! ## Life-cycle transitions -/

/-- A transition that is due and that the state allows burns its token and wipes. -/
theorem transition_of_due {s : State} {kind : Nat} {burn : Token → Nv → Nv} {tok : Token} {rest : List Order} (up : s.mcUp = true)
    (due : takeLife kind s.mc.orders = some (tok, rest)) (allowed : s.nv.life.allows kind = true) :
    transition s kind burn = lifeWipe { s with nv := burn tok { s.nv with lcPending := false }, mc := { s.mc with orders := rest } } := by
  have still : ((s.onMc fun m => { m with orders := rest }).onNv fun n => { n with lcPending := false }).mcUp = true := up
  have allows : ((s.onMc fun m => { m with orders := rest }).onNv fun n => { n with lcPending := false }).nv.life.allows kind = true := allowed
  unfold transition
  rw [due]
  dsimp only
  rw [still, allows, Bool.and_self, if_pos rfl]
  rfl
/-- A wipe is that of the state before the token, when the burn keeps the map and the ledger. -/
theorem lifeWiped_of_burn {s t : State} {n : Nv} {m : Mc} (map : n.map = s.nv.map) (wear : n.wearSaved = s.nv.wearSaved)
    (wiped : lifeWiped { s with nv := n, mc := m } t) : lifeWiped s t := by
  obtain ⟨seats, copies, maps, wears, mode, stack⟩ := wiped
  exact ⟨seats, copies, maps.trans map, wears.trans wear, mode, stack⟩
theorem Nv.lcDecom_of_life {n : Nv} (live : n.life ≠ .decommissioned) : n.lcDecom = false := by
  unfold Nv.life at live
  cases gone : n.lcDecom
  · rfl
  · rw [gone, if_pos rfl] at live
    exact absurd rfl live
theorem Nv.lcOwn_of_life {n : Nv} (owned : n.life = .owned ∨ n.life = .service) : n.lcOwn = true := by
  have alive : n.lcDecom = false := Nv.lcDecom_of_life (by rintro gone; simp [gone] at owned)
  unfold Nv.life at owned
  rw [alive] at owned
  cases own : n.lcOwn
  · rw [own] at owned
    cases mfg : n.lcMfg <;> simp [mfg] at owned
  · rfl
/-- The life of an owned device, by the parity of SVC_COUNT. -/
theorem Nv.life_of_owned {n : Nv} (alive : n.lcDecom = false) (own : n.lcOwn = true) : n.life = if n.svcCount % 2 = 1 then .service else .owned := by
  simp [Nv.life, alive, own]

/-- Settles O17: each token is allowed in its state, burns its bits and is followed by the wipe. -/
theorem lifeCycleTransitions : Obligations.LifeCycleTransitions := by
  intro s tok rest up
  refine ⟨fun due made => ?_, fun due owned room => ?_, fun due served room => ?_⟩
  · refine ⟨_, rfl, ?_⟩
    rw [transition_of_due up due (by simp [made, Life.allows])]
    refine ⟨?_, ?_⟩
    · refine lifeWiped_of_burn ?_ ?_ (lifeWipe_wiped _) <;> rfl
    rw [lifeWipe_nv]
    exact ⟨rfl, rfl, rfl, rfl, rfl, rfl, rfl, rfl⟩
  · have own := Nv.lcOwn_of_life (.inl owned)
    have alive : s.nv.lcDecom = false := Nv.lcDecom_of_life (by simp [owned])
    have even : ¬ s.nv.svcCount % 2 = 1 := fun odd => by
      rw [Nv.life_of_owned alive own, if_pos odd] at owned
      cases owned
    refine ⟨_, rfl, ?_⟩
    rw [transition_of_due up due (by simp [owned, Life.allows])]
    refine ⟨?_, ?_⟩
    · refine lifeWiped_of_burn ?_ ?_ (lifeWipe_wiped _) <;> rfl
    rw [lifeWipe_nv]
    have count : min 64 (s.nv.svcCount + 1) = s.nv.svcCount + 1 := by omega
    refine ⟨count, (Nv.life_of_owned ?_ ?_).trans (if_pos ?_)⟩
    · exact alive
    · exact own
    · dsimp only
      omega
  · have own := Nv.lcOwn_of_life (.inr served)
    have alive : s.nv.lcDecom = false := Nv.lcDecom_of_life (by simp [served])
    have odd : s.nv.svcCount % 2 = 1 := by
      by_contra even
      rw [Nv.life_of_owned alive own, if_neg even] at served
      cases served
    refine ⟨_, rfl, ?_⟩
    rw [transition_of_due up due (by simp [served, Life.allows])]
    refine ⟨?_, ?_⟩
    · refine lifeWiped_of_burn ?_ ?_ (lifeWipe_wiped _) <;> rfl
    rw [lifeWipe_nv]
    have count : min 64 (s.nv.svcCount + 1) = s.nv.svcCount + 1 := by omega
    refine ⟨count, (Nv.life_of_owned ?_ ?_).trans (if_neg ?_)⟩
    · exact alive
    · exact own
    · dsimp only
      omega

theorem zeroise_stackHeld (s : State) : (zeroise s).stackHeld = false := by
  rw [zeroise_eq]
  simp [State.stackHeld, State.stackOn]

/-- Settles O18: the transition burns LC_DECOM, and zeroisation follows. -/
theorem decommissionRetires : Obligations.DecommissionRetires := by
  intro s tok rest up due lives
  have alive : s.nv.lcDecom = false := Nv.lcDecom_of_life fun gone => by simp [gone] at lives
  have allowed : s.nv.life.allows 4 = true := by
    rcases lives with life | life | life <;> rw [life] <;> rfl
  have burnt : (transition s 4 fun _ n => { n with lcDecom := true }).nv.lcDecom = true := by rw [transition_of_due up due allowed, lifeWipe_nv]
  generalize retired : (transition s 4 fun _ n => { n with lcDecom := true }) = u at burnt
  have runs : exec .decommission s = .next (zeroise u) := by
    change execDecommission s = _
    unfold execDecommission
    dsimp only
    rw [retired, burnt, alive]
    rfl
  refine ⟨_, runs, ?_, rfl, zeroise_stackHeld u, ?_, fun k => ?_⟩
  · rw [zeroise_nv]
    split <;> simp [Nv.life, burnt]
  · rw [zeroise_nv]
    split <;> rfl
  · obtain ⟨closed, secret, -, staged, turn⟩ := zeroise_seat_idle u k
    exact ⟨closed, secret, staged, turn⟩

end Sys2Proof.Machine
end

section
/-! PROOF. Housekeeping, Limp, Test and Retention (R303, R535-R542, R588-R611); a die reset that ends a session. -/

namespace Sys2Proof.Machine

/-! ## Housekeeping: ledger, banks, refresh, the frame, current limits -/

theorem exec_wearLedgerSave {s : State} (up : s.aon.powered = true) (due : s.mc.hk.ledgerDue = true) :
    exec .wearLedgerSave s = .next { s with nv := { s.nv with wearSaved := s.mc.hk.wear }, mc := { s.mc with hk := { s.mc.hk with ledgerDue := false } } } := by
  simp [exec, execWearLedgerSave, up, due]
  rfl
theorem exec_ioNominalVoltageFix {s : State} (b : Fin 32) (up : s.aon.powered = true) (unfixed : (s.fab.bank b.val).nominal = 0) (rounds : 4 ≤ (s.fab.bank b.val).candRounds) :
    exec (.ioNominalVoltageFix b) s = .next (s.onFab fun f => f.setBank b.val { f.bank b.val with nominal := (f.bank b.val).cand, outRounds := 0 }) := by
  simp [exec, execIoNominalVoltageFix, up, unfixed, rounds]
  rfl

/-- A memory die's four sensors. -/
theorem dieSensors_memory (die : Fin 5) : dieSensors (4 + die.val) = (List.range 4).map (44 + 4 * die.val + ·) := by
  fin_cases die <;> rfl
/-- The refresh interval of a memory die, with c the draw for a die with a failed sensor and none above 85 °C. -/
def refreshMs (l : List (Option Int)) (c : Bool) : Nat :=
  if l.any (fun t => match t with | some x => decide (21760 < x) | none => false) then 32 else if l.all Option.isSome then 64 else if c then 64 else 32
theorem exec_memRefresh {s : State} (on : s.stackOn = true) (die : Fin 5) : exec (.memRefresh die) s = .next ((s.onStk fun k => { k with
    refresh := tput 0 k.refresh die.val (refreshMs ((dieSensors (4 + die.val)).map (tget none s.mc.hk.frameTemps)) (decide (Config.freeNat s.aon.free % 2 = 0))) }).drawn) := by
  simp [exec, execMemRefresh, on, refreshMs] <;> rfl
theorem refreshMs_hot {l : List (Option Int)} {x : Int} (listed : some x ∈ l) (hot : 21760 < x) (c : Bool) : refreshMs l c = 32 := by
  refine if_pos (List.any_eq_true.2 ⟨_, listed, ?_⟩)
  exact decide_eq_true hot
theorem refreshMs_cool {l : List (Option Int)} (cool : ∀ t ∈ l, ∃ x, t = some x ∧ x ≤ 21760) (c : Bool) : refreshMs l c = 64 := by
  have none_hot : ¬ (l.any fun t => match t with | some x => decide (21760 < x) | none => false) = true := fun any => by
    obtain ⟨t, listed, hot⟩ := List.any_eq_true.1 any
    obtain ⟨x, rfl, low⟩ := cool t listed
    exact absurd (of_decide_eq_true hot) (by omega)
  have read : l.all Option.isSome = true := List.all_eq_true.2 fun t listed => by
    obtain ⟨x, rfl, -⟩ := cool t listed
    rfl
  rw [refreshMs, if_neg none_hot, if_pos read]

/-- Settles O21: each is its execution equation; a die's interval follows from the readings of its four sensors. -/
theorem ledgerBanksAndRefresh : Obligations.LedgerBanksAndRefresh := by
  refine fun s => ⟨exec_wearLedgerSave, fun b up unfixed rounds => ⟨_, exec_ioNominalVoltageFix b up unfixed rounds, rfl, ?_, fun c other => ?_⟩, fun die on => ?_⟩
  · exact (Fabric.setBank_bank ..).trans (if_pos rfl)
  · exact (Fabric.setBank_bank ..).trans (if_neg other)
  · refine ⟨_, exec_memRefresh on die, rfl, fun ⟨q, low, x, reads, hot⟩ => ?_, fun cool => ?_⟩
    · refine (tget_tput ..).trans ((if_pos rfl).trans (refreshMs_hot (x := x) ?_ hot _))
      rw [dieSensors_memory, List.map_map]
      exact List.mem_map.2 ⟨q, List.mem_range.2 low, reads⟩
    · refine (tget_tput ..).trans ((if_pos rfl).trans (refreshMs_cool (fun t listed => ?_) _))
      rw [dieSensors_memory, List.map_map] at listed
      obtain ⟨q, low, rfl⟩ := List.mem_map.1 listed
      exact cool q (List.mem_range.1 low)

/-- The readings of a frame. -/
def State.framed (s : State) (counts : List Nat) : List (Nat × Option Int) :=
  (List.range 64).foldl (fun l k => tput none l k (if k < 16 || s.stackHeld then reading (s.nv.fuse k) (counts.getD k 0) else none)) []
theorem exec_tempFrame {s : State} (up : s.mcUp = true) (counts : List Nat) :
    exec (.tempFrame counts) s = match frameCause (s.framed counts) s.stackHeld with
      | some c => if s.stackHeld || s.aon.mode = some .fallow then .next (shutdown (s.onHk fun h => { h with frameTemps := s.framed counts }) c.1 c.2)
        else .next (s.onHk fun h => { h with frameTemps := s.framed counts })
      | none => .next (s.onHk fun h => { h with frameTemps := s.framed counts }) := by
  simp only [exec, execTempFrame, up, Bool.not_true, Bool.false_eq_true, if_false]
  rfl
/-- A reading at or above 115 °C is a cause. -/
theorem frameCause_of_hot {temps : List (Nat × Option Int)} {k : Nat} {x : Int} (low : k < 64) (reads : tget none temps k = some x) (hot : 29440 ≤ x) (on : Bool) :
    ∃ c, frameCause temps on = some c := by
  have listed : x ∈ (List.range 64).filterMap (tget none temps) := List.mem_filterMap.2 ⟨k, List.mem_range.2 low, reads⟩
  have most := hottestOf_map_snd temps (List.range 64)
  unfold frameCause
  cases max : hottestOf temps (List.range 64) with
  | none =>
    rw [max, Option.map_none, eq_comm, List.max?_eq_none_iff] at most
    rw [most] at listed
    cases listed
  | some m =>
    rw [max, Option.map_some, eq_comm, List.max?_eq_some_iff] at most
    have high : hotLevel ≤ m.2 := le_trans hot (most.2 x listed)
    exact ⟨_, if_pos high⟩
theorem shutdown_latch (s : State) (cause detail : Nat) : (shutdown s cause detail).aon.thermalLatch = true := by
  obtain ⟨g, l, -, e⟩ := shutdown_eq s cause detail
  rw [e]
  rfl
/-- The shutdown sequence ends in Fallow when it starts there or with the stack powered. -/
theorem shutdown_mode {s : State} (from_ : s.stackHeld = true ∨ s.aon.mode = some .fallow) (cause detail : Nat) : (shutdown s cause detail).aon.mode = some .fallow := by
  obtain ⟨g, l, -, e⟩ := shutdown_eq s cause detail
  rw [e]
  change s.stackDown.aon.mode = _
  unfold State.stackDown
  split
  · exact powerDown_mode _
  next down => exact from_.resolve_left down
theorem shutdown_frameTemps (s : State) (cause detail : Nat) : (shutdown s cause detail).mc.hk.frameTemps = s.mc.hk.frameTemps := by
  obtain ⟨g, l, which, e⟩ := shutdown_eq s cause detail
  have down : s.stackDown.mc.hk.frameTemps = s.mc.hk.frameTemps := by
    unfold State.stackDown
    split
    · have before : (dropHeldFill (dropHeldWrites (discardDue s fun _ => true))).sequencer = s.sequencer := by
        rw [dropHeldFill_sequencer, dropHeldWrites_sequencer, discardDue_sequencer]
      exact congrArg (fun v => v.2.frameTemps) before
    · rfl
  rw [e]
  rcases which with rfl | rfl <;> exact down

/-- Settles O22: the hottest reading of the frame is the cause of the shutdown. -/
theorem hotFrameShutsDown : Obligations.HotFrameShutsDown := by
  intro counts s up temps
  have runs := exec_tempFrame up counts
  change _ = match frameCause temps s.stackHeld with | some c => _ | none => _ at runs
  refine ⟨fun none => ?_, fun ⟨k, low, x, reads, hot⟩ from_ => ?_⟩
  · rw [none] at runs
    exact runs
  · obtain ⟨c, cause⟩ := frameCause_of_hot low reads hot s.stackHeld
    have acts : (s.stackHeld || decide (s.aon.mode = some .fallow)) = true := by simpa using from_
    rw [cause] at runs
    refine ⟨_, runs.trans (if_pos acts), shutdown_mode ?_ .., shutdown_latch .., shutdown_stackHeld .., shutdown_frameTemps ..⟩
    exact from_

theorem exec_currentLimitSkip {s : State} {rail : Fin 5} (held : s.stackHeld = true) (regulates : (s.mc.hk.rail rail.val).state = 2 ∨ (s.mc.hk.rail rail.val).state = 4) (ma : Nat) :
    let r := (s.mc.hk.rail rail.val).microsecond (railLimit rail.val (s.mc.hk.rail rail.val).step) ma
    let u := s.onHk fun h => h.setRail rail.val r
    exec (.currentLimitSkip rail ma) s = .next (if 1000 ≤ r.overUs then shutdown u (64 + rail.val) ma else u) := by
  have within : inRange 2 4 (s.mc.hk.rail rail.val).state = true := by rcases regulates with e | e <;> rw [e] <;> rfl
  simp [exec, execCurrentLimitSkip, held, within]
theorem Rail.microsecond_over {r : Rail} {limit ma : Nat} (above : limit < ma) (room : r.skip < 15) (on : r.state = 2 ∨ r.state = 4) :
    r.microsecond limit ma = { r with ma := ma, skip := r.skip + 1, overUs := 0, state := 4 } := by
  have least : r.skip ≠ 15 := by omega
  have still : r.state ≠ 3 := by omega
  simp [microsecond, above, least, still]
theorem Rail.microsecond_last {r : Rail} {limit ma : Nat} (above : limit < ma) (full : r.skip = 15) (on : r.state = 2 ∨ r.state = 4) :
    r.microsecond limit ma = { r with ma := ma, overUs := r.overUs + 1, state := 4 } := by
  have still : r.state ≠ 3 := by omega
  simp [microsecond, above, full, still]
theorem Rail.microsecond_under {r : Rail} {limit ma : Nat} (under : 100 * ma < 95 * limit) :
    (r.microsecond limit ma).skip = r.skip - 1 ∧ (r.microsecond limit ma).overUs = 0 := by
  have below : ¬limit < ma := by omega
  unfold microsecond
  simp only [below, under, if_true, if_false]
  split <;> exact ⟨rfl, rfl⟩
/-- The shutdown of a rail's limit shows that rail's fault. -/
theorem shutdown_rail (s : State) {k : Nat} (low : k < 5) (detail : Nat) : ((shutdown s (64 + k) detail).mc.hk.rail k).state = 5 := by
  have within : inRange 64 68 (64 + k) = true := by simp [inRange]; omega
  unfold shutdown
  dsimp only
  rw [if_pos within]
  change (Hk.rail (Hk.setRail _ (64 + k - 64) _) k).state = 5
  rw [Hk.setRail_rail, if_pos (by omega)]

/-- Settles O23: the three outcomes of one microsecond of the clock controller. -/
theorem currentLimitSkipsEdges : Obligations.CurrentLimitSkipsEdges := by
  intro rail ma s held regulates r limit
  have runs := exec_currentLimitSkip held regulates ma
  dsimp only at runs
  have others (v : Rail) : ∀ k, k ≠ rail.val → (s.mc.hk.setRail rail.val v).rail k = s.mc.hk.rail k := fun k other => (Hk.setRail_rail ..).trans (if_neg other)
  have own (v : Rail) : (s.mc.hk.setRail rail.val v).rail rail.val = v := (Hk.setRail_rail ..).trans (if_pos rfl)
  refine ⟨fun above room => ?_, fun under => ?_, fun above full last => ?_⟩
  · rw [Rail.microsecond_over above room regulates] at runs
    refine ⟨_, runs.trans (congrArg _ (if_neg (by simp))), rfl, ?_, ?_, others _⟩
    · exact congrArg Rail.skip (own _)
    · exact congrArg Rail.state (own _)
  · obtain ⟨skip, none⟩ := Rail.microsecond_under (r := r) under
    refine ⟨_, runs.trans (congrArg _ (if_neg ?_)), rfl, ?_, others _⟩
    · rw [none]
      decide
    · exact (congrArg Rail.skip (own _)).trans skip
  · rw [Rail.microsecond_last above full regulates, last] at runs
    refine ⟨_, runs.trans (congrArg _ (if_pos (by simp))), shutdown_mode (.inl ?_) .., shutdown_stackHeld .., shutdown_latch .., shutdown_rail _ rail.isLt _⟩
    exact held

/-! ## Limp and Test -/

/-- What a relation that composes says of a step, it says of a fold of steps. -/
theorem foldl_related {α σ : Type} {r : σ → σ → Prop} (refl : ∀ s, r s s) (trans : ∀ {s t u}, r s t → r t u → r s u) {g : σ → α → σ} (one : ∀ s a, r s (g s a))
    (l : List α) (s : σ) : r s (l.foldl g s) := by
  induction l generalizing s with
  | nil => exact refl s
  | cons a l ih => exact trans (one s a) (ih (g s a))

/-- Only the fabric and the draw counter differ. -/
def State.fabricOnly (s t : State) : Prop := t = { s with fab := t.fab, aon := { s.aon with free := t.aon.free } }
theorem State.fabricOnly_trans {s t u : State} (first : s.fabricOnly t) (second : t.fabricOnly u) : s.fabricOnly u := by
  unfold fabricOnly at first second
  refine second.trans ?_
  rw [first]
theorem State.passSome_fabricOnly (s : State) (p : Nat) : s.fabricOnly (s.passSome p) := by
  unfold fabricOnly passSome
  dsimp only
  split
  · rw [State.drawn, (State.passEdges_keeps ..).1]
    rfl
  · rfl
theorem State.passSome_foldl_fabricOnly (l : List Nat) (s : State) : s.fabricOnly (l.foldl State.passSome s) :=
  foldl_related (r := State.fabricOnly) (fun _ => rfl) State.fabricOnly_trans State.passSome_fabricOnly l s
theorem Engines.regate_threads (e : Engines) (p : Nat) : (e.regate p).threads = e.threads := by
  unfold regate
  dsimp only
  split <;> rfl
theorem Engines.regate_foldl_threads (l : List Nat) (e : Engines) : (l.foldl (fun e p => e.regate p) e).threads = e.threads :=
  foldl_leaves Engines.threads (fun e p => e.regate_threads p) l e

/-- A thread at the entry to Limp. -/
def Thread.hold (t : Thread) : Thread :=
  if !t.ess && (t.state = .running || t.state = .waiting) then { t.discardInFlight with state := .held, heldState := t.state } else t
theorem Thread.hold_ess {t : Thread} (marked : t.ess = true) : t.hold = t := by simp [hold, marked]
theorem Thread.hold_unmarked {t : Thread} (unmarked : t.ess = false) (active : t.state = .running ∨ t.state = .waiting) :
    t.hold = { t.discardInFlight with state := .held, heldState := t.state } := by
  rcases active with e | e <;> simp [hold, unmarked, e]
/-- Entering Limp holds threads and leaves the mode and the orders as said. -/
theorem enterLimp_held (s : State) : (enterLimp s).aon.mode = some .limp ∧ (enterLimp s).mc.hk.limpArmed = false ∧ (enterLimp s).mc.orders = s.mc.orders ∧
    ∀ p h, (enterLimp s).eng.thread p h = (s.eng.thread p h).hold := by
  obtain ⟨b, aborted⟩ := abortTest_parts s 4
  unfold enterLimp
  dsimp only
  rw [aborted]
  generalize List.filter _ _ = ps
  have passed := State.passSome_foldl_fabricOnly ps (s.onMc fun m => { m with bist := b })
  generalize ps.foldl State.passSome _ = u at passed
  refine ⟨rfl, rfl, ?_, fun p h => ?_⟩
  · change u.mc.orders = _
    rw [passed]
    rfl
  · have threads : u.eng.threads = s.eng.threads := by
      rw [passed]
      rfl
    have default : Thread.hold {} = {} := rfl
    have mapped := tget_map {} Thread.hold s.eng.threads (8 * p + h)
    rw [default] at mapped
    refine Eq.trans ?_ mapped
    rw [← threads]
    refine congrArg (tget ({} : Thread) · (8 * p + h)) ?_
    exact Engines.regate_foldl_threads ..
/-- A held thread goes on. -/
def Thread.back (t : Thread) : Thread := if t.state = .held then { t with state := t.heldState, heldState := .stopped } else t
theorem sole_of_pairwise {α : Type} {t : List (Nat × α)} (sorted : t.Pairwise fun a b => a.1 < b.1) (k : Nat) : sole t k := by
  unfold sole
  have filtered := sorted.filter fun e => e.1 = k
  have keys : ∀ e ∈ t.filter fun e => e.1 = k, e.1 = k := fun e m => of_decide_eq_true (List.mem_filter.1 m).2
  match named : t.filter fun e => e.1 = k with
  | [] => exact named ▸ Nat.zero_le _
  | [_] => exact named ▸ Nat.le_refl _
  | a :: b :: _ =>
    rw [named] at filtered keys
    have below := (List.pairwise_cons.1 filtered).1 b List.mem_cons_self
    rw [keys a List.mem_cons_self, keys b (List.mem_cons_of_mem _ List.mem_cons_self)] at below
    exact absurd below (Nat.lt_irrefl _)
/-- The threads once every held one goes on. -/
def Engines.unheld (e : Engines) : Engines := { e with threads := (e.threads.map fun (x : Nat × Thread) => (x.1, x.2.back)).filter fun x => x.2 != ({} : Thread) }
theorem exec_requestField_limp {s : State} {rest : List Order} (order : takeOrder (.request 2) s.mc.orders = some rest) (mode : s.aon.mode = some .limp) :
    exec .requestField s = .next (((s.onMc fun m => { m with orders := rest }).onEng fun e =>
      (e.unheld.engines.map (·.1)).foldl (fun e p => e.regate p) e.unheld).onAon fun a => { a with mode := some .field }) := by
  simp only [exec, execRequestField, State.takeRequest, order, Option.map_some, State.onMc_aon, mode, reduceCtorEq, if_false, if_true, Option.some.injEq]
  rfl
theorem exec_requestLimp {s : State} {rest : List Order} (order : takeOrder (.request 4) s.mc.orders = some rest) (mode : s.aon.mode = some .field) (still : s.aon.moving = false) :
    exec .requestLimp s = .next (enterLimp (s.onMc fun m => { m with orders := rest })) := by
  simp [exec, execRequestLimp, State.takeRequest, order, mode, still]
theorem exec_limpAutoEntry {s : State} (armed : s.mc.hk.limpArmed = true) (mode : s.aon.mode = some .field) (still : s.aon.moving = false) :
    ∃ l, exec .limpAutoEntry s = .next ((enterLimp s).raiseAll l) :=
  ⟨_, by simp [exec, execLimpAutoEntry, armed, mode, still]; rfl⟩
theorem exec_requestTest {s : State} {rest : List Order} (order : takeOrder (.request 5) s.mc.orders = some rest) (mode : s.aon.mode = some .field) (still : s.aon.moving = false) :
    exec .requestTest s = .next (((abortTest (s.onMc fun m => { m with orders := rest }) 4).onFab fun f =>
      { f with banks := (f.banks.map fun (e : Nat × Bank) => (e.1, { e.2 with released := false })).filter fun e => e.2 != ({} : Bank) }).onAon fun a => { a with mode := some .test }) := by
  simp [exec, execRequestTest, State.takeRequest, order, mode, still]

/-- Settles O25: each thread is changed by itself, and a bank's record shows its hold state. -/
theorem limpAndTestEntry : Obligations.LimpAndTestEntry := by
  intro s rest still held
  have limp (u : State) (threads : u.eng.threads = s.eng.threads) : held (enterLimp u) := by
    obtain ⟨mode, armed, -, each⟩ := enterLimp_held u
    have same (p h : Nat) : u.eng.thread p h = s.eng.thread p h := by
      unfold Engines.thread
      rw [threads]
    refine ⟨mode, armed, fun p h unmarked active => ?_, fun p h marked => ?_⟩
    · rw [each, same, Thread.hold_unmarked unmarked active]
      exact ⟨rfl, rfl, rfl⟩
    · rw [each, same, Thread.hold_ess marked]
  refine ⟨fun order mode => ?_, fun armed mode => ?_, fun order mode => ?_, fun order mode => ?_⟩
  · exact ⟨_, exec_requestLimp order mode still, limp _ rfl, (enterLimp_held _).2.2.1⟩
  · obtain ⟨l, runs⟩ := exec_limpAutoEntry armed mode still
    exact ⟨_, runs, limp s rfl⟩
  · refine ⟨_, exec_requestField_limp order mode, rfl, fun sorted p h waits => ?_⟩
    have read : tget ({} : Thread) s.eng.unheld.threads (8 * p + h) = (s.eng.thread p h).back := by
      have mapped := tget_map {} Thread.back s.eng.threads (8 * p + h)
      exact (tget_filter_sole {} ((sole_map Thread.back).2 (sole_of_pairwise sorted _))).trans mapped
    have reads : (Engines.thread ((s.eng.unheld.engines.map (·.1)).foldl (fun e p => e.regate p) s.eng.unheld) p h) = (s.eng.thread p h).back := by
      unfold Engines.thread
      rw [Engines.regate_foldl_threads]
      exact read
    have goes : (s.eng.thread p h).back = { s.eng.thread p h with state := (s.eng.thread p h).heldState, heldState := .stopped } := if_pos waits
    have all := reads.trans goes
    have pc := congrArg Thread.pc all
    exact ⟨congrArg Thread.state all, pc⟩
  · refine ⟨_, exec_requestTest order mode still, rfl, fun b => ?_⟩
    refine tget_of_forall (P := fun x : Bank => x.released = false) rfl (fun e m => ?_) b
    obtain ⟨x, -, rfl⟩ := List.mem_map.1 (List.mem_filter.1 m).1
    rfl

/-! ## Retention -/

/-- Changing each listed part once changes exactly the listed parts. -/
theorem foldl_each {σ v : Type} {get : σ → Nat → v} {put : σ → Nat → v → σ} (self : ∀ s k x, get (put s k x) k = x) (other : ∀ s k x j, j ≠ k → get (put s k x) j = get s j)
    (g : Nat → v → v) {l : List Nat} (distinct : l.Nodup) (s : σ) (k : Nat) :
    get (l.foldl (fun s k => put s k (g k (get s k))) s) k = if k ∈ l then g k (get s k) else get s k := by
  induction l generalizing s with
  | nil => simp
  | cons j l ih =>
    rw [List.nodup_cons] at distinct
    rw [List.foldl_cons, ih distinct.2]
    by_cases here : k = j
    · subst here
      rw [if_neg distinct.1, self, if_pos List.mem_cons_self]
    · rw [other _ _ _ _ here]
      simp [here]
theorem fplls_each (g : Nat → Fpll → Fpll) (f : Fabric) {n k : Nat} (low : k < n) : ((List.range n).foldl (fun f k => f.setFpll k (g k (f.fpll k))) f).fpll k = g k (f.fpll k) :=
  (foldl_each (get := Fabric.fpll) Fabric.setFpll_fpll_self Fabric.setFpll_fpll_other g List.nodup_range f k).trans (if_pos (List.mem_range.2 low))
theorem eplls_each (g : Nat → Epll → Epll) (e : Engines) {n k : Nat} (low : k < n) : ((List.range n).foldl (fun e k => e.setEpll k (g k (e.epll k))) e).epll k = g k (e.epll k) :=
  (foldl_each (get := Engines.epll) (fun e k x => by simp) (fun e k x j ne => by simp [ne]) g List.nodup_range e k).trans (if_pos (List.mem_range.2 low))
theorem entries_each {α : Type} [DecidableEq α] (d : α) (g : Nat → α → α) (t : List (Nat × α)) {n k : Nat} (low : k < n) :
    tget d ((List.range n).foldl (fun l k => tput d l k (g k (tget d l k))) t) k = g k (tget d t k) :=
  (foldl_each (get := tget d) (put := tput d) (fun t k x => by simp) (fun t k x j ne => by simp [ne]) g List.nodup_range t k).trans (if_pos (List.mem_range.2 low))

/-- Only the queues and the links differ. -/
def State.portsOnly (s t : State) : Prop := t = { s with net := t.net, lnk := t.lnk }
theorem State.portsOnly_trans {s t u : State} (first : s.portsOnly t) (second : t.portsOnly u) : s.portsOnly u := by
  unfold portsOnly at first second
  refine second.trans ?_
  rw [first]
theorem rxStop_portsOnly (s : State) (n cause : Nat) : s.portsOnly (rxStop s n cause) := by
  unfold rxStop
  split
  · rfl
  · dsimp only
    split <;> rfl
theorem quadPll_portsOnly (s : State) (k : Nat) : s.portsOnly (quadPll s k) := rfl
theorem applyPower_portsOnly (s : State) (n : Nat) (retrain : Bool) : s.portsOnly (applyPower s n retrain) := by
  have changed (c : Prop) [Decidable c] (new : LinkState) : s.portsOnly (if c then s else (rxStop s n 5).onPort n fun x => { x with link := new }) := by
    split
    · rfl
    · exact State.portsOnly_trans (rxStop_portsOnly s n 5) rfl
  exact State.portsOnly_trans (changed _ _) (quadPll_portsOnly _ _)
theorem txRecord_portsOnly (s : State) (n : Nat) (t : TxPkt) : s.portsOnly (txRecord s n t) := by
  unfold txRecord
  dsimp only
  split
  · rfl
  · split <;> rfl
theorem execPacketTxEnd_portsOnly (n : PortIx) (s : State) : s.portsOnly (outcomeState s (execPacketTxEnd n s)) := by
  unfold execPacketTxEnd
  split
  · rfl
  · exact State.portsOnly_trans (txRecord_portsOnly ..) (State.portsOnly_trans (t := (txRecord s _ _).onPort _ _) rfl (quadPll_portsOnly ..))
theorem idlePorts_portsOnly (s : State) : s.portsOnly (idlePorts s) := by
  have ended (l : List Nat) (u : State) : u.portsOnly (l.foldl (fun s n => if h : n < 512 then outcomeState s (execPacketTxEnd ⟨n, h⟩ s) else s) u) := by
    refine foldl_related (r := State.portsOnly) (fun _ => rfl) State.portsOnly_trans (fun s n => ?_) l u
    split
    · exact execPacketTxEnd_portsOnly ..
    · rfl
  exact State.portsOnly_trans (ended _ s) rfl
/-- With no request and no buffered write waiting, draining the risers does nothing. -/
theorem drainRisers_of_idle {s : State} (hands : ∀ e ∈ s.fab.hands, e.2.memReq = []) (risers : ∀ e ∈ s.stk.risers, e.2.wc = []) : drainRisers s = s := by
  have waits : (s.fab.hands.flatMap fun e => (e.2.memReq.filter fun q => q.done.isNone && !q.taken).map fun q => (q.seq, e.1, q)) = [] := by
    refine List.flatMap_eq_nil_iff.2 fun e m => ?_
    rw [hands e m]
    rfl
  have flushed (p : Nat) : flushWhere s p (fun _ => true) = s := by
    have empty : (s.stk.riser p).wc = [] := tget_of_forall (P := fun x : Riser => x.wc = []) rfl risers p
    unfold flushWhere
    rw [empty]
    rfl
  have none_waits : drainRisers s = (s.stk.risers.map (·.1)).foldl (fun s p => flushWhere s p fun _ => true) s := by
    unfold drainRisers
    rw [waits]
    simp
  rw [none_waits]
  generalize s.stk.risers.map (·.1) = l
  induction l with
  | nil => rfl
  | cons p l ih => rw [List.foldl_cons, flushed, ih]

theorem haltPlots_fabricOnly (s : State) : s.fabricOnly (haltPlots s) := by
  unfold haltPlots
  dsimp only
  exact State.fabricOnly_trans (State.passSome_foldl_fabricOnly ..) rfl
/-- The state at the start of the entry into Retention: clocks halted, threads' accesses discarded, packets rewound. -/
def State.quieted (s : State) : State :=
  let s := (haltPlots s).onEng fun e => { e with threads := (e.threads.map fun (x : Nat × Thread) => (x.1, x.2.discardInFlight)).filter fun x => x.2 != ({} : Thread) }
  (s.lnk.ports.map (·.1)).foldl (fun s n => rxStop s n 5) s
theorem State.quieted_parts (s : State) : ∃ f e n l a, s.quieted = { s with fab := f, eng := e, net := n, lnk := l, aon := { s.aon with free := a } } := by
  have halted := haltPlots_fabricOnly s
  unfold quieted
  generalize haltPlots s = u at halted
  dsimp only
  set v := u.onEng _ with v_def
  have stopped : v.portsOnly ((v.lnk.ports.map (·.1)).foldl (fun s n => rxStop s n 5) v) :=
    foldl_related (r := State.portsOnly) (fun _ => rfl) State.portsOnly_trans (fun s n => rxStop_portsOnly s n 5) _ _
  unfold portsOnly at stopped
  unfold fabricOnly at halted
  rw [stopped, v_def, halted]
  exact ⟨_, _, _, _, _, rfl⟩
theorem exec_requestRetention {s : State} {rest : List Order} (order : takeOrder (.request 3) s.mc.orders = some rest) (mode : s.aon.mode = some .field) (still : s.aon.moving = false) :
    exec .requestRetention s = .next ((s.onMc fun m => { m with orders := rest }).quieted.onAon fun a => { a with moving := true }) := by
  simp only [exec, execRequestRetention, State.takeRequest, order, Option.map_some, State.onMc_aon, mode, still, bne_self_eq_false, Bool.or_self, Bool.false_eq_true, if_false]
  rfl
theorem exec_requestField_retention {s : State} {rest : List Order} (order : takeOrder (.request 2) s.mc.orders = some rest) (mode : s.aon.mode = some .retention)
    (still : s.aon.moving = false) : exec .requestField s = .next { s with mc := { s.mc with orders := rest }, aon := { s.aon with moving := true } } := by
  have taken : s.takeRequest 2 = some (s.onMc fun m => { m with orders := rest }) := by rw [State.takeRequest, order, Option.map_some]
  change execRequestField s = _
  unfold execRequestField
  rw [taken]
  dsimp only
  rw [State.onMc_aon, if_pos mode, if_neg (by rw [still]; exact Bool.false_ne_true)]
  rfl

/-- The state with the queues' traffic delivered. -/
def State.settled (s : State) : State := s.onNet fun n => { n with queues := n.queues.map fun e => (e.1, if e.2.runs then e.2.settle else e.2) }
/-- The state once drained, with PLLs unlocked and rails at retention voltage. -/
def State.retained (s : State) : State :=
  let s := s.onFab fun f => (List.range 8).foldl (fun f k => f.setFpll k { f.fpll k with locked := false }) f
  let s := s.onEng fun e => (List.range 4).foldl (fun e k => e.setEpll k { e.epll k with locked := false }) e
  let s := s.onLnk fun l => { l with quads := (l.quads.map fun (x : Nat × Quad) => (x.1, { x.2 with pllRunning := false, pllLocked := false })).filter fun x => x.2 != {} }
  (s.onHk Hk.retain).onAon fun a => { a with mode := some .retention, moving := false }
theorem exec_retentionEntryDone {s : State} (mode : s.aon.mode = some .field) (moving : s.aon.moving = true) (drained : (drainRisers (idlePorts s)).settled.draining = false) :
    exec .retentionEntryDone s = .next (drainRisers (idlePorts s)).settled.retained := by
  simp only [exec, execRetentionEntryDone, mode, moving, bne_self_eq_false, Bool.not_true, Bool.or_self, Bool.false_eq_true, if_false]
  exact if_neg (by rw [Bool.not_eq_true]; exact drained)
/-- The rails' records in Retention and back out of it. -/
theorem Hk.retain_state (h : Hk) {k : Nat} (low : k < 5) : (h.retain.rail k).state = 3 :=
  congrArg Rail.state (entries_each ({} : Rail) (fun k r => { r with setMv := if k = 3 then 1050 else 600, state := 3, skip := 0, overUs := 0 }) h.rails low)

/-- The rails' records back at their voltages. -/
def Hk.unretain (h : Hk) (mv : Nat → Nat) : Hk := { h with rails := (List.range 5).foldl (fun l k => tput {} l k { tget {} l k with setMv := mv k, state := 2 }) h.rails }
theorem Hk.unretain_state (h : Hk) (mv : Nat → Nat) {k : Nat} (low : k < 5) : ((h.unretain mv).rail k).state = 2 :=
  congrArg Rail.state (entries_each ({} : Rail) (fun k r => { r with setMv := mv k, state := 2 }) h.rails low)
/-- The state at the exit from Retention before clocks and ports start. -/
def State.unretained (s : State) : State :=
  let s := s.onAon fun a => { a with mode := some .field, moving := false }
  let s := s.onFab fun f => (List.range 8).foldl (fun f k => f.setFpll k { f.fpll k with locked := (f.fpll k).running }) f
  let s := s.onEng fun e => (List.range 4).foldl (fun e k => e.setEpll k { e.epll k with locked := (e.epll k).running }) e
  s.onHk fun h => h.unretain fun k => if k < 2 then s.fab.railMv k else if k = 3 then 1050 else 750
theorem Fabric.enterSlot_fplls (f : Fabric) (fallowed : List Nat) (limp : Bool) (p k : Nat) (w : BitVec 32) (e : Nat) : (f.enterSlot fallowed limp p k w e).fplls = f.fplls := by
  unfold enterSlot
  dsimp only
  split <;> rfl
theorem Fabric.startSlot_fplls (f : Fabric) (fallowed : List Nat) (limp : Bool) (q k e : Nat) : (f.startSlot fallowed limp q k e).fplls = f.fplls := by
  unfold startSlot
  dsimp only
  split <;> simp only [enterSlot_fplls]
theorem resumePlots_fplls (s : State) : (resumePlots s).fab.fplls = s.fab.fplls := by
  refine foldl_leaves Fabric.fplls (fun f q => ?_) _ s.fab
  dsimp only
  rw [Fabric.startSlot_fplls, Fabric.setPlot_fplls]

/-- The plots that are halted at the exit start their next slots, in the fabric alone. -/
theorem resumePlots_fab (s : State) : ∃ f, resumePlots s = { s with fab := f } := ⟨_, rfl⟩
theorem applyPowers_portsOnly (l : List Nat) (s : State) : s.portsOnly (l.foldl (fun s n => applyPower s n false) s) :=
  foldl_related (r := State.portsOnly) (fun _ => rfl) State.portsOnly_trans (fun s n => applyPower_portsOnly s n false) l s
/-- The state at the end of the exit from Retention. -/
def State.exited (s : State) : State := ((resumePlots s.unretained).lnk.ports.map (·.1)).foldl (fun s n => applyPower s n false) (resumePlots s.unretained)
theorem exec_retentionExitDone {s : State} (mode : s.aon.mode = some .retention) (moving : s.aon.moving = true) :
    exec .retentionExitDone s = .next s.exited := by
  simp only [exec, execRetentionExitDone, mode, moving, bne_self_eq_false, Bool.not_true, Bool.or_self, Bool.false_eq_true, if_false]
  rfl
theorem State.unretained_aon (s : State) : s.unretained.aon = { s.aon with mode := some .field, moving := false } := rfl
theorem State.unretained_stk (s : State) : s.unretained.stk = s.stk := by simp [unretained]
theorem State.unretained_rail (s : State) {k : Nat} (low : k < 5) : (s.unretained.mc.hk.rail k).state = 2 := by
  unfold unretained
  exact Hk.unretain_state _ _ low
theorem State.unretained_fpll (s : State) {k : Nat} (low : k < 8) : s.unretained.fab.fpll k = { s.fab.fpll k with locked := (s.fab.fpll k).running } :=
  fplls_each (fun _ x => { x with locked := x.running }) s.fab low
theorem resumePlots_fpll (s : State) (k : Nat) : (resumePlots s).fab.fpll k = s.fab.fpll k := by
  unfold Fabric.fpll
  rw [resumePlots_fplls]
/-- The end of the exit from Retention, but for queues and ports. -/
theorem State.exited_portsOnly (s : State) : (resumePlots s.unretained).portsOnly s.exited := applyPowers_portsOnly _ _
theorem State.exited_held (s : State) : s.exited.aon = { s.aon with mode := some .field, moving := false } ∧ s.exited.stk = s.stk ∧
    (∀ k < 5, (s.exited.mc.hk.rail k).state = 2) ∧ ∀ k < 8, (s.exited.fab.fpll k).locked = (s.fab.fpll k).running := by
  have ports := s.exited_portsOnly
  generalize s.exited = t at ports
  obtain ⟨f, resumed⟩ := resumePlots_fab s.unretained
  have plls := resumePlots_fpll s.unretained
  generalize resumePlots s.unretained = u at ports resumed plls
  unfold portsOnly at ports
  rw [ports]
  dsimp only
  refine ⟨?_, ?_, fun k low => ?_, fun k low => ?_⟩
  · rw [resumed, ← s.unretained_aon]
  · rw [resumed, ← s.unretained_stk]
  · rw [resumed, ← s.unretained_rail low]
  · rw [plls, s.unretained_fpll low]

theorem State.retained_aon (s : State) : s.retained.aon = { s.aon with mode := some .retention, moving := false } := by simp [retained]
theorem State.retained_rail (s : State) {k : Nat} (low : k < 5) : (s.retained.mc.hk.rail k).state = 3 := by
  simp only [retained, onAon_mc, onHk_mc]
  exact Hk.retain_state _ low
theorem State.retained_fpll (s : State) {k : Nat} (low : k < 8) : (s.retained.fab.fpll k).locked = false := by
  simp only [retained, onAon_fab, onHk_fab, onLnk_fab, onEng_fab, onFab_fab]
  exact congrArg Fpll.locked (fplls_each (fun _ x => { x with locked := false }) s.fab low)
theorem State.retained_epll (s : State) {k : Nat} (low : k < 4) : (s.retained.eng.epll k).locked = false := by
  simp only [retained, onAon_eng, onHk_eng, onLnk_eng, onEng_eng, onFab_eng]
  exact congrArg Epll.locked (eplls_each (fun _ x => { x with locked := false }) s.eng low)
theorem State.retained_stk (s : State) : s.retained.stk = s.stk := by simp [retained]
theorem State.retained_threads (s : State) : s.retained.eng.threads = s.eng.threads := by
  simp only [retained, onAon_eng, onHk_eng, onLnk_eng, onEng_eng, onFab_eng]
  refine foldl_leaves Engines.threads ?_ (List.range 4) s.eng
  exact fun e k => e.setEpll_threads k _
theorem State.retained_hands (s : State) : s.retained.fab.hands = s.fab.hands := by
  simp only [retained, onAon_fab, onHk_fab, onLnk_fab, onEng_fab, onFab_fab]
  refine foldl_leaves Fabric.hands ?_ (List.range 8) s.fab
  exact fun f k => f.setFpll_hands k _

/-- Settles O24: entry and exit change the clocks, rails, queues and ports alone. -/
theorem retentionEntryAndExit : Obligations.RetentionEntryAndExit := by
  intro s rest
  refine ⟨fun order mode still => ?_, fun mode moving hands risers regions => ?_, exec_requestField_retention, fun mode moving => ?_⟩
  · obtain ⟨f, e, n, l, a, quiet⟩ := (s.onMc fun m => { m with orders := rest }).quieted_parts
    refine ⟨_, exec_requestRetention order mode still, ?_⟩
    rw [quiet]
    exact ⟨mode, rfl, rfl, rfl, rfl⟩
  · have idle := idlePorts_portsOnly s
    have drained : drainRisers (idlePorts s) = idlePorts s := by
      refine drainRisers_of_idle ?_ ?_ <;> rw [idle]
      · exact hands
      · exact risers
    have stopped : (drainRisers (idlePorts s)).settled.draining = false := by
      rw [drained, idle]
      refine List.any_eq_false.2 fun e m => ?_
      obtain ⟨held, wiping⟩ := regions e m
      simp [held, wiping]
    refine ⟨_, exec_retentionEntryDone mode moving stopped, ?_⟩
    rw [State.retained_aon, State.retained_stk, State.retained_threads, State.retained_hands, drained]
    refine ⟨rfl, rfl, fun k low => State.retained_rail _ low, fun k low => State.retained_fpll _ low, fun k low => State.retained_epll _ low, ?_⟩
    rw [idle]
    exact ⟨rfl, rfl, rfl⟩
  · obtain ⟨aon, stk, rails, plls⟩ := s.exited_held
    refine ⟨_, exec_retentionExitDone mode moving, ?_⟩
    rw [aon, stk]
    exact ⟨rfl, rfl, plls, rails, rfl⟩

/-! ## A die reset and a worn-out session -/

/-- Seat 1's immediate TURN, which waits for its tick with an item for a plot of die 0. -/
def lastTurn : Turn :=
  { items := [{ index := 0x3000, sub := 0, data := [] }], at? := none, source := 0
    req := some { seat := 1, prio := 0, seq := 0, func := 0, status := 0, error := 0, aux := 0, data := [] } }
/-- The device in Field, the window open on that TURN; the session has one reply left, and a hand section is streaming into hand 0 of plot 0. -/
def lastReply : State :=
  { State.reset with
    aon := { powered := true, mode := some .field }
    seats := [(1, { isOpen := true, repCtr := 4294967294, turn := some lastTurn, stream := some { src := .segWrite, sect := some (0, 0, 0) }
                    seg := some { isWrite := true, index := 0x1F31, total := 0 } })]
    fab := { hands := [(0, { state := .sowing })], cfg := [(0, 1)] }
    mc := { window := true } }
/-- Discarding the turn answers it, which ends the session, its stream and the sowing of the hand. -/
theorem dieReset_clears_store : (dieReset lastReply 0).fab.cfg = [] := by decide

/-- Refutes O26: hand stores do not always stay as they were. A die reset discards the turn in its window; where its reply uses up the session's counter, the session ends, and with it a hand section that is arriving, whose store is cleared. -/
theorem not_feedAndDieResets : ¬ Obligations.FeedAndDieResets := by
  intro all
  obtain ⟨-, -, die, -⟩ := all lastReply
  obtain ⟨t, runs, reset⟩ := die 0 rfl
  cases runs
  obtain ⟨-, -, -, -, cfg, -⟩ := reset
  have cleared := dieReset_clears_store.symm.trans cfg
  exact absurd cleared (by decide)

/-! ## Boundary scan -/

theorem State.scanAllowed_iff {s : State} (up : s.aon.powered = true) : s.scanAllowed = true ↔
    s.aon.mode = none ∨ s.aon.mode = some .fallow ∨ s.aon.mode = some .recovery ∨ s.aon.mode = some .zeroised ∨ s.aon.mode = some .test := by
  unfold scanAllowed
  rw [up]
  cases s.aon.mode with
  | none => simp
  | some m => cases m <;> simp
/-- What loading a boundary-scan instruction leaves. -/
theorem scanLoad_governs {s : State} (up : s.aon.powered = true) {ir : Byte} (scans : inRange 3 7 ir.toNat = true) (boundary : Bool) :
    ∃ t, scanLoad s ir boundary = .next t ∧ t = { s with mc := { s.mc with jtag := t.mc.jtag }, aon := { s.aon with free := t.aon.free } } ∧ t.mc.jtag.ir = ir ∧
      (s.scanAllowed = true → t.scanDrives = some ir) ∧ (s.scanAllowed = false → t.scanDrives = none ∧ t.mc.jtag.dr = 0) := by
  have drives (t : State) (same : t.scanAllowed = s.scanAllowed) (loaded : t.mc.jtag.ir = ir) : t.scanDrives = if s.scanAllowed then some ir else none := by
    unfold State.scanDrives
    rw [same, loaded, scans, Bool.and_true]
  unfold scanLoad
  rw [up]
  by_cases captures : (s.scanAllowed && boundary) = true
  · have drive := drives (s.tap ir (Config.freeNat s.aon.free)).drawn rfl rfl
    refine ⟨_, (if_neg (by simp)).trans (if_pos captures), rfl, rfl, fun may => drive.trans (if_pos may), fun mayNot => ?_⟩
    rw [mayNot] at captures
    cases captures
  · have drive := drives (s.tap ir 0) rfl rfl
    refine ⟨_, (if_neg (by simp)).trans (if_neg captures), rfl, rfl, fun may => drive.trans (if_pos may), fun mayNot => ⟨drive.trans (if_neg ?_), rfl⟩⟩
    rw [mayNot]
    exact Bool.false_ne_true

/-- Settles O29: every instruction loads its code; those of the list drive the balls in the states that allow it. -/
theorem boundaryScan : Obligations.BoundaryScan := by
  intro s up load others allowed governs
  have may : s.scanAllowed = true ↔ allowed := State.scanAllowed_iff up
  have each {c : Instr} {ir : Byte} (boundary : Bool) (runs : exec c s = scanLoad s ir boundary) (scans : inRange 3 7 ir.toNat = true) : governs c ir := by
    obtain ⟨t, loads, rest, code, drives, bypasses⟩ := scanLoad_governs up scans boundary
    exact ⟨t, runs.trans loads, rest, code, fun yes => drives (may.2 yes), fun no => bypasses (Bool.eq_false_iff.2 (mt may.1 no))⟩
  refine ⟨if_pos up, if_pos up, fun cells => ?_, each true rfl rfl, each false rfl rfl, each false rfl rfl, each true rfl rfl, each true rfl rfl⟩
  refine ⟨_, if_neg (by rw [up]; exact Bool.false_ne_true), rfl, rfl, rfl, ?_⟩
  exact if_neg fun both => absurd (Bool.and_eq_true_iff.1 both).2 (by decide : ¬inRange 3 7 (0x02 : Byte).toNat = true)

/-! ## Self-tests -/

theorem marchSum_pos (alg : Nat) : 0 < (marchElems alg).sum := by
  match alg with
  | 0 => decide
  | 1 => decide
  | _ + 2 => exact (by decide : 0 < (marchElems 2).sum)
theorem targetWords_pos {k : Nat} (from1 : 1 ≤ k) (to7 : k ≤ 7) : 0 < targetWords k := by
  interval_cases k <;> decide
theorem targetOk_kind {w : BitVec 32} (ok : targetOk w = true) : 1 ≤ tgKind w ∧ tgKind w ≤ 7 := by
  simp only [targetOk, Bool.and_eq_true, Bool.or_eq_true, decide_eq_true_eq, ite_eq_iff] at ok
  omega
/-- Only the seats differ. -/
def State.seatsOnly (s t : State) : Prop := t = { s with seats := t.seats }
theorem State.seatsOnly_trans {s t u : State} (first : s.seatsOnly t) (second : t.seatsOnly u) : s.seatsOnly u := by
  unfold seatsOnly at first second
  refine second.trans ?_
  rw [first]
theorem completeImage_seatsOnly (s : State) (k : Nat) (t : Stream) : s.seatsOnly (completeImage s k t) := by
  have step (u : State) (g : SeatRec → SeatRec) (on : s.seatsOnly u) : s.seatsOnly (u.onSeat k g) := State.seatsOnly_trans on rfl
  have either {c : Prop} [Decidable c] {a b : State} (left : s.seatsOnly a) (right : s.seatsOnly b) : s.seatsOnly (if c then a else b) := by
    split
    · exact left
    · exact right
  unfold completeImage closeStream
  dsimp only
  cases t.firstRep with
  | some r => exact step _ _ (either (step _ _ (step _ _ rfl)) (step _ _ rfl))
  | none => exact step _ _ (either (step _ _ (either rfl (step _ _ rfl))) (either rfl (step _ _ rfl)))
theorem nextSection_seatsOnly (s : State) (k : Nat) : s.seatsOnly (nextSection s k) := by
  have next : s.seatsOnly (onStream s k fun t => { t with next := t.next + 1, sect := none }) := rfl
  unfold nextSection
  dsimp only
  split
  · split
    · split
      · exact State.seatsOnly_trans next (completeImage_seatsOnly ..)
      · exact next
    · exact next
  · exact next
theorem refuseSection_seatsOnly (s : State) (k index sub reason detail : Nat) : s.seatsOnly (refuseSection s k index sub reason detail) :=
  State.seatsOnly_trans (t := refuse s k index sub reason detail) rfl (nextSection_seatsOnly ..)
theorem sweepSections_seatsOnly (s : State) : s.seatsOnly (sweepSections s) := by
  refine foldl_related (r := State.seatsOnly) (fun _ => rfl) State.seatsOnly_trans (fun u k => ?_) _ s
  split
  · split
    · split
      · exact refuseSection_seatsOnly ..
      · split
        · exact refuseSection_seatsOnly ..
        · rfl
    · rfl
  · rfl
@[simp] theorem sweepSections_mc (s : State) : (sweepSections s).mc = s.mc := by rw [sweepSections_seatsOnly s]
@[simp] theorem fallowPlot_mc (s : State) (p : Nat) : (fallowPlot s p).mc = s.mc := by
  have passed := s.passSome_fabricOnly p
  unfold State.fabricOnly at passed
  unfold fallowPlot
  split
  · rfl
  · simp only [State.raiseAll_mc, State.onFab_mc, State.onNet_mc, State.onMap_mc]
    rw [passed]
@[simp] theorem verdictMap_mc (s : State) (w : BitVec 32) (alg verdict : Nat) : (verdictMap s w alg verdict).mc = s.mc := by
  simp only [verdictMap, apply_ite State.mc, State.onMap_mc, sweepSections_mc, fallowPlot_mc, ite_self]
@[simp] theorem restoreTarget_mc (s : State) (w : BitVec 32) : (restoreTarget s w).mc = s.mc := by
  unfold restoreTarget
  dsimp only
  split <;> simp only [fillTile, clearHands, State.onStk_mc, State.onFab_mc, State.onEng_mc]
/-- The grants once those for a target have ended. -/
def grantsEnded (w : BitVec 32) (t : List (Nat × BitVec 32)) : List (Nat × BitVec 32) := allSeats.foldl (fun l k => if tget 0 l k = w then tput 0 l k 0 else l) t
/-- A test's record, once its end has been packed. -/
theorem endTest_mc {s : State} {ops : Nat} {sig : Word} {q : Queue} (packed : (s.net.queue 40962).packPacket 2 (s.mc.bist.completion ops sig) = some q) :
    (endTest s ops sig).mc = { s.mc with bist := { s.mc.bist with
      state := 2, aborting := false, record := s.mc.bist.completion ops sig, ended := s.aon.now
      qgrant := grantsEnded s.mc.bist.runTarget s.mc.bist.qgrant } } := by
  unfold endTest
  dsimp only
  rw [packed]
  dsimp only
  rw [verdictMap_mc, restoreTarget_mc]
  rfl
/-- Bytes 7 and 8 to 15 of a completion record: its verdict and the operations done. -/
theorem completion_verdict (b : Bist) (ops : Nat) (sig : Word) : byteAt (b.completion ops sig) 7 = BitVec.ofNat 8 (verdict ops b.expected b.fails) := rfl
theorem completion_ops (b : Bist) (ops : Nat) (sig : Word) : leField (b.completion ops sig) 8 8 = ops % 256 ^ 8 := by
  have split_at : b.completion ops sig = (leBytes 4 b.runTarget.toNat ++ leBytes 1 b.runAlg.toNat ++ leBytes 1 (elemsDone (targetWords (tgKind b.runTarget)) ops (marchElems (bits b.runAlg 1 0))) ++
      leBytes 1 (marchElems (bits b.runAlg 1 0)).length ++ leBytes 1 (verdict ops b.expected b.fails)) ++ leBytes 8 ops ++ (leBytes 8 b.expected ++ leBytes 4 sig.toNat ++ leBytes 4 b.fails) := by
    simp only [Bist.completion, List.append_assoc]
  rw [split_at]
  exact leField_leBytes _ _ _ rfl
theorem completion_length (b : Bist) (ops : Nat) (sig : Word) : (b.completion ops sig).length = 32 := by
  simp [Bist.completion, leBytes_length]

/-- The block memories of a test's plot, taken by the test. -/
def State.testBusy (s : State) (w : BitVec 32) : State :=
  if tgKind w = 3 then s.onFab fun f => (List.range 64).foldl (fun f k => f.setBm (tgIndex w) k { f.bm (tgIndex w) k with tbusy := true }) f else s
theorem State.testBusy_keeps (s : State) (w : BitVec 32) : (s.testBusy w).mc = s.mc ∧ (s.testBusy w).net = s.net := by
  unfold testBusy
  split
  · exact ⟨State.onFab_mc .., State.onFab_net ..⟩
  · exact ⟨rfl, rfl⟩
/-- The test that an order starts. -/
def Bist.begun (b : Bist) (cause started : Nat) : Bist :=
  { b with state := 1, runTarget := b.target, runAlg := b.alg, fails := 0, log := [], lost := 0, cause := cause, aborting := false, started := started }
section
variable {s : State} {rest : List Order} {lim : TestLimits} (order : takeOrder .testStart s.mc.orders = some rest) (clocks : s.clocksOn = true)
  (idle : s.mc.bist.state ≠ 1) (empty : s.mc.bist.state ≠ 2)
include order clocks idle empty

theorem exec_selfTestStart (clock : 400000 ≤ lim.clockKhz ∧ lim.clockKhz ≤ 800000) (volts : 1000 ≤ lim.vmMilli ∧ lim.vmMilli ≤ 1100) :
    exec (.selfTestStart lim) s = .next (State.testBusy (s.onMc fun m => { m with orders := rest, bist := m.bist.begun 0 s.aon.now }) s.mc.bist.target) := by
  have ranges : inRange 400000 800000 lim.clockKhz = true ∧ inRange 1000 1100 lim.vmMilli = true := by simp [inRange, clock, volts]
  have on : (s.onMc fun m => { m with orders := rest }).clocksOn = true := clocks
  simp [exec, execSelfTestStart, order, on, idle, empty, ranges]
  rfl
theorem exec_selfTestStart_slow (slow : lim.clockKhz < 400000) :
    exec (.selfTestStart lim) s = .next ((endTest (State.testBusy (s.onMc fun m => { m with orders := rest, bist := m.bist.begun 2 (Config.freeNat s.aon.free) }) s.mc.bist.target) 0 0).onMc
      fun m => { m with bist := { m.bist with ended := Config.freeNat s.aon.free } }).drawn := by
  have ranges : inRange 400000 800000 lim.clockKhz = false := by simp [inRange]; omega
  have on : (s.onMc fun m => { m with orders := rest }).clocksOn = true := clocks
  simp [exec, execSelfTestStart, order, on, idle, empty, ranges]
  rfl
end
theorem exec_selfTestAbort {s : State} {rest : List Order} (order : takeOrder .testAbort s.mc.orders = some rest) (running : s.mc.bist.state = 1) (going : s.mc.bist.aborting = false) :
    exec .selfTestAbort s = .next { s with mc := { s.mc with orders := rest, bist := { s.mc.bist with aborting := true, cause := 1 } } } := by
  have aborts : (s.mc.bist.state = 1 && !s.mc.bist.aborting) = true := by simp [running, going]
  simp only [exec, execSelfTestAbort, order, abortTest]
  exact congrArg _ (if_pos aborts)
theorem exec_bistFailLog {s : State} {e : FailEntry} {q : Queue} (running : s.mc.bist.state = 1) (reads : s.mc.bist.reads e = true)
    (packed : (s.net.queue 40962).packPacket 2 (leBytes 16 (failWord e s.mc.bist.runTarget).toNat) = some q) :
    exec (.bistFailLog e) s = .next { s with
      net := s.net.setQueue 40962 q
      mc := { s.mc with bist := { s.mc.bist with
        fails := sat32 (s.mc.bist.fails + 1)
        log := if s.mc.bist.log.length < 4096 then s.mc.bist.log ++ [failWord e s.mc.bist.runTarget] else s.mc.bist.log
        lost := if s.mc.bist.log.length < 4096 then s.mc.bist.lost else sat32 (s.mc.bist.lost + 1) } } } := by
  simp only [exec, execBistFailLog, running, reads, packed]
  rfl
theorem exec_bistFailLog_other {s : State} {e : FailEntry} (reads : s.mc.bist.reads e = false) : exec (.bistFailLog e) s = .next s := by
  simp [exec, execBistFailLog, reads]
/-- A failing read is one that the march expects. -/
theorem Bist.reads_expects {b : Bist} {e : FailEntry} (reads : b.reads e = true) :
    marchExpects b.runAlg e.element.toNat e.op.toNat e.addr.toNat e.bitNo.toNat = some e.expected ∧ e.observed ≠ e.expected := by
  simp only [Bist.reads, Bool.and_eq_true, beq_iff_eq, bne_iff_ne, decide_eq_true_eq] at reads
  obtain ⟨⟨expects, differs⟩, -⟩ := reads
  exact ⟨expects, differs⟩
/-- What a march expects of a read. -/
theorem marchExpects_some {alg : Byte} {elem op a j : Nat} {v : Bool} (expects : marchExpects alg elem op a j = some v) :
    let o := ((marchOps (bits alg 1 0)).getD elem []).getD op .w0
    (o = .r0 ∨ o = .r1) ∧ v = if o = .r0 then background (bits alg 3 2) a j else !background (bits alg 3 2) a j := by
  intro o
  unfold marchExpects at expects
  change (match o with | .r0 => _ | .r1 => _ | .w0 => _ | .w1 => _ : Option Bool) = _ at expects
  generalize o = op at expects
  cases op with
  | r0 => exact ⟨.inl rfl, (Option.some.inj expects).symm⟩
  | r1 => exact ⟨.inr rfl, (Option.some.inj expects).symm⟩
  | w0 => cases expects
  | w1 => cases expects

/-- Settles O27: a start within the limits begins the test and one outside them ends it at once; the log takes failing reads alone. -/
theorem selfTestRuns : Obligations.SelfTestRuns := by
  intro s rest
  refine ⟨fun lim order clocks idle empty low high vmLow vmHigh => ?_, fun lim order clocks ok idle empty slow room => ?_, exec_selfTestAbort, fun e q => exec_bistFailLog,
    fun e => exec_bistFailLog_other, ?_⟩
  · refine ⟨_, exec_selfTestStart order clocks idle empty ⟨low, high⟩ ⟨vmLow, vmHigh⟩, ?_⟩
    rw [(State.testBusy_keeps _ _).1]
    exact ⟨rfl, rfl, rfl, rfl, rfl, rfl, rfl, rfl⟩
  · refine ⟨_, exec_selfTestStart_slow order clocks idle empty slow, ?_⟩
    obtain ⟨mc, net⟩ := State.testBusy_keeps (s.onMc fun m => { m with orders := rest, bist := m.bist.begun 2 (Config.freeNat s.aon.free) }) s.mc.bist.target
    generalize State.testBusy _ _ = u at mc net
    have fits := room (u.mc.bist.completion 0 0) (completion_length _ _ _)
    have queue : s.net.queue 40962 = u.net.queue 40962 := by rw [net]; rfl
    rw [queue] at fits
    obtain ⟨q, packed⟩ := Option.isSome_iff_exists.1 fits
    rw [State.drawn_mc, State.onMc_mc, endTest_mc packed]
    refine ⟨rfl, by rw [mc]; rfl, (completion_ops ..).trans (Nat.zero_mod _), ?_⟩
    have some_ops : 0 ≠ u.mc.bist.expected := by
      obtain ⟨from1, to7⟩ := targetOk_kind ok
      have words : 0 < targetWords (tgKind u.mc.bist.runTarget) := by rw [mc]; exact targetWords_pos from1 to7
      exact (Nat.mul_pos (marchSum_pos _) words).ne
    refine (completion_verdict ..).trans ?_
    rw [verdict, if_neg some_ops]
    rfl
  · intro e a j at_ bit reads plain op
    obtain ⟨expects, differs⟩ := Bist.reads_expects reads
    obtain ⟨kind, value⟩ := marchExpects_some expects
    refine ⟨kind, ?_, differs⟩
    subst at_ bit
    exact value

/-! ## The end of a self-test, and RECLAIM -/

theorem mem_insertNat (n : Nat) (l : List Nat) : n ∈ insertNat n l := by
  induction l with
  | nil => simp [insertNat]
  | cons a l ih =>
    unfold insertNat
    split
    · exact List.mem_cons_self
    · exact List.mem_cons_of_mem _ ih
theorem exec_selfTestEnd {s : State} {ops elems : Nat} {sig : Word} (running : s.mc.bist.state = 1) (within : ops ≤ s.mc.bist.expected)
    (ends : s.mc.bist.aborting = true ∨ ops = s.mc.bist.expected) (done : elems = elemsDone (targetWords (tgKind s.mc.bist.runTarget)) ops (marchElems (bits s.mc.bist.runAlg 1 0))) :
    exec (.selfTestEnd ops elems sig) s = .next (endTest s ops sig) := by
  have ended : (s.mc.bist.aborting || decide (ops = s.mc.bist.expected)) = true := by simpa using ends
  simp only [exec, execSelfTestEnd]
  exact if_pos (by simp only [running, within, ended, ← done, decide_true, Bool.and_self])
theorem allSeats_eq : allSeats = List.range 8 := rfl
/-- The grant of every seat for the target that was tested ends. -/
theorem qgrant_ended (w : BitVec 32) (t : List (Nat × BitVec 32)) {k : Nat} (low : k < 8) :
    tget 0 (grantsEnded w t) k = if tget 0 t k = w then 0 else tget 0 t k := by
  have put (l : List (Nat × BitVec 32)) (j x : Nat) (v : BitVec 32) : tget 0 (if v = w then tput 0 l j 0 else l) x = if x = j ∧ v = w then 0 else tget 0 l x := by
    by_cases hit : v = w <;> by_cases here : x = j <;> simp [hit, here]
  rw [grantsEnded, allSeats_eq]
  simp only [List.range_succ, List.range_zero, List.nil_append, List.cons_append, List.foldl_cons, List.foldl_nil, put]
  interval_cases k <;> simp
/-- A tile that fails its test is recorded. -/
theorem endTest_failedTile {s : State} {ops : Nat} {sig : Word} {q : Queue} (packed : (s.net.queue 40962).packPacket 2 (s.mc.bist.completion ops sig) = some q)
    (tile : tgKind s.mc.bist.runTarget = 1) (failed : verdict ops s.mc.bist.expected s.mc.bist.fails = 2) :
    (256 * tgDie s.mc.bist.runTarget + tgIndex s.mc.bist.runTarget) ∈ (endTest s ops sig).nv.map.failedTiles := by
  unfold endTest
  dsimp only
  rw [packed]
  dsimp only
  unfold verdictMap
  rw [tile, failed]
  dsimp only [State.onMap, State.onNv]
  simp only [decide_true, Bool.and_self, if_true]
  split
  next listed => exact List.contains_iff_mem.1 listed
  next => exact mem_insertNat _ _
/-- What each step establishes of its own element and no step undoes holds of every element at the end. -/
theorem foldl_establishes {α σ : Type} {P : α → σ → Prop} {g : σ → α → σ} (sets : ∀ s a, P a (g s a)) (keeps : ∀ s a b, P a s → P a (g s b)) {l : List α} {a : α}
    (m : a ∈ l) (s : σ) : P a (l.foldl g s) := by
  induction l generalizing s with
  | nil => cases m
  | cons b l ih =>
    rcases List.mem_cons.1 m with rfl | m
    · exact List.foldlRecOn (motive := P a) l g (sets s a) fun t k c _ => keeps t a c k
    · exact ih m (g s b)
theorem Fabric.clearDiff_hands (f : Fabric) (p h : Nat) : (f.clearDiff p h).hands = f.hands := by
  unfold clearDiff
  refine foldl_leaves Fabric.hands (fun f k => ?_) _ _
  split <;> rfl
/-- Hand h of plot p, cleared. -/
def Fabric.clearHand (p : Nat) (f : Fabric) (h : Nat) : Fabric :=
  ((f.clearStore p h).clearDiff p h).setHand p h { ((f.clearStore p h).clearDiff p h).hand p h with state := .empty, ff := 0, arrival := 0, timed := 0 }
theorem Fabric.clearHand_state (f : Fabric) (p h j : Nat) : ((f.clearHand p h).hand p j).state = if j = h then .empty else (f.hand p j).state := by
  unfold clearHand
  rw [Fabric.setHand_hand]
  by_cases here : j = h
  · rw [if_pos (by rw [here]), if_pos here]
  · rw [if_neg (by omega), if_neg here]
    exact congrArg (fun l => (tget ({} : Hand) l (8 * p + j)).state) ((f.clearStore p h).clearDiff_hands p h)
theorem clearHands_parts (s : State) (p : Nat) : ∃ f, clearHands s p = { s with fab := f } ∧ ∀ h < 8, (f.hand p h).state = .empty := by
  refine ⟨(List.range 8).foldl (Fabric.clearHand p) s.fab, rfl, fun h low => ?_⟩
  refine foldl_establishes (P := fun h f => (f.hand p h).state = .empty) (fun f h => ?_) (fun f h j empty => ?_) (List.mem_range.2 low) s.fab
  · rw [Fabric.clearHand_state, if_pos rfl]
  · rw [Fabric.clearHand_state, empty, ite_self]
theorem exec_reclaim {s : State} {p : Nat} {rest : List Order} (order : takeReclaim s.mc.orders = some (p, rest)) (mode : s.aon.mode = some .test) (fallowed : s.plotFallowed p = true) :
    exec (.reclaim [] true) s = .next ((clearHands (((s.onMc fun m => { m with orders := rest }).onMap fun m => { m with bonds := tput [] m.bonds p ([] ++ tget [] m.bonds p) }).onMap
      fun m => { m with plots := m.plots.filter (· != p) }) p).reclaimed 1) := by
  have still : (s.onMc fun m => { m with orders := rest }).plotFallowed p = true := fallowed
  simp only [exec, execReclaim, order, State.onMc_aon, mode, bne_self_eq_false, Bool.false_eq_true, if_false, still, if_true, List.filterMap_nil]
  rfl

/-- Settles O28: the record is what the end packs, and what follows leaves the test's state. -/
theorem selfTestEndsAndReclaims : Obligations.SelfTestEndsAndReclaims := by
  intro s
  refine ⟨fun ops elems sig q running within ends done packed => ?_, fun filling => if_pos filling, fun p rest order mode fallowed => ?_⟩
  · refine ⟨_, exec_selfTestEnd running within ends done, ?_⟩
    rw [endTest_mc packed]
    refine ⟨rfl, rfl, rfl, fun k low => ?_, (completion_verdict ..).trans ?_, fun tile all failing => ?_⟩
    · dsimp only
      rw [qgrant_ended _ _ low]
    · unfold verdict
      split
      · split <;> rfl
      · rfl
    · refine List.contains_iff_mem.2 (endTest_failedTile packed tile ?_)
      rw [verdict, if_pos all, if_neg (by omega)]
  · obtain ⟨f, cleared, hands⟩ := clearHands_parts (((s.onMc fun m => { m with orders := rest }).onMap fun m => { m with bonds := tput [] m.bonds p ([] ++ tget [] m.bonds p) }).onMap
      fun m => { m with plots := m.plots.filter (· != p) }) p
    refine ⟨_, exec_reclaim order mode fallowed, ?_⟩
    rw [cleared]
    refine ⟨rfl, ?_, hands, rfl⟩
    rw [Bool.eq_false_iff]
    intro still
    have kept := List.contains_iff_mem.1 still
    exact absurd (List.mem_filter.1 kept).2 (by simp)

end Sys2Proof.Machine
end

section
/-! PROOF. Slot boundaries, hand commands, contention, the patrol, sparing and wipes (R76-R79, R105-R107, R112-R119, R126, R146, R149). -/

namespace Sys2Proof.Machine

/-! ## Slot boundaries -/

/-- Two yoked plots in Field and, beyond the device's plots, a record numbered 512 with a call of its engine: its column is that of plot 0 too. -/
def strayCall : State :=
  { State.reset with
    aon := { powered := true, mode := some .field }
    fab := {
      plots := [(0, { yoke := true, gated := false }), (512, { gated := false, engCalls := [(0, 0, 5)] })]
      hands := [(4096, { own := 0x80 })]
      slots := [(5, 0x80808000)]
      fplls := [(0, { group := 0, running := true, locked := true }), (8, { group := 0, running := true, locked := true })] } }
/-- The edge that the boundary waits for raises the stray call on plot 0, whose sequencer keeps it as its own. -/
theorem slotBoundary_takes_stray_call : ((slotBoundary strayCall 0).fab.plot 0).call = some { slot := 5, edge := 0, port := 512 } := by decide +kernel

/-- Refutes O31: the statement excludes engine calls of the plot and of its pair that are not yet raised, but the model's tables have no bound on a plot's number. A plot beyond 511 whose column is the yoked pair's raises its call on the same sequencer, so that a sequencer without a call has one after the boundary. -/
theorem not_slotBoundaryStartsNextSlot : ¬ Obligations.SlotBoundaryStartsNextSlot := by
  intro all
  obtain ⟨t, runs, -, -, -, -, -, -, calm, -⟩ := all 0 strayCall (by decide) (.inr (by decide)) rfl rfl
  have same : t = slotBoundary strayCall 0 := (Host.Outcome.next.inj runs).symm
  have none : (t.fab.plot 0).call = none := (calm rfl).2
  rw [same, slotBoundary_takes_stray_call] at none
  cases none

/-! ## What passing edges leave of plots, and of the hands that do not run -/

/-- What passing edges leave of a plot: all but its edge count, values and calls on their way, captures and counters. -/
def Plot.slotView (x : Plot) : Plot :=
  { x with now := 0, transit := [], call := none, engCalls := [], captured := 0, qiSel := 0, qiWas := 0, refusedCalls := 0, lostCalls := 0, kittyOut := 0, kittyLast := none }
/-- Of every plot only what edges change differs, and a hand that is not live keeps its flip-flops. -/
def Fabric.slotKeeps (f g : Fabric) : Prop :=
  (∀ p, (g.plot p).slotView = (f.plot p).slotView) ∧ (∀ p h, (g.hand p h).state = (f.hand p h).state) ∧ ∀ p h, (f.hand p h).state ≠ .live → (g.hand p h).ff = (f.hand p h).ff
theorem Fabric.slotKeeps_refl (f : Fabric) : f.slotKeeps f := ⟨fun _ => rfl, fun _ _ => rfl, fun _ _ _ => rfl⟩
theorem Fabric.slotKeeps_trans {f g k : Fabric} (a : f.slotKeeps g) (b : g.slotKeeps k) : f.slotKeeps k := by
  obtain ⟨plots, states, banks⟩ := a
  obtain ⟨plots', states', banks'⟩ := b
  exact ⟨fun p => (plots' p).trans (plots p), fun p h => (states' p h).trans (states p h), fun p h still => (banks' p h (states p h ▸ still)).trans (banks p h still)⟩
theorem Fabric.slotKeeps_foldl {α : Type} {g : Fabric → α → Fabric} (one : ∀ (f : Fabric) a, f.slotKeeps (g f a)) (l : List α) (f : Fabric) : f.slotKeeps (l.foldl g f) :=
  foldl_related (r := slotKeeps) slotKeeps_refl slotKeeps_trans one l f
theorem Fabric.slotKeeps_setPlot (f : Fabric) (p : Nat) {v : Plot} (same : v.slotView = (f.plot p).slotView) : f.slotKeeps (f.setPlot p v) := by
  refine ⟨fun q => ?_, fun _ _ => rfl, fun _ _ _ => rfl⟩
  rw [setPlot_plot]
  split
  next here => rw [here, same]
  next => rfl
theorem Fabric.slotKeeps_setHand (f : Fabric) (p h : Nat) {v : Hand} (state : v.state = (f.hand p h).state) (bank : (f.hand p h).state ≠ .live → v.ff = (f.hand p h).ff) :
    f.slotKeeps (f.setHand p h v) := by
  have same {q g : Nat} (here : 8 * q + g = 8 * p + h) : f.hand q g = f.hand p h := by unfold hand; rw [here]
  refine ⟨fun _ => rfl, fun q g => ?_, fun q g still => ?_⟩
  · rw [setHand_hand]
    split
    next here => rw [same here, state]
    next => rfl
  · rw [setHand_hand]
    split
    next here =>
      rw [same here] at still ⊢
      exact bank still
    next => rfl
theorem Fabric.slotKeeps_of_same {f g : Fabric} (plots : g.plots = f.plots) (hands : g.hands = f.hands) : f.slotKeeps g := by
  have plot (p : Nat) : g.plot p = f.plot p := by unfold plot; rw [plots]
  have hand (p h : Nat) : g.hand p h = f.hand p h := by unfold hand; rw [hands]
  exact ⟨fun p => by rw [plot], fun p h => by rw [hand], fun p h _ => by rw [hand]⟩
theorem Fabric.deliver_slotKeeps (f : Fabric) (p n : Nat) : f.slotKeeps (f.deliver p n) := by
  refine slotKeeps_trans (slotKeeps_foldl (fun g t => slotKeeps_foldl (fun g d => ?_) _ _) _ f) (slotKeeps_setPlot _ _ rfl)
  split
  · exact slotKeeps_refl g
  · split
    · exact slotKeeps_setHand g _ _ rfl fun _ => rfl
    · exact slotKeeps_refl g
theorem Fabric.loseCall_slotKeeps (f : Fabric) (p : Nat) : f.slotKeeps (f.loseCall p) := slotKeeps_setPlot _ _ rfl
theorem Fabric.raiseCall_slotKeeps (f : Fabric) (p h n e : Nat) : f.slotKeeps (f.raiseCall p h n e) := by
  unfold raiseCall
  dsimp only
  split
  · exact slotKeeps_setPlot _ _ rfl
  · split
    · exact slotKeeps_setPlot _ _ rfl
    · split
      · exact slotKeeps_trans (loseCall_slotKeeps _ _) (slotKeeps_setPlot _ _ rfl)
      · exact loseCall_slotKeeps _ _
theorem Fabric.engineCalls_slotKeeps (f : Fabric) (p : Nat) : f.slotKeeps (f.engineCalls p) := by
  refine slotKeeps_trans (slotKeeps_setPlot f p ?_) (slotKeeps_foldl (fun g _ => raiseCall_slotKeeps g _ _ _ _) _ _)
  rfl
theorem Fabric.ioEdge_slotKeeps (f : Fabric) (l : Option (Nat × (Bool → FabIn))) (d p e : Nat) : f.slotKeeps (f.ioEdge l d p e) :=
  slotKeeps_foldl (fun g b => slotKeeps_of_same (g.setBank_plots b _) (g.setBank_hands b _)) _ _
theorem Fabric.settleBms_slotKeeps (f : Fabric) (p : Nat) : f.slotKeeps (f.settleBms p) := slotKeeps_of_same rfl rfl
/-- A plot's runner is live. -/
theorem Fabric.runner_live {f : Fabric} {p h : Nat} (runs : f.runner p = some h) : (f.hand p h).state = .live := by
  unfold runner at runs
  dsimp only at runs
  split at runs
  · split at runs
    next live =>
      injection runs with same
      rw [← same]
      simpa using (Bool.and_eq_true_iff.1 live).2
    next => cases runs
  · cases runs
/-- A plot's edge, of its hard blocks and its count. -/
def Fabric.tick (f : Fabric) (p : Nat) (c : BitVec 24576) (sel : BitVec 16) : Fabric :=
  f.setPlot p { f.plot p with
    now := (f.plot p).now + 1, captured := c, qiWas := (f.plot p).qiSel, qiSel := sel
    kittyOut := (f.plot p).kittyNext, kittyLast := none
    engCalls := (f.plot p).engCalls.map fun k => (k.1 - 1, k.2) }
theorem Fabric.tick_slotKeeps (f : Fabric) (p : Nat) (c : BitVec 24576) (sel : BitVec 16) : f.slotKeeps (f.tick p c sel) := slotKeeps_setPlot f p rfl
/-- The live hand's edge: its bank steps, and its border values leave. -/
def Fabric.stepHand (f : Fabric) (p h : Nat) (ff : BitVec 32768) (v : BitVec 2048) : Fabric :=
  let f := f.setHand p h { f.hand p h with ff := ff, qoRw := [] }
  f.setPlot p { f.plot p with transit := (f.plot p).transit ++ [(2, h, v)] }
theorem Fabric.stepHand_slotKeeps {f : Fabric} {p h : Nat} (live : (f.hand p h).state = .live) (ff : BitVec 32768) (v : BitVec 2048) : f.slotKeeps (f.stepHand p h ff v) := by
  refine slotKeeps_trans (slotKeeps_setHand f p h ?_ fun still => absurd live still) (slotKeeps_setPlot _ p ?_) <;> rfl
theorem State.edgeOn_idle {s : State} {p : Nat} (idle : s.fab.runner p = none) (t : State) :
    (s.edgeOn t p).fab = ((t.fab.ioEdge none s.aon.free p (s.fab.edgeOf p + 1)).settleBms p).tick p 0 (t.fab.plot p).qiSel := by
  unfold State.edgeOn
  dsimp only
  rw [idle]
  rfl
theorem State.edgeOn_runs {s : State} {p h : Nat} (runs : s.fab.runner p = some h) (t : State) :
    (s.edgeOn t p).fab = (((t.fab.ioEdge (some (h, s.column p h)) s.aon.free p (s.fab.edgeOf p + 1)).settleBms p).stepHand p h (bankStep (s.column p h))
      (BitVec.ofNat 2048 (inputValues (s.column p h) 32768 2048))).tick p (BitVec.ofNat 24576 (inputValues (s.column p h) 0 24576))
        (qiSelects (BitVec.ofNat 24576 (inputValues (s.column p h) 0 24576))) := by
  unfold State.edgeOn
  dsimp only
  rw [runs]
  rfl
theorem State.edgeOn_slotKeeps {s t : State} {p : Nat} (states : ∀ h, (t.fab.hand p h).state = (s.fab.hand p h).state) : t.fab.slotKeeps (s.edgeOn t p).fab := by
  have before (l : Option (Nat × (Bool → FabIn))) : t.fab.slotKeeps ((t.fab.ioEdge l s.aon.free p (s.fab.edgeOf p + 1)).settleBms p) :=
    Fabric.slotKeeps_trans (Fabric.ioEdge_slotKeeps _ _ _ _ _) (Fabric.settleBms_slotKeeps _ _)
  cases runs : s.fab.runner p with
  | none =>
    rw [State.edgeOn_idle runs]
    exact Fabric.slotKeeps_trans (before _) (Fabric.tick_slotKeeps ..)
  | some h =>
    rw [State.edgeOn_runs runs]
    refine Fabric.slotKeeps_trans (Fabric.slotKeeps_trans (before _) (Fabric.stepHand_slotKeeps ?_ _ _)) (Fabric.tick_slotKeeps ..)
    rw [(before _).2.1, states, Fabric.runner_live runs]
theorem State.clockEdge_slotKeeps (s : State) (c : Nat × Nat) : s.fab.slotKeeps (s.clockEdge c).fab := by
  unfold State.clockEdge
  extract_lets on run u near
  have calls : s.fab.slotKeeps u.fab := Fabric.slotKeeps_foldl Fabric.engineCalls_slotKeeps _ _
  have links : u.fab.slotKeeps (near u.fab) := by
    refine Fabric.slotKeeps_foldl (fun g p => ?_) _ _
    split
    · exact Fabric.slotKeeps_refl g
    · exact Fabric.deliver_slotKeeps g p 1
  have runs (l : List Nat) (t : State) (states : ∀ p h, (t.fab.hand p h).state = (u.fab.hand p h).state) : t.fab.slotKeeps (l.foldl (fun t p => u.edgeOn t p) t).fab := by
    induction l generalizing t with
    | nil => exact Fabric.slotKeeps_refl _
    | cons p l ih =>
      have one := State.edgeOn_slotKeeps (s := u) (t := t) (p := p) (states p)
      exact Fabric.slotKeeps_trans one (ih _ fun q h => (one.2.1 q h).trans (states q h))
  exact Fabric.slotKeeps_trans (Fabric.slotKeeps_trans calls links) (runs run (u.onFab near) fun p h => links.2.1 p h)
theorem State.passEdges_slotKeeps (s : State) (p n : Nat) : s.fab.slotKeeps (s.passEdges p n).fab := by
  induction n generalizing s with
  | zero => exact Fabric.slotKeeps_refl _
  | succ n ih => exact Fabric.slotKeeps_trans (s.clockEdge_slotKeeps _) (ih _)
theorem State.toEdge_slotKeeps (s : State) (p e : Nat) : s.fab.slotKeeps (s.toEdge p e).fab := by
  unfold State.toEdge
  split
  · exact Fabric.slotKeeps_refl _
  · exact s.passEdges_slotKeeps _ _
theorem State.passSome_keeps (s : State) (p : Nat) : s.fab.edgeKeeps (s.passSome p).fab ∧ s.fab.slotKeeps (s.passSome p).fab := by
  unfold State.passSome
  dsimp only
  split
  · exact ⟨(s.passEdges_keeps _ _).2, s.passEdges_slotKeeps _ _⟩
  · exact ⟨Fabric.edgeKeeps_refl _, Fabric.slotKeeps_refl _⟩

/-! ## Values on their way reach a stopped clock once -/

theorem mem_tput {α : Type} [DecidableEq α] {d : α} {t : List (Nat × α)} {k : Nat} {v : α} {e : Nat × α} (m : e ∈ tput d t k v) : e = (k, v) ∨ e ∈ t ∧ e.1 ≠ k := by
  have rest {e : Nat × α} (m : e ∈ tdel t k) : e ∈ t ∧ e.1 ≠ k := by simpa [tdel_eq_filter] using m
  unfold tput at m
  split at m
  · exact .inr (rest m)
  · exact ((mem_tins ..).1 m).imp_right rest
theorem tget_eq_or_mem {α : Type} (d : α) (t : List (Nat × α)) (k : Nat) : tget d t k = d ∨ (k, tget d t k) ∈ t := by
  induction t with
  | nil => exact .inl rfl
  | cons e t ih =>
    rw [tget_cons]
    split
    next here => exact .inr (here ▸ List.mem_cons_self)
    next => exact ih.imp_right (List.mem_cons_of_mem _)
/-- Nothing is on its way on a gated plot of plot q's clock. -/
def Fabric.quiet (f : Fabric) (q : Nat) : Prop := ∀ e ∈ f.plots, e.2.gated = true → f.clockOf e.1 = f.clockOf q → e.2.transit = []
theorem Fabric.flush_of_quiet {f : Fabric} {q : Nat} (quiet : f.quiet q) : f.flush q = f := by
  have none_ : (f.plots.filter fun e => e.2.gated && !e.2.transit.isEmpty && f.clockOf e.1 = f.clockOf q) = [] := by
    refine List.filter_eq_nil_iff.2 fun e m => ?_
    simp only [Bool.and_eq_true, decide_eq_true_eq, Bool.not_eq_true', not_and]
    exact fun ⟨gated, some_⟩ clock => by simp [quiet e m gated clock] at some_
  unfold flush
  rw [none_]
  split <;> rfl
theorem Fabric.deliver_plots (f : Fabric) (p n : Nat) :
    (f.deliver p n).plots = tput {} f.plots p { f.plot p with transit := ((f.plot p).transit.filter fun t => !decide (t.1 ≤ n)).map fun t => (t.1 - n, t.2) } := by
  unfold deliver
  dsimp only
  generalize folded : List.foldl _ f _ = g
  have plots : g.plots = f.plots := by
    rw [← folded]
    refine foldl_leaves Fabric.plots (fun f t => foldl_leaves Fabric.plots (fun f d => ?_) _ _) _ _
    split
    · rfl
    · split <;> rfl
  have plot : g.plot p = f.plot p := by unfold Fabric.plot; rw [plots]
  rw [plot]
  change tput {} g.plots p _ = _
  rw [plots]
theorem foldl_max_le {α : Type} (f : α → Nat) (l : List α) (n : Nat) : n ≤ l.foldl (fun m t => max m (f t)) n ∧ ∀ t ∈ l, f t ≤ l.foldl (fun m t => max m (f t)) n := by
  induction l generalizing n with
  | nil => simp
  | cons a l ih =>
    obtain ⟨start, each⟩ := ih (max n (f a))
    refine ⟨le_trans (Nat.le_max_left ..) start, fun t m => ?_⟩
    rcases List.mem_cons.1 m with rfl | m
    · exact le_trans (Nat.le_max_right ..) start
    · exact each t m
/-- All of a plot's values on their way, delivered. -/
def Fabric.deliverAll (f : Fabric) (p : Nat) : Fabric := f.deliver p ((f.plot p).transit.foldl (fun m t => max m t.1) 0)
theorem Fabric.deliverAll_plots (f : Fabric) (p : Nat) : (f.deliverAll p).plots = tput {} f.plots p { f.plot p with transit := [] } := by
  have all := (foldl_max_le (fun t : Nat × Nat × BitVec 2048 => t.1) (f.plot p).transit 0).2
  have none_ : ((f.plot p).transit.filter fun t => !decide (t.1 ≤ (f.plot p).transit.foldl (fun m t => max m t.1) 0)) = [] := by
    refine List.filter_eq_nil_iff.2 fun t m => ?_
    simp [all t m]
  rw [deliverAll, deliver_plots, none_, List.map_nil]
theorem Fabric.slotKeeps_clockOf {f g : Fabric} (keeps : f.slotKeeps g) (plls : g.fplls = f.fplls) (p : Nat) : g.clockOf p = f.clockOf p := by
  have clksel : (g.plot p).clksel = (f.plot p).clksel := congrArg (fun x => x.clksel) (keeps.1 p)
  unfold clockOf fpll
  rw [plls, clksel]
theorem Fabric.deliverAll_clockOf (f : Fabric) (p q : Nat) : (f.deliverAll p).clockOf q = f.clockOf q := by
  refine slotKeeps_clockOf (f.deliver_slotKeeps p _) ?_ q
  have same := congrArg Fabric.fplls (f.deliver_keeps p ((f.plot p).transit.foldl (fun m t => max m t.1) 0)).1
  exact same
theorem Fabric.deliverAlls_plots (l : List Nat) (f : Fabric) : (∀ q, (l.foldl Fabric.deliverAll f).clockOf q = f.clockOf q) ∧
    ∀ e ∈ (l.foldl Fabric.deliverAll f).plots, e.2.transit = [] ∨ e ∈ f.plots ∧ e.1 ∉ l := by
  induction l generalizing f with
  | nil => exact ⟨fun _ => rfl, fun e m => .inr ⟨m, List.not_mem_nil⟩⟩
  | cons p l ih =>
    obtain ⟨clocks, each⟩ := ih (f.deliverAll p)
    refine ⟨fun q => (clocks q).trans (f.deliverAll_clockOf p q), fun e m => ?_⟩
    rcases each e m with empty | ⟨listed, out⟩
    · exact .inl empty
    · rw [deliverAll_plots] at listed
      rcases mem_tput listed with rfl | ⟨old, other⟩
      · exact .inl rfl
      · exact .inr ⟨old, by simp [other, out]⟩
/-- Once the plots of a stopped clock have been flushed, nothing is on its way there. -/
theorem Fabric.flush_quiet {f : Fabric} {q : Nat} (gated : (f.plot q).gated = true) : (f.flush q).quiet q := by
  have flushed : f.flush q = ((f.plots.filter fun e => e.2.gated && !e.2.transit.isEmpty && f.clockOf e.1 = f.clockOf q).map (·.1)).foldl Fabric.deliverAll f := if_pos gated
  rw [flushed]
  generalize named : ((f.plots.filter fun e => e.2.gated && !e.2.transit.isEmpty && f.clockOf e.1 = f.clockOf q).map (·.1)) = l
  obtain ⟨clocks, each⟩ := Fabric.deliverAlls_plots l f
  intro e m stopped clock
  rcases each e m with empty | ⟨old, out⟩
  · exact empty
  · by_contra some_
    rw [clocks, clocks] at clock
    refine out (named ▸ List.mem_map.2 ⟨e, List.mem_filter.2 ⟨old, ?_⟩, rfl⟩)
    simp [stopped, clock, some_]
theorem Fabric.flush_keeps (f : Fabric) (q : Nat) : f.edgeKeeps (f.flush q) ∧ f.slotKeeps (f.flush q) := by
  unfold flush
  split
  · exact ⟨edgeKeeps_foldl _ (fun g p => g.deliver_keeps p _) _ _, slotKeeps_foldl (fun g p => g.deliver_slotKeeps p _) _ _⟩
  · exact ⟨edgeKeeps_refl f, slotKeeps_refl f⟩

/-! ## Gating and the start of a slot -/

/-- Of the fabric only plots' records and the switched bits differ. -/
def Fabric.plotsOnly (f g : Fabric) : Prop := g = { f with plots := g.plots, rbits := g.rbits }
theorem Fabric.plotsOnly_trans {f g k : Fabric} (a : f.plotsOnly g) (b : g.plotsOnly k) : f.plotsOnly k := by
  unfold plotsOnly at a b
  refine b.trans ?_
  rw [a]
theorem Fabric.enterSlot_plotsOnly (f : Fabric) (fallowed : List Nat) (limp : Bool) (p k : Nat) (w : BitVec 32) (e : Nat) : f.plotsOnly (f.enterSlot fallowed limp p k w e) := by
  unfold enterSlot
  dsimp only
  split <;> rfl
theorem Fabric.startSlot_plotsOnly (f : Fabric) (fallowed : List Nat) (limp : Bool) (q k e : Nat) : f.plotsOnly (f.startSlot fallowed limp q k e) := by
  unfold startSlot
  dsimp only
  split
  · exact plotsOnly_trans (enterSlot_plotsOnly ..) (enterSlot_plotsOnly ..)
  · exact enterSlot_plotsOnly ..
theorem Fabric.joinSlot_plotsOnly (f : Fabric) (fallowed : List Nat) (limp : Bool) (p : Nat) : f.plotsOnly (f.joinSlot fallowed limp p) := by
  unfold joinSlot
  dsimp only
  split
  · exact enterSlot_plotsOnly ..
  · rfl
/-- The gate of a sequencer's plot, and of the other plot of its yoke. -/
def Fabric.setGate (f : Fabric) (fallowed : List Nat) (q : Nat) (g : Bool) : Fabric :=
  let f := f.setPlot q { f.plot q with gated := g }
  if f.yoked q && decide (q < 256) then f.setPlot (q + 256) { f.plot (q + 256) with gated := g || fallowed.contains (q + 256) } else f
theorem Fabric.setGate_plotsOnly (f : Fabric) (fallowed : List Nat) (q : Nat) (g : Bool) : f.plotsOnly (f.setGate fallowed q g) := by
  unfold setGate
  dsimp only
  split <;> rfl
/-- Setting the gate of a plot whose clock is quiet, or that runs, changes plots' records alone. -/
theorem Fabric.regate_plotsOnly {f : Fabric} {p : Nat} (calm : (f.plot (f.seqPlot p)).gated = true → f.quiet (f.seqPlot p)) (fallowed : List Nat) (limp : Bool) :
    f.plotsOnly (f.regate fallowed limp p) := by
  unfold regate
  dsimp only
  split
  next opens =>
    rw [flush_of_quiet (calm (Bool.and_eq_true_iff.1 opens).2)]
    exact plotsOnly_trans (f.setGate_plotsOnly fallowed (f.seqPlot p) false) (plotsOnly_trans (g := (f.setGate fallowed (f.seqPlot p) false).setPlot _ _) rfl (startSlot_plotsOnly ..))
  next =>
    split
    · exact f.setGate_plotsOnly fallowed (f.seqPlot p) true
    · rfl

/-! ## GO, PARK and RESTART -/

theorem Fabric.slotKeeps_yoked {f g : Fabric} (keeps : f.slotKeeps g) (p : Nat) : g.yoked p = f.yoked p := congrArg (fun x => x.yoke) (keeps.1 (columnOf p))
theorem Fabric.slotKeeps_seqPlot {f g : Fabric} (keeps : f.slotKeeps g) (p : Nat) : g.seqPlot p = f.seqPlot p := by
  unfold seqPlot
  rw [slotKeeps_yoked keeps]
theorem Fabric.slotKeeps_gated {f g : Fabric} (keeps : f.slotKeeps g) (p : Nat) : (g.plot p).gated = (f.plot p).gated := congrArg (fun x => x.gated) (keeps.1 p)
theorem Fabric.edgeKeeps_storeOf {f g : Fabric} (keeps : f.edgeKeeps g) (p h : Nat) : g.storeOf p h = f.storeOf p h := by
  rw [keeps.1]
  rfl
theorem Fabric.edgeKeeps_own {f g : Fabric} (keeps : f.edgeKeeps g) (p h : Nat) : (g.hand p h).own = (f.hand p h).own := by rw [keeps.2 p h]
theorem Fabric.quiet_setPlot {f : Fabric} {q p : Nat} (calm : f.quiet q) {v : Plot} (transit : v.transit = (f.plot p).transit) (gated : v.gated = (f.plot p).gated)
    (clksel : v.clksel = (f.plot p).clksel) : (f.setPlot p v).quiet q := by
  have clock (j : Nat) : (f.setPlot p v).clockOf j = f.clockOf j := by
    unfold clockOf
    rw [setPlot_plot]
    split
    next here => rw [here, clksel]; rfl
    next => rfl
  intro e m stopped same
  rw [clock, clock] at same
  rcases mem_tput m with rfl | ⟨old, -⟩
  · rcases tget_eq_or_mem ({} : Plot) f.plots p with default | listed
    · rw [transit]
      exact congrArg Plot.transit default
    · rw [transit]
      exact calm _ listed (gated ▸ stopped) same
  · exact calm e old stopped same
/-- A command that only writes the hand's record, or that also ends its slot's run. -/
def Fabric.commands (f g : Fabric) (p h : Nat) (v : Hand) : Prop := g = f.setHand p h v ∨ g = (f.setHand p h v).idleIf p h
theorem Fabric.commands_kept {f g : Fabric} {p h : Nat} {v : Hand} (does : f.commands g p h v) : g.cfg = f.cfg ∧ g.slots = f.slots ∧ g.hand p h = v ∧
    (∀ j, g.yoked j = f.yoked j) ∧ (∀ j, (g.plot j).gated = (f.plot j).gated) ∧ ∀ q, f.quiet q → g.quiet q := by
  have own : (f.setHand p h v).hand p h = v := by rw [setHand_hand, if_pos rfl]
  rcases does with rfl | rfl
  · exact ⟨rfl, rfl, own, fun _ => rfl, fun _ => rfl, fun _ calm => calm⟩
  · unfold idleIf
    split
    · have same (j : Nat) : (((f.setHand p h v).setPlot p { (f.setHand p h v).plot p with idleRest := true }).plot j).gated = (f.plot j).gated ∧
          (((f.setHand p h v).setPlot p { (f.setHand p h v).plot p with idleRest := true }).plot j).yoke = (f.plot j).yoke := by
        rw [setPlot_plot]
        split
        next here => rw [here]; exact ⟨rfl, rfl⟩
        next => exact ⟨rfl, rfl⟩
      exact ⟨rfl, rfl, own, fun j => (same _).2, fun j => (same j).1, fun q calm => quiet_setPlot (f := f.setHand p h v) calm rfl rfl rfl⟩
    · exact ⟨rfl, rfl, own, fun _ => rfl, fun _ => rfl, fun _ calm => calm⟩
section
variable {f : Fabric} {p h : Nat}
theorem Fabric.handCmd_go_sown (sown : (f.hand p h).state = .sown) : f.commands (f.handCmd p h 1) p h { f.hand p h with state := .live, ff := initBank (f.storeOf p h), arrival := 0 } := by
  simp [handCmd, sown, commands, loadHand]
theorem Fabric.handCmd_go_parked (parked : (f.hand p h).state = .parked) : f.commands (f.handCmd p h 1) p h { f.hand p h with state := .live } := by
  simp [handCmd, parked, commands]
theorem Fabric.handCmd_park (live : (f.hand p h).state = .live) : f.commands (f.handCmd p h 2) p h { f.hand p h with state := .parked } := by
  simp [handCmd, live, commands]
theorem Fabric.handCmd_restart (runs : (f.hand p h).state = .live ∨ (f.hand p h).state = .parked) :
    f.commands (f.handCmd p h 3) p h { f.hand p h with state := .live, ff := initBank (f.storeOf p h), arrival := 0 } := by
  rcases runs with state | state <;> simp [handCmd, state, commands, loadHand]
end

/-- The state in which an order to a hand acts. -/
def State.orderMet (s : State) (p h : Nat) : State := if s.fab.slotNames p h then s.passSome p else s
theorem State.orderMet_fabricOnly (s : State) (p h : Nat) : s.fabricOnly (s.orderMet p h) := by
  unfold orderMet
  split
  · exact s.passSome_fabricOnly p
  · rfl
theorem State.orderMet_keeps (s : State) (p h : Nat) : s.fab.edgeKeeps (s.orderMet p h).fab ∧ s.fab.slotKeeps (s.orderMet p h).fab := by
  unfold orderMet
  split
  · exact s.passSome_keeps p
  · exact ⟨Fabric.edgeKeeps_refl _, Fabric.slotKeeps_refl _⟩
section
variable {s : State} {p h cmd : Nat} {rest : List Order}
/-- An order that is carried out leaves the hand as the command does, and gates and slots follow. -/
theorem handOrder_does (order : takeOrder (.hand p h cmd) s.mc.orders = some rest)
    (edges : s.plotEdges (s.fab.seqPlot p) = true ∧ ((s.fab.plot (s.fab.seqPlot p)).gated = false ∨ (s.fab.handCmd p h cmd).namesLive (s.fab.seqPlot p) = true)) {r : Hand → Prop}
    (does : ∀ f : Fabric, s.fab.edgeKeeps f → s.fab.slotKeeps f → ∃ v, f.commands (f.handCmd p h cmd) p h v ∧ r v) :
    handOrder s p h cmd = { s with mc := { s.mc with orders := rest }, fab := (handOrder s p h cmd).fab, aon := { s.aon with free := (handOrder s p h cmd).aon.free } } ∧
      (handOrder s p h cmd).fab.cfg = s.fab.cfg ∧ (handOrder s p h cmd).fab.slots = s.fab.slots ∧ r ((handOrder s p h cmd).fab.hand p h) := by
  set q := s.fab.seqPlot p with q_def
  have goes : ¬(!s.plotEdges q || ((s.fab.plot q).gated && !(s.fab.handCmd p h cmd).namesLive q)) = true := by
    obtain ⟨clocked, gate⟩ := edges
    rcases gate with running | names
    · simp [clocked, running]
    · simp [clocked, names]
  have runs : handOrder s p h cmd = { s.orderMet p h with mc := { (s.orderMet p h).mc with orders := rest }, fab :=
      ((((s.orderMet p h).fab.flush q).handCmd p h cmd).regate s.nv.map.plots s.limp p).joinSlot s.nv.map.plots s.limp p } := by
    unfold handOrder
    rw [order]
    exact if_neg goes
  have met := s.orderMet_fabricOnly p h
  obtain ⟨edgeMet, slotMet⟩ := s.orderMet_keeps p h
  rw [runs]
  generalize s.orderMet p h = u at met edgeMet slotMet
  obtain ⟨edgeFlushed, slotFlushed⟩ := u.fab.flush_keeps q
  have edgeAll := Fabric.edgeKeeps_trans edgeMet edgeFlushed
  have slotAll := Fabric.slotKeeps_trans slotMet slotFlushed
  obtain ⟨v, commands, holds⟩ := does _ edgeAll slotAll
  have calm : (u.fab.plot q).gated = true → (u.fab.flush q).quiet q := Fabric.flush_quiet
  have gated := Fabric.slotKeeps_gated slotFlushed q
  have seq := Fabric.slotKeeps_seqPlot slotAll p
  generalize u.fab.flush q = f at edgeAll slotAll commands calm gated seq
  obtain ⟨cfg, slots, hand, yoked, gates, quiets⟩ := Fabric.commands_kept commands
  generalize f.handCmd p h cmd = g at commands cfg slots hand yoked gates quiets
  have place : g.seqPlot p = q := by
    rw [q_def, ← seq]
    unfold Fabric.seqPlot
    rw [yoked]
  have regated : g.plotsOnly (g.regate s.nv.map.plots s.limp p) := by
    refine Fabric.regate_plotsOnly (fun stopped => ?_) _ _
    rw [place] at stopped ⊢
    exact quiets q (calm (by rw [← gated, ← gates, stopped]))
  have joined := Fabric.plotsOnly_trans regated (Fabric.joinSlot_plotsOnly _ s.nv.map.plots s.limp p)
  generalize (g.regate s.nv.map.plots s.limp p).joinSlot s.nv.map.plots s.limp p = k at joined
  unfold Fabric.plotsOnly at joined
  refine ⟨?_, ?_, ?_, ?_⟩
  · unfold State.fabricOnly at met
    rw [met]
  · dsimp only
    rw [joined]
    refine cfg.trans ?_
    rw [edgeAll.1]
  · dsimp only
    rw [joined]
    refine slots.trans ?_
    rw [edgeAll.1]
  · dsimp only
    rw [joined]
    change r (g.hand p h)
    rw [hand]
    exact holds
end
theorem handOrder_waits {s : State} {p : Nat} (stopped : s.plotEdges (s.fab.seqPlot p) = false) (h cmd : Nat) : handOrder s p h cmd = s := by
  unfold handOrder
  split
  · rfl
  · exact if_pos (by rw [stopped]; rfl)

/-- Settles O33: the command acts after edges and a flush, neither of which changes what it reads of the hand. -/
theorem handCommands : Obligations.HandCommands := by
  intro p h s rest q x edges kept fresh
  have starts {f : Fabric} (edge : s.fab.edgeKeeps f) : ({ f.hand p.val h.val with state := .live, ff := initBank (f.storeOf p.val h.val), arrival := 0 } : Hand).own = x.own ∧
      initBank (f.storeOf p.val h.val) = initBank (s.fab.storeOf p.val h.val) := by
    rw [Fabric.edgeKeeps_storeOf edge]
    exact ⟨Fabric.edgeKeeps_own edge p.val h.val, rfl⟩
  refine ⟨fun order does => ⟨fun sown => ?_, fun parked => ?_⟩, fun order does live => ?_, fun order does runs => ?_, fun stopped => ?_⟩
  · obtain ⟨frame, cfg, slots, own, state, bank, arrival⟩ := handOrder_does order does
      (r := fun v => v.own = x.own ∧ v.state = .live ∧ v.ff = initBank (s.fab.storeOf p.val h.val) ∧ v.arrival = 0)
      fun f edge slot => ⟨_, Fabric.handCmd_go_sown ((slot.2.1 _ _).trans sown), (starts edge).1, rfl, (starts edge).2, rfl⟩
    exact ⟨_, rfl, ⟨frame, cfg, slots, own⟩, state, bank, arrival⟩
  · obtain ⟨frame, cfg, slots, own, state, bank⟩ := handOrder_does order does (r := fun v => v.own = x.own ∧ v.state = .live ∧ v.ff = x.ff)
      fun f edge slot => ⟨_, Fabric.handCmd_go_parked ((slot.2.1 _ _).trans parked), Fabric.edgeKeeps_own edge p.val h.val, rfl, slot.2.2 _ _ (by rw [parked]; decide)⟩
    exact ⟨_, rfl, ⟨frame, cfg, slots, own⟩, state, bank⟩
  · obtain ⟨frame, cfg, slots, own, state⟩ := handOrder_does order does (r := fun v => v.own = x.own ∧ v.state = .parked)
      fun f edge slot => ⟨_, Fabric.handCmd_park ((slot.2.1 _ _).trans live), Fabric.edgeKeeps_own edge p.val h.val, rfl⟩
    exact ⟨_, rfl, ⟨frame, cfg, slots, own⟩, state⟩
  · obtain ⟨frame, cfg, slots, own, state, bank, arrival⟩ := handOrder_does order does
      (r := fun v => v.own = x.own ∧ v.state = .live ∧ v.ff = initBank (s.fab.storeOf p.val h.val) ∧ v.arrival = 0)
      fun f edge slot => ⟨_, Fabric.handCmd_restart (by rw [slot.2.1]; exact runs), (starts edge).1, rfl, (starts edge).2, rfl⟩
    exact ⟨_, rfl, ⟨frame, cfg, slots, own⟩, state, bank, arrival⟩
  · exact ⟨congrArg _ (handOrder_waits stopped ..), congrArg _ (handOrder_waits stopped ..), congrArg _ (handOrder_waits stopped ..)⟩

/-! ## Contention -/

/-- What a fight on a wire leaves of a plot: what edges leave, but for the wires between levels and the disabled ones. -/
def Plot.runView (x : Plot) : Plot := { x.slotView with between := [], disabled := [] }
/-- Configuration, owners and states of hands, and every plot's slot, gate and rest are the same. -/
def Fabric.runKeeps (f g : Fabric) : Prop :=
  g.cfg = f.cfg ∧ (∀ p h, (g.hand p h).own = (f.hand p h).own) ∧ (∀ p h, (g.hand p h).state = (f.hand p h).state) ∧ ∀ p, (g.plot p).runView = (f.plot p).runView
theorem Fabric.runKeeps_refl (f : Fabric) : f.runKeeps f := ⟨rfl, fun _ _ => rfl, fun _ _ => rfl, fun _ => rfl⟩
theorem Fabric.runKeeps_trans {f g k : Fabric} (a : f.runKeeps g) (b : g.runKeeps k) : f.runKeeps k := by
  obtain ⟨cfg, own, state, view⟩ := a
  obtain ⟨cfg', own', state', view'⟩ := b
  exact ⟨cfg'.trans cfg, fun p h => (own' p h).trans (own p h), fun p h => (state' p h).trans (state p h), fun p => (view' p).trans (view p)⟩
theorem Fabric.runKeeps_of_edges {f g : Fabric} (edge : f.edgeKeeps g) (slot : f.slotKeeps g) : f.runKeeps g :=
  ⟨by rw [edge.1], fun p h => edgeKeeps_own edge p h, slot.2.1, fun p => congrArg (fun x : Plot => { x with between := [], disabled := [] }) (slot.1 p)⟩
theorem State.toEdge_runKeeps (s : State) (p e : Nat) : s.fab.runKeeps (s.toEdge p e).fab := Fabric.runKeeps_of_edges (s.toEdge_keeps p e).2 (s.toEdge_slotKeeps p e)
theorem State.toEdge_disabled (s : State) (p e j : Nat) : ((s.toEdge p e).fab.plot j).disabled = (s.fab.plot j).disabled :=
  congrArg (fun x => x.disabled) ((s.toEdge_slotKeeps p e).1 j)
/-- Changing some plots' records of their wires. -/
def Fabric.onWires (g : Plot → Plot) (l : List Nat) (f : Fabric) : Fabric := l.foldl (fun f x => f.setPlot x (g (f.plot x))) f
theorem Fabric.onWires_runKeeps {g : Plot → Plot} (wires : ∀ x, (g x).runView = x.runView) (l : List Nat) (f : Fabric) : f.runKeeps (f.onWires g l) := by
  refine foldl_related (r := runKeeps) (g := fun f x => f.setPlot x (g (f.plot x))) runKeeps_refl runKeeps_trans (fun f x => ⟨rfl, fun _ _ => rfl, fun _ _ => rfl, fun p => ?_⟩) l f
  rw [setPlot_plot]
  split
  next here => rw [here, wires]
  next => rfl
/-- A wire that is disabled on each of some plots is disabled there. -/
theorem Fabric.onWires_disabled {wire : Nat} {g : Plot → Plot} (adds : ∀ x, (g x).disabled = wire :: x.disabled) {l : List Nat} {p : Nat} (m : p ∈ l) (f : Fabric) :
    wire ∈ ((f.onWires g l).plot p).disabled := by
  refine foldl_establishes (P := fun p f => wire ∈ (f.plot p).disabled) (fun f x => ?_) (fun f x y listed => ?_) m f
  · rw [setPlot_plot, if_pos rfl, adds]
    exact List.mem_cons_self
  · rw [setPlot_plot]
    split
    next here => rw [adds, ← here]; exact List.mem_cons_of_mem _ listed
    next => exact listed
theorem State.wireFight_eq (s : State) (p wire edge khz : Nat) (ps : List Nat) : ∃ n, s.wireFight p wire edge khz ps =
    ((((s.toEdge p (edge - 1 - n)).onFab (Fabric.onWires (fun x => { x with between := wire :: x.between }) ps)).toEdge p (edge - 1)).onFab
      (Fabric.onWires (fun x => { x with between := x.between.filter (· ≠ wire), disabled := wire :: x.disabled }) ps)).toEdge p edge := ⟨_, rfl⟩
theorem State.toEdge_fabricOnly (s : State) (p e : Nat) : s.fabricOnly (s.toEdge p e) := (s.toEdge_keeps p e).1
theorem State.wireFight_keeps (s : State) (p wire edge khz : Nat) {ps : List Nat} (named : p ∈ ps) :
    s.fabricOnly (s.wireFight p wire edge khz ps) ∧ s.fab.runKeeps (s.wireFight p wire edge khz ps).fab ∧ wire ∈ ((s.wireFight p wire edge khz ps).fab.plot p).disabled := by
  obtain ⟨n, e⟩ := s.wireFight_eq p wire edge khz ps
  rw [e]
  have first := s.toEdge_fabricOnly p (edge - 1 - n)
  have kept := s.toEdge_runKeeps p (edge - 1 - n)
  generalize s.toEdge p (edge - 1 - n) = a at first kept
  have between := Fabric.onWires_runKeeps (g := fun x => { x with between := wire :: x.between }) (fun _ => rfl) ps a.fab
  set b := a.onFab (Fabric.onWires (fun x => { x with between := wire :: x.between }) ps) with b_def
  have second := b.toEdge_fabricOnly p (edge - 1)
  have kept2 := b.toEdge_runKeeps p (edge - 1)
  generalize b.toEdge p (edge - 1) = c at second kept2
  have off := Fabric.onWires_runKeeps (g := fun x => { x with between := x.between.filter (· ≠ wire), disabled := wire :: x.disabled }) (fun _ => rfl) ps c.fab
  have listed := Fabric.onWires_disabled (g := fun x => { x with between := x.between.filter (· ≠ wire), disabled := wire :: x.disabled }) (wire := wire) (fun _ => rfl) named c.fab
  set d := c.onFab (Fabric.onWires (fun x => { x with between := x.between.filter (· ≠ wire), disabled := wire :: x.disabled }) ps) with d_def
  have ab : a.fabricOnly b := rfl
  have cd : c.fabricOnly d := rfl
  refine ⟨?_, ?_, ?_⟩
  · exact State.fabricOnly_trans first (State.fabricOnly_trans ab (State.fabricOnly_trans second (State.fabricOnly_trans cd (d.toEdge_fabricOnly p edge))))
  · exact Fabric.runKeeps_trans kept (Fabric.runKeeps_trans between (Fabric.runKeeps_trans kept2 (Fabric.runKeeps_trans off (d.toEdge_runKeeps p edge))))
  · rw [State.toEdge_disabled]
    exact listed

/-- The stop of a hand: its open packets rewound, its state frozen, its slot's rest idle. -/
def State.frozenHand (s : State) (p h : Nat) : State := ((s.showStops (isHand p h)).onFab fun f => f.freeze p h).onNet fun n => n.stopHand p h
theorem Fabric.freeze_hand (f : Fabric) (p h j k : Nat) : (f.freeze p h).hand j k = if 8 * j + k = 8 * p + h then { f.hand p h with state := .frozen } else f.hand j k := by
  unfold freeze
  dsimp only
  split <;> exact Fabric.setHand_hand ..
theorem Fabric.freeze_plot (f : Fabric) (p h j : Nat) : (f.freeze p h).plot j = if j = p ∧ (f.plot p).live = some h then { f.plot p with idleRest := true } else f.plot j := by
  unfold freeze
  dsimp only
  by_cases runs : (f.plot p).live = some h
  · rw [if_pos (show ((f.setHand p h _).plot p).live = some h from runs), setPlot_plot]
    by_cases here : j = p
    · rw [if_pos here, if_pos ⟨here, runs⟩]
      rfl
    · rw [if_neg here, if_neg fun both => here both.1]
      rfl
  · rw [if_neg (show ¬((f.setHand p h _).plot p).live = some h from runs), if_neg fun both => runs both.2]
    rfl
section
variable (s : State) (p h : Nat)
theorem State.frozenHand_parts : ∃ f n, s.frozenHand p h = { s with fab := f, net := n } := ⟨_, _, rfl⟩
theorem State.frozenHand_cfg : (s.frozenHand p h).fab.cfg = s.fab.cfg := by
  change (Fabric.freeze _ p h).cfg = _
  unfold Fabric.freeze
  dsimp only
  split <;> rfl
theorem State.frozenHand_own (j k : Nat) : ((s.frozenHand p h).fab.hand j k).own = (s.fab.hand j k).own := by
  change ((Fabric.freeze _ p h).hand j k).own = _
  have same {j k : Nat} (here : 8 * j + k = 8 * p + h) : s.fab.hand j k = s.fab.hand p h := by unfold Fabric.hand; rw [here]
  rw [Fabric.freeze_hand]
  split
  next here =>
    obtain ⟨r, shown⟩ := s.showStops_hand (isHand p h) p h
    rw [shown, same here]
  next =>
    obtain ⟨r, shown⟩ := s.showStops_hand (isHand p h) j k
    rw [shown]
theorem State.frozenHand_state (j k : Nat) : ((s.frozenHand p h).fab.hand j k).state = if 8 * j + k = 8 * p + h then .frozen else (s.fab.hand j k).state := by
  change ((Fabric.freeze _ p h).hand j k).state = _
  rw [Fabric.freeze_hand]
  split
  · rfl
  · obtain ⟨r, shown⟩ := s.showStops_hand (isHand p h) j k
    rw [shown]
theorem State.frozenHand_plot (j : Nat) : (s.frozenHand p h).fab.plot j = if j = p ∧ (s.fab.plot p).live = some h then { s.fab.plot p with idleRest := true } else s.fab.plot j :=
  Fabric.freeze_plot ..
theorem State.frozenHand_gate (j : Nat) : ((s.frozenHand p h).fab.plot j).gated = (s.fab.plot j).gated ∧ ((s.frozenHand p h).fab.plot j).yoke = (s.fab.plot j).yoke := by
  rw [State.frozenHand_plot]
  split
  next here => rw [here.1]; exact ⟨rfl, rfl⟩
  next => exact ⟨rfl, rfl⟩
end
/-- Gating a plot that runs changes gates alone. -/
theorem Fabric.regate_running {f : Fabric} {p : Nat} (running : (f.plot (f.seqPlot p)).gated = false) (fallowed : List Nat) (limp : Bool) :
    (f.regate fallowed limp p).hands = f.hands ∧ (f.regate fallowed limp p).cfg = f.cfg ∧ ∀ j, { (f.regate fallowed limp p).plot j with gated := false } = { f.plot j with gated := false } := by
  have gates (q j : Nat) : { (f.setGate fallowed q true).plot j with gated := false } = { f.plot j with gated := false } := by
    have one (f : Fabric) (q : Nat) (g : Bool) : { (f.setPlot q { f.plot q with gated := g }).plot j with gated := false } = { f.plot j with gated := false } := by
      rw [setPlot_plot]
      split
      next here => rw [here]
      next => rfl
    unfold setGate
    dsimp only
    split
    · rw [one, one]
    · exact one ..
  unfold regate
  dsimp only
  split
  next opens =>
    rw [running] at opens
    cases (Bool.and_eq_true_iff.1 opens).2
  next =>
    split
    · have only := f.setGate_plotsOnly fallowed (f.seqPlot p) true
      have kept : (f.setGate fallowed (f.seqPlot p) true).hands = f.hands ∧ (f.setGate fallowed (f.seqPlot p) true).cfg = f.cfg := by
        rw [only]
        exact ⟨rfl, rfl⟩
      exact ⟨kept.1, kept.2, gates _⟩
    · exact ⟨rfl, rfl, fun _ => rfl⟩
section
variable {p : PlotIx} {h : HandIx} {kind : Fin 3} {rowcol pos : Fin 16} {track : Fin 32} {s : State} {edge : Nat}
/-- A fight that the sensor finds freezes the hand, and the other hand of a yoke where that drives the wire too. -/
theorem exec_contention (drivers : BitVec 5) (live : s.liveHand p.val = some h.val)
    (drives : s.fab.drivesWire p.val h.val kind.val rowcol.val (if kind.val = 2 then pos.val else 0) (if kind.val = 2 then track.val else track.val % 16) = true)
    (ahead : s.fab.edgeOf p.val < edge) (within : edge ≤ (s.fab.plot p.val).start + dwellOf (s.fab.plot p.val).word) :
    ∃ ps khz u l, p.val ∈ ps ∧
      (u = (s.wireFight p.val (wireNo kind.val rowcol.val (if kind.val = 2 then pos.val else 0) (if kind.val = 2 then track.val else track.val % 16)) edge khz ps).frozenHand p.val h.val ∨
        ∃ h2, kind.val = 2 ∧ s.fab.drivesWire (pairOf p.val) h2 kind.val rowcol.val (if kind.val = 2 then pos.val else 0) (if kind.val = 2 then track.val else track.val % 16) = true ∧
          u = ((s.wireFight p.val (wireNo kind.val rowcol.val (if kind.val = 2 then pos.val else 0) (if kind.val = 2 then track.val else track.val % 16)) edge khz ps).frozenHand
            p.val h.val).frozenHand (pairOf p.val) h2) ∧
      exec (.contention p h kind rowcol pos track drivers edge) s = .next ((u.onFab fun f => f.regate u.nv.map.plots u.limp p.val).raiseAll l) := by
  have goes : ¬(h.val != h.val || !s.fab.drivesWire p.val h.val kind.val rowcol.val (if kind.val = 2 then pos.val else 0) (if kind.val = 2 then track.val else track.val % 16)
      || decide (edge ≤ s.fab.edgeOf p.val) || decide ((s.fab.plot p.val).start + dwellOf (s.fab.plot p.val).word < edge)) = true := by
    simp [drives]
    omega
  have named : p.val ∈ if kind.val = 2 && s.fab.yoked p.val then [p.val, pairOf p.val] else [p.val] := by split <;> simp
  change ∃ ps khz u l, _ ∧ _ ∧ execContention .. = _
  unfold execContention
  dsimp only
  rw [live]
  dsimp only
  rw [if_neg goes]
  generalize met : (if kind.val = 2 && s.fab.yoked p.val then s.fab.runner (pairOf p.val) else none : Option Nat) = other
  cases other with
  | none => exact ⟨_, _, _, _, named, .inl rfl, rfl⟩
  | some h2 =>
    have vertical : kind.val = 2 := by
      by_contra flat
      simp [flat] at met
    dsimp only
    by_cases also : s.fab.drivesWire (pairOf p.val) h2 kind.val rowcol.val (if kind.val = 2 then pos.val else 0) (if kind.val = 2 then track.val else track.val % 16) = true
    · simp only [also, if_true]
      exact ⟨_, _, _, _, named, .inr ⟨h2, vertical, also, rfl⟩, rfl⟩
    · simp only [also, if_false, Bool.false_eq_true]
      exact ⟨_, _, _, _, named, .inl rfl, rfl⟩
end
/-- What the freezing of hand h of plot p leaves, where another plot's hand may be frozen with it. -/
def State.foughtOver (w u : State) (p q : Nat) (other : Nat → Prop) : Prop :=
  (∃ f n, u = { w with fab := f, net := n }) ∧ u.fab.cfg = w.fab.cfg ∧ (∀ j k, (u.fab.hand j k).own = (w.fab.hand j k).own) ∧
    u.fab.plot p = { w.fab.plot p with idleRest := true } ∧ (∀ j, (u.fab.plot j).gated = (w.fab.plot j).gated ∧ (u.fab.plot j).yoke = (w.fab.plot j).yoke) ∧
    ∀ g < 8, ¬other g → (u.fab.hand q g).state = (w.fab.hand q g).state
theorem pairOf_ne (p : Nat) : pairOf p ≠ p := by
  unfold pairOf
  split <;> omega
theorem frozenHand_foughtOver {w : State} {p h : Nat} (low : h < 8) (runs : (w.fab.plot p).live = some h) (other : Nat → Prop) :
    w.foughtOver (w.frozenHand p h) p (pairOf p) other ∧ ((w.frozenHand p h).fab.hand p h).state = .frozen := by
  have apart := pairOf_ne p
  refine ⟨⟨w.frozenHand_parts p h, w.frozenHand_cfg p h, w.frozenHand_own p h, ?_, w.frozenHand_gate p h, fun g small _ => ?_⟩, ?_⟩
  · rw [State.frozenHand_plot, if_pos ⟨rfl, runs⟩]
  · rw [State.frozenHand_state, if_neg (by omega)]
  · rw [State.frozenHand_state, if_pos rfl]
theorem frozenHands_foughtOver {w : State} {p h h2 : Nat} {other : Nat → Prop} (low : h < 8) (runs : (w.fab.plot p).live = some h) (drives : other h2) :
    w.foughtOver ((w.frozenHand p h).frozenHand (pairOf p) h2) p (pairOf p) other ∧ (((w.frozenHand p h).frozenHand (pairOf p) h2).fab.hand p h).state = .frozen := by
  obtain ⟨⟨⟨f, n, e⟩, cfg, own, plot, gates, hands⟩, frozen⟩ := frozenHand_foughtOver low runs other
  have apart := pairOf_ne p
  generalize w.frozenHand p h = u at e cfg own plot gates hands frozen
  obtain ⟨f', n', e'⟩ := u.frozenHand_parts (pairOf p) h2
  refine ⟨⟨⟨f', n', by rw [e', e]⟩, (u.frozenHand_cfg _ _).trans cfg, fun j k => (u.frozenHand_own _ _ j k).trans (own j k), ?_, fun j => ?_, fun g small out => ?_⟩, ?_⟩
  · rw [State.frozenHand_plot, if_neg fun both => apart both.1.symm, plot]
  · obtain ⟨gated, yoke⟩ := u.frozenHand_gate (pairOf p) h2 j
    exact ⟨gated.trans (gates j).1, yoke.trans (gates j).2⟩
  · have differs : g ≠ h2 := fun same => out (same ▸ drives)
    rw [State.frozenHand_state, if_neg (by omega)]
    exact hands g small out
  · rw [State.frozenHand_state]
    split
    · rfl
    · exact frozen

/-- Settles O34: the fight's edges leave owners, states and configuration; the hands that drive the wire are frozen, and their plots' slots end idle. -/
theorem contentionFreezes : Obligations.ContentionFreezes := by
  intro p h kind rowcol pos track drivers edge s x pos' tr q live drives ahead within
  obtain ⟨ps, khz, u, l, named, which, runs⟩ := exec_contention drivers live drives ahead within
  obtain ⟨only, ⟨cfg, own, state, view⟩, listed⟩ := s.wireFight_keeps p.val (wireNo kind.val rowcol.val pos' tr) edge khz named
  have on : s.fab.runner p.val = some h.val ∧ (s.fab.plot (s.fab.seqPlot p.val)).gated = false := by
    unfold State.liveHand at live
    split at live
    next clocked => exact ⟨live, by simpa using (Bool.and_eq_true_iff.1 clocked).2⟩
    next => cases live
  have slot : (s.fab.plot p.val).live = some h.val := by
    have run := on.1
    unfold Fabric.runner at run
    dsimp only at run
    split at run
    next g found =>
      split at run
      · exact found.trans run
      · cases run
    next => cases run
  change u = (s.wireFight p.val (wireNo kind.val rowcol.val pos' tr) edge khz ps).frozenHand p.val h.val ∨ ∃ h2, kind.val = 2 ∧ s.fab.drivesWire q h2 kind.val rowcol.val pos' tr = true ∧
    u = ((s.wireFight p.val (wireNo kind.val rowcol.val pos' tr) edge khz ps).frozenHand p.val h.val).frozenHand q h2 at which
  generalize s.wireFight p.val (wireNo kind.val rowcol.val pos' tr) edge khz ps = w at only cfg own state view listed which
  have slotW : (w.fab.plot p.val).live = some h.val := (congrArg (fun x => x.live) (view p.val)).trans slot
  have fought : w.foughtOver u p.val q (fun g => kind.val = 2 ∧ s.fab.drivesWire q g kind.val rowcol.val pos' tr = true) ∧ (u.fab.hand p.val h.val).state = .frozen := by
    rcases which with rfl | ⟨h2, vertical, also, rfl⟩
    · exact frozenHand_foughtOver h.isLt slotW _
    · exact frozenHands_foughtOver h.isLt slotW ⟨vertical, also⟩
  obtain ⟨⟨⟨f, n, parts⟩, cfgU, ownU, plotU, gates, others⟩, frozen⟩ := fought
  have place : u.fab.seqPlot p.val = s.fab.seqPlot p.val := by
    have yoke : (u.fab.plot (columnOf p.val)).yoke = (s.fab.plot (columnOf p.val)).yoke := (gates _).2.trans (congrArg (fun x => x.yoke) (view _))
    unfold Fabric.seqPlot Fabric.yoked
    rw [yoke]
  have running : (u.fab.plot (u.fab.seqPlot p.val)).gated = false := by
    rw [place, (gates _).1]
    exact (congrArg (fun x => x.gated) (view _)).trans on.2
  obtain ⟨handsR, cfgR, plotsR⟩ := Fabric.regate_running running u.nv.map.plots u.limp
  have hand (j k : Nat) : (u.fab.regate u.nv.map.plots u.limp p.val).hand j k = u.fab.hand j k := by
    unfold Fabric.hand
    rw [handsR]
  have plot := plotsR p.val
  rw [plotU] at plot
  refine ⟨_, runs, ?_, ?_, ?_, fun j k => ?_, ?_, ?_, fun g small still => ?_⟩
  · unfold State.fabricOnly at only
    rw [parts, only]
    rfl
  · exact (congrArg Hand.state (hand _ _)).trans frozen
  · exact cfgR.trans (cfgU.trans cfg)
  · exact (congrArg Hand.own (hand _ _)).trans ((ownU j k).trans (own j k))
  · have idle := congrArg Plot.idleRest plot
    exact idle
  · have wires := congrArg Plot.disabled plot
    refine List.contains_iff_mem.2 ?_
    change _ ∈ ((u.fab.regate u.nv.map.plots u.limp p.val).plot p.val).disabled
    exact wires ▸ listed
  · refine (congrArg Hand.state (hand _ _)).trans ((others g small fun both => ?_).trans (state _ _))
    rcases still with no | flat
    · exact absurd (no.symm.trans both.2) (by decide)
    · exact flat both.1

/-! ## The patrol of configuration, bonds, wipes -/

/-- Fabric, queues, seats and the draw counter may differ; configuration bits do not. -/
def State.storesKept (s t : State) : Prop := t = { s with fab := t.fab, net := t.net, seats := t.seats, aon := { s.aon with free := t.aon.free } } ∧ t.fab.cfg = s.fab.cfg
theorem State.storesKept_refl (s : State) : s.storesKept s := ⟨rfl, rfl⟩
theorem State.storesKept_trans {s t u : State} (a : s.storesKept t) (b : t.storesKept u) : s.storesKept u := by
  obtain ⟨only, cfg⟩ := a
  obtain ⟨only', cfg'⟩ := b
  refine ⟨?_, cfg'.trans cfg⟩
  refine only'.trans ?_
  rw [only]
theorem State.storesKept_onFab (s : State) {g : Fabric → Fabric} (cfg : (g s.fab).cfg = s.fab.cfg) : s.storesKept (s.onFab g) := ⟨rfl, cfg⟩
theorem Fabric.regate_cfg (f : Fabric) (fallowed : List Nat) (limp : Bool) (p : Nat) : (f.regate fallowed limp p).cfg = f.cfg := by
  have flushed : (f.flush (f.seqPlot p)).cfg = f.cfg := by rw [(f.flush_keeps (f.seqPlot p)).1.1]
  have gated (f : Fabric) (q : Nat) (g : Bool) : (f.setGate fallowed q g).cfg = f.cfg := by rw [f.setGate_plotsOnly fallowed q g]
  have started (f : Fabric) (q k e : Nat) : (f.startSlot fallowed limp q k e).cfg = f.cfg := by rw [f.startSlot_plotsOnly fallowed limp q k e]
  unfold regate
  dsimp only
  split
  · rw [started]
    exact (gated (f.flush (f.seqPlot p)) (f.seqPlot p) false).trans flushed
  · split
    · exact gated f (f.seqPlot p) true
    · rfl
theorem State.passSome_storesKept (s : State) (p : Nat) : s.storesKept (s.passSome p) := by
  refine ⟨?_, by rw [(s.passSome_keeps p).1.1]⟩
  have only := s.passSome_fabricOnly p
  unfold fabricOnly at only
  rw [only]
theorem Fabric.freeze_cfg (f : Fabric) (p h : Nat) : (f.freeze p h).cfg = f.cfg := by
  unfold freeze
  dsimp only
  split <;> rfl
theorem freezeHand_storesKept (s : State) (p h : Nat) : s.storesKept (freezeHand s p h) := by
  have frozen (u : State) : u.storesKept (u.onFab fun f => (f.freeze p h).regate u.nv.map.plots u.limp p) :=
    u.storesKept_onFab ((Fabric.regate_cfg ..).trans (Fabric.freeze_cfg ..))
  have met : s.storesKept (if (s.fab.plot p).live = some h then s.passSome p else s) := by
    split
    · exact s.passSome_storesKept p
    · exact s.storesKept_refl
  unfold freezeHand
  split
  case h_4 => exact s.storesKept_refl
  all_goals exact State.storesKept_trans met (frozen _)
theorem patrolPlot_storesKept (s : State) (p h w : Nat) (upset : BitVec 72) : s.storesKept (patrolPlot s p h w upset) := by
  unfold patrolPlot
  extract_lets f x e n correct frozen stopped double
  have corrected (m : BitVec 72) : s.storesKept (correct m) := s.storesKept_onFab rfl
  have held : s.storesKept stopped :=
    State.storesKept_trans (s.storesKept_onFab rfl) (State.storesKept_trans (freezeHand_storesKept _ p h) (t := frozen) (u := stopped) ⟨rfl, rfl⟩)
  have doubled : s.storesKept double := by
    unfold double
    split
    · exact State.storesKept_trans held ⟨rfl, rfl⟩
    · exact held
  split
  · refine s.storesKept_onFab ?_
    split <;> rfl
  · split
    · exact s.storesKept_refl
    · split
      · exact corrected _
      · split
        · exact doubled
        · split
          · exact corrected _
          · exact doubled
theorem exec_configPatrol {s : State} (on : s.clocksOn = true) (upsets : List (PlotIx × BitVec 72)) :
    ∃ u, s.storesKept u ∧ exec (.configPatrol upsets) s = .next (u.onFab fun f => { f with patrol := (s.fab.patrol + 1) % 368640 }) := by
  refine ⟨(List.range 512).foldl (fun u p => patrolPlot u p (s.fab.patrol / handWords) (s.fab.patrol % handWords)
    ((upsets.filter fun u => u.1.val == p).foldl (fun m u => m ^^^ u.2) 0)) s, ?_, ?_⟩
  · exact foldl_related (r := State.storesKept) State.storesKept_refl State.storesKept_trans (fun u p => patrolPlot_storesKept u p _ _ _) _ s
  · exact if_neg (by rw [on]; exact Bool.false_ne_true)
theorem exec_bondSpared {s : State} {p : PlotIx} {g : Fin 11520} {b : BitVec 8} (on : s.clocksOn = true)
    (due : (s.fab.plot p.val).bondsDue.find? (fun b => b.1 = g.val) = some (g.val, b)) :
    ∃ l, exec (.bondSpared p g) s = .next (((s.onFab fun f => f.setPlot p.val { s.fab.plot p.val with bondsDue := (s.fab.plot p.val).bondsDue.filter fun b => b.1 != g.val }).onMap
      fun m => { m with bonds := tput [] m.bonds p.val (g.val :: tget [] m.bonds p.val) }).raiseAll l) := by
  simp only [exec, execBondSpared, due, on, Bool.not_true, Bool.false_eq_true, if_false]
  exact ⟨_, rfl⟩

/-- Settles O35: the patrol's corrections and freezes leave the stored bits; sparing and the end of a wipe are single updates. -/
theorem patrolBondsAndWipes : Obligations.PatrolBondsAndWipes := by
  intro s
  refine ⟨fun upsets on => ?_, fun p g b on due => ?_, fun p h => ⟨_, rfl, rfl, ?_, fun j k other => ?_⟩⟩
  · obtain ⟨u, ⟨only, cfg⟩, runs⟩ := exec_configPatrol on upsets
    refine ⟨_, runs, rfl, cfg, ?_, ?_, ?_⟩
    all_goals
      rw [only]
      rfl
  · obtain ⟨l, runs⟩ := exec_bondSpared on due
    refine ⟨_, runs, ?_, rfl, ?_, rfl⟩
    · change tget [] (tput [] s.nv.map.bonds p.val (g.val :: tget [] s.nv.map.bonds p.val)) p.val = _
      rw [tget_tput, if_pos rfl]
    · change ((s.fab.setPlot p.val _).plot p.val).bondsDue = _
      rw [Fabric.setPlot_plot, if_pos rfl]
  · exact (Fabric.setHand_hand ..).trans (if_pos rfl)
  · exact (Fabric.setHand_hand ..).trans (if_neg other)

end Sys2Proof.Machine
end

section
/-! PROOF. PLLs, block memories and kitty registers (R142-R143, R154-R165, R288, R521-R525). -/

namespace Sys2Proof.Machine

/-! ## PLLs -/

theorem State.stackOn_of_clocksOn {s : State} (on : s.clocksOn = true) : s.stackOn = true := (Bool.and_eq_true_iff.1 on).1
theorem Fabric.stopGroup_fplls (f : Fabric) (g : Nat) : f.stopGroup g = { f with fplls := (f.stopGroup g).fplls } := by
  refine foldl_related (r := fun f t : Fabric => t = { f with fplls := t.fplls }) (fun _ => rfl) (fun a b => b.trans (by rw [a])) (fun f k => ?_) _ f
  split <;> rfl
theorem Fabric.stopGroup_group (f : Fabric) (g k : Nat) : ((f.stopGroup g).fpll k).group = (f.fpll k).group := by
  refine foldl_leaves (fun f => (f.fpll k).group) (fun f j => ?_) _ f
  split
  · by_cases here : k = j
    · rw [here, Fabric.setFpll_fpll_self]
    · rw [Fabric.setFpll_fpll_other _ _ _ _ here]
  · rfl
/-- Every PLL of the group is stopped. -/
def Fabric.stoppedIn (g k : Nat) (f : Fabric) : Prop := (f.fpll k).group = g → (f.fpll k).running = false ∧ (f.fpll k).locked = false
theorem Fabric.stopGroup_stops (f : Fabric) {g k : Nat} (low : k < 8) (member : (f.fpll k).group = g) :
    ((f.stopGroup g).fpll k).running = false ∧ ((f.stopGroup g).fpll k).locked = false := by
  refine foldl_establishes (P := Fabric.stoppedIn g) (fun f k => ?_) (fun f k j stopped => ?_) (List.mem_range.2 low) f (((f.stopGroup_group g k)).trans member)
  · split
    · intro _
      rw [Fabric.setFpll_fpll_self]
      exact ⟨rfl, rfl⟩
    · exact fun group => absurd group ‹_›
  · split
    · unfold stoppedIn
      by_cases here : k = j
      · rw [here, Fabric.setFpll_fpll_self]
        exact fun _ => ⟨rfl, rfl⟩
      · rw [Fabric.setFpll_fpll_other _ _ _ _ here]
        exact stopped
    · exact stopped
theorem exec_pllGroupStop {s : State} {g : Fin 8} (on : s.clocksOn = true) (turns : s.pllTurns = [])
    (idle : ∀ p < 512, (s.fab.fpll (fpllOf p)).group = g.val → (s.fab.plot p).gated = true) : exec (.pllGroupStop g) s = .next (s.onFab fun f => f.stopGroup g.val) := by
  have unused : (List.range 512).all (fun p => (s.fab.fpll (fpllOf p)).group != g.val || (s.fab.plot p).gated) = true := by
    refine List.all_eq_true.2 fun p m => ?_
    by_cases group : (s.fab.fpll (fpllOf p)).group = g.val
    · rw [idle p (List.mem_range.1 m) group, Bool.or_true]
    · rw [bne_iff_ne.2 group, Bool.true_or]
  have stopped : (List.range 8).any (fun k => (s.fab.fpll k).group = g.val && ((s.fab.stopGroup g.val).fpll k).running) = false := by
    refine List.any_eq_false.2 fun k m both => ?_
    obtain ⟨group, running⟩ := Bool.and_eq_true_iff.1 both
    rw [(s.fab.stopGroup_stops (List.mem_range.1 m) (of_decide_eq_true group)).1] at running
    cases running
  simp only [exec, execPllGroupStop, turns, List.foldl_nil, State.onFab_fab, on, unused, stopped, Bool.not_false, Bool.and_true, if_true]
theorem exec_epllStop {s : State} {k : Fin 4} (on : s.clocksOn = true) (idle : ∀ p < 512, epllOf p = k.val → s.engineIdle p = true) :
    exec (.epllStop k) s = .next (s.onEng fun e => e.setEpll k.val { s.eng.epll k.val with running := false, locked := false }) := by
  have unused : (List.range 512).all (fun p => epllOf p != k.val || s.engineIdle p) = true := by
    refine List.all_eq_true.2 fun p m => ?_
    by_cases here : epllOf p = k.val
    · rw [idle p (List.mem_range.1 m) here, Bool.or_true]
    · rw [bne_iff_ne.2 here, Bool.true_or]
  simp only [exec, execEpllStop, on, unused, Bool.and_true, if_true]
  rfl
theorem exec_epllTimerStart {s : State} {p : PlotIx} {h : HandIx} {w : WaitRec} (on : s.clocksOn = true) (waits : (s.eng.thread p.val h.val).state = .waiting)
    (record : (s.eng.thread p.val h.val).waitRec = some w) (timer : w.mask.testBit 5 = true) (stopped : (s.eng.epll (epllOf p.val)).running = false)
    (soon : (s.eng.thread p.val h.val).tcmp ≤ s.aon.now + 20000) :
    exec (.epllTimerStart p h) s = .next (s.onEng fun e => e.setEpll (epllOf p.val) { s.eng.epll (epllOf p.val) with running := true, locked := false }) := by
  simp [exec, execEpllTimerStart, on, waits, record, stopped, timer, soon]
theorem exec_pllLock_fabric {s : State} {k : Fin 8} (on : s.stackOn = true) (runs : (s.fab.fpll k.val).running = true) :
    exec (.pllLock (.fabric k)) s = .next (s.onFab fun f => f.setFpll k.val { f.fpll k.val with locked := true }) := by
  simp only [exec, execPllLock, on, runs, Bool.and_true, if_true]
theorem exec_pllLock_engine {s : State} {k : Fin 4} (on : s.stackOn = true) (runs : (s.eng.epll k.val).running = true) :
    exec (.pllLock (.engine k)) s = .next (s.onEng fun e => e.setEpll k.val { e.epll k.val with locked := true }) := by
  simp only [exec, execPllLock, on, runs, Bool.and_true, if_true]
theorem exec_pllLock_quad {s : State} {k : Fin 128} (on : s.stackOn = true) (runs : (s.lnk.quad k.val).pllRunning = true) :
    exec (.pllLock (.quad k)) s = .next (s.onLnk fun l => l.setQuad k.val { l.quad k.val with pllLocked := true }) := by
  simp only [exec, execPllLock, on, runs, Bool.and_true, if_true]

/-- Settles O36: each event is a single update of one PLL; a group's stop updates each of its PLLs. -/
theorem pllsLockStopAndStart : Obligations.PllsLockStopAndStart := by
  intro s on
  have stack := State.stackOn_of_clocksOn on
  refine ⟨fun k running => ⟨_, exec_pllLock_fabric stack running, rfl, ?_, fun j other => ?_⟩,
    fun k running => ⟨_, exec_pllLock_engine stack running, rfl, ?_⟩,
    fun k running => ⟨_, exec_pllLock_quad stack running, rfl, ?_⟩,
    fun g turns idle => ⟨_, exec_pllGroupStop on turns idle, ?_, fun k low member => ?_⟩,
    fun k idle => ⟨_, exec_epllStop on idle, ?_, rfl, rfl⟩,
    fun p h w waits record timer stopped soon => ⟨_, exec_epllTimerStart on waits record timer stopped soon, ?_, ?_, rfl, rfl⟩⟩
  · exact Fabric.setFpll_fpll_self ..
  · exact Fabric.setFpll_fpll_other _ _ _ _ other
  · exact (Engines.setEpll_epll ..).trans (if_pos rfl)
  · exact (Links.setQuad_quad ..).trans (if_pos rfl)
  · rw [State.onFab_fab]
    have only := congrArg (fun f => ({ s with fab := f } : State)) (s.fab.stopGroup_fplls g.val)
    exact only
  · rw [State.onFab_fab]
    exact s.fab.stopGroup_stops low member
  · exact congrArg Epll.running ((Engines.setEpll_epll ..).trans (if_pos rfl))
  · exact congrArg Epll.running ((Engines.setEpll_epll ..).trans (if_pos rfl))
  · exact congrArg Epll.locked ((Engines.setEpll_epll ..).trans (if_pos rfl))

/-! ## Block memories -/

theorem Bm.present_bits (m : Bm) (portB : Bool) (r : BitVec 72 × Bool × Bool) : (m.present portB r).bits = m.bits := by
  unfold Bm.present
  split <;> split <;> rfl
theorem Bm.present_dout (m : Bm) {portB : Bool} (unregistered : (if portB then bmOregB m.word else bmOregA m.word) = false) (r : BitVec 72 × Bool × Bool) :
    (if portB then (m.present portB r).doutB else (m.present portB r).doutA) = r.1 := by
  cases portB with
  | false => rw [if_neg Bool.false_ne_true] at *; simp only [Bm.present, unregistered, Bool.false_eq_true, if_false]
  | true => rw [if_pos rfl] at *; simp only [Bm.present, unregistered, Bool.false_eq_true, if_false, if_true]
theorem Bm.rdw_bits (m : Bm) (portB : Bool) (before : Bm) (a : Nat) : (m.rdw portB before a).bits = m.bits := by
  unfold Bm.rdw
  split
  · rfl
  · split
    · exact m.present_bits ..
    · exact m.present_bits ..
    · rfl
/-- The port's write alone. -/
theorem Bm.writes_one_bits (m : Bm) {portB : Bool} (w : BmW) (writes : portWrites m portB = true) :
    (if portB then m.writes none (some w) else m.writes (some w) none).bits = (m.write (bmWidth m portB) w).bits := by
  cases portB with
  | false => simp only [Bool.false_eq_true, if_false, Bm.writes, writes, if_true, Bm.rdw_bits]
  | true => simp only [if_true, Bm.writes, writes, Bm.rdw_bits]
theorem bmErrors_bms (s : State) (p k a : Nat) (sbe dbe : Bool) : (bmErrors s p k a sbe dbe).fab.bms = s.fab.bms := by
  unfold bmErrors
  simp only []
  split <;> simp only [State.raiseOnce_fab, State.onFab_fab, Fabric.setPlot_bms, apply_ite State.fab, apply_ite Fabric.bms, ite_self]
theorem bmErrors_cfg (s : State) (p k a : Nat) (sbe dbe : Bool) : (bmErrors s p k a sbe dbe).fab.cfg = s.fab.cfg := by
  unfold bmErrors
  simp only []
  split <;> simp only [State.raiseOnce_fab, State.onFab_fab, Fabric.setPlot_cfg, apply_ite State.fab, apply_ite Fabric.cfg, ite_self]
theorem bmErrors_hands (s : State) (p k a : Nat) (sbe dbe : Bool) : (bmErrors s p k a sbe dbe).fab.hands = s.fab.hands := by
  unfold bmErrors
  simp only []
  split <;> simp only [State.raiseOnce_fab, State.onFab_fab, Fabric.setPlot_hands, apply_ite State.fab, apply_ite Fabric.hands, ite_self]
/-- A read without an upset and without a write of the other port presents what the element holds. -/
theorem bmRead_alone (s : State) (p k : Nat) {portB : Bool} (addr : Nat) (reads : portReads (s.fab.bm p k) portB = true) :
    ∃ t, bmRead s p k portB addr none 0 = t ∧ t.fab.cfg = s.fab.cfg ∧ t.fab.hands = s.fab.hands ∧
      t.fab.bms = (s.fab.setBm p k ((s.fab.bm p k).present portB ((s.fab.bm p k).readElem (bmWidth (s.fab.bm p k) portB) addr))).bms := by
  refine ⟨_, rfl, ?_⟩
  have whole (m : Bm) : (List.range (widthBits (bmWidth (s.fab.bm p k) portB))).foldl (fun (m : Bm) j =>
      if (0 : BitVec 72).getLsbD j then { m with err := setBits m.err (physBit (bmWidth (s.fab.bm p k) portB) addr j) (physBit (bmWidth (s.fab.bm p k) portB) addr j) (!m.err.getLsbD (physBit (bmWidth (s.fab.bm p k) portB) addr j)).toNat }
      else m) m = m := by
    refine foldl_leaves id (fun m j => ?_) _ m
    simp
  have alone (m : Bm) : (if portB then m.writes none none else m.writes none none) = m := by
    split <;> rfl
  unfold bmRead
  simp only [whole, alone, reads, if_true]
  rw [bmErrors_cfg, bmErrors_hands, bmErrors_bms]
  exact ⟨rfl, rfl, rfl⟩
theorem bmOpen_eq (s : State) (p h k : Nat) : bmOpen s p h k = ((s.fab.handOwner p h).isSome && s.fab.handOwner p h == s.fab.bmOwner p k && (s.fab.bm p k).serves) := rfl
theorem exec_bmWrite {s u : State} {p : PlotIx} {k : Fin 64} {portB : Bool} {edge h : Nat} {w : BmW} (at' : s.atEdge p.val edge = some (u, h)) (serves : bmOpen u p.val h k.val = true)
    (asks : (u.fab.plot p.val).bmWrites k.val portB = some w) (quiet : (u.fab.plot p.val).bmWrites k.val (!portB) = none) :
    exec (.bmWrite ⟨p, edge⟩ k portB w none) s = .next (u.onFab fun f => (f.setPlot p.val ((u.fab.plot p.val).done (bmPort k.val portB))).setBm p.val k.val
      (if portB then (u.fab.bm p.val k.val).writes none (some w) else (u.fab.bm p.val k.val).writes (some w) none)) := by
  simp only [exec, execBmWrite, at', serves, asks, quiet, Plot.bmDone, beq_self_eq_true, Bool.and_true, if_true, Option.isSome_none, Bool.false_eq_true, if_false]
theorem exec_bmRead {s u : State} {p : PlotIx} {k : Fin 64} {portB : Bool} {edge h addr : Nat} (at' : s.atEdge p.val edge = some (u, h)) (serves : bmOpen u p.val h k.val = true)
    (asks : (u.fab.plot p.val).field (bmPort k.val portB) 2 = 1) (address : (u.fab.plot p.val).field (bmPort k.val portB + 10) 15 = addr)
    (quiet : (u.fab.plot p.val).bmWrites k.val (!portB) = none) :
    exec (.bmRead ⟨p, edge⟩ k portB addr none 0) s =
      .next (bmRead (u.onFab fun f => f.setPlot p.val ((u.fab.plot p.val).done (bmPort k.val portB))) p.val k.val portB addr none 0) := by
  simp only [exec, execBmRead, at', serves, asks, address, quiet, Plot.bmDone, beq_self_eq_true, decide_true, Bool.and_true, if_true, Option.isSome_none, Bool.false_eq_true, if_false]

/-- Settles O37: a port's access at the edge updates its block memory and its capture only. -/
theorem blockMemoryPorts : Obligations.BlockMemoryPorts := by
  refine ⟨fun p k portB edge h s u at' serves => ⟨fun w asks quiet writes => ?_, fun addr asks address quiet reads unregistered => ?_⟩, fun p k s => ?_⟩
  · refine ⟨_, exec_bmWrite at' serves asks quiet, rfl, fun j other => (tget_tput ..).trans (if_neg other), ?_, rfl, rfl⟩
    rw [State.onFab_fab, Fabric.setBm_bm, if_pos rfl]
    exact Bm.writes_one_bits _ w writes
  · obtain ⟨t, runs, cfg, hands, bms⟩ := bmRead_alone (u.onFab fun f => f.setPlot p.val ((u.fab.plot p.val).done (bmPort k.val portB))) p.val k.val addr reads
    have self : t.fab.bm p.val k.val = (u.fab.bm p.val k.val).present portB ((u.fab.bm p.val k.val).readElem (bmWidth (u.fab.bm p.val k.val) portB) addr) := by
      unfold Fabric.bm
      rw [bms]
      exact (tget_tput ..).trans (if_pos rfl)
    refine ⟨t, (exec_bmRead at' serves asks address quiet).trans (congrArg _ runs), fun j other => ?_, ?_, cfg, hands, ?_⟩
    · rw [bms]
      exact (tget_tput ..).trans (if_neg other)
    · rw [self]
      exact Bm.present_bits ..
    · rw [self]
      exact Bm.present_dout _ unregistered _
  · exact ⟨_, rfl, rfl, fun j other => (tget_tput ..).trans (if_neg other), (tget_tput ..).trans (if_pos rfl)⟩

/-! ## Kitty registers -/

theorem kittyTrigger_fab (s : State) (k p reg : Nat) : (kittyTrigger s k p reg).fab = s.fab := by
  unfold kittyTrigger
  split <;> rfl
theorem writeKitty_fab (s : State) (p reg : Nat) (data : Word) (be : BitVec 4) : (writeKitty s p reg data be).fab = s.fab.setKittyReg p reg (mergeWord (s.fab.kittyReg p reg) data be) := by
  unfold writeKitty
  simp only []
  split
  · split <;> rfl
  · rfl
theorem fabricKittyWrite_allowed {s : State} {p h reg : Nat} (allowed : kittyAllowed s p h reg = true) (data : Word) (be : BitVec 4) :
    (fabricKittyWrite s p h reg data be).fab = (s.fab.setKittyReg p reg (mergeWord (s.fab.kittyReg p reg) data be)).setPlot p
      { s.fab.plot p with kittyLast := some { reg := reg, old := s.fab.kittyReg p reg, data := data, be := be } } := by
  unfold fabricKittyWrite
  simp only [allowed, if_true]
  split <;> simp only [kittyTrigger_fab, State.onFab_fab, writeKitty_fab] <;> rfl
theorem kittyRefused_fab (s : State) (p h reg : Nat) : (kittyRefused s p h reg).fab = s.fab.setPlot p { s.fab.plot p with kittyRefusals := sat32 ((s.fab.plot p).kittyRefusals + 1) } := by
  unfold kittyRefused
  simp only []
  split
  · rw [State.raiseOnce_fab]
    rfl
  · rfl
theorem exec_kittyWrite {s u : State} {p : PlotIx} {reg : BitVec 11} {edge h : Nat} {data : Word} {be : BitVec 4} (at' : s.atEdge p.val edge = some (u, h))
    (asks : (u.fab.plot p.val).writesKitty reg.toNat data be = true) :
    exec (.kittyWrite ⟨p, edge⟩ reg data be) s = .next (fabricKittyWrite (u.onFab fun f => f.setPlot p.val ((f.plot p.val).done 4150)) p.val h reg.toNat data be) := by
  simp only [exec, execKittyWrite, atPort_at at', asks, if_true]
theorem exec_kittyRead {s u : State} {p : PlotIx} {reg : BitVec 11} {edge h : Nat} (at' : s.atEdge p.val edge = some (u, h)) (asks : (u.fab.plot p.val).field 4096 11 = reg.toNat) :
    exec (.kittyRead ⟨p, edge⟩ reg) s = .next (fabricKittyRead u p.val h reg.toNat) := by
  simp only [exec, execKittyRead, at', asks, if_true]
theorem Fabric.kittyBefore_of_other {f : Fabric} {p reg : Nat} (other : ∀ w, (f.plot p).kittyLast = some w → w.reg ≠ reg) : f.kittyBefore p reg = f.kittyReg p reg := by
  unfold Fabric.kittyBefore
  split
  · next w last => exact if_neg (other w last)
  · rfl
theorem Fabric.kittyBefore_of_written {f : Fabric} {p reg : Nat} {w : KittyWrite} (last : (f.plot p).kittyLast = some w) (same : w.reg = reg) : f.kittyBefore p reg = w.old := by
  simp only [Fabric.kittyBefore, last, same, if_true]
/-- What the read port takes, with the refusal of a block of another seat. -/
theorem fabricKittyRead_fab (s : State) (p h reg : Nat) : ∃ f : Fabric, f.kitty = s.fab.kitty ∧ f.hands = s.fab.hands ∧
    (fabricKittyRead s p h reg).fab = f.setPlot p { f.plot p with kittyNext := if kittyAllowed s p h reg then s.fab.kittyBefore p reg else 0 } := by
  unfold fabricKittyRead
  simp only [State.onFab_fab]
  cases kittyAllowed s p h reg with
  | false =>
    refine ⟨(kittyRefused s p h reg).fab, ?_, ?_, rfl⟩
    all_goals
      rw [kittyRefused_fab]
      rfl
  | true => exact ⟨s.fab, rfl, rfl, rfl⟩

/-- Settles O38: an access to a block of the hand's seat acts on one register, any other is counted. -/
theorem kittyPorts : Obligations.KittyPorts := by
  intro p reg edge h s u at'
  refine ⟨fun data be asks => ⟨fun allowed => ⟨_, exec_kittyWrite at' asks, ?_⟩, fun refused => ⟨_, exec_kittyWrite at' asks, ?_⟩⟩, fun asks => ⟨_, exec_kittyRead at' asks, ?_⟩⟩
  · generalize base : (u.onFab fun f => f.setPlot p.val ((f.plot p.val).done 4150)) = b
    have allowed' : kittyAllowed b p.val h reg.toNat = true := by rw [← base]; exact allowed
    rw [fabricKittyWrite_allowed allowed', ← base]
    refine ⟨(tget_tput ..).trans (if_pos rfl), fun j other => (tget_tput ..).trans (if_neg other), rfl, ?_⟩
    rw [Fabric.setPlot_plot, if_pos rfl, State.onFab_fab, Fabric.setPlot_plot, if_pos rfl]
    rfl
  · generalize base : (u.onFab fun f => f.setPlot p.val ((f.plot p.val).done 4150)) = b
    have refused' : kittyAllowed b p.val h reg.toNat = false := by rw [← base]; exact refused
    unfold fabricKittyWrite
    rw [refused', if_neg Bool.false_ne_true, kittyRefused_fab, ← base]
    refine ⟨rfl, rfl, ?_⟩
    rw [Fabric.setPlot_plot, if_pos rfl, State.onFab_fab, Fabric.setPlot_plot, if_pos rfl, sat32_eq_min]
    rfl
  · obtain ⟨f, kitty, hands, fab⟩ := fabricKittyRead_fab u p.val h reg.toNat
    have next : ((fabricKittyRead u p.val h reg.toNat).fab.plot p.val).kittyNext = if kittyAllowed u p.val h reg.toNat then u.fab.kittyBefore p.val reg.toNat else 0 := by
      rw [fab, Fabric.setPlot_plot, if_pos rfl]
    refine ⟨(congrArg Fabric.kitty fab).trans kitty, (congrArg Fabric.hands fab).trans hands, fun refused => ?_, fun allowed => ⟨fun w last same => ?_, fun other => ?_⟩⟩
    · rw [next, refused, if_neg Bool.false_ne_true]
    · rw [next, allowed, if_pos rfl]
      exact Fabric.kittyBefore_of_written last same
    · rw [next, allowed, if_pos rfl]
      exact Fabric.kittyBefore_of_other other

end Sys2Proof.Machine
end

section
/-! PROOF. Queues and scratchpad requests (R172-R182, R195-R233). -/

namespace Sys2Proof.Machine

/-! ## Writing a table twice -/

theorem tdel_tdel {α : Type} (t : List (Nat × α)) (k : Nat) : tdel (tdel t k) k = tdel t k := by
  induction t with
  | nil => rfl
  | cons e t ih =>
    by_cases here : e.1 = k
    · simp only [tdel, here, if_true, ih]
    · simp only [tdel, here, if_false, ih]
theorem tdel_tins {α : Type} (t : List (Nat × α)) (k : Nat) (v : α) : tdel (tins t k v) k = tdel t k := by
  induction t with
  | nil => exact if_pos rfl
  | cons e t ih =>
    unfold tins
    split
    · exact if_pos rfl
    · simp only [tdel, ih]
theorem tput_tput {α : Type} [DecidableEq α] (d : α) (t : List (Nat × α)) (k : Nat) (v w : α) : tput d (tput d t k v) k w = tput d t k w := by
  have once : tdel (tput d t k v) k = tdel t k := by
    unfold tput
    split
    · exact tdel_tdel t k
    · exact (tdel_tins _ k v).trans (tdel_tdel t k)
  rw [tput, once]
  rfl

/-! ## Producers of a queue -/

/-- A producer's record with one more word in its open packet. -/
def Prod.taken (x : Prod) (data : BitVec 256) (rank : Nat) : Prod :=
  { x with credits := x.credits - 1, openRank := if x.openWords.isEmpty then rank else x.openRank, openWords := x.openWords ++ [data] }
theorem Queue.push_taken {x : Queue} {i : Nat} (takes : (x.prod i).discarding = false) (fits : (x.prod i).openWords.length ≤ qdMaxlen x.dir) (credit : 0 < (x.prod i).credits)
    (data : BitVec 256) (rank : Nat) : x.push i data rank = (x.setProd i ((x.prod i).taken data rank), .taken) := by
  have takes' : ¬ (x.prod i).discarding = true := by rw [takes]; exact Bool.false_ne_true
  exact (if_neg takes').trans ((if_neg (by omega)).trans (if_neg (by omega)))
theorem Queue.push_noCredit {x : Queue} {i : Nat} (takes : (x.prod i).discarding = false) (fits : (x.prod i).openWords.length ≤ qdMaxlen x.dir) (none : (x.prod i).credits ≤ 0)
    (data : BitVec 256) (rank : Nat) : x.push i data rank = (x.rewind i 4, .noCredit) := by
  have short : ¬ qdMaxlen x.dir + 1 ≤ (x.prod i).openWords.length := by omega
  simp only [Queue.push, takes, Bool.false_eq_true, short, none, if_false, if_true]
theorem sideWords_data (rank vb : Nat) (first : Bool) (l : List (BitVec 256)) : (sideWords rank vb first l).map (·.data) = l := by
  induction l generalizing first with
  | nil => rfl
  | cons w t ih => exact congrArg (w :: ·) (ih false)
/-- What a commit of an open packet puts on its way, and what it charges. -/
theorem Queue.commit_parts {x : Queue} {i : Nat} (opened : (x.prod i).openWords ≠ []) (vb : Nat) : ∃ pkt, (x.commit i vb).flight = x.flight ++ [.commit pkt] ∧ pkt.prod = i ∧
    pkt.words.map (·.data) = (x.prod i).openWords ∧ pkt.rank = (x.prod i).openRank ∧ ((x.commit i vb).prod i).openWords = [] ∧
    ((x.commit i vb).prod i).credits = (x.prod i).credits - ((64 - (x.prod i).openWords.length % 64) % 64 : Nat) := by
  have some : ¬ (x.prod i).openWords.length = 0 := fun none => opened (List.length_eq_zero_iff.1 none)
  have at' := Queue.setProd_prod x i { x.prod i with openWords := [], openRank := 0, credits := (x.prod i).credits - ((64 - (x.prod i).openWords.length % 64) % 64 : Nat) } i
  rw [if_pos rfl] at at'
  unfold Queue.commit
  simp only [some, if_false]
  exact ⟨_, rfl, rfl, sideWords_data .., rfl, congrArg Prod.openWords at', congrArg Prod.credits at'⟩
theorem Queue.rewind_prod (x : Queue) (i cause : Nat) : (x.rewind i cause).prod i = { x.prod i with openWords := [], openRank := 0 } := by
  have at' := Queue.setProd_prod x i { x.prod i with openWords := [], openRank := 0 } i
  rw [if_pos rfl] at at'
  exact at'
theorem Queue.rewind_rw (x : Queue) (i cause : Nat) : tget 0 (x.rewind i cause).rw cause = min 4294967295 (tget 0 x.rw cause + 1) := by
  rw [← sat32_eq_min]
  exact (tget_tput ..).trans (if_pos rfl)
theorem Queue.rewind_flight {x : Queue} {i : Nat} (opened : (x.prod i).openWords ≠ []) (cause : Nat) : (x.rewind i cause).flight = x.flight ++ [.rewind i (x.prod i).openWords.length] :=
  if_neg fun none => opened (List.length_eq_zero_iff.1 none)

/-! ## Pushes and aborts of a hand -/

/-- A hand's word in an open queue. -/
theorem handPush_queue {s : State} {p h qp sel q i : Nat} (queue : s.fab.toScratch p h qp sel = false) (producer : s.net.prodQueue (epHand p h qp sel) = some (q, i)) {x : Queue} {data : BitVec 256} {rank : Nat}
    (pushed : (s.net.queue q).push i data rank = (x, .taken)) :
    handPush s p h qp sel data rank none = s.onNet (fun n => n.setQueue q x) ∧ ∀ vb, handPush s p h qp sel data rank (some vb) = s.onNet (fun n => n.setQueue q (x.commit i vb)) := by
  have queue' : ¬ s.fab.toScratch p h qp sel = true := by rw [queue]; exact Bool.false_ne_true
  refine ⟨?_, fun vb => ?_⟩
  · simp only [handPush, queue', producer, pushed]
    exact if_neg (by decide)
  · simp only [handPush, queue', producer, Queue.pushLast, pushed]
    exact if_neg (by decide)
theorem handPush_noCredit {s : State} {p h qp sel q i : Nat} (queue : s.fab.toScratch p h qp sel = false) (producer : s.net.prodQueue (epHand p h qp sel) = some (q, i)) {x : Queue} {data : BitVec 256} {rank : Nat}
    (pushed : (s.net.queue q).push i data rank = (x, .noCredit)) : handPush s p h qp sel data rank none = showRewind (s.onNet fun n => n.setQueue q x) p h qp sel := by
  have queue' : ¬ s.fab.toScratch p h qp sel = true := by rw [queue]; exact Bool.false_ne_true
  simp [handPush, queue', producer, pushed]
theorem handAbort_queue {s : State} {p h qp sel q i : Nat} (queue : s.fab.toScratch p h qp sel = false) (producer : s.net.prodQueue (epHand p h qp sel) = some (q, i)) :
    handAbort s p h qp sel = s.onNet fun n => n.setQueue q (((s.net.queue q).rewindOpen i 0).endDiscard i) := by
  have queue' : ¬ s.fab.toScratch p h qp sel = true := by rw [queue]; exact Bool.false_ne_true
  simp only [handAbort, queue', producer]
  rfl
/-- The state with a plot's record changed. -/
def State.replot (u : State) (p : Nat) (y : Plot) : State := u.onFab fun f => f.setPlot p y
theorem exec_qoPush {s u : State} {p : PlotIx} {qp : Fin 8} {sel : Fin 4} {edge h : Nat} {data : BitVec 256} {rank : BitVec 3} (at' : s.atEdge p.val edge = some (u, h))
    (asks : (u.fab.plot p.val).pushes qp.val sel.val data rank.toNat none = true) :
    exec (.qoPush ⟨p, edge⟩ qp sel data rank) s = .next (handPush (u.replot p.val ((u.fab.plot p.val).done (512 * qp.val))) p.val h qp.val sel.val data rank.toNat none) := by
  simp only [exec, execQoPush, atPort_at at', asks, if_true]
  rfl
theorem exec_qoLast {s u : State} {p : PlotIx} {qp : Fin 8} {sel : Fin 4} {edge h : Nat} {data : BitVec 256} {rank : BitVec 3} {vb : BitVec 5} (at' : s.atEdge p.val edge = some (u, h))
    (asks : (u.fab.plot p.val).pushes qp.val sel.val data rank.toNat (some vb.toNat) = true) :
    exec (.qoLast ⟨p, edge⟩ qp sel data rank vb) s = .next (handPush (u.replot p.val ((u.fab.plot p.val).done (512 * qp.val))) p.val h qp.val sel.val data rank.toNat (some vb.toNat)) := by
  simp only [exec, execQoLast, atPort_at at', asks, if_true]
  rfl
theorem Fabric.setPlot_setPlot (f : Fabric) (p : Nat) (x y : Plot) : (f.setPlot p x).setPlot p y = f.setPlot p y :=
  congrArg (fun t => { f with plots := t }) (tput_tput ..)
theorem exec_qoAbort {s u : State} {p : PlotIx} {qp : Fin 8} {sel : Fin 4} {edge h : Nat} (at' : s.atEdge p.val edge = some (u, h)) (asks : (u.fab.plot p.val).aborts qp.val sel.val = true) :
    exec (.qoAbort ⟨p, edge⟩ qp sel) s = .next (handAbort (u.replot p.val (((u.fab.plot p.val).done (512 * qp.val + 268)).done (512 * qp.val))) p.val h qp.val sel.val) := by
  simp only [exec, execQoAbort, atPort_at at', asks, if_true]
  unfold State.replot State.onFab
  simp only [Fabric.setPlot_plot, if_true, Fabric.setPlot_setPlot]
theorem Net.setQueue_other (n : Net) {q j : Nat} (v : Queue) (other : j ≠ q) : (n.setQueue q v).queue j = n.queue j := (tget_tput ..).trans (if_neg other)
theorem Net.setQueue_self (n : Net) (q : Nat) (v : Queue) : (n.setQueue q v).queue q = v := (tget_tput ..).trans (if_pos rfl)
theorem Queue.setProd_self (x : Queue) (i : Nat) (v : Prod) : (x.setProd i v).prod i = v := (tget_tput ..).trans (if_pos rfl)

/-- Settles O39: a push, a last word and an abort act on the open packet of the hand's producer. -/
theorem handQueueProducers : Obligations.HandQueueProducers := by
  intro p qp sel h q i edge s u at' queue producer
  refine ⟨fun data rank asks takes fits => ⟨fun credit => ?_, fun empty => ?_⟩, fun data rank vb asks takes fits credit => ?_, fun asks opened => ?_⟩
  · have pushed := Queue.push_taken takes fits credit data rank.toNat
    refine ⟨_, (exec_qoPush at' asks).trans (congrArg _ (handPush_queue (s := u.replot p.val ((u.fab.plot p.val).done (512 * qp.val))) queue producer pushed).1), ⟨rfl, fun j other => Net.setQueue_other _ _ other⟩, ?_⟩
    rw [State.onNet_net, Net.setQueue_self, Queue.setProd_self]
    exact ⟨rfl, rfl, rfl⟩
  · have pushed := Queue.push_noCredit takes fits empty data rank.toNat
    refine ⟨_, (exec_qoPush at' asks).trans (congrArg _ (handPush_noCredit (s := u.replot p.val ((u.fab.plot p.val).done (512 * qp.val))) queue producer pushed)), fun j other => Net.setQueue_other _ _ other, ?_⟩
    have here : (showRewind ((u.replot p.val ((u.fab.plot p.val).done (512 * qp.val))).onNet fun n => n.setQueue q ((u.net.queue q).rewind i 4)) p.val h qp.val sel.val).net.queue q = (u.net.queue q).rewind i 4 :=
      Net.setQueue_self ..
    rw [here, Queue.rewind_prod, Queue.rewind_rw]
    exact ⟨rfl, rfl, congrArg Hand.qoRw ((Fabric.setHand_hand ..).trans (if_pos rfl))⟩
  · have pushed := Queue.push_taken takes fits credit data rank.toNat
    have self := Queue.setProd_self (u.net.queue q) i (((u.net.queue q).prod i).taken data rank.toNat)
    have opened : (((u.net.queue q).setProd i (((u.net.queue q).prod i).taken data rank.toNat)).prod i).openWords ≠ [] := by
      rw [self]
      exact List.append_ne_nil_of_right_ne_nil _ (List.cons_ne_nil _ _)
    obtain ⟨pkt, flight, prod, words, rank', none, credits⟩ := Queue.commit_parts opened vb.toNat
    rw [self] at words rank' credits
    refine ⟨_, pkt, (exec_qoLast at' asks).trans (congrArg _ ((handPush_queue (s := u.replot p.val ((u.fab.plot p.val).done (512 * qp.val))) queue producer pushed).2 vb.toNat)), ⟨rfl, fun j other => Net.setQueue_other _ _ other⟩, ?_⟩
    rw [State.onNet_net, Net.setQueue_self]
    refine ⟨none, ?_, flight, prod, words, rank'⟩
    rw [credits]
    simp [Prod.taken]
  · refine ⟨_, (exec_qoAbort at' asks).trans (congrArg _ (handAbort_queue (s := u.replot p.val (((u.fab.plot p.val).done (512 * qp.val + 268)).done (512 * qp.val))) queue producer)), ⟨rfl, fun j other => Net.setQueue_other _ _ other⟩, ?_⟩
    rw [State.onNet_net, Net.setQueue_self]
    have whole : ¬ ((u.net.queue q).prod i).openWords.isEmpty = true := fun none => opened (List.isEmpty_iff.1 none)
    have rewound : (u.net.queue q).rewindOpen i 0 = (u.net.queue q).rewind i 0 := if_neg whole
    change (((Queue.rewindOpen (u.net.queue q) i 0).endDiscard i).prod i).openWords = [] ∧ tget 0 ((Queue.rewindOpen (u.net.queue q) i 0).endDiscard i).rw 0 = _ ∧ ((Queue.rewindOpen (u.net.queue q) i 0).endDiscard i).flight = _
    rw [rewound]
    refine ⟨?_, Queue.rewind_rw .., Queue.rewind_flight opened 0⟩
    unfold Queue.endDiscard
    rw [Queue.setProd_self, Queue.rewind_prod]

/-! ## Consumers of a queue -/

theorem handConsume_queue {s : State} {p h qp sel q : Nat} (consumer : s.net.consQueue (epHand p h qp sel) = some q) (runs : (s.net.queue q).runs = true)
    (g : Queue → Queue) : handConsume s p h qp sel g = s.onNet fun n => n.setQueue q (g (s.net.queue q)) := by
  simp only [handConsume, consumer, runs, if_true]
  rfl
theorem handPop_queue {s : State} {p h qp sel q : Nat} (queue : s.fab.toScratch p h qp sel = false) (consumer : s.net.consQueue (epHand p h qp sel) = some q) (runs : (s.net.queue q).runs = true)
    {w : QWord} {x : Queue} (popped : (s.net.queue q).pop = some (w, x)) : handPop s p h qp sel = s.onNet fun n => n.setQueue q x := by
  have queue' : ¬ s.fab.toScratch p h qp sel = true := by rw [queue]; exact Bool.false_ne_true
  unfold handPop
  rw [if_neg queue', handConsume_queue consumer runs, popped]
theorem Queue.pop_current {x : Queue} {pkt : Pkt} {w : QWord} {l : List QWord} (current : x.current = some pkt) (words : pkt.words = w :: l) : ∃ y, x.pop = some (w, y) ∧
    y.wordsDelivered = (x.wordsDelivered + 1) % 281474976710656 ∧ y.reading = (if l.isEmpty then none else some { pkt with words := l, popped := pkt.popped + 1 }) ∧ y.acts.length = x.acts.length + 1 := by
  simp only [Queue.pop, current, words]
  exact ⟨_, rfl, rfl, rfl, List.length_append⟩
theorem Queue.drop_reading {x : Queue} {pkt : Pkt} (reading : x.reading = some pkt) : x.drop.reading = none ∧ x.drop.dropped = min 4294967295 (x.dropped + 1) ∧ x.drop.visible = x.visible := by
  simp [Queue.drop, reading, sat32_eq_min]
theorem exec_qiPop {s u : State} {p : PlotIx} {qp : Fin 8} {sel : Fin 4} {edge h : Nat} (at' : s.atEdge p.val edge = some (u, h)) (asks : (u.fab.plot p.val).pops qp.val sel.val = true) :
    exec (.qiPop ⟨p, edge⟩ qp sel) s = .next (handPop (u.replot p.val ((u.fab.plot p.val).done (512 * qp.val + 271))) p.val h qp.val sel.val) := by
  simp only [exec, execQiPop, atPort_at at', asks, if_true]
  rfl
theorem exec_qiDrop {s u : State} {p : PlotIx} {qp : Fin 8} {sel : Fin 4} {edge h : Nat} (at' : s.atEdge p.val edge = some (u, h)) (asks : (u.fab.plot p.val).drops qp.val sel.val = true) :
    exec (.qiDrop ⟨p, edge⟩ qp sel) s = .next (handConsume (u.replot p.val ((u.fab.plot p.val).done (512 * qp.val + 272))) p.val h qp.val sel.val Queue.drop) := by
  simp only [exec, execQiDrop, atPort_at at', asks, if_true]
  rfl
theorem exec_qiWmclr {s u : State} {p : PlotIx} {qp : Fin 8} {sel : Fin 4} {edge h : Nat} (at' : s.atEdge p.val edge = some (u, h)) (asks : (u.fab.plot p.val).clears qp.val sel.val = true) (crossed : Bool) :
    exec (.qiWmclr ⟨p, edge⟩ qp sel crossed) s = .next (handConsume (u.replot p.val ((u.fab.plot p.val).done (512 * qp.val + (273 + sel.val)))) p.val h qp.val sel.val
      fun q => if crossed then q else { q with acts := q.acts ++ [.clear] }) := by
  simp only [exec, execQiWmclr, atPort_at at', asks, if_true, Nat.add_assoc]
  rfl

/-- Settles O40: a pop, a drop and a watermark clear act on the queue that the hand consumes. -/
theorem handQueueConsumers : Obligations.HandQueueConsumers := by
  intro p qp sel h q edge s u at' queue consumer runs
  refine ⟨fun pkt w l asks current words => ?_, fun pkt asks reading => ?_, fun asks => ⟨?_, ?_⟩⟩
  · obtain ⟨y, popped, parts⟩ := Queue.pop_current current words
    refine ⟨_, (exec_qiPop at' asks).trans (congrArg _ (handPop_queue (s := u.replot p.val ((u.fab.plot p.val).done (512 * qp.val + 271))) queue consumer runs popped)), ⟨rfl, fun j other => Net.setQueue_other _ _ other⟩, ?_⟩
    rw [State.onNet_net, Net.setQueue_self]
    exact parts
  · refine ⟨_, (exec_qiDrop at' asks).trans (congrArg _ (handConsume_queue (s := u.replot p.val ((u.fab.plot p.val).done (512 * qp.val + 272))) consumer runs _)), ⟨rfl, fun j other => Net.setQueue_other _ _ other⟩, ?_⟩
    rw [State.onNet_net, Net.setQueue_self]
    exact Queue.drop_reading reading
  · refine ⟨_, (exec_qiWmclr at' asks false).trans (congrArg _ (handConsume_queue (s := u.replot p.val ((u.fab.plot p.val).done (512 * qp.val + (273 + sel.val)))) consumer runs _)), ⟨rfl, fun j other => Net.setQueue_other _ _ other⟩, ?_⟩
    rw [State.onNet_net, Net.setQueue_self]
    exact ⟨rfl, rfl⟩
  · refine ⟨_, (exec_qiWmclr at' asks true).trans (congrArg _ (handConsume_queue (s := u.replot p.val ((u.fab.plot p.val).done (512 * qp.val + (273 + sel.val)))) consumer runs _)), ⟨rfl, fun j other => Net.setQueue_other _ _ other⟩, ?_⟩
    rw [State.onNet_net, Net.setQueue_self]
    rfl

/-! ## The network of queues -/

theorem sat16_eq_min (n : Nat) : sat16 n = min 65535 n := by
  unfold sat16 satTo
  split <;> omega
theorem takeSent_append {i : Nat} {before l : List Sent} {x : Sent} (none : ∀ e ∈ before, e.from ≠ i) (here : x.from = i) : takeSent i (before ++ x :: l) = some (x, before ++ l) := by
  induction before with
  | nil => exact if_pos here
  | cons e before ih =>
    obtain ⟨head, tail⟩ := List.forall_mem_cons.1 none
    rw [List.cons_append, takeSent, if_neg head, ih tail]
    rfl
theorem takeReturn_append {i n : Nat} {before l : List (Nat × Nat)} (none : ∀ e ∈ before, e.1 ≠ i) : takeReturn i (before ++ (i, n) :: l) = some (n, before ++ l) := by
  induction before with
  | nil => exact if_pos rfl
  | cons e before ih =>
    obtain ⟨head, tail⟩ := List.forall_mem_cons.1 none
    rw [List.cons_append, takeReturn, if_neg head, ih tail]
    rfl
theorem onQueue_running {s : State} {q : BitVec 16} (on : s.storeOn q.toNat = true) (runs : (s.net.queue q.toNat).runs = true) (g : Queue → Queue) :
    onQueue s q g = s.onNet fun n => n.setQueue q.toNat (g (s.net.queue q.toNat)) := by
  simp only [onQueue, on, runs, Bool.and_self, if_true]
  rfl
theorem Queue.deliver_outside (x : Queue) {n : Nat} (outside : ¬(40960 ≤ n ∧ n ≤ 40975)) (i : Nat) : x.deliver n i = x.arrive i := by
  refine if_neg fun packing => outside ?_
  simpa using packing
theorem Queue.crossing_up (x : Queue) {old new : Nat} (used : qdWm x.dir ≠ 0) (below : old < qdWm x.dir) (reached : qdWm x.dir ≤ new) :
    (x.crossing old new).event = true ∧ (x.crossing old new).crossings = min 65535 (x.crossings + 1) := by
  simp [Queue.crossing, used, below, reached, sat16_eq_min]

/-- Settles O41: what has been sent arrives in each producer's order. -/
theorem queueNetworkEvents : Obligations.QueueNetworkEvents := by
  intro q i s on runs outside
  refine ⟨fun before pkt l flight first mine => ?_, fun before n l flight first => ⟨?_, ?_⟩, fun before n l returns first => ?_, fun k n l acts => ?_⟩
  · have taken : takeSent i.val (s.net.queue q.toNat).flight = some (.commit pkt, before ++ l) := by rw [flight]; exact takeSent_append first mine
    obtain ⟨flight', visible, level, -⟩ := Queue.arrive_commit _ _ _ _ taken
    refine ⟨_, congrArg Host.Outcome.next (onQueue_running on runs _), ⟨rfl, fun j other => Net.setQueue_other _ _ other⟩, ?_⟩
    dsimp only
    rw [State.onNet_net, Net.setQueue_self, Queue.deliver_outside _ outside]
    refine ⟨flight', visible, level, fun used below reached => ?_⟩
    unfold Queue.arrive
    rw [taken]
    exact Queue.crossing_up _ used below reached
  · have taken : takeSent i.val (s.net.queue q.toNat).flight = some (.rewind i.val n, before ++ l) := by rw [flight]; exact takeSent_append first rfl
    refine ⟨_, congrArg Host.Outcome.next (onQueue_running on runs _), ⟨rfl, fun j other => Net.setQueue_other _ _ other⟩, ?_⟩
    dsimp only
    rw [State.onNet_net, Net.setQueue_self]
    unfold Queue.rewindArrive
    rw [taken]
  · have taken : takeSent i.val (s.net.queue q.toNat).flight = some (.rewind i.val n, before ++ l) := by rw [flight]; exact takeSent_append first rfl
    refine ⟨_, congrArg Host.Outcome.next (onQueue_running on runs _), ⟨rfl, fun j other => Net.setQueue_other _ _ other⟩, ?_⟩
    dsimp only
    rw [State.onNet_net, Net.setQueue_self, Queue.deliver_outside _ outside]
    unfold Queue.arrive
    rw [taken]
  · have taken : takeReturn i.val (s.net.queue q.toNat).returns = some (n, before ++ l) := by rw [returns]; exact takeReturn_append first
    refine ⟨_, congrArg Host.Outcome.next (onQueue_running on runs _), ⟨rfl, fun j other => Net.setQueue_other _ _ other⟩, ?_⟩
    dsimp only
    rw [State.onNet_net, Net.setQueue_self]
    unfold Queue.credit
    rw [taken]
    exact ⟨congrArg Prod.credits (Queue.setProd_self ..), rfl⟩
  · refine ⟨_, congrArg Host.Outcome.next (onQueue_running on runs _), ⟨rfl, fun j other => Net.setQueue_other _ _ other⟩, ?_⟩
    dsimp only
    rw [State.onNet_net, Net.setQueue_self]
    unfold Queue.act
    rw [acts]
    exact ⟨rfl, rfl, rfl⟩

/-! ## Binding and narrow words -/

/-- What binding makes of a producer's record, its packets' words held back. -/
def Queue.boundProd (x : Queue) (i : Nat) (v : Prod) : Prod := { v with credits := (qdShare x.dir : Int) - x.heldWords i - v.openWords.length }
theorem Queue.bind_foldl {x : Queue} (l : List Nat) {y : Queue} (dir : y.dir = x.dir) (held : ∀ i, y.heldWords i = x.heldWords i) :
    l.foldl (fun q i => q.setProd i { q.prod i with credits := (qdShare q.dir : Int) - q.heldWords i - (q.prod i).openWords.length }) y =
      l.foldl (fun q i => q.setProd i (x.boundProd i (q.prod i))) y := by
  induction l generalizing y with
  | nil => simp only [List.foldl_nil]
  | cons j l ih =>
    have same : y.setProd j { y.prod j with credits := (qdShare y.dir : Int) - y.heldWords j - (y.prod j).openWords.length } = y.setProd j (x.boundProd j (y.prod j)) := by
      simp only [Queue.boundProd, dir, held]
    rw [List.foldl_cons, List.foldl_cons, same]
    exact ih (y := y.setProd j (x.boundProd j (y.prod j))) dir fun i => held i
theorem Queue.flying_filter (x : Queue) (l : List (Nat × Nat)) (b : Bool) (i : Nat) :
    ({ x with bound := b, returns := l, flight := x.flight.filter fun e => e.pkt?.isSome } : Queue).heldWords i = x.heldWords i := by
  have flying : (x.flight.filter fun e => e.pkt?.isSome).filterMap Sent.pkt? = x.flight.filterMap Sent.pkt? := by
    rw [List.filterMap_filter]
    refine List.filterMap_congr fun e _ => ?_
    cases e <;> rfl
  unfold Queue.heldWords Queue.flying
  dsimp only
  rw [flying]
theorem Queue.bind_parts (x : Queue) : x.bind.bound = true ∧ x.bind.visible = x.visible ∧ ∀ i ≤ qdNprod x.dir, x.bind.prod i = x.boundProd i (x.prod i) := by
  have unfolded : x.bind = (List.range (qdNprod x.dir + 1)).foldl (fun q i => q.setProd i (x.boundProd i (q.prod i))) { x with bound := true, returns := [], flight := x.flight.filter fun e => e.pkt?.isSome } :=
    Queue.bind_foldl (x := x) _ rfl fun i => x.flying_filter _ _ i
  have bound := foldl_leaves Queue.bound (g := fun q i => q.setProd i (x.boundProd i (q.prod i))) (fun _ _ => rfl)
  have visible := foldl_leaves Queue.visible (g := fun q i => q.setProd i (x.boundProd i (q.prod i))) (fun _ _ => rfl)
  rw [unfolded]
  refine ⟨bound _ _, visible _ _, fun i low => ?_⟩
  refine (foldl_each (get := Queue.prod) Queue.setProd_self (fun q k v j ne => ?_) x.boundProd List.nodup_range _ i).trans (if_pos (List.mem_range.2 (by omega)))
  exact (Queue.setProd_prod ..).trans (if_neg ne)
theorem exec_queueBindDone {s : State} {q : BitVec 16} (on : s.clocksOn = true) (enabled : qdEnable (s.net.queue q.toNat).dir = true) (fresh : (s.net.queue q.toNat).bound = false)
    (packs : qdPack (s.net.queue q.toNat).dir = false) (feeds : s.net.feedDown = []) (dies : s.net.dieDown = []) :
    exec (.queueBindDone q) s = .next (s.onNet fun n => n.setQueue q.toNat (s.net.queue q.toNat).bind) := by
  unfold exec execQueueBindDone
  refine if_pos ?_
  simp only [on, enabled, fresh, packs, feeds, List.any_nil, Bool.not_false, Bool.and_self, Bool.true_and, Bool.not_eq_true', Bool.or_eq_false_iff, List.any_eq_false]
  refine ⟨⟨?_, ?_⟩, fun i _ => ?_⟩
  all_goals split <;> simp [dies]
/-- The first narrow word of a queue word, with credit, is pushed as a word of its own. -/
theorem exec_narrowWordPush_first {s : State} {data : Word} (on : s.mcUp = true) (runs : (s.net.queue 40960).runs = true) (fresh : tget [] s.net.narrow 0 = [])
    (credit : 0 < ((s.net.queue 40960).prod 0).credits) {x : Queue} {r : Pushed} (pushed : (s.net.queue 40960).push 0 (narrowWord [data]) (packRank 0) = (x, r)) :
    exec (.narrowWordPush 0 data none) s = .next (s.onNet fun n => { n.setQueue 40960 x with narrow := tput [] n.narrow 0 [data] }) := by
  have store : s.storeOn 40960 = true := on
  have left : ¬ ((s.net.queue 40960).prod 0).credits ≤ 0 := by omega
  simp [exec, execNarrowWordPush, packQueue, store, runs, fresh, left, pushed]

/-- Settles O42: binding gives every producer its share less what is held; the first narrow word opens the queue word. -/
theorem bindingAndNarrowWords : Obligations.BindingAndNarrowWords := by
  refine fun s => ⟨fun q on enabled fresh packs feeds dies => ?_, fun data on runs fresh takes credit fits => ?_⟩
  · obtain ⟨bound, visible, prods⟩ := (s.net.queue q.toNat).bind_parts
    refine ⟨_, exec_queueBindDone on enabled fresh packs feeds dies, rfl, ?_⟩
    rw [State.onNet_net, Net.setQueue_self]
    refine ⟨bound, fun i low => ?_, visible, fun j other => Net.setQueue_other _ _ other⟩
    rw [prods i low]
    exact ⟨rfl, rfl⟩
  · have pushed := Queue.push_taken takes fits credit (narrowWord [data]) (packRank 0)
    refine ⟨_, exec_narrowWordPush_first on runs fresh credit pushed, rfl, ?_⟩
    have here : (s.onNet fun n => { n.setQueue 40960 ((s.net.queue 40960).setProd 0 (((s.net.queue 40960).prod 0).taken (narrowWord [data]) (packRank 0))) with narrow := tput [] n.narrow 0 [data] }).net.queue 40960 =
        (s.net.queue 40960).setProd 0 (((s.net.queue 40960).prod 0).taken (narrowWord [data]) (packRank 0)) := Net.setQueue_self ..
    rw [here, Queue.setProd_self]
    refine ⟨?_, rfl, ?_⟩
    · simp [Prod.taken, narrowWord]
    · exact (tget_tput ([] : List Word) s.net.narrow 0 0 [data]).trans (if_pos rfl)

/-! ## Requests to the scratchpad -/

/-- The bytes that the last of a list of lane writes leaves. -/
theorem Scratch.setLanes_byte_other (w : Nat) (l : List (Nat × Byte)) (c : Scratch) (a : Nat) (outside : ∀ e ∈ l, a ≠ 16 * w + e.1) :
    (l.foldl (fun c e => c.setByte (16 * w + e.1) e.2) c).byte a = c.byte a := by
  induction l generalizing c with
  | nil => rfl
  | cons e l ih =>
    obtain ⟨head, tail⟩ := List.forall_mem_cons.1 outside
    rw [List.foldl_cons, ih _ tail, Scratch.setByte_byte, if_neg head]
theorem Scratch.setLanes_byte_mem (w : Nat) {l : List (Nat × Byte)} (distinct : l.Pairwise fun x y => x.1 ≠ y.1) (c : Scratch) {e : Nat × Byte} (m : e ∈ l) :
    (l.foldl (fun c e => c.setByte (16 * w + e.1) e.2) c).byte (16 * w + e.1) = e.2 := by
  induction l generalizing c with
  | nil => cases m
  | cons f l ih =>
    obtain ⟨apart, distinct⟩ := List.pairwise_cons.1 distinct
    rcases List.mem_cons.1 m with rfl | m
    · rw [List.foldl_cons, Scratch.setLanes_byte_other w l _ _ fun g mg same => apart g mg (by omega), Scratch.setByte_byte, if_pos rfl]
    · exact ih distinct _ m
theorem Scratch.setErr_byte (c : Scratch) (w : Nat) (v : BitVec 144) (a : Nat) : (c.setErr w v).byte a = c.byte a := rfl
theorem Scratch.halfErr_clean {c : Scratch} {w : Nat} (clean : c.errAt w = 0) (k : Nat) : popNat 72 (c.halfErr w k).toNat = 0 := by
  simp [Scratch.halfErr, clean, bits, popNat_eq_length]
/-- What a store merges of halves with more flips than the code sees, in lanes of the word. -/
theorem Scratch.store_eq (c : Scratch) (w : Nat) (l : List (Nat × Byte)) : ∃ (old : List (Nat × Byte)) (v : BitVec 144), (∀ e ∈ old, e.1 < 16) ∧ (c.errAt w = 0 → old = []) ∧
    c.store w l = ((old ++ l).foldl (fun c e => c.setByte (16 * w + e.1) e.2) c).setErr w v := by
  refine ⟨_, _, fun e m => ?_, fun clean => ?_, rfl⟩
  · obtain ⟨k, half, m⟩ := List.mem_flatMap.1 m
    obtain ⟨i, low, rfl⟩ := List.mem_map.1 m
    have k01 := (List.mem_filter.1 half).1
    have i8 := List.mem_range.1 low
    simp only [List.mem_cons, List.not_mem_nil, or_false] at k01
    dsimp only
    omega
  · rw [List.flatMap_eq_nil_iff]
    refine fun k half => absurd (List.mem_filter.1 half).2 ?_
    rw [c.halfErr_clean clean]
    simp
/-- What a store of distinct lanes leaves in its word, and outside it. -/
theorem Scratch.store_byte (c : Scratch) (w : Nat) {l : List (Nat × Byte)} (inside : ∀ e ∈ l, e.1 < 16) (distinct : l.Pairwise fun x y => x.1 ≠ y.1) :
    (∀ a, a < 16 * w ∨ 16 * w + 16 ≤ a → (c.store w l).byte a = c.byte a) ∧ (∀ e ∈ l, (c.store w l).byte (16 * w + e.1) = e.2) ∧
      (c.errAt w = 0 → ∀ j < 16, (∀ e ∈ l, e.1 ≠ j) → (c.store w l).byte (16 * w + j) = c.byte (16 * w + j)) := by
  obtain ⟨old, v, inOld, cleanOld, stored⟩ := c.store_eq w l
  rw [stored]
  refine ⟨fun a outside => ?_, fun e m => ?_, fun clean j low other => ?_⟩
  · refine Scratch.setLanes_byte_other w _ c a fun e m same => ?_
    have := (List.mem_append.1 m).elim (inOld e) (inside e)
    omega
  · rw [Scratch.setErr_byte, List.foldl_append]
    exact Scratch.setLanes_byte_mem w distinct _ m
  · rw [Scratch.setErr_byte, cleanOld clean]
    exact Scratch.setLanes_byte_other w l c _ fun e m same => other e m (by omega)

/-- The lanes of an access with the bytes it writes there. -/
def laneBytes (req : BitVec 256) : List (Nat × Byte) := (lanesOf (srFull req) (srRot req) (srLen req)).zip ((List.range 16).map fun i => srByte req i)
theorem srLen_le (req : BitVec 256) : srLen req ≤ 8 := by
  have low : bits req 39 37 < 8 := Nat.mod_lt _ (by decide)
  unfold srLen
  omega
theorem laneBytes_full {req : BitVec 256} (full : srFull req = true) : laneBytes req = (List.range 16).map fun i => (i, srByte req i) := by
  unfold laneBytes lanesOf
  rw [full, if_pos rfl]
  rfl
theorem laneBytes_partial {req : BitVec 256} (part : srFull req = false) : laneBytes req = (List.range (srLen req)).map fun i => ((srRot req + i) % 16, srByte req i) := by
  have short : srLen req ≤ 16 := (srLen_le req).trans (by decide)
  have part' : ¬ srFull req = true := by rw [part]; exact Bool.false_ne_true
  unfold laneBytes lanesOf
  rw [if_neg part']
  refine List.ext_getElem (by simp [short]) fun i _ _ => ?_
  simp
theorem laneBytes_lanes (req : BitVec 256) : (∀ e ∈ laneBytes req, e.1 < 16) ∧ (laneBytes req).Pairwise fun x y => x.1 ≠ y.1 := by
  cases full : srFull req with
  | true =>
    rw [laneBytes_full full, List.pairwise_map]
    exact ⟨fun e m => by obtain ⟨i, low, rfl⟩ := List.mem_map.1 m; exact List.mem_range.1 low, List.nodup_range⟩
  | false =>
    rw [laneBytes_partial full, List.pairwise_map]
    refine ⟨fun e m => ?_, List.nodup_range.imp_of_mem fun {i j} mi mj apart same => ?_⟩
    · obtain ⟨i, low, rfl⟩ := List.mem_map.1 m
      exact Nat.mod_lt _ (by decide)
    · have short := srLen_le req
      have i8 := List.mem_range.1 mi
      have j8 := List.mem_range.1 mj
      dsimp only at same
      omega

/-- A channel with one request of its own to serve and no reply to discard. -/
theorem Chan.answer_front {c : Chan} {r : ScrReq} {rest : List ScrReq} (reqs : c.reqs = r :: rest) (waits : ∀ x ∈ rest, x.done = none) (keeps : c.skip = 0) (rep : BitVec 256) :
    (c.answer r rep).reqs = rest ∧ (c.answer r rep).reps = c.reps ++ [rep] := by
  unfold Chan.answer
  rw [reqs, keeps, giveReply, if_pos rfl]
  cases rest with
  | nil => exact ⟨rfl, rfl⟩
  | cons x t =>
    have next : x.done = none := waits x (List.mem_cons_self ..)
    simp [Chan.release, next]
theorem Chan.next_front {c : Chan} {r : ScrReq} {rest : List ScrReq} (reqs : c.reqs = r :: rest) (new : r.done = none) {held : BitVec 256 → Bool} (free : held r.word = false) :
    c.next held = some r := by
  simp [Chan.next, reqs, new, free]
theorem Scratch.holds_free {c : Scratch} {seat : Option Nat} {path : Bool} {req : BitVec 256} (free : c.allows seat (srWaddr req) = false ∨ c.held (srWaddr req) = false) : c.holds seat path req = false := by
  rcases free with free | free <;> simp [Scratch.holds, free]
/-- The oldest request of a hand's channel, which nothing holds, is served and answered. -/
theorem scratchStep_hand {s t : State} {p : PlotIx} {h : HandIx} {qp : Fin 8} {r : ScrReq} {rest : List ScrReq} {write : Bool} {rep : BitVec 256} (on : s.clocksOn = true)
    (reqs : (s.net.handChanAt (handChanIx p.val h.val qp.val)).reqs = r :: rest) (new : r.done = none) (waits : ∀ x ∈ rest, x.done = none)
    (keeps : (s.net.handChanAt (handChanIx p.val h.val qp.val)).skip = 0) (oldest : s.olderOnPort (handChanIx p.val h.val qp.val) r = false)
    (free : s.net.scr.allows (s.fab.handOwner p.val h.val) (srWaddr r.word) = false ∨ s.net.scr.held (srWaddr r.word) = false)
    (served : scratchServe s (s.fab.handOwner p.val h.val) true false r.word write .alone 0 = some (t, rep))
    (path : s.feedCut p.val = false) (chans : t.net.handChan = s.net.handChan) :
    ∃ u, scratchStep s (.hand p h qp) write .alone 0 = u ∧ u = { t with net := u.net } ∧ u.net.scr = t.net.scr ∧
      (u.net.handChanAt (handChanIx p.val h.val qp.val)).reqs = rest ∧ (u.net.handChanAt (handChanIx p.val h.val qp.val)).reps = (s.net.handChanAt (handChanIx p.val h.val qp.val)).reps ++ [rep] := by
  have plot : handChanIx p.val h.val qp.val / 64 = p.val := by unfold handChanIx; omega
  have hand : handChanIx p.val h.val qp.val / 8 % 8 = h.val := by unfold handChanIx; omega
  have holds : s.handHolds (handChanIx p.val h.val qp.val) r.word = false := by
    unfold State.handHolds
    rw [plot, hand]
    exact Scratch.holds_free free
  have same : t.net.handChanAt (handChanIx p.val h.val qp.val) = s.net.handChanAt (handChanIx p.val h.val qp.val) := by
    unfold Net.handChanAt
    rw [chans]
  refine ⟨t.onNet fun n => n.setHandChan (handChanIx p.val h.val qp.val) ((s.net.handChanAt (handChanIx p.val h.val qp.val)).answer r rep), ?_, rfl, rfl, ?_⟩
  · simp only [scratchStep, on, Chan.next_front reqs new holds, oldest, path, served, Bool.not_true, Bool.false_eq_true, if_false]
    rw [← same]
    rfl
  · rw [State.onNet_net, Net.setHandChan_handChanAt, if_pos rfl]
    exact Chan.answer_front reqs waits keeps rep

theorem Scratch.halfState_clean {c : Scratch} {w : Nat} (clean : c.errAt w = 0) (k : Nat) : halfState (c.halfErr w k) = 0 := by
  simp only [halfState, c.halfErr_clean clean, if_true]
theorem Scratch.wordBad_clean {c : Scratch} {w : Nat} (clean : c.errAt w = 0) : c.wordBad w = false := by
  simp [Scratch.wordBad, c.halfState_clean clean]
theorem Scratch.wordCorr_clean {c : Scratch} {w : Nat} (clean : c.errAt w = 0) : c.wordCorr w = false := by
  simp [Scratch.wordCorr, c.halfState_clean clean]
theorem Scratch.readLane_clean {c : Scratch} {w : Nat} (clean : c.errAt w = 0) (i : Nat) : c.readLane w i = c.lane w i := by
  have few : (0 : Nat) < 3 := by decide
  simp only [Scratch.readLane, Scratch.halfByte, c.halfErr_clean clean, few, if_true, Nat.div_add_mod]
/-- A write that its seat may make, alone on its word. -/
theorem scratchServe_write {s : State} {seat : Option Nat} {req : BitVec 256} (op : srOp req = 1) (allowed : s.net.scr.allows seat (srWaddr req) = true)
    (sound : srFull req = true ∨ s.net.scr.errAt (srWaddr req) = 0) :
    scratchServe s seat true false req true .alone 0 = some (s.onNet fun n => n.onScr fun c => c.store (srWaddr req) (laneBytes req), scratchReply req 0 false []) := by
  have good : (!srFull req && s.net.scr.wordBad (srWaddr req)) = false := by
    rcases sound with full | clean
    · rw [full]
      rfl
    · rw [s.net.scr.wordBad_clean clean, Bool.and_false]
  have whole (l : List (Nat × Byte)) : l.filter (fun _ => true) = l := List.filter_eq_self.2 fun _ _ => rfl
  simp [scratchServe, scratchUpset, scratchAccess, op, allowed, good, whole, laneBytes, respOkay]
theorem scratchServe_read {s : State} {seat : Option Nat} {req : BitVec 256} (op : srOp req = 0) (allowed : s.net.scr.allows seat (srWaddr req) = true) (clean : s.net.scr.errAt (srWaddr req) = 0) :
    scratchServe s seat true false req false .alone 0 = some (s, scratchReply req 0 false ((lanesOf (srFull req) (srRot req) (srLen req)).map fun i => s.net.scr.lane (srWaddr req) i)) := by
  simp [scratchServe, scratchUpset, scratchAccess, op, allowed, s.net.scr.wordBad_clean clean, s.net.scr.wordCorr_clean clean, s.net.scr.readLane_clean clean, respOkay]
theorem scratchServe_protected {s : State} {seat : Option Nat} {req : BitVec 256} (op : srOp req = 1) (refused : s.net.scr.allows seat (srWaddr req) = false) :
    scratchServe s seat true false req true .alone 0 = some (s, scratchReply req 3 false []) := by
  simp [scratchServe, op, refused, respProtected]

theorem releaseFill_of_none {s : State} (none : s.mc.heldFill = []) : releaseFill s = s := by
  have same : ({ s.mc with heldFill := [] } : Mc) = s.mc := by rw [← none]
  unfold releaseFill
  rw [none, List.foldl_nil]
  exact congrArg (fun m => ({ s with mc := m } : State)) same

/-- Settles O43: the request at the front of its channel is served alone; a fill's end releases its words. -/
theorem scratchpadRequests : Obligations.ScratchpadRequests := by
  intro p h qp r rest s
  refine ⟨fun on reqs new waits keeps path oldest => ⟨fun op allowed free sound => ?_, fun op allowed free clean => ?_, fun refused op => ?_⟩, fun b none => ?_, rfl⟩
  · have served := scratchServe_write (s := s) op allowed sound
    obtain ⟨u, runs, only, scr, replied⟩ := scratchStep_hand on reqs new waits keeps oldest (.inr free) served path rfl
    have stored (a : Nat) : u.net.scr.byte a = (s.net.scr.store (srWaddr r.word) (laneBytes r.word)).byte a := by
      rw [scr]
      rfl
    obtain ⟨inside, distinct⟩ := laneBytes_lanes r.word
    obtain ⟨outside, written, merged⟩ := s.net.scr.store_byte (srWaddr r.word) inside distinct
    refine ⟨u, congrArg Host.Outcome.next runs, only, replied, fun a out => (stored a).trans (outside a out), fun full i low => ?_, fun part => ⟨fun i low => ?_, fun j low other => ?_⟩⟩
    · rw [stored]
      refine written (i, _) ?_
      rw [laneBytes_full full]
      exact List.mem_map.2 ⟨i, List.mem_range.2 low, rfl⟩
    · rw [stored]
      refine written ((srRot r.word + i) % 16, _) ?_
      rw [laneBytes_partial part]
      exact List.mem_map.2 ⟨i, List.mem_range.2 low, rfl⟩
    · rw [stored]
      have clean := sound.resolve_left (by rw [part]; exact Bool.false_ne_true)
      refine merged clean j low fun e m same => ?_
      rw [laneBytes_partial part] at m
      obtain ⟨i, low, rfl⟩ := List.mem_map.1 m
      exact other i (List.mem_range.1 low) same.symm
  · have served := scratchServe_read (s := s) op allowed clean
    obtain ⟨u, runs, only, scr, replied⟩ := scratchStep_hand on reqs new waits keeps oldest (.inr free) served path rfl
    exact ⟨u, congrArg Host.Outcome.next runs, only, scr, replied⟩
  · have served := scratchServe_protected (s := s) op refused
    obtain ⟨u, runs, only, scr, replied⟩ := scratchStep_hand on reqs new waits keeps oldest (.inl refused) served path rfl
    exact ⟨u, congrArg Host.Outcome.next runs, scr, replied⟩
  · exact congrArg Host.Outcome.next (releaseFill_of_none (s := s.onNet fun n => n.onScr fun c => { c with filling := c.filling.filter (· ≠ b.val) }) none)

end Sys2Proof.Machine
end

section
/-! PROOF. Engine operations, jumps, branches and traps (R272, R289-R290). -/

namespace Sys2Proof.Machine

/-- The high half of a product of two words, taken as numbers without and with a sign. -/
theorem mulhu_eq_extract (a b : Word) : BitVec.ofNat 32 (a.toNat * b.toNat / 4294967296) = (a.setWidth 64 * b.setWidth 64).extractLsb' 32 32 := by
  have small : a.toNat * b.toNat < 18446744073709551616 := (Nat.mul_lt_mul'' a.isLt b.isLt).trans_eq (by decide)
  have wide (c : Word) : (c.setWidth 64).toNat = c.toNat := by simp [Nat.mod_eq_of_lt (c.isLt.trans (by decide : 4294967296 < 18446744073709551616))]
  refine BitVec.eq_of_toNat_eq ?_
  rw [BitVec.extractLsb'_toNat, BitVec.toNat_mul, wide, wide, Nat.shiftRight_eq_div_pow, BitVec.toNat_ofNat, Nat.mod_eq_of_lt (a := a.toNat * b.toNat) (by simpa using small)]
theorem mulh_eq_extract (a b : Word) : BitVec.ofInt 32 (a.toInt * b.toInt / 4294967296) = (a.signExtend 64 * b.signExtend 64).extractLsb' 32 32 := by
  have wide (c : Word) : c.signExtend 64 = BitVec.ofInt 64 c.toInt := rfl
  refine BitVec.eq_of_toNat_eq ?_
  rw [wide, wide, ← BitVec.ofInt_mul, BitVec.extractLsb'_toNat, BitVec.toNat_ofInt, BitVec.toNat_ofInt, Nat.shiftRight_eq_div_pow]
  omega

/-- Settles O44: each operation writes rd and retires. -/
theorem engineThreeRegister : Obligations.EngineThreeRegister := by
  intro p h rd ra rb s
  exact ⟨exec_writes_register rfl rfl rfl, exec_writes_register rfl rfl rfl, exec_writes_register rfl rfl rfl, exec_writes_register rfl rfl rfl,
    exec_writes_register rfl rfl rfl, exec_writes_register rfl rfl rfl, exec_writes_register rfl rfl rfl, exec_writes_register rfl rfl rfl,
    exec_writes_register rfl rfl rfl, exec_writes_register rfl rfl rfl, exec_writes_register rfl rfl rfl, exec_writes_register rfl rfl (mulh_eq_extract _ _),
    exec_writes_register rfl rfl (mulhu_eq_extract _ _)⟩

/-! ## What a retirement leaves of the state its instruction made -/

/-- The state u has been retired from with thread h of plot p as y: counts and samples differ, and the draw counter has moved on. -/
def State.retiresTo (u t : State) (p h : Nat) (y : Thread) : Prop :=
  ∃ v, t = v.drawn ∧ (u.onEng fun e => e.setThread p h y.discardInFlight).countsDiffer v p ∧ (u.unsampled p h → v.net = u.net)
theorem finish_retire_retiresTo (u : State) (npc : Word) (events : List Nat) (taken : Bool) (p h n pc : Nat) (word : Word) :
    u.retiresTo (((EngEnd.retire u npc events taken).counted p n).finish p h pc word) p h { u.eng.thread p h with pc := npc } := by
  have corrected := u.countMemCorr_countsDiffer p n
  have same : (countMemCorr u p n).eng.thread p h = u.eng.thread p h := corrected.thread p h
  rw [EngEnd.counted, EngEnd.finish_retire, same]
  obtain ⟨t, drawn, counted, quiet⟩ := ((countMemCorr u p n).onEng fun e => e.setThread p h ({ u.eng.thread p h with pc := npc } : Thread).discardInFlight).retired'_countsDiffer p h pc word (0x01 :: events) 0 taken
  have written := corrected.setThread h ({ u.eng.thread p h with pc := npc } : Thread).discardInFlight
  refine ⟨t, drawn, written.trans counted, fun off => (quiet (written.unsampled off)).trans ?_⟩
  rw [State.onEng_net, countMemCorr_net]
theorem State.executes.retiresTo {s u : State} {p h : Nat} {i : EngInsn} {body : State → Thread → EngEnd} (k : s.executes p h i) {npc : Word} {events : List Nat} {taken : Bool}
    (retires : body s (s.eng.thread p h) = .retire u npc events taken) : u.retiresTo (engStep s p h i body) p h { u.eng.thread p h with pc := npc } := by
  obtain ⟨runs, fetched, word, legal⟩ := k
  rw [engStep_executes s p h i body runs fetched word legal, retires]
  exact finish_retire_retiresTo ..
theorem Engines.setThread_self (e : Engines) (p h : Nat) (x : Thread) : tget ({} : Thread) (e.setThread p h x).threads (8 * p + h) = x := by
  unfold Engines.setThread
  exact (tget_tput ..).trans (if_pos rfl)
theorem Engines.setThread_other (e : Engines) {p h k : Nat} (x : Thread) (other : k ≠ 8 * p + h) : tget ({} : Thread) (e.setThread p h x).threads k = tget {} e.threads k := by
  unfold Engines.setThread
  exact (tget_tput ..).trans (if_neg other)
theorem Engines.setThread_setThread (e : Engines) (p h : Nat) (x y : Thread) : (e.setThread p h x).setThread p h y = e.setThread p h y :=
  congrArg (fun t => { e with threads := t }) (tput_tput ..)
/-- Beside the thread's record, only what a retirement counts differs. -/
def State.threadDiffers (s u : State) (p h : Nat) : Prop := ∀ y, (s.onEng fun e => e.setThread p h y).countsDiffer (u.onEng fun e => e.setThread p h y) p
theorem State.threadDiffers_setThread {s u : State} {p h : Nat} (k : s.threadDiffers u p h) (x : Thread) : s.threadDiffers (u.onEng fun e => e.setThread p h x) p h := by
  intro y
  have once : ((u.onEng fun e => e.setThread p h x).onEng fun e => e.setThread p h y) = u.onEng fun e => e.setThread p h y :=
    congrArg (fun e => { u with eng := e }) (u.eng.setThread_setThread p h x y)
  rw [once]
  exact k y
theorem State.threadDiffers_refl (s : State) (p h : Nat) : s.threadDiffers s p h := fun _ => State.countsDiffer_refl _ p
theorem State.threadDiffers_counts {s u v : State} {p h : Nat} (k : s.threadDiffers u p h) (l : u.countsDiffer v p) : s.threadDiffers v p h := fun y => (k y).trans (l.setThread h y)
/-- A retirement from a state in which only the thread and counts differ has changed registers only. -/
theorem State.retiresTo.registersOnly {s u t : State} {p h : Nat} {y : Thread} (k : u.retiresTo t p h y) (only : s.threadDiffers u p h) (still : u.net = s.net)
    (sampler : u.unsampled p h ↔ s.unsampled p h) : registersOnly s t p h y := by
  obtain ⟨v, drawn, counted, quiet⟩ := k
  have l := (only y.discardInFlight).trans counted
  rw [drawn]
  refine ⟨⟨?frame, ?threads, l.engine, ?_, ?_, ?_, ?_⟩, ?thread, ?_, ?_, ?_, l.queue, fun off => (quiet (sampler.2 off)).trans still⟩
  case threads =>
    intro j other
    rw [State.drawn_eng, l.frame]
    simp [Engines.setThread, other]
  case thread => exact (l.thread p h).trans (by simp [Thread.discardInFlight])
  all_goals rw [l.frame]; rfl
/-- An instruction that retires with v written to its thread, and counts beside, changes registers only. -/
theorem State.executes.registersOnly_of_threadDiffers {s u : State} {p h : Nat} {i : EngInsn} {body : State → Thread → EngEnd} (k : s.executes p h i) {npc : Word} {events : List Nat} {taken : Bool}
    (retires : body s (s.eng.thread p h) = .retire u npc events taken) (only : s.threadDiffers u p h) (still : u.net = s.net) :
    registersOnly s (engStep s p h i body) p h { u.eng.thread p h with pc := npc } := by
  have frame := (only {}).frame
  have fab := congrArg State.fab frame
  have mc := congrArg State.mc frame
  refine (k.retiresTo retires).registersOnly only still ?_
  change (∀ k, u.fab.handOwner p h = some k → sampleOn (u.mc.snap k).sample = false) ↔ ∀ k, s.fab.handOwner p h = some k → sampleOn (s.mc.snap k).sample = false
  rw [show u.fab = s.fab from fab, show u.mc = s.mc from mc]

/-! ## Traps -/

/-- The attention that a trap raises. -/
def trapEvent (o p h cause info : Nat) : Event :=
  if cause = causeTrap then { seat := o, code := 0x0102, index := 0x3200 + p, a := 8 * p + h, b := info } else { seat := o, code := 0x0709, index := 0x3200 + p, a := 8 * p + h, b := 256 * info + cause }
/-- The thread as a trap leaves it. -/
def Thread.trappedAs (x : Thread) (cause info addr : Nat) : Thread :=
  { x with state := .trapped, trapCause := BitVec.ofNat 8 cause, trapInfo := BitVec.ofNat 16 info, trapPc := x.pc.setWidth 17, trapAddr := BitVec.ofNat 32 addr, miss := none, fencing := false, fenceLost := none }
theorem takeTrap_eq {s : State} {p h o : Nat} (owner : s.fab.handOwner p h = some o) (cause info addr : Nat) :
    takeTrap s p h cause info addr = (s.onEng fun e => (e.setThread p h ((s.eng.thread p h).trappedAs cause info addr)).regate p).raise (trapEvent o p h cause info) := by
  unfold takeTrap
  simp only [State.onEng_fab, owner]
  rfl
theorem Engines.regate_dmem (e : Engines) (p : Nat) : (e.regate p).dmem = e.dmem := by
  unfold Engines.regate
  simp only []
  split <;> rfl
theorem finish_trap_trappedWith {s : State} {p h o : Nat} (owner : s.fab.handOwner p h = some o) (cause info addr n pc : Nat) (word : Word) :
    trappedWith s (((EngEnd.trap s cause info addr).counted p n).finish p h pc word) p h cause info (BitVec.ofNat 32 addr) (trapEvent o p h cause info) := by
  have corrected := s.countMemCorr_countsDiffer p n
  have owner' : (countMemCorr s p n).fab.handOwner p h = some o := by rw [corrected.frame]; exact owner
  have ended : ((EngEnd.trap s cause info addr).counted p n).finish p h pc word = (takeTrap (countMemCorr s p n) p h cause info addr).retired' p h pc word [0x01, 0x11] 1 false := rfl
  rw [ended, takeTrap_eq owner', corrected.thread p h]
  obtain ⟨v, drawn, counted, -⟩ := ((countMemCorr s p n).onEng fun e => (e.setThread p h ((s.eng.thread p h).trappedAs cause info addr)).regate p).raise (trapEvent o p h cause info)
    |>.retired'_countsDiffer p h pc word [0x01, 0x11] 1 false
  rw [drawn]
  have threads : v.eng.threads = (s.eng.setThread p h ((s.eng.thread p h).trappedAs cause info addr)).threads := by
    rw [counted.frame]
    refine (Engines.regate_threads ..).trans ?_
    rw [corrected.frame]
    rfl
  refine ⟨?_, ?_, ?_, ?_, ?_, ?_, fun k other => ?_⟩
  · unfold Engines.thread
    rw [State.drawn_eng, threads]
    exact Engines.setThread_self ..
  case refine_7 =>
    rw [State.drawn_eng, threads]
    exact Engines.setThread_other _ _ other
  case refine_4 =>
    rw [State.drawn_eng, counted.frame]
    refine (Engines.regate_dmem ..).trans ?_
    rw [corrected.frame]
    rfl
  all_goals
    rw [State.drawn, counted.frame, corrected.frame]
    rfl

/-! ## Jumps, branches, traps -/

/-- An instruction that traps on its seat's thread. -/
theorem State.executes.trappedWith {s : State} {p h o : Nat} {i : EngInsn} {body : State → Thread → EngEnd} (k : s.executes p h i) (owner : s.fab.handOwner p h = some o) {cause info addr : Nat}
    (traps : body s (s.eng.thread p h) = .trap s cause info addr) : trappedWith s (engStep s p h i body) p h cause info (BitVec.ofNat 32 addr) (trapEvent o p h cause info) := by
  obtain ⟨runs, fetched, word, legal⟩ := k
  rw [engStep_executes s p h i body runs fetched word legal, traps]
  exact finish_trap_trappedWith owner ..
/-- A jump writes its thread and trains the plot's predictor. -/
theorem State.executes.jumpsFrom {s u : State} {p h : Nat} {i : EngInsn} {body : State → Thread → EngEnd} (k : s.executes p h i) (counted : s.countsDiffer u p) (still : u.net = s.net) {x : Thread} {target : Word} {wrong : Bool}
    (jump : body s (s.eng.thread p h) = jumpTo u p h x target wrong) : registersOnly s (engStep s p h i body) p h { x with pc := target } := by
  have only := State.threadDiffers_counts (State.threadDiffers_setThread (State.threadDiffers_counts (s.threadDiffers_refl p h) counted) x)
    (State.countsDiffer_setEngine (u.onEng fun e => e.setThread p h x) p fun _ => (u.eng.engine p).learn x.pc.toNat ((u.fab.handOwner p h).getD 0) target.toNat (Config.timing u.aon.free 400))
  have written : ((u.onEng fun e => e.setThread p h x).onEng fun e => e.setEngine p ((u.eng.engine p).learn x.pc.toNat ((u.fab.handOwner p h).getD 0) target.toNat (Config.timing u.aon.free 400))).eng.thread p h = x :=
    Engines.setThread_self ..
  have done := k.registersOnly_of_threadDiffers jump only still
  rw [← written]
  exact done
theorem State.executes.jumps {s : State} {p h : Nat} {i : EngInsn} {body : State → Thread → EngEnd} (k : s.executes p h i) {x : Thread} {target : Word} {wrong : Bool}
    (jump : body s (s.eng.thread p h) = jumpTo s p h x target wrong) : registersOnly s (engStep s p h i body) p h { x with pc := target } :=
  k.jumpsFrom (s.countsDiffer_refl p) rfl jump
/-- The state with the branch at pc in the predictor. -/
def State.trained (s : State) (p pc : Nat) (taken : Bool) : State := s.onEng fun e => e.setEngine p ((e.engine p).train pc taken)
/-- A branch trains the predictor and goes on where its condition says. -/
theorem runBranch_taken {s : State} {p h : Nat} {f : BranchOp} {ra rb : RegIx} {off : BitVec 16} (k : s.executes p h (.branch f ra rb off))
    (holds : branchHolds f ((s.eng.thread p h).reg ra) ((s.eng.thread p h).reg rb) = true) :
    registersOnly s (runBranch s p h f ra rb off) p h { s.eng.thread p h with pc := (s.eng.thread p h).pc + 4 * off.signExtend 32 } := by
  refine k.jumpsFrom (u := s.trained p (s.eng.thread p h).pc.toNat true) (State.countsDiffer_setEngine s p _) rfl (wrong := decide (2 ≤ (s.eng.engine p).bimodalAt (s.eng.thread p h).pc.toNat) != true) ?_
  simp only [holds, if_true]
  rfl
theorem runBranch_untaken {s : State} {p h : Nat} {f : BranchOp} {ra rb : RegIx} {off : BitVec 16} (k : s.executes p h (.branch f ra rb off))
    (fails : branchHolds f ((s.eng.thread p h).reg ra) ((s.eng.thread p h).reg rb) = false) :
    registersOnly s (runBranch s p h f ra rb off) p h { s.eng.thread p h with pc := (s.eng.thread p h).pc + 4 } := by
  refine k.registersOnly_of_threadDiffers (u := s.trained p (s.eng.thread p h).pc.toNat false) (events := [0x02] ++ if decide (2 ≤ (s.eng.engine p).bimodalAt (s.eng.thread p h).pc.toNat) != false then [0x04] else []) (taken := false) ?_
    (State.threadDiffers_counts (s.threadDiffers_refl p h) (State.countsDiffer_setEngine s p _)) rfl
  simp only [fails, Bool.false_eq_true, if_false]
  rfl
theorem exec_illegal {s : State} {p : PlotIx} {h : HandIx} {w : Word} (runs : s.threadRuns p.val h.val = true) (fetched : fetchTrap s p.val h.val (s.eng.thread p.val h.val).pc = none)
    (word : fetchWord s p.val (s.eng.thread p.val h.val).pc = w) (reserved : decodeEng w = none) :
    exec (.illegal p h w 0) s = .next (((EngEnd.trap s causeIllegal 0 0).counted p.val (fetchCorr s p.val (s.eng.thread p.val h.val).pc)).finish p.val h.val (s.eng.thread p.val h.val).pc.toNat w) := by
  simp [exec, execIllegal, runs, fetched, word, reserved]

/-- Settles O46: jumps and branches write their thread and the predictor; TRAP, a misaligned JR and a reserved word trap. -/
theorem engineControlFlow : Obligations.EngineControlFlow := by
  intro p h ra rb off far s o owner x a b goes branch
  have branches {f : BranchOp} {c : Instr} {P : Prop} (meaning : exec c s = .next (runBranch s p.val h.val f ra rb off)) (holds : branchHolds f a b = true ↔ P) : branch f c P :=
    ⟨fun yes k => ⟨_, meaning, runBranch_taken k (holds.2 yes)⟩, fun no k => ⟨_, meaning, runBranch_untaken k (Bool.eq_false_iff.2 fun yes => no (holds.1 yes))⟩⟩
  refine ⟨fun k => ⟨_, rfl, k.jumps rfl⟩, fun k => ⟨_, rfl, k.jumps rfl⟩, fun aligned k => ⟨_, rfl, ?_⟩, fun unaligned k => ⟨_, rfl, ?_⟩,
    branches rfl ?_, branches rfl ?_, branches rfl ?_, branches rfl ?_, fun k => ⟨_, rfl, k.trappedWith owner rfl⟩, fun w runs fetched word reserved => ⟨_, exec_illegal runs fetched word reserved, finish_trap_trappedWith owner ..⟩⟩
  · exact k.jumps (if_neg (not_not.2 aligned))
  · have address : a = BitVec.ofNat 32 a.toNat := by simp
    refine (congrArg (fun v => trappedWith s _ p.val h.val 3 0 v _) address).mpr ?_
    exact k.trappedWith owner (if_pos unaligned)
  · simp [branchHolds]
  · simp [branchHolds]
  · simp [branchHolds]
  · simp [branchHolds]

end Sys2Proof.Machine
end

section
/-! PROOF. Orders to threads; loads and stores of engines (R241-R243, R247-R263, R539). -/

namespace Sys2Proof.Machine

/-! ## Orders to threads -/

theorem takeOrder_front (o : Order) (l : List Order) : takeOrder o (o :: l) = some l := if_pos rfl
theorem Thread.run_parts (x : Thread) (limp : Bool) (pc : Word) : (x.run limp pc).state = (if limp && !x.ess then .held else .running) ∧ (x.run limp pc).pc = pc ∧ (x.run limp pc).regs = x.regs ∧
    (x.run limp pc).trapCause = x.trapCause ∧ (x.run limp pc).watch = x.watch ∧ (x.run limp pc).kevent = x.kevent := by
  unfold Thread.run
  split <;> exact ⟨rfl, rfl, rfl, rfl, rfl, rfl⟩
/-- An order to a thread at the front of the orders is taken and acts. -/
theorem threadOrder_front {s : State} {p h cmd pc : Nat} {rest : List Order} (on : s.clocksOn = true) (orders : s.mc.orders = .thread p h cmd pc :: rest) :
    threadOrder s p h cmd = threadCmd (s.onMc fun m => { m with orders := rest }) p h cmd pc := by
  simp [threadOrder, on, orders, takeOrder_front]
theorem threadOrder_off {s : State} {p h cmd : Nat} (off : s.clocksOn = false) : threadOrder s p h cmd = s := by
  simp [threadOrder, off]
/-- A thread's record written and its plot's clock gate set, after the queues n. -/
def State.putThread (s : State) (n : Net) (p h : Nat) (x : Thread) : State := (s.onNet fun _ => n).onEng fun e => (e.setThread p h x).regate p
theorem Engines.regate_imem (e : Engines) (p : Nat) : (e.regate p).imem = e.imem := by
  unfold Engines.regate
  simp only []
  split <;> rfl
theorem State.putThread_thread (s : State) (n : Net) (p h : Nat) (x : Thread) : (s.putThread n p h x).eng.thread p h = x := by
  unfold Engines.thread State.putThread
  rw [State.onEng_eng, Engines.regate_threads]
  exact Engines.setThread_self ..
theorem State.putThread_parts (s : State) (n : Net) (p h : Nat) (x : Thread) : (s.putThread n p h x).mc = s.mc ∧ (s.putThread n p h x).fab = s.fab ∧ (s.putThread n p h x).stk = s.stk ∧ (s.putThread n p h x).nv = s.nv ∧
    (s.putThread n p h x).eng.imem = s.eng.imem ∧ (s.putThread n p h x).eng.dmem = s.eng.dmem ∧ ∀ k, k ≠ 8 * p + h → tget ({} : Thread) (s.putThread n p h x).eng.threads k = tget {} s.eng.threads k := by
  refine ⟨rfl, rfl, rfl, rfl, Engines.regate_imem .., Engines.regate_dmem .., fun k other => ?_⟩
  unfold State.putThread
  rw [State.onEng_eng, Engines.regate_threads]
  exact Engines.setThread_other _ _ other
section
variable {s : State} {p h pc : Nat}
theorem threadCmd_start (halted : (s.eng.thread p h).state = .stopped ∨ (s.eng.thread p h).state = .trapped) :
    threadCmd s p h 1 pc = s.putThread ((s.net.stopThread p h 5).dropReplies p h) p h ({ (s.eng.thread p h).clear with trapCause := 0 }.run s.limp (BitVec.ofNat 32 pc)) := by
  simp [threadCmd, halted]
  rfl
theorem threadCmd_continue (halted : (s.eng.thread p h).state = .stopped ∨ (s.eng.thread p h).state = .trapped) :
    threadCmd s p h 3 pc = s.putThread s.net p h ((s.eng.thread p h).run s.limp (BitVec.ofNat 32 pc)) := by
  simp [threadCmd, halted]
  rfl
theorem threadCmd_stop (going : (s.eng.thread p h).state = .running ∨ (s.eng.thread p h).state = .waiting) :
    threadCmd s p h 2 pc = s.putThread s.net p h { s.eng.thread p h with state := .stopped, waitRec := none, miss := none, fencing := false, fenceLost := none } := by
  simp [threadCmd, going]
  rfl
theorem threadCmd_unfit {cmd : Nat} (fits : cmd = 1 ∨ cmd = 3) (going : ¬ ((s.eng.thread p h).state = .stopped ∨ (s.eng.thread p h).state = .trapped)) : threadCmd s p h cmd pc = s := by
  rcases fits with rfl | rfl <;> simp [threadCmd, going]
end

/-- Settles O50: an order that fits writes its thread's record and the gate of the plot's engine; any other is taken. -/
theorem threadCommands : Obligations.ThreadCommands := by
  intro p h pc s rest on x halted runs others
  have written (n : Net) (y : Thread) : others ((s.onMc fun m => { m with orders := rest }).putThread n p.val h.val y) := State.putThread_parts ..
  refine ⟨fun orders => ⟨fun stands => ?_, fun going => ?_⟩, fun orders going => ?_, fun orders => ⟨fun stands => ?_, fun going => ?_⟩, fun u off => ⟨?_, ?_, ?_⟩⟩
  · refine ⟨_, congrArg Host.Outcome.next ((threadOrder_front on orders).trans (threadCmd_start stands)), written _ _, ?_⟩
    rw [State.putThread_thread]
    obtain ⟨state, pc', regs, rest'⟩ := Thread.run_parts ({ x.clear with trapCause := 0 }) s.limp (BitVec.ofNat 32 pc)
    exact ⟨state, pc', regs, rest'⟩
  · exact congrArg Host.Outcome.next ((threadOrder_front on orders).trans (threadCmd_unfit (.inl rfl) going))
  · refine ⟨_, congrArg Host.Outcome.next ((threadOrder_front on orders).trans (threadCmd_stop going)), written _ _, rfl, State.putThread_thread ..⟩
  · refine ⟨_, congrArg Host.Outcome.next ((threadOrder_front on orders).trans (threadCmd_continue stands)), written _ _, rfl, ?_⟩
    rw [State.putThread_thread]
    obtain ⟨state, pc', regs, -⟩ := Thread.run_parts x s.limp (BitVec.ofNat 32 pc)
    exact ⟨state, pc', regs⟩
  · exact congrArg Host.Outcome.next ((threadOrder_front on orders).trans (threadCmd_unfit (.inr rfl) going))
  all_goals exact congrArg Host.Outcome.next (threadOrder_off off)

/-! ## The parts of a retirement -/

theorem State.retiresTo.thread {u t : State} {p h : Nat} {y : Thread} (k : u.retiresTo t p h y) : t.eng.thread p h = { y with miss := none, fencing := false, fenceLost := none } := by
  obtain ⟨v, drawn, counted, -⟩ := k
  rw [drawn]
  exact (counted.thread p h).trans (Engines.setThread_self ..)
theorem State.retiresTo.parts {u t : State} {p h : Nat} {y : Thread} (k : u.retiresTo t p h y) : t.fab = u.fab ∧ t.stk = u.stk ∧ t.nv = u.nv ∧ t.eng.dmem = u.eng.dmem ∧ t.eng.imem = u.eng.imem ∧
    t.eng.imErr = u.eng.imErr ∧ t.eng.eplls = u.eng.eplls ∧ t.net = { u.net with queues := t.net.queues } ∧ (∀ q, q / 64 ≠ p → t.net.queue q = u.net.queue q) ∧ (u.unsampled p h → t.net = u.net) := by
  obtain ⟨v, drawn, counted, quiet⟩ := k
  rw [drawn]
  refine ⟨?_, ?_, ?_, ?_, ?_, ?_, ?_, ?_, counted.queue, quiet⟩
  all_goals
    rw [counted.frame]
    rfl
/-- A retirement from a state that has changed only its thread, its plot's engine, memories and queues keeps the frame of an engine. -/
theorem State.retiresTo.engineFrame {s u t : State} {p h : Nat} {y : Thread} (k : u.retiresTo t p h y) (frame : u = { s with eng := u.eng, net := u.net, fab := u.fab })
    (threads : ∀ k, k ≠ 8 * p + h → tget ({} : Thread) u.eng.threads k = tget {} s.eng.threads k) (engines : ∀ j, j ≠ p → u.eng.engine j = s.eng.engine j)
    (memories : u.eng.imem = s.eng.imem ∧ u.eng.imErr = s.eng.imErr ∧ u.eng.eplls = s.eng.eplls ∧ u.net.narrow = s.net.narrow) : engineFrame s t p h := by
  obtain ⟨imem, imErr, eplls, narrow⟩ := memories
  obtain ⟨v, drawn, counted, quiet⟩ := k
  rw [drawn]
  refine ⟨?_, fun k other => ?_, fun j other => (counted.engine j other).trans (engines j other), ?_, ?_, ?_, ?_⟩
  · rw [counted.frame, frame]
    rfl
  · rw [State.drawn_eng, counted.frame]
    exact (Engines.setThread_other _ _ other).trans (threads k other)
  · rw [counted.frame]
    exact imem
  · rw [counted.frame]
    exact imErr
  · rw [counted.frame]
    exact eplls
  · rw [counted.frame]
    exact narrow

/-! ## A retirement and the cache -/

theorem Engines.setEngine_self (e : Engines) (p : Nat) (x : Engine) : (e.setEngine p x).engine p = x := (Engines.setEngine_engine ..).trans (if_pos rfl)
theorem Engines.setEngine_cache {e : Engines} {p : Nat} {x : Engine} {l : List (Nat × CLine)} (cache : x.cache = l) : ((e.setEngine p x).engine p).cache = l := by rw [Engines.setEngine_self, cache]
theorem Engines.account_cache (e : Engines) (p h draw : Nat) : ((e.account p h draw).engine p).cache = (e.engine p).cache := by
  unfold Engines.account
  exact Engines.setEngine_cache rfl
theorem Engine.pmcAdd_cache (x : Engine) (ctl : Nat → BitVec 32) (k n : Nat) : (x.pmcAdd ctl k n).cache = x.cache := by
  unfold Engine.pmcAdd
  simp only []
  split
  · rfl
  · split
    · split
      · split
        · split <;> rfl
        · rfl
      · rfl
    · split <;> rfl
theorem State.countPmc_cache (s : State) (p h : Nat) (events : List Nat) : ((s.countPmc p h events).eng.engine p).cache = (s.eng.engine p).cache := by
  unfold State.countPmc
  split
  · rfl
  · refine Engines.setEngine_cache (foldl_leaves Engine.cache (fun x k => ?_) _ _)
    simp only []
    split
    · exact Engine.pmcAdd_cache ..
    · rfl
theorem countMemCorr_cache (s : State) (p n : Nat) : ((countMemCorr s p n).eng.engine p).cache = (s.eng.engine p).cache := by
  unfold countMemCorr
  split
  · rfl
  · exact Engines.setEngine_cache rfl
theorem pushSample_cache (s : State) (p seat q : Nat) (rec : BitVec 256) : ((pushSample s p seat q rec).eng.engine p).cache = (s.eng.engine p).cache := by
  unfold pushSample
  simp only []
  split
  · split
    · rfl
    · exact Engines.setEngine_cache rfl
  · exact Engines.setEngine_cache rfl
theorem sampleOne_cache (p h seat : Nat) (a : State × Bool) (j pc : Nat) (word : Word) (outcome : Nat) (taken : Bool) :
    ((sampleOne p h seat a j pc word outcome taken).1.eng.engine p).cache = (a.1.eng.engine p).cache := by
  unfold sampleOne
  simp only []
  split
  · refine (pushSample_cache ..).trans ?_
    exact Engines.setEngine_cache rfl
  · exact Engines.setEngine_cache rfl
theorem State.sample_cache (s : State) (p h pc : Nat) (word : Word) (outcome : Nat) (taken : Bool) : ((s.sample p h pc word outcome taken).eng.engine p).cache = (s.eng.engine p).cache := by
  unfold State.sample
  split
  · rfl
  · split
    · rfl
    · exact (sampleOne_cache ..).trans (foldl_leaves (fun a : State × Bool => (a.1.eng.engine p).cache) (fun a j => sampleOne_cache ..) _ (s, false))
theorem State.retired'_cache (s : State) (p h pc : Nat) (word : Word) (events : List Nat) (outcome : Nat) (taken : Bool) :
    ((s.retired' p h pc word events outcome taken).eng.engine p).cache = (s.eng.engine p).cache :=
  (State.sample_cache ..).trans ((State.countPmc_cache ..).trans (Engines.account_cache ..))
theorem finish_retire_cache (u : State) (npc : Word) (events : List Nat) (taken : Bool) (p h n pc : Nat) (word : Word) :
    ((((EngEnd.retire u npc events taken).counted p n).finish p h pc word).eng.engine p).cache = (u.eng.engine p).cache :=
  (State.retired'_cache ..).trans (countMemCorr_cache u p n)
theorem State.executes.retires_cache {s u : State} {p h : Nat} {i : EngInsn} {body : State → Thread → EngEnd} (k : s.executes p h i) {npc : Word} {events : List Nat} {taken : Bool}
    (retires : body s (s.eng.thread p h) = .retire u npc events taken) : ((engStep s p h i body).eng.engine p).cache = (u.eng.engine p).cache := by
  obtain ⟨runs, fetched, word, legal⟩ := k
  rw [engStep_executes s p h i body runs fetched word legal, retires]
  exact finish_retire_cache ..

/-! ## Local memory -/

theorem localAddr_data {s : State} {p h : Nat} {a : Word} (low : a.toNat < 65536) (mine : ldbMine s p h (a.toNat / 4096) = true) : localAddr s p h a = .data a.toNat := by
  simp [localAddr, low, mine]
theorem eccWord_clean (v : Word) : eccWord v 0#39 = v := by
  simp [eccWord, popNat_eq_length]
theorem eccState_clean : eccState 0#39 = 0 := by
  simp [eccState, popNat_eq_length]
theorem readLocal_clean {e : Engines} {p n : Nat} (clean : e.dmErrAt p n = 0#39) : readLocal e p n 1 = ([e.dmWord p n], 0, none) := by
  simp [readLocal, clean, eccWord_clean, eccState_clean, List.range_succ]
theorem loadLocal_data {s : State} {p h : Nat} {t : Thread} {rd ra : RegIx} {imm : BitVec 16} (aligned : (memAddr t ra imm).toNat % 4 = 0) (low : (memAddr t ra imm).toNat < 65536)
    (mine : ldbMine s p h ((memAddr t ra imm).toNat / 4096) = true) (clean : s.eng.dmErrAt p (memAddr t ra imm).toNat = 0) :
    loadLocal s p h t rd ra imm 0 = retireReg s p h t rd (s.eng.dmWord p (memAddr t ra imm).toNat) [] := by
  have word := readLocal_clean clean
  simp [loadLocal, aligned, localAddr_data low mine, word, countMemCorr]
theorem readCtl_time (s : State) (p h : Nat) : readCtl s p h 8 =
    (BitVec.ofNat 32 (readTime s % 1000000000), { s.eng.thread p h with timeSl := BitVec.ofNat 32 (readTime s / 1000000000), timeSh := BitVec.ofNat 32 (readTime s / 1000000000 / 4294967296 % 65536) }) := by
  have low : BitVec.ofNat 32 (timeS (readTime s)) = BitVec.ofNat 32 (readTime s / 1000000000) := by
    refine BitVec.eq_of_toNat_eq ?_
    rw [BitVec.toNat_ofNat, BitVec.toNat_ofNat]
    unfold timeS
    omega
  have high : timeS (readTime s) / 4294967296 = readTime s / 1000000000 / 4294967296 % 65536 := by
    unfold timeS
    omega
  simp only [readCtl, low, high]
  rfl
theorem loadLocal_time {s : State} {p h : Nat} {rd ra : RegIx} {imm : BitVec 16} (time : memAddr (s.eng.thread p h) ra imm = 0x10008) :
    loadLocal s p h (s.eng.thread p h) rd ra imm 0 = retireReg s p h (readCtl s p h 8).2 rd (readCtl s p h 8).1 [] := by
  have place : localAddr s p h 0x10008#32 = .ctl 8 := by
    unfold localAddr
    rfl
  simp [loadLocal, time, place]
/-- The four bytes of a word in local memory. -/
theorem Engines.setDmWord_dmWord (e : Engines) (p a : Nat) (v : Word) : (e.setDmWord p a v).dmWord p a = v := by
  have bytes : BitVec.ofNat 32 (leNat [v.setWidth 8, (v >>> 8).setWidth 8, (v >>> 16).setWidth 8, (v >>> 24).setWidth 8]) = v := by
    refine BitVec.eq_of_toNat_eq ?_
    simp only [leNat, BitVec.toNat_ofNat, BitVec.toNat_setWidth, BitVec.toNat_ushiftRight, Nat.shiftRight_eq_div_pow]
    have := v.isLt
    omega
  refine Eq.trans ?_ bytes
  simp [Engines.dmWord, Engines.setDmWord]
theorem Engines.setDmWord_other (e : Engines) (p a : Nat) (v : Word) {k : Nat} (other : k < 65536 * p + a ∨ 65536 * p + a + 4 ≤ k) : tget 0 (e.setDmWord p a v).dmem k = tget 0 e.dmem k := by
  have away (i : Nat) (low : i < 4) : k ≠ dmemSize * p + (a + i) := by
    have size : dmemSize = 65536 := rfl
    rw [size]
    omega
  have byte (e : Engines) (i : Nat) (low : i < 4) (b : Byte) : tget 0 (e.setDmByte p (a + i) b).dmem k = tget 0 e.dmem k := (tget_tput (0 : Byte) ..).trans (if_neg (away i low))
  unfold Engines.setDmWord
  rw [byte _ 3 (by decide), byte _ 2 (by decide), byte _ 1 (by decide)]
  exact byte _ 0 (by decide) _
theorem exec_timeNsRead {s : State} {p : PlotIx} {h : HandIx} {r ra : RegIx} {imm : BitVec 16} (time : memAddr (s.eng.thread p.val h.val) ra imm = 0x10008) :
    exec (.timeNsRead p h r ra imm) s = .next (engStep s p.val h.val (.imm .ldL r ra imm) fun s t => loadLocal s p.val h.val t r ra imm 0) := if_pos time
theorem readTime_near (s : State) : readTime s ≤ s.aon.now + 2 ∧ s.aon.now ≤ readTime s + 2 := by
  unfold readTime
  omega

/-! ## Riser space -/

theorem riserAddr_lookup {s : State} {p h : Nat} {a : Word} (aligned : a.toNat % 4 = 0) (low : a.toNat < 33554432) (owned : s.fab.handOwner p h ≠ none)
    (mine : s.stk.regionOwner p (a.toNat / 1048576) = s.fab.handOwner p h) :
    (∀ k c, (s.eng.engine p).lookup (a.toNat / 64) = some (k, c) → riserAddr s p h a = .hit k c) ∧ ((s.eng.engine p).lookup (a.toNat / 64) = none → riserAddr s p h a = .miss) := by
  have inside : ¬ 33554432 ≤ a.toNat := by omega
  have seat : (s.fab.handOwner p h).isNone = false := Option.isNone_eq_false_iff.2 (Option.isSome_iff_ne_none.2 owned)
  constructor <;> intros <;> simp [riserAddr, aligned, inside, seat, mine, *]
theorem riserAddr_foreign {s : State} {p h o : Nat} {a : Word} (aligned : a.toNat % 4 = 0) (owner : s.fab.handOwner p h = some o) (foreign : s.stk.regionOwner p (a.toNat / 1048576) ≠ some o) :
    riserAddr s p h a = .protected' := by
  simp [riserAddr, aligned, owner, foreign]
theorem riserAddr_mine {s : State} {p h : Nat} {a : Word} (mine : a.toNat % 4 = 0 ∧ a.toNat < 33554432 ∧ s.fab.handOwner p h ≠ none ∧ s.stk.regionOwner p (a.toNat / 1048576) = s.fab.handOwner p h) :
    riserAddr s p h a ≠ .protected' := by
  obtain ⟨aligned, low, owned, same⟩ := mine
  obtain ⟨hit, miss⟩ := riserAddr_lookup aligned low owned same
  cases look : (s.eng.engine p).lookup (a.toNat / 64) with
  | none =>
    rw [miss look]
    exact RiserAddr.noConfusion
  | some kc =>
    rw [hit kc.1 kc.2 look]
    exact RiserAddr.noConfusion
theorem missPending_answered {t : Thread} {line : Nat} (answered : ∀ m, t.miss = some m → m.line = line → m.resp = some 0) : missPending t line = none := by
  unfold missPending
  split
  · next m miss =>
    split
    · rfl
    · next same => rw [answered m miss (not_not.1 same)]; rfl
  · rfl
theorem awaitLine_fresh (s : State) (p h : Nat) {t : Thread} (fresh : t.miss = none) (line : Nat) (store : Bool) :
    awaitLine s p h t line store = .wait (s.onEng fun e => e.setThread p h { t with miss := some { line := line, store := store } }) := by
  simp [awaitLine, fresh]
theorem State.executes.waits {s u : State} {p h : Nat} {i : EngInsn} {body : State → Thread → EngEnd} (k : s.executes p h i) (waits : body s (s.eng.thread p h) = .wait u) : engStep s p h i body = u := by
  obtain ⟨runs, fetched, word, legal⟩ := k
  rw [engStep_executes s p h i body runs fetched word legal, waits]
  rfl
theorem setBits_getLsbD {w : Nat} (x : BitVec w) {hi lo : Nat} (order : lo ≤ hi) (v : Nat) {i : Nat} (low : i < w) :
    (setBits x hi lo v).getLsbD i = if lo ≤ i ∧ i ≤ hi then v.testBit (i - lo) else x.getLsbD i := by
  have field : lo ≤ i ∧ i ≤ hi ↔ lo ≤ i ∧ i - lo < hi + 1 - lo := by omega
  simp only [setBits, BitVec.getLsbD_or, BitVec.getLsbD_and, BitVec.getLsbD_not, BitVec.getLsbD_ofNat, Nat.testBit_shiftLeft, Nat.testBit_two_pow_sub_one, low, decide_true, Bool.true_and, field]
  by_cases above : lo ≤ i <;> by_cases within : i - lo < hi + 1 - lo <;> simp [above, within]
theorem exec_waits {c : Instr} {s u : State} {p h : Nat} {i : EngInsn} {body : State → Thread → EngEnd} (meaning : exec c s = .next (engStep s p h i body)) (waits : body s (s.eng.thread p h) = .wait u)
    (k : s.executes p h i) : exec c s = .next u := meaning.trans (congrArg Host.Outcome.next (k.waits waits))
/-- A word of a line, bit by bit. -/
theorem setLineWord_getLsbD (d : BitVec 512) (n : Nat) (v : Word) {i : Nat} (low : i < 512) :
    (setLineWord d n v).getLsbD i = if 8 * (n % 64) ≤ i ∧ i < 8 * (n % 64) + 32 then v.getLsbD (i - 8 * (n % 64)) else d.getLsbD i := by
  have field : 8 * (n % 64) ≤ i ∧ i ≤ 8 * (n % 64) + 31 ↔ 8 * (n % 64) ≤ i ∧ i < 8 * (n % 64) + 32 := by omega
  rw [setLineWord, setBits_getLsbD d (by omega) _ low]
  simp only [field]
  rfl
theorem lookup_tins {l : List (Nat × CLine)} {k : Nat} {v : CLine} (fresh : ∀ e ∈ l, e.1 ≠ k) : (tins l k v).lookup k = some v := by
  induction l with
  | nil => simp [tins]
  | cons e l ih =>
    obtain ⟨head, tail⟩ := List.forall_mem_cons.1 fresh
    unfold tins
    split
    · simp
    · have miss : (k == e.1) = false := beq_eq_false_iff_ne.2 head.symm
      rw [List.lookup, miss]
      exact ih tail
theorem Engine.putLine_lookup (e : Engine) (k : Nat) (v : CLine) : (e.putLine k v).cache.lookup k = some v := lookup_tins (not_mem_tdel e.cache k)

theorem extract_setLineWord (d : BitVec 512) {n : Nat} (v : Word) (aligned : n % 4 = 0) : (setLineWord d n v).extractLsb' (8 * (n % 64)) 32 = v := by
  refine BitVec.eq_of_getLsbD_eq fun i low => ?_
  rw [BitVec.getLsbD_extractLsb', setLineWord_getLsbD d n v (by omega), if_pos (by omega)]
  simp [low]

/-! ## Responses to the miss register -/

theorem firstResp_refused {l : List Nat} (some : l ≠ []) (codes : ∀ r ∈ l, r = respRiserDown ∨ r = respPathReset ∨ r = respProtected ∨ r = respTestBusy ∨ r = respRetired) : firstResp l ≠ respOkay := by
  obtain ⟨r, m⟩ := List.exists_mem_of_ne_nil l some
  have early : r ∈ [respRiserDown, respPathReset, respProtected, respTestBusy, respRetired] := by simpa using codes r m
  have found : ([respRiserDown, respPathReset, respProtected, respTestBusy, respRetired].find? fun r => l.contains r).isSome = true :=
    List.find?_isSome.2 ⟨r, early, List.contains_iff_mem.2 m⟩
  obtain ⟨q, first⟩ := Option.isSome_iff_exists.1 found
  have listed : q ∈ [respRiserDown, respPathReset, respProtected, respTestBusy, respRetired] := List.mem_of_find?_eq_some first
  have chosen : firstResp l = q := by
    unfold firstResp
    rw [show respOrder = [respRiserDown, respPathReset, respProtected, respTestBusy, respRetired] ++ [respHoldTimeout, respUncorr, respIntegrity, respOkay] from rfl, List.find?_append, first]
    rfl
  rw [chosen]
  exact fun okay => absurd (okay ▸ listed) (by decide)
theorem State.refusals_codes (s : State) (p a : Nat) (src : MemSrc) (seat : Option Nat) (write : Bool) :
    ∀ r ∈ s.refusals p a src seat write, r = respRiserDown ∨ r = respPathReset ∨ r = respProtected ∨ r = respTestBusy ∨ r = respRetired := by
  have one (c : Prop) [Decidable c] (r q : Nat) (m : q ∈ if c then [r] else []) : q = r := by
    split at m
    · exact List.mem_singleton.1 m
    · cases m
  intro r m
  simp only [State.refusals, List.mem_append] at m
  rcases m with (((m | m) | m) | m) | m
  · exact .inl (one _ _ _ m)
  · exact .inr (.inl (one _ _ _ m))
  · exact .inr (.inr (.inl (one _ _ _ m)))
  · exact .inr (.inr (.inr (.inl (one _ _ _ m))))
  · exact .inr (.inr (.inr (.inr (one _ _ _ m))))
theorem fillFor_present {s : State} {p h line : Nat} (present : ((s.eng.engine p).lookup line).isSome = true) (upset : BitVec 640) : fillFor s p h line upset = some (s, 0) := by
  simp [fillFor, present, respOkay]
theorem fillFor_refused {s : State} {p : Nat} {h : HandIx} {line : Nat} (absent : ((s.eng.engine p).lookup line).isNone = true) (idle : s.lineBusy p line (.engine h) = false)
    (way : ((s.eng.engine p).wayFor ((s.fab.handOwner p h.val).getD 0) (Config.freeNat s.aon.free) line).isSome = true)
    (refused : s.refusals p line (.engine h) (s.fab.handOwner p h.val) false ≠ []) (upset : BitVec 640) :
    fillFor s p h.val line upset = some (countRetired s p (firstResp (s.refusals p line (.engine h) (s.fab.handOwner p h.val) false)), firstResp (s.refusals p line (.engine h) (s.fab.handOwner p h.val) false)) := by
  have name : (Fin.ofNat 8 h.val : Fin 8) = h := Fin.ext (Nat.mod_eq_of_lt h.isLt)
  have none : ¬ ((s.eng.engine p).lookup line).isSome = true := by
    rw [Option.isNone_iff_eq_none.1 absent]
    exact Bool.false_ne_true
  have free : ¬ (s.lineBusy p line (.engine h) || ((s.eng.engine p).wayFor ((s.fab.handOwner p h.val).getD 0) (Config.freeNat s.aon.free) line).isNone) = true := by
    rw [idle, Option.isNone_eq_false_iff.2 way]
    exact Bool.false_ne_true
  have answer : serveRead s p line (.engine h) upset = (countRetired s p (firstResp (s.refusals p line (.engine h) (s.fab.handOwner p h.val) false)), some { resp := firstResp (s.refusals p line (.engine h) (s.fab.handOwner p h.val) false) }) := by
    simp [serveRead, State.srcSeat, refused]
  have bad := firstResp_refused refused (s.refusals_codes _ _ _ _ _)
  unfold fillFor
  simp only [name, none, free, answer, bne_iff_ne.2 bad, if_true, Bool.false_eq_true, if_false]
theorem exec_ldmMissResponse {s s1 : State} {p : PlotIx} {h : HandIx} {m : MissRec} {c : Nat} (waits : (s.eng.thread p.val h.val).miss = some m) (load : m.store = false) (open' : m.resp = none)
    (filled : fillFor s p.val h.val m.line 0#640 = some (s1, c)) :
    exec (.ldmMissResponse p h 0) s = .next (s1.onEng fun e => e.setThread p.val h.val { e.thread p.val h.val with miss := some { m with resp := some c } }) := by
  simp [exec, execLdmMissResponse, waits, load, open', filled]
section
variable {s : State} {p : PlotIx} {h : HandIx} {m : MissRec} {r ra : RegIx} {imm : BitVec 16}
/-- How a store that waits for its line ends. -/
def stmEnds (s : State) (p h : Nat) (e : EngEnd) : State :=
  (e.counted p (fetchCorr s p (s.eng.thread p h).pc)).finish p h (s.eng.thread p h).pc.toNat (fetchWord s p (s.eng.thread p h).pc)
variable (waits : (s.eng.thread p.val h.val).miss = some m) (store : m.store = true) (line : (memAddr (s.eng.thread p.val h.val) ra imm).toNat / 64 = m.line)
  (runs : (s.eng.thread p.val h.val).state = .running) (word : decodeEng (fetchWord s p.val (s.eng.thread p.val h.val).pc) = some (.imm .stM r ra imm))
include waits store line runs word
theorem exec_stmFillResponse_foreign (foreign : riserAddr s p.val h.val (memAddr (s.eng.thread p.val h.val) ra imm) = .protected') :
    exec (.stmFillResponse p h 0) s = .next (stmEnds s p.val h.val (.trap s causeBus respProtected (memAddr (s.eng.thread p.val h.val) ra imm).toNat)) := by
  simp [exec, execStmFillResponse, waits, store, line, runs, word, foreign]
  rfl
theorem exec_stmFillResponse_refused (mine : riserAddr s p.val h.val (memAddr (s.eng.thread p.val h.val) ra imm) ≠ .protected') {c : Nat} (resp : m.resp = some c) (bad : c ≠ 0) :
    exec (.stmFillResponse p h 0) s = .next (stmEnds s p.val h.val (.trap s causeBus c (memAddr (s.eng.thread p.val h.val) ra imm).toNat)) := by
  simp only [exec, execStmFillResponse, waits, store, line, runs, word, resp]
  cases place : riserAddr s p.val h.val (memAddr (s.eng.thread p.val h.val) ra imm) with
  | protected' => exact absurd place mine
  | misaligned => simp [bad, respOkay] <;> rfl
  | hit k c => simp [bad, respOkay] <;> rfl
  | miss => simp [bad, respOkay] <;> rfl
theorem exec_stmFillResponse_filled (mine : riserAddr s p.val h.val (memAddr (s.eng.thread p.val h.val) ra imm) ≠ .protected') (resp : m.resp = none) {s1 : State} {k : Nat} {c : CLine}
    (filled : fillFor s p.val h.val m.line 0#640 = some (s1, 0)) (cached : (s1.eng.engine p.val).lookup m.line = some (k, c)) :
    exec (.stmFillResponse p h 0) s = .next (stmEnds s p.val h.val (.retire (storeLine s1 p.val k c (memAddr (s.eng.thread p.val h.val) ra imm).toNat ((s.eng.thread p.val h.val).reg r)) ((s.eng.thread p.val h.val).pc + 4) [0x06] false)) := by
  simp only [exec, execStmFillResponse, waits, store, line, runs, word, resp]
  cases place : riserAddr s p.val h.val (memAddr (s.eng.thread p.val h.val) ra imm) with
  | protected' => exact absurd place mine
  | misaligned => simp [filled, cached, respOkay] <;> rfl
  | hit k c => simp [filled, cached, respOkay] <;> rfl
  | miss => simp [filled, cached, respOkay] <;> rfl
end

/-! ## Loads and stores -/

theorem ldM_hit {s : State} {p : PlotIx} {h : HandIx} {r ra : RegIx} {imm : BitVec 16} {k : Nat} {c : CLine} (runs : s.executes p.val h.val (.imm .ldM r ra imm))
    (hit : riserAddr s p.val h.val (memAddr (s.eng.thread p.val h.val) ra imm) = .hit k c)
    (answered : missPending (s.eng.thread p.val h.val) ((memAddr (s.eng.thread p.val h.val) ra imm).toNat / 64) = none) :
    ∃ t, exec (.ldM p h r ra imm) s = .next t ∧ registersOnly s t p.val h.val { (s.eng.thread p.val h.val).setReg r (lineWord c.data (memAddr (s.eng.thread p.val h.val) ra imm).toNat) with pc := (s.eng.thread p.val h.val).pc + 4 } ∧
      (t.eng.engine p.val).cache = (s.eng.engine p.val).cache := by
  have retires {body : State → Thread → EngEnd} (same : body s (s.eng.thread p.val h.val) = retireReg s p.val h.val (s.eng.thread p.val h.val) r (lineWord c.data (memAddr (s.eng.thread p.val h.val) ra imm).toNat)
      ([0x05] ++ if (s.eng.thread p.val h.val).miss.isSome then [0x07] else [])) :
      registersOnly s (engStep s p.val h.val (.imm .ldM r ra imm) body) p.val h.val { (s.eng.thread p.val h.val).setReg r (lineWord c.data (memAddr (s.eng.thread p.val h.val) ra imm).toNat) with pc := (s.eng.thread p.val h.val).pc + 4 } ∧
        ((engStep s p.val h.val (.imm .ldM r ra imm) body).eng.engine p.val).cache = (s.eng.engine p.val).cache :=
    ⟨runs.retire_registersOnly same, runs.retires_cache (u := s.onEng fun e => e.setThread p.val h.val ((s.eng.thread p.val h.val).setReg r (lineWord c.data (memAddr (s.eng.thread p.val h.val) ra imm).toNat))) same⟩
  refine ⟨_, rfl, retires ?_⟩
  simp only [hit, answered]
theorem stM_hit {s : State} {p : PlotIx} {h : HandIx} {r ra : RegIx} {imm : BitVec 16} {k : Nat} {c : CLine} (runs : s.executes p.val h.val (.imm .stM r ra imm))
    (hit : riserAddr s p.val h.val (memAddr (s.eng.thread p.val h.val) ra imm) = .hit k c)
    (answered : missPending (s.eng.thread p.val h.val) ((memAddr (s.eng.thread p.val h.val) ra imm).toNat / 64) = none) :
    ∃ t, exec (.stM p h r ra imm) s = .next t ∧
      (storeLine s p.val k c (memAddr (s.eng.thread p.val h.val) ra imm).toNat ((s.eng.thread p.val h.val).reg r)).retiresTo t p.val h.val { s.eng.thread p.val h.val with pc := (s.eng.thread p.val h.val).pc + 4 } ∧
      (t.eng.engine p.val).cache = ((storeLine s p.val k c (memAddr (s.eng.thread p.val h.val) ra imm).toNat ((s.eng.thread p.val h.val).reg r)).eng.engine p.val).cache := by
  have retires {body : State → Thread → EngEnd} (same : body s (s.eng.thread p.val h.val) =
      .retire (storeLine s p.val k c (memAddr (s.eng.thread p.val h.val) ra imm).toNat ((s.eng.thread p.val h.val).reg r)) ((s.eng.thread p.val h.val).pc + 4) [0x06] false) :
      (storeLine s p.val k c (memAddr (s.eng.thread p.val h.val) ra imm).toNat ((s.eng.thread p.val h.val).reg r)).retiresTo (engStep s p.val h.val (.imm .stM r ra imm) body) p.val h.val
        { s.eng.thread p.val h.val with pc := (s.eng.thread p.val h.val).pc + 4 } ∧
        ((engStep s p.val h.val (.imm .stM r ra imm) body).eng.engine p.val).cache = ((storeLine s p.val k c (memAddr (s.eng.thread p.val h.val) ra imm).toNat ((s.eng.thread p.val h.val).reg r)).eng.engine p.val).cache :=
    ⟨runs.retiresTo same, runs.retires_cache same⟩
  refine ⟨_, rfl, retires ?_⟩
  simp only [hit, answered]
theorem storeLine_lookup (s : State) (p k : Nat) (c : CLine) (a : Nat) (v : Word) :
    ((storeLine s p k c a v).eng.engine p).cache.lookup k = some { c with data := setLineWord c.data a v, dirty := true, newer := true } := by
  unfold storeLine
  rw [State.onEng_eng, Engines.setEngine_self]
  exact Engine.putLine_lookup ..
theorem mem_miss {s : State} {p : PlotIx} {h : HandIx} {r ra : RegIx} {imm : BitVec 16} (place : riserAddr s p.val h.val (memAddr (s.eng.thread p.val h.val) ra imm) = .miss)
    (fresh : (s.eng.thread p.val h.val).miss = none) :
    (s.executes p.val h.val (.imm .ldM r ra imm) → exec (.ldM p h r ra imm) s = .next (s.onEng fun e => e.setThread p.val h.val { s.eng.thread p.val h.val with miss := some { line := (memAddr (s.eng.thread p.val h.val) ra imm).toNat / 64, store := false } })) ∧
    (s.executes p.val h.val (.imm .stM r ra imm) → exec (.stM p h r ra imm) s = .next (s.onEng fun e => e.setThread p.val h.val { s.eng.thread p.val h.val with miss := some { line := (memAddr (s.eng.thread p.val h.val) ra imm).toNat / 64, store := true } })) := by
  constructor
  · refine fun runs => exec_waits rfl ?_ runs
    simp only [place, awaitLine_fresh s _ _ fresh]
  · refine fun runs => exec_waits rfl ?_ runs
    simp only [place, awaitLine_fresh s _ _ fresh]
theorem State.executes.retiresTo_as {s u : State} {p h : Nat} {i : EngInsn} {body : State → Thread → EngEnd} (k : s.executes p h i) {x : Thread} {npc : Word} {events : List Nat} {taken : Bool}
    (retires : body s (s.eng.thread p h) = .retire u npc events taken) (thread : u.eng.thread p h = x) : u.retiresTo (engStep s p h i body) p h { x with pc := npc } := by
  rw [← thread]
  exact k.retiresTo retires
theorem writeLocal_only (l : List Word) (e : Engines) (p a : Nat) : (writeLocal e p a l).threads = e.threads ∧ (writeLocal e p a l).engines = e.engines ∧ (writeLocal e p a l).imem = e.imem ∧
    (writeLocal e p a l).imErr = e.imErr ∧ (writeLocal e p a l).eplls = e.eplls := by
  induction l generalizing e a with
  | nil => exact ⟨rfl, rfl, rfl, rfl, rfl⟩
  | cons w l ih =>
    obtain ⟨threads, engines, imem, imErr, eplls⟩ := ih ((e.setDmWord p a w).setDmErr p a 0) (a + 4)
    rw [writeLocal, threads, engines, imem, imErr, eplls]
    simp [Engines.setDmWord, Engines.setDmErr]
theorem writeLocal_thread (l : List Word) (e : Engines) (p a q h : Nat) : (writeLocal e p a l).thread q h = e.thread q h := by
  unfold Engines.thread
  rw [(writeLocal_only l e p a).1]
theorem writeLocal_one (e : Engines) (p a : Nat) (v : Word) : (writeLocal e p a [v]).dmem = (e.setDmWord p a v).dmem := rfl
theorem State.onEng_frame (s : State) (g : Engines → Engines) : s.onEng g = { s with eng := (s.onEng g).eng, net := (s.onEng g).net, fab := (s.onEng g).fab } := rfl
theorem State.retiresTo.pc {u t : State} {p h : Nat} {y : Thread} (k : u.retiresTo t p h y) : (t.eng.thread p h).pc = y.pc := by rw [k.thread]
theorem State.retiresTo.regs {u t : State} {p h : Nat} {y : Thread} (k : u.retiresTo t p h y) : (t.eng.thread p h).regs = y.regs := by rw [k.thread]
theorem State.retiresTo.miss {u t : State} {p h : Nat} {y : Thread} (k : u.retiresTo t p h y) : (t.eng.thread p h).miss = none := by rw [k.thread]
/-- A store to local memory. -/
theorem stL_data {s : State} {p : PlotIx} {h : HandIx} {r ra : RegIx} {imm : BitVec 16} (runs : s.executes p.val h.val (.imm .stL r ra imm)) (aligned : (memAddr (s.eng.thread p.val h.val) ra imm).toNat % 4 = 0)
    (low : (memAddr (s.eng.thread p.val h.val) ra imm).toNat < 65536) (mine : ldbMine s p.val h.val ((memAddr (s.eng.thread p.val h.val) ra imm).toNat / 4096) = true) :
    ∃ t, exec (.stL p h r ra imm) s = .next t ∧
      (s.onEng fun e => writeLocal e p.val (memAddr (s.eng.thread p.val h.val) ra imm).toNat [(s.eng.thread p.val h.val).reg r]).retiresTo t p.val h.val { s.eng.thread p.val h.val with pc := (s.eng.thread p.val h.val).pc + 4 } := by
  refine ⟨_, rfl, runs.retiresTo_as (events := []) (taken := false) ?_ (writeLocal_thread ..)⟩
  simp only [aligned, localAddr_data low mine, ne_eq, not_true_eq_false, if_false]
theorem stL_compare {s : State} {p : PlotIx} {h : HandIx} {r ra : RegIx} {imm : BitVec 16} (runs : s.executes p.val h.val (.imm .stL r ra imm)) (place : memAddr (s.eng.thread p.val h.val) ra imm = 0x10014#32) :
    ∃ t, exec (.stL p h r ra imm) s = .next t ∧ registersOnly s t p.val h.val { s.eng.thread p.val h.val with tcmpNs := (s.eng.thread p.val h.val).reg r, pc := (s.eng.thread p.val h.val).pc + 4 } := by
  have ctl : localAddr s p.val h.val 0x10014#32 = .ctl 0x14 := by
    unfold localAddr
    rfl
  refine ⟨_, rfl, runs.retire_registersOnly (x := { s.eng.thread p.val h.val with tcmpNs := (s.eng.thread p.val h.val).reg r }) (npc := (s.eng.thread p.val h.val).pc + 4) (events := []) (taken := false) ?_⟩
  simp only [place, ctl]
  rfl

theorem stmEnds_traps {s : State} {p h o : Nat} (owner : s.fab.handOwner p h = some o) (cause info : Nat) (a : Word) :
    trappedWith s (stmEnds s p h (.trap s cause info a.toNat)) p h cause info a (trapEvent o p h cause info) := by
  have trap := finish_trap_trappedWith owner cause info a.toNat (fetchCorr s p (s.eng.thread p h).pc) (s.eng.thread p h).pc.toNat (fetchWord s p (s.eng.thread p h).pc)
  rw [BitVec.ofNat_toNat, BitVec.setWidth_eq] at trap
  exact trap
theorem Engines.dmWord_congr {e f : Engines} (same : e.dmem = f.dmem) (p a : Nat) : e.dmWord p a = f.dmWord p a := by
  unfold Engines.dmWord Engines.dmByte
  rw [same]

/-- Settles O47: each access ends as its place and its line say. -/
theorem engineLoadsAndStores : Obligations.EngineLoadsAndStores := by
  intro p h r ra imm s x a n owned mine e answered
  refine ⟨fun own clean runs => ?_, fun own runs => ?_, fun place runs => stL_compare runs place, fun place runs => ?_, fun k c own ans look runs => ?_, fun own look fresh => ?_, fun k c own ans look runs => ?_,
    fun m waits load open' => ⟨fun present => ?_, fun absent idle way refused => ?_, fun s1 c filled => ?_⟩,
    fun m waits store aligned line runs word => ⟨fun s1 k c own open' filled look => ?_, fun o owner foreign => ?_, fun o c owner own resp bad small => ?_⟩, fun ldb k => ?_⟩
  · obtain ⟨aligned, low, block⟩ := own
    exact exec_writes_register rfl (loadLocal_data aligned low block clean) rfl runs
  · obtain ⟨aligned, low, block⟩ := own
    obtain ⟨t, done, ends⟩ := stL_data runs aligned low block
    obtain ⟨fab, stk, nv, dmem, -⟩ := ends.parts
    obtain ⟨threads, engines, imem, imErr, eplls⟩ := writeLocal_only [x.reg r] s.eng p.val n
    refine ⟨t, done, ends.engineFrame (State.onEng_frame ..) (fun k _ => congrArg (tget ({} : Thread) · k) threads) (fun j _ => congrArg (tget ({} : Engine) · j) engines) ⟨imem, imErr, eplls, rfl⟩, ?_, fun k other => ?_,
      ends.pc, ends.regs, fab.trans (State.onEng_fab ..)⟩
    · exact (Engines.dmWord_congr (dmem.trans (writeLocal_one ..)) ..).trans (Engines.setDmWord_dmWord ..)
    · rw [dmem, State.onEng_eng, writeLocal_one]
      exact Engines.setDmWord_other _ _ _ _ other
  · refine ⟨_, readTime s, exec_timeNsRead place, (readTime_near s).1, (readTime_near s).2, ?_⟩
    have retires := loadLocal_time (rd := r) place
    rw [readCtl_time] at retires
    exact runs.retire_registersOnly retires
  · obtain ⟨aligned, low, owned', same⟩ := own
    exact ldM_hit runs ((riserAddr_lookup aligned low owned' same).1 k c look) (missPending_answered ans)
  · obtain ⟨aligned, low, owned', same⟩ := own
    exact mem_miss ((riserAddr_lookup aligned low owned' same).2 look) fresh
  · obtain ⟨aligned, low, owned', same⟩ := own
    obtain ⟨t, done, ends, cache⟩ := stM_hit runs ((riserAddr_lookup aligned low owned' same).1 k c look) (missPending_answered ans)
    obtain ⟨fab, stk, nv, dmem, -⟩ := ends.parts
    refine ⟨t, setLineWord c.data n (x.reg r), done, ends.engineFrame rfl (fun _ _ => rfl) (fun j other => ?_) ⟨rfl, rfl, rfl, rfl⟩, ?_, fun i low => setLineWord_getLsbD _ _ _ low, ends.pc, ends.regs, dmem⟩
    · exact (Engines.setEngine_engine ..).trans (if_neg other)
    · rw [cache]
      exact storeLine_lookup ..
  · exact ⟨_, exec_ldmMissResponse waits load open' (fillFor_present present 0), rfl⟩
  · exact ⟨_, exec_ldmMissResponse waits load open' (fillFor_refused absent idle way refused 0), rfl⟩
  · exact ⟨_, exec_ldmMissResponse waits load open' filled, rfl⟩
  · refine ⟨_, exec_stmFillResponse_filled waits store line runs word (riserAddr_mine own) open' filled look, (finish_retire_retiresTo ..).pc, (finish_retire_retiresTo ..).miss, setLineWord c.data n (x.reg r), ?_, extract_setLineWord _ _ aligned⟩
    unfold stmEnds
    rw [finish_retire_cache]
    exact storeLine_lookup ..
  · refine ⟨_, exec_stmFillResponse_foreign waits store line runs word (riserAddr_foreign aligned owner foreign), ?_⟩
    exact stmEnds_traps owner ..
  · refine ⟨_, exec_stmFillResponse_refused waits store line runs word (riserAddr_mine own) resp bad, ?_⟩
    exact stmEnds_traps owner ..
  · refine ⟨_, rfl, rfl, ?_⟩
    rw [State.onEng_eng, Engines.setEngine_self]
    cases ldb <;> exact ⟨rfl, rfl⟩

end Sys2Proof.Machine
end

section
/-! PROOF. Queue instructions of engines (R203-R219, R275-R281). -/

namespace Sys2Proof.Machine

/-! ## Instructions that act on one queue -/

/-- Beside thread h, plot p's engine and the local memories, only queue q and the thread's scratchpad channel differ. -/
structure State.insnDiffers (s u : State) (p h q : Nat) : Prop where
  frame : u = { s with eng := u.eng, net := { s.net with queues := u.net.queues, threadChan := u.net.threadChan } }
  threads : ∀ k, k ≠ 8 * p + h → tget ({} : Thread) u.eng.threads k = tget {} s.eng.threads k
  engines : ∀ j, j ≠ p → u.eng.engine j = s.eng.engine j
  memories : u.eng.imem = s.eng.imem ∧ u.eng.imErr = s.eng.imErr ∧ u.eng.eplls = s.eng.eplls
  queue : ∀ j, j ≠ q → u.net.queue j = s.net.queue j
section
variable {s u : State} {p h q : Nat}
theorem State.insnDiffers.refl (s : State) (p h q : Nat) : s.insnDiffers s p h q := ⟨rfl, fun _ _ => rfl, fun _ _ => rfl, ⟨rfl, rfl, rfl⟩, fun _ _ => rfl⟩
theorem State.insnDiffers.corrected (k : s.insnDiffers u p h q) (n : Nat) : s.insnDiffers (countMemCorr u p n) p h q := by
  unfold countMemCorr
  split
  · exact k
  · refine ⟨?_, k.threads, fun j other => ?_, k.memories, k.queue⟩
    · rw [k.frame]
      rfl
    · rw [← k.engines j other]
      exact (Engines.setEngine_engine ..).trans (if_neg other)
theorem State.insnDiffers.setQueue (k : s.insnDiffers u p h q) (x : Queue) : s.insnDiffers (u.onNet fun n => n.setQueue q x) p h q := by
  refine ⟨?_, k.threads, k.engines, k.memories, fun j other => (Net.setQueue_other _ _ other).trans (k.queue j other)⟩
  rw [k.frame]
  rfl
theorem State.insnDiffers.setThreadChan (k : s.insnDiffers u p h q) (j : Nat) (c : Chan) : s.insnDiffers (u.onNet fun n => n.setThreadChan j c) p h q := by
  refine ⟨?_, k.threads, k.engines, k.memories, k.queue⟩
  rw [k.frame]
  rfl
theorem State.insnDiffers.setThread (k : s.insnDiffers u p h q) (x : Thread) : s.insnDiffers (u.onEng fun e => e.setThread p h x) p h q := by
  refine ⟨?_, fun j other => (Engines.setThread_other _ _ other).trans (k.threads j other), k.engines, k.memories, k.queue⟩
  rw [k.frame]
  rfl
theorem State.insnDiffers.writeLocal (k : s.insnDiffers u p h q) (a : Nat) (l : List Word) : s.insnDiffers (u.onEng fun e => writeLocal e p a l) p h q := by
  obtain ⟨threads, engines, imem, imErr, eplls⟩ := writeLocal_only l u.eng p a
  obtain ⟨imem', imErr', eplls'⟩ := k.memories
  refine ⟨?_, fun j other => ?_, fun j other => ?_, ⟨imem.trans imem', imErr.trans imErr', eplls.trans eplls'⟩, k.queue⟩
  · rw [k.frame]
    rfl
  · rw [← k.threads j other, State.onEng_eng, threads]
  · rw [← k.engines j other]
    unfold Engines.engine
    rw [State.onEng_eng, engines]
theorem State.insnDiffers.unsampled_iff (k : s.insnDiffers u p h q) : u.unsampled p h ↔ s.unsampled p h := by rw [k.frame]; rfl
/-- What such an instruction leaves once it has retired. -/
theorem State.insnDiffers.retires (k : s.insnDiffers u p h q) {t : State} {y : Thread} (ends : u.retiresTo t p h y) :
    engineFrame s t p h ∧ t.fab = s.fab ∧ (s.unsampled p h → ∀ j, j ≠ q → t.net.queue j = s.net.queue j) := by
  obtain ⟨imem, imErr, eplls⟩ := k.memories
  obtain ⟨fab, -, -, -, -, -, -, -, -, quiet⟩ := ends.parts
  have fab' := congrArg State.fab k.frame
  have narrow := congrArg (fun u => u.net.narrow) k.frame
  refine ⟨ends.engineFrame ?_ k.threads k.engines ⟨imem, imErr, eplls, narrow⟩, fab.trans fab', fun off j other => ?_⟩
  · rw [k.frame]
  · rw [quiet (k.unsampled_iff.2 off)]
    exact k.queue j other
/-- The sampler, off or at work in another plot's store, leaves the queue as the instruction made it. -/
theorem State.retiresTo.queue_of_apart {t : State} {y : Thread} (ends : u.retiresTo t p h y) (apart : u.unsampled p h ∨ q / 64 ≠ p) : t.net.queue q = u.net.queue q := by
  obtain ⟨-, -, -, -, -, -, -, -, queue, quiet⟩ := ends.parts
  exact apart.elim (fun off => by rw [quiet off]) (queue q)
end

/-! ## Operands -/

theorem qNum_eq (w : Word) : qNum w = w.toNat % 65536 := rfl
theorem qWordBad_false {w : Word} (low : w.toNat < 524288) : qWordBad w = false := by
  have zero : bits w 31 19 = 0 := by
    unfold bits
    rw [Nat.shiftRight_eq_div_pow, Nat.div_eq_of_lt low]
    rfl
  rw [qWordBad, zero]
  rfl
theorem bufferAddr_ok {s : State} {p h : Nat} {a : Word} (buffer : a.toNat % 32 = 0 ∧ a.toNat < 65536 ∧ ldbMine s p h (a.toNat / 4096) = true) : bufferAddr s p h a = .ok a.toNat := by
  obtain ⟨aligned, low, mine⟩ := buffer
  simp [bufferAddr, aligned, low, mine]
/-- What an instruction on one queue leaves once it has retired: its effect on the queue, the local memory and the thread. -/
theorem exec_queue_retires {c : Instr} {s v : State} {p h q : Nat} {i : EngInsn} {body : State → Thread → EngEnd} (meaning : exec c s = .next (engStep s p h i body)) (runs : s.executes p h i) (k : s.insnDiffers v p h q)
    {x : Thread} {npc : Word} {events : List Nat} {taken : Bool} (retires : body s (s.eng.thread p h) = .retire v npc events taken) (thread : v.eng.thread p h = x) {r : Queue} (queue : v.net.queue q = r) :
    ∃ t, exec c s = .next t ∧ (engineFrame s t p h ∧ t.fab = s.fab ∧ (s.unsampled p h → ∀ j, j ≠ q → t.net.queue j = s.net.queue j)) ∧ t.eng.dmem = v.eng.dmem ∧ t.net.threadChan = v.net.threadChan ∧
      t.eng.thread p h = { x with pc := npc, miss := none, fencing := false, fenceLost := none } ∧ (s.unsampled p h ∨ q / 64 ≠ p → t.net.queue q = r) := by
  have ends := runs.retiresTo_as retires thread
  obtain ⟨-, -, -, dmem, -, -, -, net, -⟩ := ends.parts
  refine ⟨_, meaning, k.retires ends, dmem, ?_, ends.thread, fun apart => (ends.queue_of_apart (apart.imp_left k.unsampled_iff.2)).trans queue⟩
  rw [net]

/-! ## Pushes, commits, aborts -/

theorem Queue.push_taken_parts {y : Queue} {i : Nat} (takes : (y.prod i).discarding = false) (fits : (y.prod i).openWords.length ≤ qdMaxlen y.dir) (credit : 0 < (y.prod i).credits) (d : BitVec 256) (rank : Nat) :
    ((y.push i d rank).1.prod i).openWords = (y.prod i).openWords ++ [d] ∧ ((y.push i d rank).1.prod i).credits = (y.prod i).credits - 1 ∧ (y.push i d rank).1.flight = y.flight := by
  rw [Queue.push_taken takes fits credit, Queue.setProd_self]
  exact ⟨rfl, rfl, rfl⟩
theorem Queue.endDiscard_prod (y : Queue) (i : Nat) : (y.endDiscard i).prod i = { y.prod i with discarding := false } := Queue.setProd_self ..
theorem Queue.rewindOpen_opened {y : Queue} {i : Nat} (opened : (y.prod i).openWords ≠ []) (cause : Nat) : y.rewindOpen i cause = y.rewind i cause :=
  if_neg fun none => opened (List.isEmpty_iff.1 none)
theorem countMemCorr_dmem (s : State) (p n : Nat) : (countMemCorr s p n).eng.dmem = s.eng.dmem := by
  rw [(s.countMemCorr_countsDiffer p n).frame]
theorem prodInsn_retires {s : State} {p h q i : Nat} {t : Thread} {w : Word} (good : qWordBad w = false) (named : w.toNat % 65536 = q) (queue : q ≠ 65535) (producer : threadProd s p h q = some i)
    (act : Queue → Nat → Queue) (event : Queue → Nat → List Nat) :
    prodInsn s p h t w act event = .retire (s.onNet fun n => n.setQueue q (act (s.net.queue q) i)) (t.pc + 4) (event (s.net.queue q) i) false := by
  simp only [prodInsn, good, qNum_eq, named, scratchQueue, queue, producer, Bool.false_eq_true, if_false]

/-! ## Words in a buffer -/

theorem writeLocal_below (l : List Word) (e : Engines) (p a : Nat) {k : Nat} (below : k < 65536 * p + a) : tget 0 (writeLocal e p a l).dmem k = tget 0 e.dmem k := by
  induction l generalizing e a with
  | nil => rfl
  | cons w l ih => exact (ih _ _ (by omega)).trans (Engines.setDmWord_other e p a w (Or.inl below))
theorem Engines.dmWord_of_bytes {e f : Engines} {p a : Nat} (same : ∀ k < 65536 * p + (a + 4), tget 0 e.dmem k = tget 0 f.dmem k) : e.dmWord p a = f.dmWord p a := by
  have byte (i : Nat) (low : i < 4) : e.dmByte p (a + i) = f.dmByte p (a + i) := same _ (by unfold dmemSize; omega)
  unfold Engines.dmWord
  rw [byte 1 (by decide), byte 2 (by decide), byte 3 (by decide)]
  exact congrArg (fun b => BitVec.ofNat 32 (leNat (b :: _))) (byte 0 (by decide))
theorem writeLocal_dmWord {l : List Word} {i : Nat} {v : Word} (there : l[i]? = some v) (e : Engines) (p a : Nat) : (writeLocal e p a l).dmWord p (a + 4 * i) = v := by
  induction l generalizing e a i with
  | nil => exact absurd there (by simp)
  | cons w l ih =>
    cases i with
    | zero =>
      have first : w = v := Option.some.inj there
      have rest : (writeLocal e p a (w :: l)).dmWord p a = (e.setDmWord p a w).dmWord p a := Engines.dmWord_of_bytes fun k low => writeLocal_below l _ p (a + 4) low
      exact rest.trans ((Engines.setDmWord_dmWord ..).trans first)
    | succ i =>
      have next : a + 4 * (i + 1) = a + 4 + 4 * i := by omega
      rw [next]
      exact ih there ..
theorem wordsOf_word (d : BitVec 256) {i : Nat} (low : i < 8) : (wordsOf d)[i]? = some (d.extractLsb' (32 * i) 32) := by
  simp [wordsOf, low, BitVec.extractLsb']
theorem Queue.front_current {x : Queue} {k : Pkt} {v : QWord} {l : List QWord} (current : x.current = some k) (words : k.words = v :: l) : x.front = some v := by
  simp [Queue.front, current, words]
theorem Queue.front_none {x : Queue} (current : x.current = none) : x.front = none := by
  simp [Queue.front, current]

/-! ## Consumers and levels -/

section
variable {s : State} {p h q : Nat} {t : Thread} {rd : RegIx} {w a : Word} (good : qWordBad w = false) (named : w.toNat % 65536 = q) (queue : q ≠ 65535) (consumer : threadCons s p h q = true)
  (buffer : a.toNat % 32 = 0 ∧ a.toNat < 65536 ∧ ldbMine s p h (a.toNat / 4096) = true)
include good named queue consumer buffer
section
variable (going : (s.net.queue q).runs = true) {v : QWord} {r : Queue} (front : (s.net.queue q).front = some v) (pop : (s.net.queue q).pop = some (v, r))
  {ws : List Word} (words : wordsOf v.data = ws)
include going front pop words
theorem popInsn_take : popInsn s p h t rd w a true = retireReg ((s.onNet fun n => n.setQueue q r).onEng fun e => writeLocal e p a.toNat ws) p h t rd (v.side.setWidth 32) [0x09] := by
  simp [popInsn, good, qNum_eq, named, scratchQueue, queue, consumer, bufferAddr_ok buffer, going, front, pop, words]
theorem popInsn_peek : popInsn s p h t rd w a false = retireReg (s.onEng fun e => writeLocal e p a.toNat ws) p h t rd (v.side.setWidth 32) [] := by
  simp [popInsn, good, qNum_eq, named, scratchQueue, queue, consumer, bufferAddr_ok buffer, going, front, pop, words]
end
theorem popInsn_none (front : (s.net.queue q).front = none) : popInsn s p h t rd w a true = retireReg s p h t rd 0x10000 [0x0A] := by
  simp [popInsn, good, qNum_eq, named, scratchQueue, queue, consumer, bufferAddr_ok buffer, front]
end
/-- A thread whose register names queue q, which is not the scratchpad channel's number. -/
structure State.namesQueue (s : State) (p : PlotIx) (h : HandIx) (rq : RegIx) (q : Nat) : Prop where
  good : qWordBad ((s.eng.thread p.val h.val).reg rq) = false
  named : ((s.eng.thread p.val h.val).reg rq).toNat % 65536 = q
  queue : q ≠ 65535
section
variable {s : State} {p : PlotIx} {h : HandIx} {rd rq ra : RegIx} {q : Nat} (k : s.namesQueue p h rq q)
include k
theorem qpush_takes {i corr : Nat} {ws : List Word} {r : Queue} {credits : Int} (producer : threadProd s p.val h.val q = some i) (credit : 0 < ((s.net.queue q).prod i).credits)
    (buffer : ((s.eng.thread p.val h.val).reg ra).toNat % 32 = 0 ∧ ((s.eng.thread p.val h.val).reg ra).toNat < 65536 ∧ ldbMine s p.val h.val (((s.eng.thread p.val h.val).reg ra).toNat / 4096) = true)
    (words : readLocal s.eng p.val ((s.eng.thread p.val h.val).reg ra).toNat 8 = (ws, corr, none)) (pushed : ((s.net.queue q).push i (ofWords ws) (qRank ((s.eng.thread p.val h.val).reg rq))).1 = r)
    (left : (r.prod i).credits = credits) (runs : s.executes p.val h.val (.qpush rd rq ra)) :
    ∃ t, exec (.qpush p h rd rq ra) s = .next t ∧ (engineFrame s t p.val h.val ∧ t.fab = s.fab ∧ (s.unsampled p.val h.val → ∀ j, j ≠ q → t.net.queue j = s.net.queue j)) ∧ t.eng.dmem = s.eng.dmem ∧
      t.eng.thread p.val h.val = { (s.eng.thread p.val h.val).setReg rd (BitVec.ofInt 32 credits) with pc := (s.eng.thread p.val h.val).pc + 4, miss := none, fencing := false, fenceLost := none } ∧
      (s.unsampled p.val h.val ∨ q / 64 ≠ p.val → t.net.queue q = r) := by
  obtain ⟨good, named, queue⟩ := k
  have some := not_le_of_gt credit
  obtain ⟨t, done, frame, dmem, -, thread, mine⟩ := exec_queue_retires (c := .qpush p h rd rq ra) (npc := (s.eng.thread p.val h.val).pc + 4) (events := [0x08]) (taken := false)
    (v := ((countMemCorr s p.val corr).onNet fun n => n.setQueue q r).onEng fun e => e.setThread p.val h.val ((s.eng.thread p.val h.val).setReg rd (BitVec.ofInt 32 credits)))
    rfl runs ((((State.insnDiffers.refl s ..).corrected corr).setQueue _).setThread _) (by
      simp only [good, qNum_eq, named, scratchQueue, queue, producer, some, bufferAddr_ok buffer, words, retireReg, countMemCorr_net, pushed, left, Bool.false_eq_true, if_false]) (Engines.setThread_self ..) (Net.setQueue_self ..)
  exact ⟨t, done, frame, dmem.trans (countMemCorr_dmem ..), thread, mine⟩
theorem qcommit_commits {i : Nat} (producer : threadProd s p.val h.val q = some i) (opened : ((s.net.queue q).prod i).openWords ≠ []) (runs : s.executes p.val h.val (.qcommit rq ra)) :
    ∃ t, exec (.qcommit p h rq ra) s = .next t ∧ (engineFrame s t p.val h.val ∧ t.fab = s.fab ∧ (s.unsampled p.val h.val → ∀ j, j ≠ q → t.net.queue j = s.net.queue j)) ∧
      t.eng.thread p.val h.val = { s.eng.thread p.val h.val with pc := (s.eng.thread p.val h.val).pc + 4, miss := none, fencing := false, fenceLost := none } ∧
      (s.unsampled p.val h.val ∨ q / 64 ≠ p.val → ((t.net.queue q).prod i).openWords = [] ∧
        ((t.net.queue q).prod i).credits = ((s.net.queue q).prod i).credits - ((64 - ((s.net.queue q).prod i).openWords.length % 64) % 64 : Nat) ∧
        ∃ k, (t.net.queue q).flight = (s.net.queue q).flight ++ [.commit k] ∧ k.prod = i ∧ k.rank = ((s.net.queue q).prod i).openRank ∧ k.words.map (·.data) = ((s.net.queue q).prod i).openWords) := by
  obtain ⟨good, named, queue⟩ := k
  obtain ⟨pkt, flight, prod, data, rank, none, credits⟩ := Queue.commit_parts opened (bits ((s.eng.thread p.val h.val).reg ra) 4 0)
  obtain ⟨t, done, frame, -, -, thread, mine⟩ := exec_queue_retires (c := .qcommit p h rq ra) rfl runs ((State.insnDiffers.refl s ..).setQueue _) (prodInsn_retires good named queue producer ..) rfl (Net.setQueue_self ..)
  refine ⟨t, done, frame, thread, fun apart => ?_⟩
  rw [mine apart, Queue.endDiscard_prod]
  exact ⟨none, credits, pkt, flight, prod, rank, data⟩
theorem qabort_rewinds {i : Nat} (producer : threadProd s p.val h.val q = some i) (opened : ((s.net.queue q).prod i).openWords ≠ []) (runs : s.executes p.val h.val (.qabort rq)) :
    ∃ t, exec (.qabort p h rq) s = .next t ∧ (engineFrame s t p.val h.val ∧ t.fab = s.fab ∧ (s.unsampled p.val h.val → ∀ j, j ≠ q → t.net.queue j = s.net.queue j)) ∧
      t.eng.thread p.val h.val = { s.eng.thread p.val h.val with pc := (s.eng.thread p.val h.val).pc + 4, miss := none, fencing := false, fenceLost := none } ∧
      (s.unsampled p.val h.val ∨ q / 64 ≠ p.val → ((t.net.queue q).prod i).openWords = [] ∧ tget 0 (t.net.queue q).rw 0 = min 4294967295 (tget 0 (s.net.queue q).rw 0 + 1) ∧
        (t.net.queue q).flight = (s.net.queue q).flight ++ [.rewind i ((s.net.queue q).prod i).openWords.length]) := by
  obtain ⟨good, named, queue⟩ := k
  obtain ⟨t, done, frame, -, -, thread, mine⟩ := exec_queue_retires (c := .qabort p h rq) rfl runs ((State.insnDiffers.refl s ..).setQueue _) (prodInsn_retires good named queue producer ..) rfl (Net.setQueue_self ..)
  refine ⟨t, done, frame, thread, fun apart => ?_⟩
  rw [mine apart, Queue.endDiscard_prod, Queue.rewindOpen_opened opened, Queue.rewind_prod]
  exact ⟨rfl, Queue.rewind_rw .., Queue.rewind_flight opened 0⟩
section
variable (consumer : threadCons s p.val h.val q = true)
  (buffer : ((s.eng.thread p.val h.val).reg ra).toNat % 32 = 0 ∧ ((s.eng.thread p.val h.val).reg ra).toNat < 65536 ∧ ldbMine s p.val h.val (((s.eng.thread p.val h.val).reg ra).toNat / 4096) = true)
  (going : (s.net.queue q).runs = true) {pkt : Pkt} {v : QWord} {l : List QWord} (current : (s.net.queue q).current = some pkt) (front : pkt.words = v :: l)
include consumer buffer going current front
theorem qpop_takes (runs : s.executes p.val h.val (.qpop rd rq ra)) :
    ∃ t, exec (.qpop p h rd rq ra) s = .next t ∧ (engineFrame s t p.val h.val ∧ t.fab = s.fab ∧ (s.unsampled p.val h.val → ∀ j, j ≠ q → t.net.queue j = s.net.queue j)) ∧
      (∀ i < 8, t.eng.dmWord p.val (((s.eng.thread p.val h.val).reg ra).toNat + 4 * i) = v.data.extractLsb' (32 * i) 32) ∧
      t.eng.thread p.val h.val = { (s.eng.thread p.val h.val).setReg rd (v.side.setWidth 32) with pc := (s.eng.thread p.val h.val).pc + 4, miss := none, fencing := false, fenceLost := none } ∧
      (s.unsampled p.val h.val ∨ q / 64 ≠ p.val → (t.net.queue q).reading = (if l.isEmpty then none else some { pkt with words := l, popped := pkt.popped + 1 }) ∧
        (t.net.queue q).acts.length = (s.net.queue q).acts.length + 1) := by
  obtain ⟨good, named, queue⟩ := k
  obtain ⟨ws, words⟩ : ∃ ws, wordsOf v.data = ws := ⟨_, rfl⟩
  obtain ⟨y, pop, -, reading, acts⟩ := Queue.pop_current current front
  obtain ⟨t, done, frame, dmem, -, thread, mine⟩ := exec_queue_retires (c := .qpop p h rd rq ra) rfl runs ((((State.insnDiffers.refl s ..).setQueue _).writeLocal ..).setThread _)
    (popInsn_take good named queue consumer buffer going (Queue.front_current current front) pop words) (Engines.setThread_self ..) (Net.setQueue_self ..)
  refine ⟨t, done, frame, fun i low => (Engines.dmWord_congr dmem ..).trans (writeLocal_dmWord (words ▸ wordsOf_word _ low) ..), thread, fun apart => ?_⟩
  rw [mine apart]
  exact ⟨reading, acts⟩
theorem qpeek_shows (runs : s.executes p.val h.val (.qpeek rd rq ra)) :
    ∃ t, exec (.qpeek p h rd rq ra) s = .next t ∧ (engineFrame s t p.val h.val ∧ t.fab = s.fab ∧ (s.unsampled p.val h.val → ∀ j, j ≠ q → t.net.queue j = s.net.queue j)) ∧
      (∀ i < 8, t.eng.dmWord p.val (((s.eng.thread p.val h.val).reg ra).toNat + 4 * i) = v.data.extractLsb' (32 * i) 32) ∧
      t.eng.thread p.val h.val = { (s.eng.thread p.val h.val).setReg rd (v.side.setWidth 32) with pc := (s.eng.thread p.val h.val).pc + 4, miss := none, fencing := false, fenceLost := none } ∧
      (s.unsampled p.val h.val ∨ q / 64 ≠ p.val → t.net.queue q = s.net.queue q) := by
  obtain ⟨good, named, queue⟩ := k
  obtain ⟨ws, words⟩ : ∃ ws, wordsOf v.data = ws := ⟨_, rfl⟩
  obtain ⟨y, pop, -⟩ := Queue.pop_current current front
  obtain ⟨t, done, frame, dmem, -, thread, mine⟩ := exec_queue_retires (c := .qpeek p h rd rq ra) rfl runs (((State.insnDiffers.refl s ..).writeLocal ..).setThread _)
    (popInsn_peek good named queue consumer buffer going (Queue.front_current current front) pop words) (Engines.setThread_self ..) rfl
  exact ⟨t, done, frame, fun i low => (Engines.dmWord_congr dmem ..).trans (writeLocal_dmWord (words ▸ wordsOf_word _ low) ..), thread, mine⟩
end
theorem qpop_empty (consumer : threadCons s p.val h.val q = true)
    (buffer : ((s.eng.thread p.val h.val).reg ra).toNat % 32 = 0 ∧ ((s.eng.thread p.val h.val).reg ra).toNat < 65536 ∧ ldbMine s p.val h.val (((s.eng.thread p.val h.val).reg ra).toNat / 4096) = true)
    (none : (s.net.queue q).current = none) (runs : s.executes p.val h.val (.qpop rd rq ra)) :
    ∃ t, exec (.qpop p h rd rq ra) s = .next t ∧ registersOnly s t p.val h.val { (s.eng.thread p.val h.val).setReg rd 0x10000 with pc := (s.eng.thread p.val h.val).pc + 4 } :=
  ⟨_, rfl, runs.retire_registersOnly (popInsn_none k.good k.named k.queue consumer buffer (Queue.front_none none))⟩
/-- QDROP gives up the rest of the packet being read. -/
theorem qdrop_drops (consumer : threadCons s p.val h.val q = true) (runs : s.executes p.val h.val (.qdrop rq)) :
    ∃ t, exec (.qdrop p h rq) s = .next t ∧ (engineFrame s t p.val h.val ∧ t.fab = s.fab ∧ (s.unsampled p.val h.val → ∀ j, j ≠ q → t.net.queue j = s.net.queue j)) ∧
      t.eng.thread p.val h.val = { s.eng.thread p.val h.val with pc := (s.eng.thread p.val h.val).pc + 4, miss := none, fencing := false, fenceLost := none } ∧
      (s.unsampled p.val h.val ∨ q / 64 ≠ p.val → t.net.queue q = (s.net.queue q).drop) := by
  obtain ⟨good, named, queue⟩ := k
  obtain ⟨t, done, frame, -, -, thread, mine⟩ := exec_queue_retires (c := .qdrop p h rq) (npc := (s.eng.thread p.val h.val).pc + 4) (events := []) (taken := false) (v := s.onNet fun n => n.setQueue q (n.queue q).drop)
    rfl runs ((State.insnDiffers.refl s ..).setQueue _) (by
      simp only [good, qNum_eq, named, scratchQueue, queue, consumer, decide_false, Bool.not_true, Bool.or_false, Bool.false_eq_true, if_false]) rfl (Net.setQueue_self ..)
  exact ⟨t, done, frame, thread, mine⟩
/-- QLEVEL of the producer end. -/
theorem qlevel_producer {i : Nat} (producer : threadProd s p.val h.val q = some i) :
    (s.executes p.val h.val (.qlevel rd rq 1) → ∃ t, exec (.qlevel p h rd rq 1 false) s = .next t ∧
      registersOnly s t p.val h.val { (s.eng.thread p.val h.val).setReg rd (BitVec.ofInt 32 ((s.net.queue q).prod i).credits) with pc := (s.eng.thread p.val h.val).pc + 4 }) ∧
    (s.executes p.val h.val (.qlevel rd rq 6) → ∃ t, exec (.qlevel p h rd rq 6 false) s = .next t ∧
      registersOnly s t p.val h.val { (s.eng.thread p.val h.val).setReg rd (BitVec.ofNat 32 ((s.net.queue q).prod i).openWords.length) with pc := (s.eng.thread p.val h.val).pc + 4 }) := by
  obtain ⟨good, named, queue⟩ := k
  refine ⟨exec_writes_register (c := .qlevel p h rd rq 1 false) rfl ?_ rfl, exec_writes_register (c := .qlevel p h rd rq 6 false) rfl ?_ (BitVec.ofInt_natCast ..)⟩ <;>
    simp [good, qNum_eq, named, scratchQueue, queue, producer]
/-- QLEVEL of the consumer end. -/
theorem qlevel_consumer (consumer : threadCons s p.val h.val q = true) :
    (s.executes p.val h.val (.qlevel rd rq 0) → ∃ t, exec (.qlevel p h rd rq 0 false) s = .next t ∧
      registersOnly s t p.val h.val { (s.eng.thread p.val h.val).setReg rd (BitVec.ofNat 32 (s.net.queue q).level) with pc := (s.eng.thread p.val h.val).pc + 4 }) ∧
    (s.executes p.val h.val (.qlevel rd rq 2) → ∃ t, exec (.qlevel p h rd rq 2 false) s = .next t ∧
      registersOnly s t p.val h.val { (s.eng.thread p.val h.val).setReg rd (if (s.net.queue q).event then 1 else 0) with pc := (s.eng.thread p.val h.val).pc + 4 }) ∧
    (s.executes p.val h.val (.qlevel rd rq 3) → ∃ t, exec (.qlevel p h rd rq 3 false) s = .next t ∧
      registersOnly s t p.val h.val { (s.eng.thread p.val h.val).setReg rd (BitVec.ofNat 32 (s.net.queue q).crossings) with pc := (s.eng.thread p.val h.val).pc + 4 }) := by
  obtain ⟨good, named, queue⟩ := k
  refine ⟨exec_writes_register (c := .qlevel p h rd rq 0 false) rfl ?_ (BitVec.ofInt_natCast ..), exec_writes_register (c := .qlevel p h rd rq 2 false) rfl ?_ rfl,
    exec_writes_register (c := .qlevel p h rd rq 3 false) rfl ?_ (BitVec.ofInt_natCast ..)⟩
  · simp [good, qNum_eq, named, scratchQueue, queue, consumer]
  · cases event : (s.net.queue q).event <;> simp [good, qNum_eq, named, scratchQueue, queue, consumer, event]
  · simp [good, qNum_eq, named, scratchQueue, queue, consumer]
/-- QLEVEL of selector 4 clears the mark of the last rewind. -/
theorem qlevel_seen {i : Nat} (producer : threadProd s p.val h.val q = some i) {mark : Bool} {cause : Nat} (seen : tget (false, 0) (s.net.queue q).seen (epThread p.val h.val) = (mark, cause))
    (runs : s.executes p.val h.val (.qlevel rd rq 4)) :
    ∃ t, exec (.qlevel p h rd rq 4 false) s = .next t ∧ (engineFrame s t p.val h.val ∧ t.fab = s.fab ∧ (s.unsampled p.val h.val → ∀ j, j ≠ q → t.net.queue j = s.net.queue j)) ∧
      t.eng.thread p.val h.val = { (s.eng.thread p.val h.val).setReg rd (BitVec.ofNat 32 ((if mark then 2147483648 else 0) + cause)) with
        pc := (s.eng.thread p.val h.val).pc + 4, miss := none, fencing := false, fenceLost := none } ∧
      (s.unsampled p.val h.val ∨ q / 64 ≠ p.val → t.net.queue q = { s.net.queue q with seen := tput (false, 0) (s.net.queue q).seen (epThread p.val h.val) (false, cause) }) := by
  obtain ⟨good, named, queue⟩ := k
  have value : BitVec.ofInt 32 ((if mark then 2147483648 else 0) + cause) = BitVec.ofNat 32 ((if mark then 2147483648 else 0) + cause) := by
    cases mark <;> exact BitVec.ofInt_natCast ..
  obtain ⟨t, done, frame, -, -, thread, mine⟩ := exec_queue_retires (c := .qlevel p h rd rq 4 false) (npc := (s.eng.thread p.val h.val).pc + 4) (events := []) (taken := false)
    (v := (s.onNet fun n => n.setQueue q { s.net.queue q with seen := tput (false, 0) (s.net.queue q).seen (epThread p.val h.val) (false, cause) }).onEng fun e =>
      e.setThread p.val h.val ((s.eng.thread p.val h.val).setReg rd (BitVec.ofNat 32 ((if mark then 2147483648 else 0) + cause))))
    rfl runs (((State.insnDiffers.refl s ..).setQueue _).setThread _) (by
      simp [good, qNum_eq, named, scratchQueue, queue, producer, seen, retireReg, value]) (Engines.setThread_self ..) (Net.setQueue_self ..)
  exact ⟨t, done, frame, thread, mine⟩
/-- QLEVEL of selector 5 sends a clear of the watermark event. -/
theorem qlevel_event (consumer : threadCons s p.val h.val q = true) {v : Word} (value : v = if (s.net.queue q).event then 1 else 0) (runs : s.executes p.val h.val (.qlevel rd rq 5)) :
    ∃ t, exec (.qlevel p h rd rq 5 false) s = .next t ∧ (engineFrame s t p.val h.val ∧ t.fab = s.fab ∧ (s.unsampled p.val h.val → ∀ j, j ≠ q → t.net.queue j = s.net.queue j)) ∧
      t.eng.thread p.val h.val = { (s.eng.thread p.val h.val).setReg rd v with pc := (s.eng.thread p.val h.val).pc + 4, miss := none, fencing := false, fenceLost := none } ∧
      (s.unsampled p.val h.val ∨ q / 64 ≠ p.val → t.net.queue q = { s.net.queue q with acts := (s.net.queue q).acts ++ [.clear] }) := by
  obtain ⟨good, named, queue⟩ := k
  obtain ⟨t, done, frame, -, -, thread, mine⟩ := exec_queue_retires (c := .qlevel p h rd rq 5 false) (npc := (s.eng.thread p.val h.val).pc + 4) (events := []) (taken := false)
    (v := (s.onNet fun n => n.setQueue q { s.net.queue q with acts := (s.net.queue q).acts ++ [.clear] }).onEng fun e => e.setThread p.val h.val ((s.eng.thread p.val h.val).setReg rd v))
    rfl runs (((State.insnDiffers.refl s ..).setQueue _).setThread _) (by
      subst value
      cases event : (s.net.queue q).event <;> simp [good, qNum_eq, named, scratchQueue, queue, consumer, event, retireReg]) (Engines.setThread_self ..) (Net.setQueue_self ..)
  exact ⟨t, done, frame, thread, mine⟩
end
/-- The state with one more request on the thread's scratchpad channel. -/
def State.asked (s : State) (p h : Nat) (d : BitVec 256) : State :=
  s.onNet fun n => n.setThreadChan (8 * p + h) { n.threadChanAt (8 * p + h) with reqs := (n.threadChanAt (8 * p + h)).reqs ++ [{ word := d }] }
theorem State.asked_chan (s : State) (p h : Nat) (d : BitVec 256) : (s.asked p h d).net.threadChanAt (8 * p + h) =
    { s.net.threadChanAt (8 * p + h) with reqs := (s.net.threadChanAt (8 * p + h)).reqs ++ [{ word := d }] } := (tget_tput ..).trans (if_pos rfl)
theorem State.countMemCorr_asked (s : State) {p h corr : Nat} (d : BitVec 256) (skips : (s.net.threadChanAt (8 * p + h)).skip ≤ (s.net.threadChanAt (8 * p + h)).reqs.length) :
    16 - scratchOut ((countMemCorr s p corr).asked p h d) p h = 15 - scratchOut s p h := by
  simp only [scratchOut, State.asked_chan, countMemCorr_net, List.length_append, List.length_singleton]
  omega
/-- A push on the scratchpad channel's number. -/
theorem qpush_channel {s : State} {p : PlotIx} {h : HandIx} {rd rq ra : RegIx} {corr : Nat} {ws : List Word} (good : qWordBad ((s.eng.thread p.val h.val).reg rq) = false)
    (named : ((s.eng.thread p.val h.val).reg rq).toNat % 65536 = 65535) (room : scratchOut s p.val h.val < 16)
    (skips : (s.net.threadChanAt (8 * p.val + h.val)).skip ≤ (s.net.threadChanAt (8 * p.val + h.val)).reqs.length)
    (buffer : ((s.eng.thread p.val h.val).reg ra).toNat % 32 = 0 ∧ ((s.eng.thread p.val h.val).reg ra).toNat < 65536 ∧ ldbMine s p.val h.val (((s.eng.thread p.val h.val).reg ra).toNat / 4096) = true)
    (words : readLocal s.eng p.val ((s.eng.thread p.val h.val).reg ra).toNat 8 = (ws, corr, none)) (runs : s.executes p.val h.val (.qpush rd rq ra)) :
    ∃ t, exec (.qpush p h rd rq ra) s = .next t ∧ engineFrame s t p.val h.val ∧
      (t.net.threadChanAt (8 * p.val + h.val)).reqs = (s.net.threadChanAt (8 * p.val + h.val)).reqs ++ [{ word := ofWords ws }] ∧
      t.eng.thread p.val h.val = { (s.eng.thread p.val h.val).setReg rd (BitVec.ofNat 32 (15 - scratchOut s p.val h.val)) with
        pc := (s.eng.thread p.val h.val).pc + 4, miss := none, fencing := false, fenceLost := none } := by
  have few := not_le_of_gt room
  have left := (s.countMemCorr_asked (ofWords ws) skips : 16 - scratchOut ((countMemCorr s p.val corr).asked p.val h.val (ofWords ws)) p.val h.val = _)
  obtain ⟨t, done, frame, -, chan, thread, -⟩ := exec_queue_retires (c := .qpush p h rd rq ra) (q := 65535) (npc := (s.eng.thread p.val h.val).pc + 4) (events := [0x08]) (taken := false)
    (v := ((countMemCorr s p.val corr).asked p.val h.val (ofWords ws)).onEng fun e => e.setThread p.val h.val ((s.eng.thread p.val h.val).setReg rd (BitVec.ofNat 32 (15 - scratchOut s p.val h.val))))
    rfl runs ((((State.insnDiffers.refl s ..).corrected corr).setThreadChan ..).setThread _) (by
      rw [← left]
      simp [good, qNum_eq, named, scratchQueue, few, bufferAddr_ok buffer, words, retireReg, State.asked]) (Engines.setThread_self ..) rfl
  refine ⟨t, done, frame.1, ?_, thread⟩
  have here : t.net.threadChanAt (8 * p.val + h.val) = ((countMemCorr s p.val corr).asked p.val h.val (ofWords ws)).net.threadChanAt (8 * p.val + h.val) := congrArg (tget ({} : Chan) · (8 * p.val + h.val)) chan
  rw [here, State.asked_chan, countMemCorr_net]
/-- Settles O48: each instruction acts on its queue, its buffer and its thread, and retires. -/
theorem engineQueueInstructions : Obligations.EngineQueueInstructions := by
  unfold Obligations.EngineQueueInstructions
  intro p h rd rq ra s
  dsimp only
  intro low
  have good := qWordBad_false low
  refine ⟨fun queue => ?_, fun ws corr scratch room skips buf words runs => qpush_channel good scratch room skips buf words runs⟩
  have k : s.namesQueue p h rq (((s.eng.thread p.val h.val).reg rq).toNat % 65536) := ⟨good, rfl, queue⟩
  refine ⟨fun i producer => ?_, fun consumer => ?_⟩
  · obtain ⟨credits, opened⟩ := qlevel_producer (rd := rd) k producer
    refine ⟨fun ws corr credit takes fits buf words runs => ?_, qcommit_commits k producer, qabort_rewinds k producer, credits, opened, fun runs => ?_⟩
    · obtain ⟨openWords, credits, flight⟩ := Queue.push_taken_parts takes fits credit (ofWords ws) (qRank ((s.eng.thread p.val h.val).reg rq))
      obtain ⟨t, done, frame, dmem, thread, mine⟩ := qpush_takes k producer credit buf words rfl credits runs
      refine ⟨t, done, frame, dmem, thread, fun apart => ?_⟩
      rw [mine apart]
      exact ⟨openWords, credits, flight⟩
    · obtain ⟨t, done, frame, thread, mine⟩ := qlevel_seen k producer rfl runs
      refine ⟨t, done, frame, thread, fun apart => ?_⟩
      rw [mine apart]
      exact (tget_tput ..).trans (if_pos rfl)
  · obtain ⟨level, event, crossings⟩ := qlevel_consumer (rd := rd) k consumer
    refine ⟨fun pkt v l buf going current front => ⟨qpop_takes k consumer buf going current front, qpeek_shows k consumer buf going current front⟩, qpop_empty k consumer, fun pkt reading runs => ?_,
      level, event, crossings, fun runs => ?_⟩
    · obtain ⟨t, done, frame, thread, mine⟩ := qdrop_drops k consumer runs
      refine ⟨t, done, frame, thread, fun apart => ?_⟩
      rw [mine apart]
      exact Queue.drop_reading reading
    · obtain ⟨t, done, frame, thread, mine⟩ := qlevel_event k consumer rfl runs
      refine ⟨t, done, frame, thread, fun apart => ?_⟩
      rw [mine apart]

end Sys2Proof.Machine
end

section
/-! PROOF. Kitty registers, calls, counters, WAIT and FENCE of engines (R118-R145, R274, R283-R288). -/

namespace Sys2Proof.Machine

/-! ## Kitty registers of an engine -/

theorem mergeWord_all (old new : Word) : mergeWord old new 0xF = new := by
  have bytes : BitVec.ofNat 32 (leNat [new.setWidth 8, (new >>> 8).setWidth 8, (new >>> 16).setWidth 8, (new >>> 24).setWidth 8]) = new := by
    refine BitVec.eq_of_toNat_eq ?_
    simp only [leNat, BitVec.toNat_ofNat, BitVec.toNat_setWidth, BitVec.toNat_ushiftRight, Nat.shiftRight_eq_div_pow]
    have := new.isLt
    omega
  refine Eq.trans ?_ bytes
  simp [mergeWord, List.range_succ]
theorem memAddr_eq (t : Thread) (ra : RegIx) (imm : BitVec 16) : memAddr t ra imm = t.reg ra + imm.signExtend 32 := rfl
theorem kittyIx_allowed {s : State} {p h : Nat} {a : Word} (low : a.toNat < 2048) (allowed : kittyAllowed s p h a.toNat = true) : kittyIx s p h a = some a.toNat := by
  simp [kittyIx, low, allowed]
/-- Beside kitty registers, threads' marks and a snapshot that is due, nothing differs. -/
structure State.kittyOnly (s u : State) (p n : Nat) : Prop where
  frame : u.fab = { s.fab with kitty := u.fab.kitty } ∧ u.stk = s.stk ∧ u.nv = s.nv ∧ u.eng.dmem = s.eng.dmem
  kitty : ∀ k, k ≠ 2048 * p + n → tget 0 u.fab.kitty k = tget 0 s.fab.kitty k
  threads : ∀ q h, (u.eng.thread q h).pc = (s.eng.thread q h).pc ∧ (u.eng.thread q h).regs = (s.eng.thread q h).regs
theorem State.kittyOnly.setReg {s u : State} {p n : Nat} (k : s.kittyOnly u p n) (v : Word) : s.kittyOnly (u.onFab fun f => f.setKittyReg p n v) p n := by
  obtain ⟨⟨fab, stk, nv, dmem⟩, kitty, threads⟩ := k
  refine ⟨⟨?_, stk, nv, dmem⟩, fun j other => ?_, threads⟩
  · rw [State.onFab_fab, fab]
    rfl
  · exact ((tget_tput ..).trans (if_neg other)).trans (kitty j other)
theorem wakeKitty_thread (f : Fabric) (e : Engines) (p k q h : Nat) : ((wakeKitty f e p k).thread q h).pc = (e.thread q h).pc ∧ ((wakeKitty f e p k).thread q h).regs = (e.thread q h).regs := by
  unfold wakeKitty
  refine ⟨foldl_leaves (fun e : Engines => (e.thread q h).pc) (fun e j => ?_) _ e, foldl_leaves (fun e : Engines => (e.thread q h).regs) (fun e j => ?_) _ e⟩
  all_goals
    split
    · rw [Engines.setThread_thread]
      split
      · next same =>
        unfold Engines.thread
        rw [same]
      · rfl
    · rfl
theorem wakeKitty_dmem (f : Fabric) (e : Engines) (p k : Nat) : (wakeKitty f e p k).dmem = e.dmem := by
  refine foldl_leaves Engines.dmem (fun e j => ?_) _ e
  split <;> rfl
theorem writeKitty_kittyOnly (s : State) (p n : Nat) (v : Word) (be : BitVec 4) : s.kittyOnly (writeKitty s p n v be) p n := by
  have base : s.kittyOnly (s.onFab fun f => f.setKittyReg p n (mergeWord (s.fab.kittyReg p n) v be)) p n :=
    State.kittyOnly.setReg ⟨⟨rfl, rfl, rfl, rfl⟩, fun _ _ => rfl, fun _ _ => ⟨rfl, rfl⟩⟩ _
  unfold writeKitty
  simp only []
  split
  · split
    · obtain ⟨⟨fab, stk, nv, dmem⟩, kitty, threads⟩ := base
      refine ⟨⟨fab, stk, nv, ?_⟩, kitty, fun q h => ?_⟩
      · exact wakeKitty_dmem ..
      · exact wakeKitty_thread ..
    · exact base
  · exact base
theorem State.kittyOnly.trigger {s u : State} {p n : Nat} (k : s.kittyOnly u p n) (o q reg : Nat) : s.kittyOnly (kittyTrigger u o q reg) p n := by
  unfold kittyTrigger
  split
  · exact ⟨k.frame, k.kitty, k.threads⟩
  · exact k
theorem engineKittyWrite_kittyOnly (s : State) (p n : Nat) (v : Word) : s.kittyOnly (engineKittyWrite s p n v) p n := by
  have base := writeKitty_kittyOnly s p n v 0xF
  unfold engineKittyWrite
  simp only []
  split
  · split
    · split
      · obtain ⟨frame, kitty, threads⟩ := base.setReg (mergeWord v _ _)
        exact ⟨frame, kitty, threads⟩
      · exact ⟨base.frame, base.kitty, base.threads⟩
    · exact base
  · exact base
/-- What the register holds after an engine's write: the value alone, or mixed with the fabric's write of the last edge (R144). -/
theorem engineKittyWrite_reg (s : State) (p n : Nat) (v : Word) :
    ((∀ w, (s.fab.plot p).kittyLast = some w → w.reg ≠ n) → (engineKittyWrite s p n v).fab.kittyReg p n = v) ∧
    ∀ w, (s.fab.plot p).kittyLast = some w → w.reg = n → (engineKittyWrite s p n v).fab.kittyReg p n = v ∨ (engineKittyWrite s p n v).fab.kittyReg p n = mergeWord v w.data w.be := by
  have set (f : Fabric) (x : Word) : (f.setKittyReg p n x).kittyReg p n = x := (tget_tput ..).trans (if_pos rfl)
  have base : (writeKitty s p n v 0xF).fab.kittyReg p n = v := by
    rw [writeKitty_fab, mergeWord_all]
    exact set ..
  unfold engineKittyWrite
  refine ⟨fun other => ?_, fun w last same => ?_⟩
  · split
    · next w last =>
      rw [if_neg (other w last)]
      exact base
    · exact base
  · simp only [last, same, if_true]
    split
    · exact Or.inr (set ..)
    · exact Or.inl base
/-- KWR: the write, its trigger and the retirement. -/
theorem kwr_writes {p : PlotIx} {h : HandIx} {r ra : RegIx} {imm : BitVec 16} {s : State} {n : Nat} (named : (memAddr (s.eng.thread p.val h.val) ra imm).toNat = n) (low : n < 2048)
    (allowed : kittyAllowed s p.val h.val n = true) (runs : s.executes p.val h.val (.imm .kwr r ra imm)) :
    ∃ t, exec (.kwr p h r ra imm) s = .next t ∧ t.fab = (engineKittyWrite s p.val n ((s.eng.thread p.val h.val).reg r)).fab ∧ (t.eng.thread p.val h.val).pc = (s.eng.thread p.val h.val).pc + 4 ∧
      (t.eng.thread p.val h.val).regs = (s.eng.thread p.val h.val).regs ∧ t.eng.dmem = s.eng.dmem ∧ t.stk = s.stk ∧ t.nv = s.nv := by
  obtain ⟨o, owner⟩ : ∃ o, s.fab.handOwner p.val h.val = some o := Option.isSome_iff_exists.1 (by
    unfold kittyAllowed at allowed
    split at allowed
    · next k owner => exact owner ▸ rfl
    · exact absurd allowed Bool.false_ne_true)
  have only := (engineKittyWrite_kittyOnly s p.val n ((s.eng.thread p.val h.val).reg r)).trigger o p.val n
  obtain ⟨⟨fab, stk, nv, dmem⟩, kitty, threads⟩ := only
  have ix : kittyIx s p.val h.val (memAddr (s.eng.thread p.val h.val) ra imm) = some n := by
    rw [← named] at low allowed ⊢
    exact kittyIx_allowed low allowed
  have ends := runs.retiresTo (u := kittyTrigger (engineKittyWrite s p.val n ((s.eng.thread p.val h.val).reg r)) o p.val n) (npc := (s.eng.thread p.val h.val).pc + 4) (events := [0x0D]) (taken := false)
    (body := fun s t => match kittyIx s p.val h.val (memAddr t ra imm), s.fab.handOwner p.val h.val with
      | some k, some o => .retire (kittyTrigger (engineKittyWrite s p.val k (t.reg r)) o p.val k) (t.pc + 4) [0x0D] false
      | _, _ => kittyTrap s p.val) (by simp only [ix, owner])
  obtain ⟨fab', stk', nv', dmem', -⟩ := ends.parts
  exact ⟨_, rfl, fab'.trans (kittyTrigger_fab ..), ends.pc, ends.regs.trans (threads _ _).2, dmem'.trans dmem, stk'.trans stk, nv'.trans nv⟩

/-! ## Calls and counters -/

theorem callh_leaves {p : PlotIx} {h : HandIx} {ra : RegIx} {imm : BitVec 16} {s : State} {n : Nat} (named : (memAddr (s.eng.thread p.val h.val) ra imm).toNat = n)
    (inside : n < s.fab.lenOf (s.fab.seqPlot p.val)) (owned : slotOwner (s.fab.slot (s.fab.seqPlot p.val) n) ≠ none)
    (mine : slotOwner (s.fab.slot (s.fab.seqPlot p.val) n) = s.fab.handOwner p.val h.val) (runs : s.executes p.val h.val (.callh ra imm)) :
    ∃ t, exec (.callh p h ra imm) s = .next t ∧ engineFrame s t p.val h.val ∧
      t.eng.thread p.val h.val = { s.eng.thread p.val h.val with pc := (s.eng.thread p.val h.val).pc + 4, miss := none, fencing := false, fenceLost := none } ∧
      t.fab = s.fab.setPlot p.val { s.fab.plot p.val with engCalls := (s.fab.plot p.val).engCalls ++ [(2, h.val, n)] } := by
  have within := not_le_of_gt inside
  have ends := runs.retiresTo (u := s.onFab fun f => f.setPlot p.val { f.plot p.val with engCalls := (f.plot p.val).engCalls ++ [(2, h.val, n)] }) (npc := (s.eng.thread p.val h.val).pc + 4) (events := [0x0E])
    (taken := false) (body := fun s t =>
      let n := (memAddr t ra imm).toNat
      let q := s.fab.seqPlot p.val
      if s.fab.lenOf q ≤ n || slotOwner (s.fab.slot q n) = none || slotOwner (s.fab.slot q n) != s.fab.handOwner p.val h.val then .trap s causeCall 0 0
      else .retire (s.onFab fun f => f.setPlot p.val { f.plot p.val with engCalls := (f.plot p.val).engCalls ++ [(2, h.val, n)] }) (t.pc + 4) [0x0E] false) (by
    simp [named, within, owned, mine, mine ▸ owned])
  obtain ⟨fab, -⟩ := ends.parts
  exact ⟨_, rfl, ends.engineFrame rfl (fun _ _ => rfl) (fun _ _ => rfl) ⟨rfl, rfl, rfl, rfl⟩, ends.thread, fab⟩

/-! ## WAIT and FENCE -/

theorem Engines.regate_eplls_running (e : Engines) (p : Nat) {h : Nat} (hand : h < 8) (runs : (e.thread p h).state = .running) : ((e.regate p).epll (epllOf p)).running = true := by
  have busy : (List.range 8).any (fun h => (e.thread p h).state == .running) = true := List.any_eq_true.2 ⟨h, List.mem_range.2 hand, beq_iff_eq.2 runs⟩
  unfold Engines.regate
  simp only [busy, Bool.true_and]
  split
  · unfold Engines.setEpll Engines.epll
    simp
  · next going => simpa using going
theorem Engines.setThread_regate_other (e : Engines) {p h k : Nat} (x : Thread) (other : k ≠ 8 * p + h) : tget ({} : Thread) ((e.setThread p h x).regate p).threads k = tget {} e.threads k := by
  rw [Engines.regate_threads]
  exact Engines.setThread_other _ _ other
theorem Engines.setThread_regate_self (e : Engines) (p h : Nat) (x : Thread) : ((e.setThread p h x).regate p).thread p h = x := by
  unfold Engines.thread
  rw [Engines.regate_threads]
  exact Engines.setThread_self ..
/-- The thread as a WAIT that retires leaves it, but for its register. -/
def Thread.reported (x : Thread) (holds : Nat) : Thread := { x with state := .running, waitRec := none, kevent := !holds.testBit 4 && x.kevent }
theorem waitDone_eq (s : State) (p h : Nat) (t : Thread) (rd : RegIx) (holds : Nat) (unbound : Bool) :
    waitDone s p h t rd holds unbound false = .retire (s.onEng fun e => e.setThread p h ((t.reported holds).setReg rd (BitVec.ofNat 32 (holds + if unbound then 64 else 0)))) (t.pc + 4) [0x0F] false := by
  unfold waitDone retireReg Thread.reported
  cases holds.testBit 4 <;> rfl
section
variable {p : PlotIx} {h : HandIx} {s : State}
theorem wait_ends {r ra : RegIx} {imm : BitVec 16} (good : imm.toNat % 8 ≠ 0 → ((s.eng.thread p.val h.val).reg ra).toNat < 524288)
    (rights : waitRights s p.val h.val (((s.eng.thread p.val h.val).reg ra).toNat % 65536) imm.toNat = true) (runs : s.executes p.val h.val (.wait r ra imm)) {holds : Nat}
    (found : waitHolds s p.val h.val (s.eng.thread p.val h.val) (((s.eng.thread p.val h.val).reg ra).toNat % 65536) imm.toNat = holds) :
    (holds ≠ 0 → ∃ t, exec (.wait p h r ra imm) s = .next t ∧
      registersOnly s t p.val h.val { ((s.eng.thread p.val h.val).reported holds).setReg r (BitVec.ofNat 32 holds) with pc := (s.eng.thread p.val h.val).pc + 4 }) ∧
    (holds = 0 → exec (.wait p h r ra imm) s = .next (s.onEng fun e => (e.setThread p.val h.val { s.eng.thread p.val h.val with
      state := .waiting, waitRec := some { rd := r.val, queue := if imm.toNat % 8 = 0 then 0 else (s.eng.thread p.val h.val).reg ra, mask := imm.toNat } }).regate p.val)) := by
  have legal : (imm.toNat % 8 != 0 && qWordBad ((s.eng.thread p.val h.val).reg ra)) = false := by
    by_cases none : imm.toNat % 8 = 0
    · simp [none]
    · rw [qWordBad_false (good none), Bool.and_false]
  refine ⟨fun some => ⟨_, rfl, runs.retire_registersOnly (events := [0x0F]) (taken := false) ?_⟩, fun none => exec_waits rfl ?_ runs⟩
  · simp only [legal, qNum_eq, rights, found, bne_iff_ne, ne_eq, some, not_false_eq_true, Bool.not_true, Bool.false_eq_true, if_true, if_false]
    exact waitDone_eq ..
  · simp only [legal, qNum_eq, rights, found, none, bne_self_eq_false, Bool.not_true, Bool.false_eq_true, if_false]
/-- A retirement that changes no register: what it leaves, and its cache. -/
theorem exec_retires_cache {c : Instr} {i : EngInsn} {body : State → Thread → EngEnd} (meaning : exec c s = .next (engStep s p.val h.val i body)) (runs : s.executes p.val h.val i) {u : State} {npc : Word} {events : List Nat}
    {taken : Bool} (retires : body s (s.eng.thread p.val h.val) = .retire u npc events taken) (only : s.threadDiffers u p.val h.val) (still : u.net = s.net) {x : Thread} (thread : u.eng.thread p.val h.val = x)
    {cache : List (Nat × CLine)} (same : (u.eng.engine p.val).cache = cache) :
    ∃ t, exec c s = .next t ∧ registersOnly s t p.val h.val { x with pc := npc } ∧ (t.eng.engine p.val).cache = cache :=
  ⟨_, meaning, thread ▸ runs.registersOnly_of_threadDiffers retires only still, (runs.retires_cache retires).trans same⟩
/-- The regions whose lines a fence of the thread writes back and drops. -/
def State.ownsRegion (s : State) (p h g : Nat) : Bool := (s.fab.handOwner p h).isSome && s.stk.regionOwner p g == s.fab.handOwner p h
/-- A fence that has nothing to write back. -/
theorem fence_passes {what : BitVec 3}
    (clean : what.getLsbD 1 = true → (s.eng.engine p.val).dirtyFor (s.ownsRegion p.val h.val) = false ∧ (s.eng.thread p.val h.val).fenceLost = none) (runs : s.executes p.val h.val (.fence what)) :
    (what.getLsbD 0 = true → opsArrived s p.val h.val = false →
      exec (.fence p h what) s = .next (s.onEng fun e => e.setThread p.val h.val { s.eng.thread p.val h.val with fencing := (s.eng.thread p.val h.val).fencing || what.getLsbD 1 })) ∧
    ((what.getLsbD 0 = true → opsArrived s p.val h.val = true) → ∃ t, exec (.fence p h what) s = .next t ∧
      registersOnly s t p.val h.val { s.eng.thread p.val h.val with pc := (s.eng.thread p.val h.val).pc + 4 } ∧
      (t.eng.engine p.val).cache = if what.getLsbD 2 then (s.eng.engine p.val).cache.filter fun c => !s.ownsRegion p.val h.val (lineRegion c.2.line) else (s.eng.engine p.val).cache) := by
  unfold State.ownsRegion at *
  have passed : (what.getLsbD 1 && (s.eng.engine p.val).dirtyFor fun g => (s.fab.handOwner p.val h.val).isSome && s.stk.regionOwner p.val g == s.fab.handOwner p.val h.val) = false := by
    cases writes : what.getLsbD 1 with
    | false => rfl
    | true => exact (clean writes).1
  refine ⟨fun orders late => exec_waits rfl ?_ runs, fun arrived => ?_⟩
  · simp only [passed, orders, late, Bool.false_eq_true, if_false]
    cases writes : what.getLsbD 1 with
    | false => rfl
    | true => simp only [(clean writes).2, Bool.not_false, Bool.and_self, if_true]
  · have done : (what.getLsbD 0 && !opsArrived s p.val h.val) = false := by
      cases orders : what.getLsbD 0 with
      | false => rfl
      | true => rw [arrived orders]; rfl
    have lost : what.getLsbD 1 = true → (s.eng.thread p.val h.val).fenceLost = none := fun writes => (clean writes).2
    cases drops : what.getLsbD 2 with
    | false =>
      refine exec_retires_cache (u := s) (events := [0x10]) (taken := false) rfl runs ?_ (s.threadDiffers_refl p.val h.val) rfl rfl rfl
      simp only [passed, done, drops, Bool.false_eq_true, if_false]
      cases writes : what.getLsbD 1 with
      | false => simp only []
      | true => simp only [lost writes]
    | true =>
      refine exec_retires_cache (events := [0x10]) (taken := false)
        (u := s.onEng fun x => x.setEngine p.val ((s.eng.engine p.val).invalidate fun a => (s.fab.handOwner p.val h.val).isSome && s.stk.regionOwner p.val (lineRegion a) == s.fab.handOwner p.val h.val))
        rfl runs ?_ (State.threadDiffers_counts (s.threadDiffers_refl p.val h.val) (s.countsDiffer_setEngine p.val _)) rfl rfl (Engines.setEngine_cache rfl)
      simp only [passed, done, drops, Bool.false_eq_true, if_false, if_true]
      cases writes : what.getLsbD 1 with
      | false => simp only []
      | true => simp only [lost writes]
end

/-- WAIT_WAKE of a thread whose condition has come to hold or whose queue has been unbound. -/
theorem waitWake_reports {p : PlotIx} {h : HandIx} {s : State} {w : WaitRec} (waiting : (s.eng.thread p.val h.val).state = .waiting) (waits : (s.eng.thread p.val h.val).waitRec = some w) (clocks : s.clocksOn = true)
    (up : s.net.dieDown.contains (dieOf p.val) = false) {holds : Nat} (found : waitHolds s p.val h.val (s.eng.thread p.val h.val) (w.queue.toNat % 65536) w.mask = holds) (ends : holds ≠ 0 ∨ w.unbound = true) :
    ∃ t, exec (.waitWake p h false) s = .next t ∧
      t.eng.thread p.val h.val = { ((s.eng.thread p.val h.val).reported holds).setReg (Fin.ofNat 32 w.rd) (BitVec.ofNat 32 (holds + if w.unbound then 64 else 0)) with
        pc := (s.eng.thread p.val h.val).pc + 4, miss := none, fencing := false, fenceLost := none } ∧
      (t.eng.epll (epllOf p.val)).running = true ∧ t.fab = s.fab ∧ t.eng.dmem = s.eng.dmem ∧ t.stk = s.stk := by
  have goes : ¬ ((s.eng.thread p.val h.val).state != .waiting || !s.clocksOn || s.net.dieDown.contains (dieOf p.val) || (holds = 0 && !w.unbound)) = true := by
    simp only [waiting, clocks, up]
    rcases ends with some | unbound
    · simp [some]
    · simp [unbound]
  generalize record : ((s.eng.thread p.val h.val).reported holds).setReg (Fin.ofNat 32 w.rd) (BitVec.ofNat 32 (holds + if w.unbound then 64 else 0)) = x
  have retired := finish_retire_retiresTo (s.onEng fun e => e.setThread p.val h.val x) ((s.eng.thread p.val h.val).pc + 4) [0x0F] false p.val h.val (fetchCorr s p.val (s.eng.thread p.val h.val).pc)
    (s.eng.thread p.val h.val).pc.toNat (fetchWord s p.val (s.eng.thread p.val h.val).pc)
  have runs : exec (.waitWake p h false) s = .next (State.onEng (((EngEnd.retire (s.onEng fun e => e.setThread p.val h.val x) ((s.eng.thread p.val h.val).pc + 4) [0x0F] false).counted p.val
      (fetchCorr s p.val (s.eng.thread p.val h.val).pc)).finish p.val h.val (s.eng.thread p.val h.val).pc.toNat (fetchWord s p.val (s.eng.thread p.val h.val).pc)) fun e => e.regate p.val) := by
    rw [← record, ← waitDone_eq]
    simp only [exec, execWaitWake, waits, qNum_eq, found, goes, Bool.false_eq_true, if_false]
  generalize ((EngEnd.retire (s.onEng fun e => e.setThread p.val h.val x) ((s.eng.thread p.val h.val).pc + 4) [0x0F] false).counted p.val (fetchCorr s p.val (s.eng.thread p.val h.val).pc)).finish p.val h.val
    (s.eng.thread p.val h.val).pc.toNat (fetchWord s p.val (s.eng.thread p.val h.val).pc) = t at retired runs
  have self : (s.onEng fun e => e.setThread p.val h.val x).eng.thread p.val h.val = x := Engines.setThread_self ..
  have thread := retired.thread
  rw [self] at thread
  have going : (t.eng.thread p.val h.val).state = .running := by
    rw [thread, ← record]
    unfold Thread.setReg Thread.reported
    split <;> rfl
  obtain ⟨fab, stk, -, dmem, -⟩ := retired.parts
  refine ⟨_, runs, ?_, Engines.regate_eplls_running _ _ h.isLt going, fab, (Engines.regate_dmem ..).trans dmem, stk⟩
  rw [State.onEng_eng, ← thread]
  unfold Engines.thread
  rw [Engines.regate_threads]

/-- Settles O49: each instruction acts on its register, call, counter, condition or lines, and retires or waits. -/
theorem engineKittyCallsAndWaits : Obligations.EngineKittyCallsAndWaits := by
  unfold Obligations.EngineKittyCallsAndWaits
  intro p h r ra imm s
  dsimp only
  refine ⟨fun low allowed => ⟨fun runs => ?_, fun runs => ?_⟩, fun inside owned mine runs => ?_, fun seat owner user seats runs => ?_, fun good rights runs => ?_, fun w waiting waits clocks up ends => ?_, fun what runs => ⟨?_, ?_, ?_⟩⟩
  · refine ⟨_, rfl, runs.retire_registersOnly (events := [0x0D]) (taken := false) ?_⟩
    rw [← memAddr_eq] at low allowed ⊢
    simp only [kittyIx_allowed low allowed]
    rfl
  · obtain ⟨t, done, fab, pc, regs, dmem, stk, nv⟩ := kwr_writes rfl low allowed runs
    obtain ⟨alone, mixed⟩ := engineKittyWrite_reg s p.val ((s.eng.thread p.val h.val).reg ra + imm.signExtend 32).toNat ((s.eng.thread p.val h.val).reg r)
    obtain ⟨⟨only, -⟩, kitty, -⟩ := engineKittyWrite_kittyOnly s p.val ((s.eng.thread p.val h.val).reg ra + imm.signExtend 32).toNat ((s.eng.thread p.val h.val).reg r)
    rw [← memAddr_eq, ← fab] at *
    exact ⟨t, done, alone, mixed, kitty, pc, regs, by rw [only], dmem, stk, nv⟩
  · obtain ⟨t, done, frame, thread, fab⟩ := callh_leaves rfl inside owned mine runs
    rw [memAddr_eq] at fab
    refine ⟨t, done, frame, thread, ?_, ?_, fun j other => ?_⟩
    · rw [fab]
      rfl
    · rw [fab, Fabric.setPlot_plot, if_pos rfl]
    · rw [fab, Fabric.setPlot_plot, if_neg other]
  · have parity : imm.toNat % 2 = 0 ∨ imm.toNat % 2 = 1 := Nat.mod_two_eq_zero_or_one _
    have allowed : (!tget false (s.eng.engine p.val).pmcUser seat || (decide (imm.toNat / 2 < 8) && (s.eng.engine p.val).pmcSeat (imm.toNat / 2) != some seat)) = false := by
      by_cases slot : imm.toNat < 16
      · simp [user, seats slot]
      · simp [user, show ¬ imm.toNat / 2 < 8 by omega]
    rcases parity with even | odd
    · have odd : ¬ imm.toNat % 2 = 1 := by omega
      refine ⟨_, rfl, fun _ => runs.retire_registersOnly (events := []) (taken := false) ?_, fun k => absurd k odd⟩
      simp only [owner, allowed, odd, Bool.false_eq_true, if_false]
      rfl
    · have even : ¬ imm.toNat % 2 = 0 := by omega
      refine ⟨_, rfl, fun k => absurd k even, fun _ => runs.retire_registersOnly (events := []) (taken := false) ?_⟩
      simp only [owner, allowed, odd, Bool.false_eq_true, if_false, if_true]
      rfl
  · obtain ⟨some, none⟩ := wait_ends good rights runs rfl
    refine ⟨some, fun holds => ⟨_, none holds, rfl, ?_, Engines.setThread_regate_self .., fun k other => Engines.setThread_regate_other _ _ other⟩⟩
    rw [State.onEng_eng, Engines.regate_dmem]
    rfl
  · exact waitWake_reports waiting waits clocks up rfl ends
  · intro writes dirty
    have stops : exec (.fence p h what) s = .next (s.onEng fun e => e.setThread p.val h.val { s.eng.thread p.val h.val with fencing := true }) := by
      refine exec_waits rfl ?_ runs
      simp only [writes, dirty, Bool.and_self, if_true]
    exact ⟨_, stops, Engines.setThread_self .., rfl⟩
  · intro clean orders late
    exact ⟨_, (fence_passes clean runs).1 orders late, Engines.setThread_self .., rfl⟩
  · exact fun clean arrived => (fence_passes clean runs).2 arrived

end Sys2Proof.Machine
end

section
/-! PROOF. Seed images and their sections (R129-R132, R166-R168, R258, R561-R568). -/

namespace Sys2Proof.Machine

/-! ## Seed images (R561, R568) -/

theorem State.onSeat_onSeat (s : State) (k : Nat) (f g : SeatRec → SeatRec) : (s.onSeat k f).onSeat k g = s.onSeat k fun r => g (f r) := by
  have self : (s.onSeat k f).seat k = f (s.seat k) := (tget_tput ..).trans (if_pos rfl)
  unfold State.onSeat State.setSeat at *
  rw [self]
  exact congrArg (fun t => { s with seats := t }) (tput_tput ..)
theorem State.onAon_seat (s : State) (g : Aon → Aon) (k : Nat) : (s.onAon g).seat k = s.seat k := rfl
theorem State.onSeat_congr (s : State) (k : Nat) {f g : SeatRec → SeatRec} (same : f (s.seat k) = g (s.seat k)) : s.onSeat k f = s.onSeat k g := congrArg (s.setSeat k) same
/-- The report of an image refused whole (R564). -/
def imageReport (s : State) (k why : Nat) (src : SeedSource) : Report := { result := 2, source := reportSource src, index := 0x1F30 + k, sub := 0, reason := why, detail := 0, time := s.aon.now }
/-- The stream of a refused image, which a SEG_WRITE alone keeps. -/
def refusedStream (s : State) (k why : Nat) (t : Stream) : Option Stream :=
  if t.src = .segWrite then some { t with refused := true, firstRep := some (imageReport s k why t.src) } else none
theorem refusesImage (s : State) (k why : Nat) {t : Stream} (fresh : t.firstRep = none) :
    closeStream ((refuse (s.onSeat k fun r => { r with stream := some { t with refused := true } }) k (0x1F30 + k) 0 why 0).onSeat k fun r =>
      { r with report := imageReport s k why t.src }) k = s.onSeat k fun r => { r with stream := refusedStream s k why t, report := imageReport s k why t.src } := by
  simp only [closeStream, refuse, onStream, State.onSeat_onSeat]
  refine State.onSeat_congr _ _ ?_
  simp [fresh, refusedStream, imageReport]
section
variable {s : State} {seat : Seat} {hdr : ImageHdr}
theorem seedImageHeader_stream {src : SeedSource} {x : Stream} (opens : s.seedOpen = true) (other : src ≠ .flash) (stream : (s.seat seat.val).stream = some x) (source : x.src = src) (first : x.hdr = none)
    (whole : x.refused = false) (fresh : x.firstRep = none) :
    (imageRefusal s seat.val hdr = none → 0 < hdr.nsect →
      exec (.seedImageHeader seat src hdr) s = .next (s.onSeat seat.val fun r => { r with stream := some { x with hdr := some hdr, next := 0, turned := false } })) ∧
    ∀ why, imageRefusal s seat.val hdr = some why →
      exec (.seedImageHeader seat src hdr) s = .next (s.onSeat seat.val fun r => { r with stream := refusedStream s seat.val why x, report := imageReport s seat.val why x.src }) := by
  refine ⟨fun good sections => ?_, fun why bad => ?_⟩
  · have some : ¬ hdr.nsect = 0 := by omega
    simp [exec, execSeedImageHeader, opens, other, stream, source, first, whole, good, some, fresh]
  · rw [← refusesImage s seat.val why fresh]
    simp [exec, execSeedImageHeader, opens, other, stream, source, first, whole, bad, refuse, onStream, closeStream, State.onSeat_onSeat, fresh, imageReport]
theorem State.step7_seedOpen (runs : s.step7 = true) : s.seedOpen = true := by
  unfold State.step7 at runs
  simp [State.seedOpen, runs]
/-- The state that has read the next image of the seed directory. -/
def State.seedRead (s : State) : State := s.onAon fun a => { a with seedRead := a.seedRead + 1 }
theorem State.flashBrings_next {a : Nat} {sigOk : Bool} (runs : s.step7 = true) (idle : ∀ j < 8, ∀ y, (s.seat j).stream = some y → y.src ≠ .flash) (next : s.nv.seedImages[s.aon.seedRead]? = some a) :
    s.flashBrings (s.nv.imageAt a sigOk) = true := by
  have none : (allSeats.all fun k => match (s.seat k).stream with | some t => t.src != .flash | none => true) = true := by
    refine List.all_eq_true.2 fun j m => ?_
    cases stream : (s.seat j).stream with
    | none => rfl
    | some y => exact bne_iff_ne.2 (idle j (List.mem_range.1 m) y stream)
  simp only [State.flashBrings, runs, next, Bool.true_and, Bool.and_eq_true]
  exact ⟨none, beq_self_eq_true _⟩
theorem seedImageHeader_flash {a : Nat} {sigOk : Bool} (runs : s.step7 = true) (idle : ∀ j < 8, ∀ y, (s.seat j).stream = some y → y.src ≠ .flash) (stream : (s.seat seat.val).stream = none)
    (next : s.nv.seedImages[s.aon.seedRead]? = some a) (named : (s.nv.imageAt a sigOk).seat = seat.val) :
    (imageRefusal s seat.val (s.nv.imageAt a sigOk) = none → 0 < (s.nv.imageAt a sigOk).nsect →
      exec (.seedImageHeader seat .flash (s.nv.imageAt a sigOk)) s = .next (s.seedRead.onSeat seat.val fun r => { r with stream := some { src := .flash, hdr := some (s.nv.imageAt a sigOk), next := 0, offset := 0 } })) ∧
    ∀ why, imageRefusal s seat.val (s.nv.imageAt a sigOk) = some why →
      exec (.seedImageHeader seat .flash (s.nv.imageAt a sigOk)) s = .next (s.seedRead.onSeat seat.val fun r => { r with stream := none, report := imageReport s seat.val why .flash }) := by
  have brings := State.flashBrings_next (sigOk := sigOk) runs idle next
  have opens := State.step7_seedOpen runs
  have same (hdr : ImageHdr) : imageRefusal s.seedRead seat.val hdr = imageRefusal s seat.val hdr := rfl
  generalize s.nv.imageAt a sigOk = hdr at *
  refine ⟨fun good sections => ?_, fun why bad => ?_⟩
  · have some : ¬ hdr.nsect = 0 := by omega
    rw [← same] at good
    unfold State.seedRead at *
    simp [exec, execSeedImageHeader, opens, brings, named, State.onAon_seat, stream, good, some]
  · rw [← same] at bad
    have closed := refusesImage s.seedRead seat.val why (t := { src := .flash, next := 0, offset := 0 }) rfl
    unfold State.seedRead at *
    refine Eq.trans ?_ (congrArg Host.Outcome.next closed)
    simp [exec, execSeedImageHeader, opens, brings, named, State.onAon_seat, stream, bad, refuse, onStream, closeStream, State.onSeat_onSeat, imageReport]

/-! ## Hand sections (R129) -/

variable {bytes : List Byte} {e f : SectEntry} {key : BitVec 256} {iv : List Byte}
/-- Whatever the header of a hand section says, it changes the records of the seat only. -/
theorem handSection_seatsOnly (s : State) (seat : Seat) (bytes : List Byte) : ∃ t, exec (.handSection seat bytes) s = .next t ∧ s.seatsOnly t := by
  simp only [exec, execHandSection]
  split
  · split
    · exact ⟨s, rfl, rfl⟩
    · split
      · exact ⟨_, rfl, refuseSection_seatsOnly ..⟩
      · split
        · exact ⟨_, rfl, refuseSection_seatsOnly ..⟩
        · exact ⟨_, rfl, rfl⟩
  · exact ⟨s, rfl, rfl⟩
theorem handSection_accepts {hdr : SectHdr} (awaits : s.expected seat.val = some e) (keyed : s.sectKey seat.val = some (f, key, iv)) (typ : e.typ = 1) (length : bytes.length = min 64 e.length)
    (spells : sectHeader 1 (gcmCrypt key iv bytes) = hdr) (zero : hdr.reservedZero = true) (size : hdr.size = 46080) (plot : hdr.plot < 512) (target : hdr.target < 8) (fits : sectFits e hdr 368640 = true)
    (mine : ownerOf (s.fab.hand hdr.plot hdr.target).own = some seat.val) (idle : (s.fab.hand hdr.plot hdr.target).state ≠ .sowing) (still : (s.fab.hand hdr.plot hdr.target).wiping = false)
    (grown : s.plotFallowed hdr.plot = false) : exec (.handSection seat bytes) s = .next (onStream s seat.val fun t => { t with sect := some (hdr.plot, hdr.target, hdr.arg) }) := by
  have low : ¬ 511 < hdr.plot := by omega
  have few : ¬ 7 < hdr.target := by omega
  simp [exec, execHandSection, awaits, keyed, typ, length, spells, zero, size, low, few, fits, errsOf, mine, idle, still, grown]
theorem State.expected_stream (awaits : s.expected seat.val = some e) : ∃ t, (s.seat seat.val).stream = some t := by
  unfold State.expected at awaits
  split at awaits
  · next t stream => exact ⟨t, stream⟩
  · exact absurd awaits (by simp)
end

/-! ## Tables of which a range is cleared or written -/

theorem tget_filterKey {α : Type} (d : α) (keep : Nat → Bool) (t : List (Nat × α)) (k : Nat) : tget d (t.filter fun e => keep e.1) k = if keep k then tget d t k else d := by
  induction t with
  | nil => exact (ite_self d).symm
  | cons e t ih =>
    by_cases here : e.1 = k
    · cases keeps : keep k with
      | true => simp [List.filter_cons, here, keeps, tget_cons]
      | false => simpa [List.filter_cons, here, keeps] using ih
    · cases keeps : keep e.1 with
      | true => simp [List.filter_cons, keeps, tget_cons, here, ih]
      | false => simp [List.filter_cons, keeps, tget_cons, here, ih]
/-- The entries of a list from a place on that are not zero. -/
theorem nonzero_cons {w : Nat} (v : BitVec w) (l : List (BitVec w)) : nonzero (v :: l) = (if v = 0 then [] else [(0, v)]) ++ (nonzero l).map fun e => (e.1 + 1, e.2) := by
  unfold nonzero
  rw [List.zipIdx_cons, List.filter_cons, Nat.zero_add, List.zipIdx_succ, List.filter_map, List.map_map]
  split
  · next some =>
    rw [if_neg (bne_iff_ne.1 some)]
    simp [Function.comp_def]
  · next none =>
    rw [if_pos (by simpa using none)]
    simp [Function.comp_def]
/-- Each place of the list that is kept is written where it is not zero, and nothing else. -/
theorem foldl_nonzero_filter {w : Nat} (l : List (BitVec w)) (keep : Nat → Bool) (base : Nat) (t : List (Nat × BitVec w)) (k : Nat) :
    tget 0 (((nonzero l).filter fun e => keep e.1).foldl (fun t e => tput 0 t (base + e.1) e.2) t) k =
      if base ≤ k ∧ keep (k - base) = true ∧ l.getD (k - base) 0 ≠ 0 then l.getD (k - base) 0 else tget 0 t k := by
  induction l generalizing keep base t with
  | nil => simp [nonzero]
  | cons v l ih =>
    rw [nonzero_cons, List.filter_append, List.foldl_append, List.filter_map, List.foldl_map]
    have place (e : Nat × BitVec w) : base + (e.1 + 1) = base + 1 + e.1 := by omega
    simp only [place, Function.comp_def]
    rw [ih fun j => keep (j + 1)]
    have first : tget 0 (((if v = 0 then [] else [(0, v)]).filter fun e => keep e.1).foldl (fun t (e : Nat × BitVec w) => tput 0 t (base + e.1) e.2) t) k =
        if k = base ∧ keep 0 = true ∧ v ≠ 0 then v else tget 0 t k := by
      by_cases none : v = 0
      · rw [if_pos none, if_neg (fun both => both.2.2 none)]
        rfl
      · rw [if_neg none]
        cases kept : keep 0 with
        | false => simp [kept]
        | true =>
          simp only [List.filter_cons, kept, if_true, List.filter_nil]
          refine (tget_tput ..).trans ?_
          simp only [Nat.add_zero, none, ne_eq, not_false_eq_true, and_true, true_and]
    rw [first]
    by_cases here : k = base
    · subst here
      simp
    · by_cases above : base + 1 ≤ k
      · obtain ⟨j, rfl⟩ := Nat.exists_eq_add_of_le above
        have before : base + 1 + j - base = j + 1 := by omega
        have after : base + 1 + j - (base + 1) = j := by omega
        simp [before, after, here, show base ≤ base + 1 + j by omega]
      · have below : ¬ base ≤ k := by omega
        simp [above, below, here]
theorem foldl_nonzero {w : Nat} (l : List (BitVec w)) (base : Nat) (t : List (Nat × BitVec w)) (k : Nat) : tget 0 ((nonzero l).foldl (fun t e => tput 0 t (base + e.1) e.2) t) k =
    if base ≤ k ∧ l.getD (k - base) 0 ≠ 0 then l.getD (k - base) 0 else tget 0 t k := by
  have all := foldl_nonzero_filter l (fun _ => true) base t k
  rw [List.filter_eq_self.2 fun _ _ => rfl] at all
  simpa using all

/-! ## Hand sowing (R130, R131) -/

theorem Fabric.clearStore_cfg (f : Fabric) (p h k : Nat) : tget 0 (f.clearStore p h).cfg k = if 46080 * (8 * p + h) ≤ k ∧ k < 46080 * (8 * p + h) + 46080 then 0 else tget 0 f.cfg k := by
  refine (tget_filterKey 0 (fun k => !(decide (handWords * (8 * p + h) ≤ k) && decide (k < handWords * (8 * p + h) + handWords))) f.cfg k).trans ?_
  have size : handWords = 46080 := rfl
  rw [size]
  by_cases inside : 46080 * (8 * p + h) ≤ k ∧ k < 46080 * (8 * p + h) + 46080
  · simp [inside]
  · rw [if_neg inside, if_pos]
    rw [← Bool.decide_and, decide_eq_false inside]
    rfl
theorem Fabric.clearStore_parts (f : Fabric) (p h : Nat) : (∀ w < 46080, (f.clearStore p h).cfgWord p h w = 0) ∧
    ∀ i, i < 46080 * (8 * p + h) ∨ 46080 * (8 * p + h) + 46080 ≤ i → tget 0 (f.clearStore p h).cfg i = tget 0 f.cfg i := by
  refine ⟨fun w low => (f.clearStore_cfg p h _).trans (if_pos ?_), fun i outside => (f.clearStore_cfg p h i).trans (if_neg ?_)⟩
  · unfold handWords
    omega
  · omega
theorem Fabric.clearDiff_keeps (f : Fabric) (p h : Nat) : (f.clearDiff p h).cfg = f.cfg ∧ (f.clearDiff p h).hands = f.hands := by
  refine ⟨foldl_leaves Fabric.cfg (fun f g => ?_) _ f, foldl_leaves Fabric.hands (fun f g => ?_) _ f⟩
  all_goals split <;> rfl
/-- Setting a plot's gate delivers what is on its way, and otherwise changes plots' records alone. -/
theorem Fabric.regate_after (f : Fabric) (fallowed : List Nat) (limp : Bool) (q : Nat) : ∃ g, f.slotKeeps g ∧ g.plotsOnly (f.regate fallowed limp q) := by
  unfold regate
  dsimp only
  split
  · exact ⟨_, (f.flush_keeps (f.seqPlot q)).2, plotsOnly_trans ((f.flush (f.seqPlot q)).setGate_plotsOnly fallowed (f.seqPlot q) false)
      (plotsOnly_trans (g := ((f.flush (f.seqPlot q)).setGate fallowed (f.seqPlot q) false).setPlot _ _) rfl (startSlot_plotsOnly ..))⟩
  · split
    · exact ⟨f, slotKeeps_refl f, f.setGate_plotsOnly fallowed (f.seqPlot q) true⟩
    · exact ⟨f, slotKeeps_refl f, rfl⟩
theorem Fabric.regate_hand {f : Fabric} {p h : Nat} (stopped : (f.hand p h).state ≠ .live) (fallowed : List Nat) (limp : Bool) (q : Nat) :
    ((f.regate fallowed limp q).hand p h).state = (f.hand p h).state ∧ ((f.regate fallowed limp q).hand p h).ff = (f.hand p h).ff := by
  obtain ⟨g, ⟨-, states, banks⟩, only⟩ := f.regate_after fallowed limp q
  have same : (f.regate fallowed limp q).hand p h = g.hand p h := by
    rw [only]
    rfl
  rw [same]
  exact ⟨states p h, banks p h stopped⟩
theorem handSowingStart_clears {s : State} {p : PlotIx} {h : HandIx} {k : Nat} (clocks : s.clocksOn = true) (sows : s.sower p.val h.val = some k) (idle : (s.fab.hand p.val h.val).state ≠ .sowing)
    (free : s.slotNames p.val h.val = false ∨ ((s.fab.hand p.val h.val).state ≠ .live ∧ (s.fab.hand p.val h.val).state ≠ .parked)) :
    ∃ t, exec (.handSowingStart p h) s = .next t ∧ (t.fab.hand p.val h.val).state = .sowing ∧ (t.fab.hand p.val h.val).ff = 0 ∧ (∀ w < 46080, t.fab.cfgWord p.val h.val w = 0) ∧
      (∀ i, i < 46080 * (8 * p.val + h.val) ∨ 46080 * (8 * p.val + h.val) + 46080 ≤ i → tget 0 t.fab.cfg i = tget 0 s.fab.cfg i) ∧ t.nv = s.nv ∧ t.eng = s.eng := by
  have stays : (((s.fab.hand p.val h.val).state == .live || (s.fab.hand p.val h.val).state == .parked) && s.slotNames p.val h.val) = false := by
    rcases free with unnamed | ⟨live, parked⟩
    · rw [unnamed, Bool.and_false]
    · simp [live, parked]
  have runs : exec (.handSowingStart p h) s = .next (((s.showStops (isHand p.val h.val)).onNet fun n => n.stopHand p.val h.val).onFab fun f =>
      (((f.clearStore p.val h.val).clearDiff p.val h.val).setHand p.val h.val { ((f.clearStore p.val h.val).clearDiff p.val h.val).hand p.val h.val with state := .sowing, ff := 0 }).regate s.nv.map.plots s.limp p.val) := by
    simp only [exec, execHandSowingStart, clocks, sows, stays, idle, Option.isNone_some, Bool.not_true, decide_false, Bool.or_self, Bool.false_eq_true, if_false]
    rfl
  refine ⟨_, runs, ?_⟩
  rw [State.onFab_fab]
  generalize shown : ((s.showStops (isHand p.val h.val)).onNet fun n => n.stopHand p.val h.val).fab = f
  have cfg : f.cfg = s.fab.cfg := by
    rw [← shown]
    rfl
  obtain ⟨cleared, others⟩ := f.clearStore_parts p.val h.val
  obtain ⟨same, -⟩ := (f.clearStore p.val h.val).clearDiff_keeps p.val h.val
  generalize (f.clearStore p.val h.val).clearDiff p.val h.val = g at *
  have self : (g.setHand p.val h.val { g.hand p.val h.val with state := .sowing, ff := 0 }).hand p.val h.val = { g.hand p.val h.val with state := .sowing, ff := 0 } := by
    rw [Fabric.setHand_hand, if_pos rfl]
  obtain ⟨state, ff⟩ := Fabric.regate_hand (f := g.setHand p.val h.val { g.hand p.val h.val with state := .sowing, ff := 0 }) (by rw [self]; exact HState.noConfusion) s.nv.map.plots s.limp p.val
  rw [self] at state ff
  refine ⟨state, ff, fun w low => ?_, fun i outside => ?_, rfl, rfl⟩
  · rw [← cleared w low]
    unfold Fabric.cfgWord
    rw [Fabric.regate_cfg, ← same]
    rfl
  · rw [Fabric.regate_cfg, ← cfg, ← others i outside, ← same]
    rfl

/-- The words of a list of places, put into a hand's store. -/
theorem Fabric.foldl_setCfgWord (p h : Nat) (l : List (Nat × BitVec 64)) (f : Fabric) :
    l.foldl (fun (f : Fabric) e => f.setCfgWord p h e.1 e.2) f = { f with cfg := l.foldl (fun t e => tput 0 t (handWords * (8 * p + h) + e.1) e.2) f.cfg } := by
  induction l generalizing f with
  | nil => rfl
  | cons e l ih => rw [List.foldl_cons, ih]; rfl
theorem Fabric.foldl_setDiff (l : List Nat) (p h : Nat) (v : Fabric → Nat → Nat) (c : Fabric → Nat → Bool) (f : Fabric) :
    ∃ d, l.foldl (fun f g => if c f g then f.setDiff p h g (v f g) else f) f = { f with diff := d } := by
  induction l generalizing f with
  | nil => exact ⟨f.diff, rfl⟩
  | cons g l ih =>
    obtain ⟨d, same⟩ := ih (if c f g then f.setDiff p h g (v f g) else f)
    refine ⟨d, same.trans ?_⟩
    split <;> rfl
/-- A hand's record as its sowing ends well. -/
def Fabric.sownHand (f : Fabric) (p h timed : Nat) : Hand := { f.hand p h with state := .sown, timed := timed, ff := initBank (f.storeOf p h) }
theorem sownState_eq (s : State) (k p h : Nat) (cfg : List (Nat × BitVec 64)) {f : Fabric} (store : (cfg.filter fun e => decide (e.1 < handWords)).foldl (fun (f : Fabric) e => f.setCfgWord p h e.1 e.2) s.fab = f) :
    ∃ timed d, sownState s k p h cfg = { s with fab := { f.setHand p h (f.sownHand p h timed) with diff := d } } := by
  subst store
  refine ⟨_, _, congrArg (fun f => { s with fab := f }) (Fabric.foldl_setDiff (List.range 8) p h (fun f g => storeDiff (f.storeOf p h) (f.storeOf p g)) (fun f g => g != h && (f.hand p g).state.configured) _).choose_spec⟩
theorem Fabric.storeOf_congr {f g : Fabric} (cfg : g.cfg = f.cfg) (errors : g.cfgErr = f.cfgErr) (p h : Nat) : g.storeOf p h = f.storeOf p h := by
  unfold storeOf cfgBits cfgWord cfgErrAt
  rw [cfg, errors]
/-- The hand with its words: what the store holds, and the hand's record. -/
theorem sownState_parts (s : State) (k p h : Nat) (l : List (BitVec 64)) : ∃ t : Fabric, sownState s k p h (nonzero l) = { s with fab := t } ∧
    (t.hand p h).state = .sown ∧ (t.hand p h).own = (s.fab.hand p h).own ∧ (t.hand p h).ff = initBank (t.storeOf p h) ∧ (t.hand p h).arrival = (s.fab.hand p h).arrival ∧
    ∀ i, tget 0 t.cfg i = if 46080 * (8 * p + h) ≤ i ∧ i < 46080 * (8 * p + h) + 46080 ∧ l.getD (i - 46080 * (8 * p + h)) 0 ≠ 0 then l.getD (i - 46080 * (8 * p + h)) 0 else tget 0 s.fab.cfg i := by
  obtain ⟨timed, d, same⟩ := sownState_eq s k p h (nonzero l) (Fabric.foldl_setCfgWord ..)
  refine ⟨_, same, ?_⟩
  have word := foldl_nonzero_filter l (fun j => decide (j < 46080)) (46080 * (8 * p + h)) s.fab.cfg
  generalize words : ((nonzero l).filter fun e => decide (e.1 < handWords)).foldl (fun t e => tput 0 t (handWords * (8 * p + h) + e.1) e.2) s.fab.cfg = c
  have self (f : Fabric) (x : Hand) (d : List (Nat × Nat)) : Fabric.hand { f.setHand p h x with diff := d } p h = x := (tget_tput ..).trans (if_pos rfl)
  simp only [show handWords = 46080 from rfl] at words
  rw [words] at word
  refine ⟨(congrArg Hand.state (self _ _ _)).trans rfl, (congrArg Hand.own (self _ _ _)).trans rfl, (congrArg Hand.ff (self _ _ _)).trans (congrArg initBank (Fabric.storeOf_congr rfl rfl p h)), (congrArg Hand.arrival (self _ _ _)).trans rfl, fun i => ?_⟩
  refine (word i).trans (if_congr ?_ rfl rfl)
  rw [decide_eq_true_iff]
  constructor
  · rintro ⟨above, low, some⟩
    exact ⟨above, by omega, some⟩
  · rintro ⟨above, low, some⟩
    exact ⟨above, by omega, some⟩

section
variable {s : State} {p : PlotIx} {h : HandIx} {k : Nat} {head body tag : List Byte} {y : SectIn} (clocks : s.clocksOn = true) (sows : s.sower p.val h.val = some k)
  (sowing : (s.fab.hand p.val h.val).state = .sowing) (arrives : s.sectionIn k (head ++ body ++ tag) = some y)
include clocks sows sowing arrives
theorem handSowingEnd_sows (good : sowFail s (sownState s k p.val h.val (nonzero (words64 y.content))) k p.val h.val y.good = none) :
    exec (.handSowingEnd p h head body tag) s = .next (nextSection (sownState s k p.val h.val (nonzero (words64 y.content))) k) := by
  simp [-List.append_assoc, exec, execHandSowingEnd, sows, arrives, clocks, sowing, good]
theorem handSowingEnd_fails {why : Nat × Nat} (bad : sowFail s (sownState s k p.val h.val (nonzero (words64 y.content))) k p.val h.val y.good = some why) :
    exec (.handSowingEnd p h head body tag) s = .next (refuseSection (s.onFab fun f =>
      (f.clearStore p.val h.val).setHand p.val h.val { (f.clearStore p.val h.val).hand p.val h.val with state := .empty, ff := 0 }) k (0x3000 + p.val) (0x10 + h.val) why.1 why.2) := by
  simp [-List.append_assoc, exec, execHandSowingEnd, sows, arrives, clocks, sowing, bad]
end
theorem sowFail_wrong (before s : State) (k p h : Nat) : sowFail before s k p h false = some (whyDigest, 0) := rfl
theorem State.seatsOnly.parts {s t : State} (only : s.seatsOnly t) : t.fab = s.fab ∧ t.net = s.net ∧ t.eng = s.eng ∧ t.nv = s.nv := by
  rw [only]
  exact ⟨rfl, rfl, rfl, rfl⟩

/-! ## Block memories and engine blocks (R167, R258) -/

theorem sectFits_parts {e : SectEntry} {hdr : SectHdr} {n : Nat} (fits : sectFits e hdr n = true) : e.typ = hdr.typ ∧ e.plot = hdr.plot ∧ e.target = hdr.target ∧ e.length = 64 + n := by
  simpa [sectFits, and_assoc] using fits
/-- The memory that a section leaves, before its content. -/
def Bm.setUp (m : Bm) (arg : Nat) : Bm := { (Bm.clear { m with word := setBits m.word 12 0 arg }) with clearing := false }
section
variable {s : State} {seat : Seat} {head body tag : List Byte} {e : SectEntry} {y : SectIn} {hdr : SectHdr} (awaits : s.expected seat.val = some e) (arrives : s.sectionIn seat.val (head ++ body ++ tag) = some y)
  (clocks : s.clocksOn = true) (header : y.header = hdr)
include awaits arrives clocks header
theorem bmSection_loads (typ : e.typ = 2) (plot : hdr.plot < 512) (target : hdr.target < 64) (fits : sectFits e hdr 4608 = true) (mine : s.fab.bmOwner hdr.plot hdr.target = some seat.val)
    (idle : ∀ h < 8, s.fab.handOwner hdr.plot h = some seat.val → (s.fab.hand hdr.plot h).state ≠ .live) (grown : s.plotFallowed hdr.plot = false) (zero : hdr.reservedZero = true) (size : hdr.size = 4608)
    (setup : bmSetupOk hdr.arg = true) :
    (y.good = false → exec (.bmSection seat head body tag) s = .next (refuseSection (s.onFab fun f => f.setBm hdr.plot hdr.target ((s.fab.bm hdr.plot hdr.target).setUp hdr.arg)) seat.val (0x3000 + e.plot) (0x80 + e.target)
      whyDigest 0)) ∧
    (y.good = true → exec (.bmSection seat head body tag) s = .next (nextSection (s.onFab fun f => f.setBm hdr.plot hdr.target { (s.fab.bm hdr.plot hdr.target).setUp hdr.arg with
      bits := bmContent (BitVec.ofNat 36864 (leNat y.content)) (bmEcc ((s.fab.bm hdr.plot hdr.target).setUp hdr.arg).word) }) seat.val)) := by
  obtain ⟨-, samePlot, sameTarget, -⟩ := sectFits_parts fits
  have low : ¬ 511 < hdr.plot := by omega
  have few : ¬ 63 < hdr.target := by omega
  have still : ((List.range 8).any fun h => decide (s.fab.handOwner hdr.plot h = some seat.val) && decide ((s.fab.hand hdr.plot h).state = .live)) = false := by
    refine List.any_eq_false.2 fun h m => ?_
    simp only [Bool.and_eq_true, decide_eq_true_eq, not_and]
    exact idle h (List.mem_range.1 m)
  have allowed : errsOf [(s.fab.bmOwner hdr.plot hdr.target != some seat.val, errNotOwner),
      ((List.range 8).any fun h => decide (s.fab.handOwner hdr.plot h = some seat.val) && decide ((s.fab.hand hdr.plot h).state = .live), errState), (s.plotFallowed hdr.plot, errFallowed)] = [] := by
    rw [still]
    simp [errsOf, mine, grown]
  refine ⟨fun bad => ?_, fun good => ?_⟩
  · simp only [exec, execBmSection, awaits, arrives, clocks, header, typ, low, few, samePlot, sameTarget, allowed, fits, zero, size, setup, bad, bne_self_eq_false, Bool.not_true, Bool.or_self, decide_false,
      List.isEmpty_nil, Bool.not_false, Bool.false_eq_true, if_false, if_true]
    rfl
  · simp only [exec, execBmSection, awaits, arrives, clocks, header, typ, low, few, samePlot, sameTarget, allowed, fits, zero, size, setup, good, bne_self_eq_false, Bool.not_true, Bool.or_self, decide_false,
      List.isEmpty_nil, Bool.not_false, Bool.false_eq_true, if_false, if_true]
    rfl

/-- The bytes of an engine block's section, put into it. -/
def Engines.loadBlock (e : Engines) (p : Nat) (ldb : Bool) (k : Nat) (l : List Byte) : Engines :=
  (nonzero l).foldl (fun (e : Engines) b => if ldb then e.setDmByte p ((if ldb then 4096 else 8192) * k + b.1) b.2 else e.setImByte p ((if ldb then 4096 else 8192) * k + b.1) b.2) (e.zeroBlock p ldb k)
theorem engineSection_loads {ldb : Bool} {n : Nat} (typ : e.typ = if ldb then 4 else 3) (length : n = if ldb then 4096 else 8192) (plot : hdr.plot < 512) (target : hdr.target < 16) (fits : sectFits e hdr n = true)
    (mine : ownerOf (if ldb then tget 0 (s.eng.engine hdr.plot).ldbOwn hdr.target else tget 0 (s.eng.engine hdr.plot).imbOwn hdr.target) = some seat.val)
    (idle : ∀ h < 8, s.fab.handOwner hdr.plot h = some seat.val → (s.eng.thread hdr.plot h).state ≠ .running ∧ (s.eng.thread hdr.plot h).state ≠ .waiting) (zero : hdr.reservedZero = true) (size : hdr.size = n) :
    ∃ t, exec (.engineSection seat head body tag) s = .next t ∧ (s.onEng fun e => if y.good then e.loadBlock hdr.plot ldb hdr.target (y.content.take n) else e.zeroBlock hdr.plot ldb hdr.target).seatsOnly t := by
  obtain ⟨-, samePlot, sameTarget, -⟩ := sectFits_parts fits
  have low : ¬ 511 < hdr.plot := by omega
  have few : ¬ 15 < hdr.target := by omega
  have still : ((List.range 8).any fun h => decide (s.fab.handOwner hdr.plot h = some seat.val) && (decide ((s.eng.thread hdr.plot h).state = .running) || decide ((s.eng.thread hdr.plot h).state = .waiting))) = false := by
    refine List.any_eq_false.2 fun h m => ?_
    simp only [Bool.and_eq_true, Bool.or_eq_true, decide_eq_true_eq, not_and, not_or]
    exact idle h (List.mem_range.1 m)
  have allowed : errsOf [(ownerOf (if ldb then tget 0 (s.eng.engine hdr.plot).ldbOwn hdr.target else tget 0 (s.eng.engine hdr.plot).imbOwn hdr.target) != some seat.val, errNotOwner),
      ((List.range 8).any fun h => decide (s.fab.handOwner hdr.plot h = some seat.val) && (decide ((s.eng.thread hdr.plot h).state = .running) || decide ((s.eng.thread hdr.plot h).state = .waiting)), errState)] = [] := by
    rw [still, mine, bne_self_eq_false]
    rfl
  have kind : decide (e.typ = 4) = ldb := by
    cases ldb <;> simp [typ]
  have known : (!(decide (e.typ = 3) || ldb)) = false := by
    cases ldb <;> simp [typ]
  cases good : y.good with
  | false =>
    refine ⟨_, ?_, refuseSection_seatsOnly (s.onEng fun e => e.zeroBlock hdr.plot ldb hdr.target) seat.val (0x3200 + hdr.plot) ((if ldb then 0x30 else 0x20) + hdr.target) whyDigest 0⟩
    simp only [exec, execEngineSection, awaits, arrives, clocks, header, kind, known, low, few, samePlot, sameTarget, allowed, fits, zero, size, length ▸ fits, ← length, good, bne_self_eq_false, Bool.not_true, Bool.or_self,
      decide_false, List.isEmpty_nil, Bool.not_false, Bool.false_eq_true, if_false, if_true]
  | true =>
    refine ⟨_, ?_, nextSection_seatsOnly (s.onEng fun e => e.loadBlock hdr.plot ldb hdr.target (y.content.take n)) seat.val⟩
    simp only [exec, execEngineSection, awaits, arrives, clocks, header, kind, known, low, few, samePlot, sameTarget, allowed, fits, zero, size, length ▸ fits, ← length, good, bne_self_eq_false, Bool.not_true, Bool.or_self,
      decide_false, List.isEmpty_nil, Bool.not_false, Bool.false_eq_true, if_false, if_true, Engines.loadBlock]
    rfl
end

theorem Engines.foldl_setImByte (p n k : Nat) (l : List (Nat × Byte)) (e : Engines) :
    l.foldl (fun (e : Engines) b => e.setImByte p (n * k + b.1) b.2) e = { e with imem := l.foldl (fun t b => tput 0 t (imemSize * p + n * k + b.1) b.2) e.imem } := by
  induction l generalizing e with
  | nil => rfl
  | cons b l ih =>
    rw [List.foldl_cons, ih, List.foldl_cons, Nat.add_assoc]
    rfl
theorem Engines.foldl_setDmByte (p n k : Nat) (l : List (Nat × Byte)) (e : Engines) :
    l.foldl (fun (e : Engines) b => e.setDmByte p (n * k + b.1) b.2) e = { e with dmem := l.foldl (fun t b => tput 0 t (dmemSize * p + n * k + b.1) b.2) e.dmem } := by
  induction l generalizing e with
  | nil => rfl
  | cons b l ih =>
    rw [List.foldl_cons, ih, List.foldl_cons, Nat.add_assoc]
    rfl
/-- A range of a memory that is cleared, and then written where the content is not zero. -/
theorem tget_loaded (t : List (Nat × Byte)) (lo n : Nat) (l : List Byte) {a : Nat} (low : a < n) :
    tget 0 (t.filter fun x => !(decide (lo ≤ x.1) && decide (x.1 < lo + n))) (lo + a) = 0 ∧
    tget 0 ((nonzero (l.take n)).foldl (fun t b => tput 0 t (lo + b.1) b.2) (t.filter fun x => !(decide (lo ≤ x.1) && decide (x.1 < lo + n)))) (lo + a) = l.getD a 0 := by
  have cleared : tget 0 (t.filter fun x => !(decide (lo ≤ x.1) && decide (x.1 < lo + n))) (lo + a) = 0 :=
    (tget_filterKey 0 (fun k => !(decide (lo ≤ k) && decide (k < lo + n))) t (lo + a)).trans (if_neg (by simp [low]))
  refine ⟨cleared, ?_⟩
  rw [foldl_nonzero, cleared, Nat.add_sub_cancel_left]
  have here : (l.take n).getD a 0 = l.getD a 0 := by simp [List.getD, List.getElem?_take, low]
  rw [here]
  by_cases none : l.getD a 0 = 0
  · rw [if_neg (fun both => both.2 none), none]
  · rw [if_pos ⟨Nat.le_add_right .., none⟩]
theorem loadBlock_im (e : Engines) (p k : Nat) (l : List Byte) {a : Nat} (low : a < 8192) : (e.zeroBlock p false k).imByte p (8192 * k + a) = 0 ∧ (e.loadBlock p false k (l.take 8192)).imByte p (8192 * k + a) = l.getD a 0 := by
  obtain ⟨cleared, loaded⟩ := tget_loaded e.imem (imemSize * p + 8192 * k) 8192 l low
  unfold Engines.imByte Engines.loadBlock
  simp only [Bool.false_eq_true, if_false, Engines.foldl_setImByte]
  rw [← Nat.add_assoc]
  exact ⟨cleared, loaded⟩
theorem loadBlock_dm (e : Engines) (p k : Nat) (l : List Byte) {a : Nat} (low : a < 4096) : (e.zeroBlock p true k).dmByte p (4096 * k + a) = 0 ∧ (e.loadBlock p true k (l.take 4096)).dmByte p (4096 * k + a) = l.getD a 0 := by
  obtain ⟨cleared, loaded⟩ := tget_loaded e.dmem (dmemSize * p + 4096 * k) 4096 l low
  unfold Engines.dmByte Engines.loadBlock
  simp only [if_true, Engines.foldl_setDmByte]
  rw [← Nat.add_assoc]
  exact ⟨cleared, loaded⟩
/-- Of the engines only the memories and their error bits differ. -/
def Engines.memoriesOnly (e f : Engines) : Prop := f = { e with imem := f.imem, dmem := f.dmem, imErr := f.imErr, dmErr := f.dmErr }
theorem Engines.zeroBlock_memoriesOnly (e : Engines) (p : Nat) (ldb : Bool) (k : Nat) : e.memoriesOnly (e.zeroBlock p ldb k) := by
  cases ldb <;> rfl
theorem Engines.loadBlock_memoriesOnly (e : Engines) (p : Nat) (ldb : Bool) (k : Nat) (l : List Byte) : e.memoriesOnly (e.loadBlock p ldb k l) := by
  cases ldb with
  | false =>
    unfold loadBlock
    simp only [Bool.false_eq_true, if_false, foldl_setImByte]
    rfl
  | true =>
    unfold loadBlock
    simp only [if_true, foldl_setDmByte]
    rfl

/-! ## Staged items (R566) -/

theorem stagingSection_stages {s u : State} {seat : Seat} {head body tag : List Byte} {e : SectEntry} {y : SectIn} {hdr : SectHdr} {items : List StageItem} (awaits : s.expected seat.val = some e)
    (arrives : s.sectionIn seat.val (head ++ body ++ tag) = some y) (good : y.good = true) (typ : e.typ = 5) (plot : e.plot = 0) (target : e.target = 0) (header : y.header = hdr) (kind : hdr.typ = 5)
    (zero : hdr.reservedZero = true) (plain : hdr.target = 0) (length : e.length = 64 + hdr.size) (size : 5 ≤ hdr.size ∧ hdr.size ≤ 14336) (count : 1 ≤ hdr.arg ∧ hdr.arg ≤ 256)
    (spells : sectionItems 257 y.content = some items) (whole : items.length = hdr.arg) (stages : stageEach seat.val items s = (u, none)) :
    exec (.stagingSection seat head body tag) s = .next (nextSection u seat.val) := by
  obtain ⟨t, stream⟩ := State.expected_stream awaits
  have sizes : inRange 5 14336 hdr.size = true := by simp [inRange, size]
  have counts : inRange 1 256 hdr.arg = true := by simp [inRange, count]
  simp [-List.append_assoc, exec, execStagingSection, awaits, arrives, stream, good, typ, plot, target, header, kind, zero, plain, length, sizes, counts, spells, whole, stages]
theorem completeImage_staged (s : State) (k : Nat) (t : Stream) : ((completeImage s k t).seat k).staged = (s.seat k).staged := by
  have step {u : State} {g : SeatRec → SeatRec} (on : (u.seat k).staged = (s.seat k).staged) (keeps : ∀ r, (g r).staged = r.staged) : ((u.onSeat k g).seat k).staged = (s.seat k).staged := by
    rw [State.onSeat_seat, if_pos rfl, keeps, on]
  have either {c : Prop} [Decidable c] {a b : State} (left : (a.seat k).staged = (s.seat k).staged) (right : (b.seat k).staged = (s.seat k).staged) : ((if c then a else b).seat k).staged = (s.seat k).staged := by
    split
    · exact left
    · exact right
  have self {g : SeatRec → SeatRec} (keeps : ∀ r, (g r).staged = r.staged) : ((s.onSeat k g).seat k).staged = (s.seat k).staged := step rfl keeps
  unfold completeImage closeStream
  dsimp only
  cases t.firstRep with
  | some r => exact step (either (step (self fun _ => rfl) fun _ => rfl) (self fun _ => rfl)) fun _ => rfl
  | none => exact step (either (step (either rfl (self fun _ => rfl)) fun _ => rfl) (either rfl (self fun _ => rfl))) fun _ => rfl
theorem nextSection_staged (s : State) (k : Nat) : ((nextSection s k).seat k).staged = (s.seat k).staged := by
  have next : ((onStream s k fun t => { t with next := t.next + 1, sect := none }).seat k).staged = (s.seat k).staged := by
    unfold onStream
    rw [State.onSeat_seat, if_pos rfl]
  unfold nextSection
  dsimp only
  split
  · split
    · split
      · exact (completeImage_staged ..).trans next
      · exact next
    · exact next
  · exact next

/-! ## What a block memory holds (R167) -/

theorem natOf_testBit (g : Nat → Bool) (n : Nat) {i : Nat} (low : i < n) : (natOf g n).testBit i = g i := by
  have bound (n : Nat) : natOf g n < 2 ^ n := by
    induction n with
    | zero => exact Nat.one_pos
    | succ n ih =>
      unfold natOf
      rw [Nat.pow_succ]
      split <;> omega
  induction n with
  | zero => exact absurd low (Nat.not_lt_zero i)
  | succ n ih =>
    unfold natOf
    by_cases top : i = n
    · subst top
      have above : (natOf g i).testBit i = false := Nat.testBit_lt_two_pow (bound i)
      cases set : g i with
      | false => simp [above]
      | true => rw [if_pos rfl, Nat.testBit_two_pow_add_eq, above]; rfl
    · have below : i < n := by omega
      cases set : g n with
      | false => simpa using ih below
      | true => rw [if_pos rfl, Nat.testBit_two_pow_add_gt below, ih below]
theorem bmContent_bit (x : BitVec 36864) (ecc : Bool) {i : Nat} (low : i < 36864) (data : i % 9 < 8 ∨ ecc = false) : (bmContent x ecc).getLsbD i = x.getLsbD i := by
  cases ecc with
  | false => rfl
  | true =>
    have inside : ¬ i % 9 = 8 := by
      rcases data with data | data
      · omega
      · exact absurd data (by decide)
    unfold bmContent
    rw [if_pos rfl, BitVec.getLsbD_ofNat, natOf_testBit _ _ low, if_neg inside, decide_eq_true low, Bool.true_and]
theorem bmSetupOk_small {v : Nat} (ok : bmSetupOk v = true) : v < 8192 := by
  simp only [bmSetupOk, bmWordOk, reservedZero, Bool.and_eq_true, decide_eq_true_eq] at ok
  obtain ⟨⟨⟨⟨⟨⟨⟨zero, -⟩, -⟩, -⟩, -⟩, small⟩, -⟩, -⟩ := ok
  refine Nat.lt_pow_two_of_testBit (n := 13) v fun i high => ?_
  by_cases top : 16 ≤ i
  · exact Nat.testBit_lt_two_pow (lt_of_lt_of_le small (Nat.pow_le_pow_right (n := 2) (by decide) top))
  · have bit := congrArg (fun n => n.testBit i) zero
    simp only [Nat.testBit_and, Nat.zero_testBit, Bool.and_eq_false_iff] at bit
    refine bit.resolve_right ?_
    have cases : i = 13 ∨ i = 14 ∨ i = 15 := by omega
    rcases cases with rfl | rfl | rfl <;> decide
theorem bits_setBits_low (x : BitVec 32) {v : Nat} (low : v < 8192) : bits (setBits x 12 0 v) 12 0 = v := by
  refine Nat.eq_of_testBit_eq fun i => ?_
  have field : bits (setBits x 12 0 v) 12 0 = (setBits x 12 0 v).toNat % 2 ^ 13 := rfl
  rw [field, Nat.testBit_mod_two_pow]
  by_cases inside : i < 13
  · have bit := setBits_getLsbD x (Nat.zero_le 12) v (i := i) (by omega)
    rw [if_pos ⟨Nat.zero_le i, by omega⟩] at bit
    rw [decide_eq_true inside, Bool.true_and]
    exact bit
  · rw [decide_eq_false inside, Bool.false_and]
    exact (Nat.testBit_lt_two_pow (lt_of_lt_of_le low (Nat.pow_le_pow_right (n := 2) (by decide) (not_lt.1 inside)))).symm
theorem setUp_parts (m : Bm) {arg : Nat} (ok : bmSetupOk arg = true) : bits (m.setUp arg).word 12 0 = arg ∧ bmEcc (m.setUp arg).word = arg.testBit 10 := by
  refine ⟨bits_setBits_low m.word (bmSetupOk_small ok), ?_⟩
  have bit := setBits_getLsbD m.word (Nat.zero_le 12) arg (i := 10) (by decide)
  rw [if_pos (by decide)] at bit
  exact bit
/-- The state after a block memory has been written and the seat's records have moved on. -/
theorem State.seatsOnly.afterBm {s t : State} {p k : Nat} {m : Bm} (only : (s.onFab fun f => f.setBm p k m).seatsOnly t) :
    t = { s with seats := t.seats, fab := { s.fab with bms := t.fab.bms } } ∧ (∀ j, j ≠ 64 * p + k → tget ({} : Bm) t.fab.bms j = tget {} s.fab.bms j) ∧ t.fab.bm p k = m := by
  rw [only]
  exact ⟨rfl, fun j other => (tget_tput ..).trans (if_neg other), (tget_tput ..).trans (if_pos rfl)⟩
theorem State.seatsOnly.afterEng {s t : State} {g : Engines → Engines} (only : (s.onEng g).seatsOnly t) (memories : s.eng.memoriesOnly (g s.eng)) :
    t = { s with seats := t.seats, eng := { s.eng with imem := t.eng.imem, dmem := t.eng.dmem, imErr := t.eng.imErr, dmErr := t.eng.dmErr } } ∧ t.eng = g s.eng := by
  have eng : t.eng = g s.eng := by
    rw [only]
    rfl
  refine ⟨?_, eng⟩
  rw [eng, ← memories, only]
  rfl

/-- Settles O52: a header opens or refuses its image, and each section leaves what it brings. -/
theorem sowingSections : Obligations.SowingSections := by
  unfold Obligations.SowingSections
  intro seat s
  dsimp only
  refine ⟨fun src hdr x opens other stream source first whole fresh => ?_, fun a sigOk runs idle stream next named => ?_,
    fun bytes e f key iv awaits keyed typ length zero size plot target fits => ⟨fun mine idle still grown => ?_, fun _ => handSection_seatsOnly s seat bytes⟩, fun p h clocks sows => ⟨fun idle free => handSowingStart_clears clocks sows idle free, fun head body tag y sowing arrives => ⟨fun good => ?_, fun bad => ?_⟩⟩,
    fun head body tag e y awaits arrives typ clocks plot target fits mine idle grown zero size setup => ?_, fun head body tag e y awaits arrives clocks plot target idle zero => ⟨fun typ fits size mine => ?_, fun typ fits size mine => ?_⟩,
    fun head body tag e y items u awaits arrives good typ plot target kind zero plain length least most some few spells whole stages => ?_⟩
  · obtain ⟨accepts, refuses⟩ := seedImageHeader_stream (hdr := hdr) opens other stream source first whole fresh
    refine ⟨fun good sections => ⟨_, accepts good sections, rfl, ?_⟩, fun why bad => ⟨_, refuses why bad, rfl, ?_⟩⟩
    · rw [State.onSeat_seat, if_pos rfl]
    · rw [State.onSeat_seat, if_pos rfl]
      exact ⟨rfl, rfl, rfl, rfl⟩
  · obtain ⟨accepts, refuses⟩ := seedImageHeader_flash runs idle stream next named
    refine ⟨fun good sections => ⟨_, accepts good sections, rfl, ?_⟩, fun why bad => ⟨_, refuses why bad, rfl, ?_⟩⟩
    · rw [State.onSeat_seat, if_pos rfl]
    · rw [State.onSeat_seat, if_pos rfl]
      exact ⟨rfl, rfl, rfl, rfl, rfl⟩
  · refine ⟨_, handSection_accepts awaits keyed typ length rfl zero size plot target fits mine idle still grown, rfl, ?_⟩
    obtain ⟨t, stream⟩ := State.expected_stream awaits
    unfold onStream
    rw [State.onSeat_seat, if_pos rfl, stream]
    rfl
  · obtain ⟨t, sown, state, own, bank, arrival, words⟩ := sownState_parts s seat.val p.val h.val (words64 y.content)
    obtain ⟨fab, net, eng, -⟩ := (nextSection_seatsOnly (sownState s seat.val p.val h.val (nonzero (words64 y.content))) seat.val).parts
    refine ⟨_, handSowingEnd_sows clocks sows sowing arrives good, ?_⟩
    rw [fab, net, eng, sown]
    refine ⟨state, own, bank, arrival, fun i outside => (words i).trans (if_neg ?_), fun w low => (words _).trans ?_, rfl, rfl⟩
    · rintro ⟨above, below, -⟩
      omega
    · have place : handWords * (8 * p.val + h.val) + w - 46080 * (8 * p.val + h.val) = w := Nat.add_sub_cancel_left ..
      rw [place]
      by_cases none : (words64 y.content).getD w 0 = 0
      · rw [if_pos none, if_neg (fun all => all.2.2 none)]
        rfl
      · rw [if_neg none, if_pos]
        exact ⟨Nat.le_add_right .., Nat.add_lt_add_left low _, none⟩
  · obtain ⟨why, fails⟩ : ∃ why, sowFail s (sownState s seat.val p.val h.val (nonzero (words64 y.content))) seat.val p.val h.val y.good = some why := by
      rcases bad with wrong | fails
      · rw [wrong]
        exact ⟨_, sowFail_wrong ..⟩
      · exact Option.ne_none_iff_exists'.1 fails
    refine ⟨_, handSowingEnd_fails clocks sows sowing arrives fails, ?_⟩
    obtain ⟨fab, net, eng, -⟩ := (refuseSection_seatsOnly (s.onFab fun f =>
      (f.clearStore p.val h.val).setHand p.val h.val { (f.clearStore p.val h.val).hand p.val h.val with state := .empty, ff := 0 }) seat.val (0x3000 + p.val) (0x10 + h.val) why.1 why.2).parts
    obtain ⟨cleared, others⟩ := s.fab.clearStore_parts p.val h.val
    rw [fab, net, eng]
    refine ⟨?_, cleared, others, rfl, rfl⟩
    rw [State.onFab_fab, Fabric.setHand_hand, if_pos rfl]
  · obtain ⟨wrong, right⟩ := bmSection_loads awaits arrives clocks rfl typ plot target fits mine idle grown zero size setup
    obtain ⟨word, ecc⟩ := setUp_parts (s.fab.bm y.header.plot y.header.target) setup
    cases good : y.good with
    | false =>
      obtain ⟨frame, others, here⟩ := (refuseSection_seatsOnly (s.onFab fun f => f.setBm y.header.plot y.header.target ((s.fab.bm y.header.plot y.header.target).setUp y.header.arg)) seat.val
        (0x3000 + e.plot) (0x80 + e.target) whyDigest 0).afterBm
      refine ⟨_, wrong good, frame, others, ?_⟩
      rw [here]
      exact ⟨word, rfl, rfl, fun _ => rfl, fun k => absurd k Bool.false_ne_true⟩
    | true =>
      obtain ⟨frame, others, here⟩ := (nextSection_seatsOnly (s.onFab fun f => f.setBm y.header.plot y.header.target { (s.fab.bm y.header.plot y.header.target).setUp y.header.arg with
        bits := bmContent (BitVec.ofNat 36864 (leNat y.content)) (bmEcc ((s.fab.bm y.header.plot y.header.target).setUp y.header.arg).word) }) seat.val).afterBm
      refine ⟨_, right good, frame, others, ?_⟩
      rw [here]
      refine ⟨word, rfl, rfl, fun k => absurd k.symm Bool.false_ne_true, fun _ i low data => ?_⟩
      rw [← ecc] at data
      refine (bmContent_bit _ _ low data).trans ?_
      rw [BitVec.getLsbD_ofNat, decide_eq_true low, Bool.true_and]
  · obtain ⟨t, runs, only⟩ := engineSection_loads (ldb := false) awaits arrives clocks rfl typ rfl plot target fits mine idle zero size
    obtain ⟨frame, eng⟩ := only.afterEng (by
      split
      · exact Engines.loadBlock_memoriesOnly ..
      · exact Engines.zeroBlock_memoriesOnly ..)
    refine ⟨t, runs, frame, fun a low => ?_⟩
    obtain ⟨cleared, loaded⟩ := loadBlock_im s.eng y.header.plot y.header.target y.content low
    rw [eng]
    split
    · exact loaded
    · exact cleared
  · obtain ⟨t, runs, only⟩ := engineSection_loads (ldb := true) awaits arrives clocks rfl typ rfl plot target fits mine idle zero size
    obtain ⟨frame, eng⟩ := only.afterEng (by
      split
      · exact Engines.loadBlock_memoriesOnly ..
      · exact Engines.zeroBlock_memoriesOnly ..)
    refine ⟨t, runs, frame, fun a low => ?_⟩
    obtain ⟨cleared, loaded⟩ := loadBlock_dm s.eng y.header.plot y.header.target y.content low
    rw [eng]
    split
    · exact loaded
    · exact cleared
  · refine ⟨_, stagingSection_stages awaits arrives good typ plot target rfl kind zero plain length ⟨least, most⟩ ⟨some, few⟩ spells whole stages, nextSection_staged .., ?_⟩
    exact nextSection_seatsOnly u seat.val

end Sys2Proof.Machine
end

section
/-! PROOF. Requests to a riser (R251). -/

namespace Sys2Proof.Machine

/-! ## A write-back into a cache whose ways stand out of order (R251) -/

/-- The dirty line 0 of way 1 of set 0. -/
def dirtyLine : CLine := { line := 0, dirty := true, data := 0 }
/-- Field, with line 0 in two ways of plot 0's cache, of which the second stands before the first in the model's table; region 0 is seat 0's. -/
def twoWays : State :=
  { State.reset with
    aon := { powered := true, mode := some .field }
    stk := { regions := [(0, { own := 0x80 })] }
    eng := { engines := [(0, { cache := [(1, dirtyLine), (0, { line := 0, dirty := false, data := 0 })] })] } }
/-- The response of the write-back of way 1 acts on way 0, which the table now finds first; way 1 stays dirty. -/
theorem writeback_leaves_dirty : ((fullWrite (twoWays.onEng fun e => e.setEngine 0 ((e.engine 0).putLine 1 dirtyLine)) 0 0 (.engine 0) 0).eng.engine 0).cache.lookup 1 = some dirtyLine := by decide +kernel

/-- A dirty line that no refusal and no held write stops is written whole. -/
theorem exec_cacheWriteback {p : PlotIx} {set : Fin 64} {way : Fin 4} {s : State} {c : CLine} (stands : (s.eng.engine p.val).cache.lookup (4 * set.val + way.val) = some c) (dirty : c.dirty = true)
    (ready : s.lineBusy p.val c.line (.engine 0) = false) (held : (s.stk.region p.val (lineRegion c.line)).heldWrites = [])
    (allowed : s.refusals p.val c.line (.engine 0) (s.stk.regionOwner p.val (lineRegion c.line)) true = []) :
    exec (.cacheWriteback p set way) s = .next (fullWrite (s.onEng fun e => e.setEngine p.val ((e.engine p.val).putLine (4 * set.val + way.val) { c with newer := false })) p.val c.line (.engine 0) c.data) := by
  simp [exec, execCacheWriteback, stands, dirty, ready, held, allowed]

/-- Refutes O53: a line that is written back does not always become clean. The statement does not ask the cache's table to be in order of its ways: where the line stands in two ways and the table lists the later first, the write-back moves its way behind the other, which the response then finds and acts on. -/
theorem not_riserRequests : ¬ Obligations.RiserRequests := by
  intro all
  obtain ⟨-, -, -, -, back, -⟩ := all 0 0 0 twoWays
  obtain ⟨good, -⟩ := back 0 1 dirtyLine rfl rfl rfl rfl (by decide) rfl
  obtain ⟨t, runs, -, -, -, clean, -⟩ := good (by decide) rfl rfl
  have done := exec_cacheWriteback (p := 0) (set := 0) (way := 1) (s := twoWays) (c := dirtyLine) rfl rfl (by decide) rfl (by decide)
  have same : t = fullWrite (twoWays.onEng fun e => e.setEngine 0 ((e.engine 0).putLine 1 dirtyLine)) 0 0 (.engine 0) 0 := Host.Outcome.next.inj (runs.symm.trans done)
  rw [same] at clean
  exact absurd (writeback_leaves_dirty.symm.trans clean) (by decide)

end Sys2Proof.Machine
end

section
/-! PROOF. Upkeep of risers: patrol, wipes, copies and maps (R327-R341). -/

namespace Sys2Proof.Machine

/-! ## The log of the memory (R320-R326) -/

theorem Stack.enter_last (k : Stack) (l : LogEntry) : (k.enter l).log.getLast? = some l := by
  unfold Stack.enter
  have short : ¬ (k.log ++ [l]).length ≤ (k.log ++ [l]).length - 4096 := by
    rw [List.length_append, List.length_singleton]
    omega
  simp only []
  rw [List.getLast?_drop, if_neg short, List.getLast?_concat]
/-- What an entry says of a line and its error. -/
def LogEntry.tells (l : LogEntry) (s : State) (p a kind source : Nat) : Prop := l.kind = kind ∧ l.plot = p ∧ l.addr = a ∧ l.source = source ∧ l.seq = s.stk.logSeq ∧ l.time = s.aon.now
/-- What the log of a line leaves of the stack: the riser's counters, and an entry unless the line was entered before. -/
theorem logLine_stk (s : State) (p a source : Nat) (e : LineErr) : ∃ x, x.copy = (s.stk.riser p).copy ∧
    ((logLine s p a source e).stk = s.stk.setRiser p x ∧ e.kind = 0 ∨ ∃ l : LogEntry, l.tells s p a e.kind source ∧ (logLine s p a source e).stk = (s.stk.setRiser p x).enter l) := by
  unfold logLine
  simp only [apply_ite State.stk, State.raise_stk, State.raiseOnce_stk, ite_self, State.onStk_stk]
  split
  · next seen =>
    refine ⟨_, ?_, .inl ⟨rfl, ?_⟩⟩
    · rfl
    · exact of_decide_eq_true (Bool.and_eq_true_iff.1 seen).1
  · refine ⟨_, ?_, .inr ⟨_, ?_, rfl⟩⟩
    · rfl
    · exact ⟨rfl, rfl, rfl, rfl, rfl, rfl⟩
/-- Beside the log and the counters and histories of riser p, nothing of the stored lines, the regions and the copies differs. -/
def Stack.reads (k t : Stack) (p : Nat) : Prop := t.lines = k.lines ∧ t.regions = k.regions ∧ (t.riser p).copy = (k.riser p).copy ∧ ∀ j, j ≠ p → t.riser j = k.riser j
theorem Stack.reads_refl (k : Stack) (p : Nat) : k.reads k p := ⟨rfl, rfl, rfl, fun _ _ => rfl⟩
theorem Stack.reads_trans {k t u : Stack} {p : Nat} (a : k.reads t p) (b : t.reads u p) : k.reads u p := by
  obtain ⟨lines, regions, copy, others⟩ := a
  obtain ⟨lines', regions', copy', others'⟩ := b
  exact ⟨lines'.trans lines, regions'.trans regions, copy'.trans copy, fun j other => (others' j other).trans (others j other)⟩
theorem Stack.reads_setRiser (k : Stack) (p : Nat) {x : Riser} (copy : x.copy = (k.riser p).copy) : k.reads (k.setRiser p x) p := by
  refine ⟨rfl, rfl, ?_, fun j other => ?_⟩
  · rw [Stack.setRiser_riser, if_pos rfl, copy]
  · rw [Stack.setRiser_riser, if_neg other]
/-- An entry changes the log and its count only. -/
theorem Stack.enter_eq (k : Stack) (l : LogEntry) : ∃ log n, k.enter l = { k with log := log, logSeq := n } := ⟨_, _, Eq.refl (k.enter l)⟩
theorem Stack.reads_enter (k : Stack) (p : Nat) (l : LogEntry) : k.reads (k.enter l) p := by
  obtain ⟨log, n, same⟩ := k.enter_eq l
  rw [same]
  exact ⟨rfl, rfl, rfl, fun _ _ => rfl⟩
theorem noteHistory_reads (s : State) (p : Nat) (syms : List Nat) : s.stk.reads (noteHistory s p syms).stk p := Stack.reads_setRiser _ _ rfl
theorem logLine_reads (s : State) (p a source : Nat) (e : LineErr) : s.stk.reads (logLine s p a source e).stk p := by
  obtain ⟨x, copy, ⟨same, -⟩ | ⟨l, -, same⟩⟩ := logLine_stk s p a source e
  · rw [same]
    exact Stack.reads_setRiser _ _ copy
  · rw [same]
    exact Stack.reads_trans (Stack.reads_setRiser _ _ copy) (Stack.reads_enter ..)
theorem logLine_fab (s : State) (p a source : Nat) (e : LineErr) : (logLine s p a source e).fab = s.fab := by
  unfold logLine
  simp only [State.onStk_fab, State.raiseOnce_fab, State.raise_fab, apply_ite State.fab, ite_self]
theorem upsetLine_none (s : State) (key : Nat) : upsetLine s key 0 = s := if_pos (Eq.refl (0 : BitVec 640))
/-- A read without an upset: the riser's history, and the log of the error that it met. -/
theorem readLine_parts (s : State) (p a source : Nat) (needTag : Bool) {o : LineOut} (reads : readOut (s.stk.region p (lineRegion a)) p a (s.stk.line (lineId p a)) needTag = o) :
    ∃ t, readLine s p a source 0 needTag = (t, o) ∧ t.nv = s.nv ∧ t.fab = s.fab ∧ s.stk.reads t.stk p ∧ (o.err = none → t.stk.log = s.stk.log) ∧
      ∀ e, o.err = some e → e.kind ≠ 0 → ∃ l : LogEntry, t.stk.log.getLast? = some l ∧ l.tells s p a e.kind source := by
  have note (syms : List Nat) := noteHistory_reads s p syms
  unfold readLine
  simp only [upsetLine_none, reads]
  cases err : o.err with
  | none => exact ⟨_, rfl, rfl, rfl, note [], fun _ => rfl, fun e k => absurd k (by simp)⟩
  | some e =>
    refine ⟨_, rfl, (logLine_nv ..).trans rfl, (logLine_fab ..).trans rfl, Stack.reads_trans (note e.syms) (logLine_reads ..), fun k => absurd k (by simp), fun e' same bad => ?_⟩
    have same : e = e' := Option.some.inj same
    subst same
    obtain ⟨x, -, ⟨-, corrected⟩ | ⟨l, tells, entered⟩⟩ := logLine_stk (noteHistory s p e.syms) p a source e
    · exact absurd corrected bad
    · refine ⟨l, ?_, tells⟩
      exact (congrArg (fun k : Stack => k.log.getLast?) entered).trans (Stack.enter_last ..)
theorem lineRegion_eq (a : Nat) : lineRegion a = a / 16384 := rfl
theorem linePage_eq (a : Nat) : linePage a = a / 64 := rfl
/-- The next line of the patrol. -/
theorem memPatrolRead_reads {p : PlotIx} {s : State} {n : Nat} (patrol : (s.stk.riser p.val).patrol = n) (runs : s.engineOn p.val = true) (up : (s.nv.map.riser p.val).rstate ≠ 3) (low : n < 524288)
    (whole : s.riserCut p.val (s.physDie p.val n) = false) (still : (s.stk.region p.val (n / 16384)).wiping = false) (idle : (s.stk.riser p.val).copy = none)
    (free : (s.stk.riser p.val).cmdWait.contains .patrol = false) (untested : s.tileTested p.val n = false) (fresh : s.retired p.val (n / 64) = false) :
    ∃ next, next = (n + 1) % patrolLines s p.val ∧ exec (.memPatrolRead p 0) s =
      .next ((readLine s p.val n srcPatrol 0 false).1.onStk fun k => k.setRiser p.val { k.riser p.val with patrol := next, pageCorr := if next = 0 then [] else (k.riser p.val).pageCorr }) := by
  have inside : ¬ patrolLines s p.val ≤ n := by
    unfold patrolLines
    omega
  refine ⟨_, rfl, ?_⟩
  simp only [exec, execMemPatrolRead, patrol, inside, runs, up, low, whole, still, idle, free, untested, fresh, lineRegion_eq, linePage_eq, decide_false, Bool.false_eq_true, if_false, if_true, Bool.not_true, Bool.or_self]

/-! ## Wipes, copies and maps (R336-R341) -/

theorem retryB_of_none {s : State} {p : Nat} (none : (s.stk.riser p).waiting = []) : retryB s p = s.onStk fun k => k.setRiser p { k.riser p with waiting := [] } := by
  unfold retryB
  rw [none]
  rfl
theorem Stack.setRiser_same (k : Stack) (p : Nat) {x : Riser} (same : x = k.riser p) (j : Nat) : (k.setRiser p x).riser j = k.riser j := by
  rw [Stack.setRiser_riser]
  split
  · next here => rw [here, same]
  · rfl
theorem regionWipeDone_opens {p : PlotIx} {r : Fin 32} {s : State} (on : s.stackOn = true) (none : (s.stk.riser p.val).waiting = []) :
    ∃ k : Stack, exec (.regionWipeDone p r) s = .next { s with stk := k } ∧ k.lines = s.stk.lines ∧ k.log = s.stk.log ∧ (∀ j, k.riser j = s.stk.riser j) ∧
      ∀ j q, k.region j q = if 32 * j + q = 32 * p.val + r.val then { s.stk.region p.val r.val with wiping := false } else s.stk.region j q := by
  refine ⟨(s.stk.setRegion p.val r.val { s.stk.region p.val r.val with wiping := false }).setRiser p.val { s.stk.riser p.val with waiting := [] }, ?_, rfl, rfl, fun j => ?_, fun j q => Stack.setRegion_region ..⟩
  · simp only [exec, execRegionWipeDone, on, if_true]
    rw [retryB_of_none (s := s.onStk fun k => k.setRegion p.val r.val { k.region p.val r.val with wiping := false }) none]
    rfl
  · exact Stack.setRiser_same (s.stk.setRegion p.val r.val _) p.val (by rw [← none]; rfl) j
/-- The state once the copy's next line is done with. -/
def State.copied (s : State) (p tile k : Nat) (d : Bool) : State := s.onStk fun x => x.setRiser p { x.riser p with copy := some (tile, k + 1, d) }
section
variable {p : PlotIx} {s : State} {tile k : Nat} {d : Bool} (copies : (s.stk.riser p.val).copy = some (tile, k, d)) (low : k < 262144) (runs : s.engineOn p.val = true) (whole : s.riserCut p.val 4 = false)
  (free : (s.stk.riser p.val).cmdWait.contains .copy = false)
include copies low runs whole free
theorem tileCopyLine_clean (clean : rsDecode (bytesOf (s.stk.line (lineId p.val (262144 * (tile - 1) + k))).toNat 80) = .clean) :
    exec (.tileCopyLine p 0) s = .next ((noteHistory s p.val []).copied p.val tile k d) := by
  have few := not_le_of_gt low
  simp only [exec, execTileCopyLine, copies, few, runs, whole, free, upsetLine_none, clean, decide_false, Bool.not_true, Bool.or_self, Bool.false_eq_true, if_false]
  rfl
theorem tileCopyLine_fixed {e : List (Nat × Nat)} (fixed : rsDecode (bytesOf (s.stk.line (lineId p.val (262144 * (tile - 1) + k))).toNat 80) = .fixed e) :
    exec (.tileCopyLine p 0) s = .next ((logLine (noteHistory (s.onStk fun x => x.setLine (lineId p.val (262144 * (tile - 1) + k)) (correctLine (s.stk.line (lineId p.val (262144 * (tile - 1) + k))) e)) p.val
      (e.map fun x => x.1)) p.val (262144 * (tile - 1) + k) srcCopy { kind := kindCorrected, syms := e.map fun x => x.1 }).copied p.val tile k d) := by
  have few := not_le_of_gt low
  simp only [exec, execTileCopyLine, copies, few, runs, whole, free, upsetLine_none, fixed, decide_false, Bool.not_true, Bool.or_self, Bool.false_eq_true, if_false]
  rfl
theorem tileCopyLine_fails (fails : rsDecode (bytesOf (s.stk.line (lineId p.val (262144 * (tile - 1) + k))).toNat 80) = .fails) :
    exec (.tileCopyLine p 0) s = .next ((logLine (noteHistory s p.val []) p.val (262144 * (tile - 1) + k) srcCopy { kind := kindUncorr }).copied p.val tile k d) := by
  have few := not_le_of_gt low
  simp only [exec, execTileCopyLine, copies, few, runs, whole, free, upsetLine_none, fails, decide_false, Bool.not_true, Bool.or_self, Bool.false_eq_true, if_false]
  rfl
end
theorem Stack.dropSpare_parts (k : Stack) (c : Nat) : ∃ l, k.dropSpare c = { k with lines := l } := ⟨_, Eq.refl (k.dropSpare c)⟩
/-- An entry of a riser's event, with attentions after it: the last of the log. -/
theorem riserEntry_last (s : State) (p die kind source nsym sym1 sym0 : Nat) (l : List Event) : ∃ e : LogEntry, ((riserEntry s p die kind source nsym sym1 sym0).raiseAll l).stk.log.getLast? = some e ∧
    e.kind = kind ∧ e.plot = p ∧ e.die = die :=
  ⟨_, Stack.enter_last .., rfl, rfl, rfl⟩
theorem riserEntry_parts (s : State) (p die kind source nsym sym1 sym0 : Nat) (l : List Event) : ∃ log n seats, (riserEntry s p die kind source nsym sym1 sym0).raiseAll l =
    { s with stk := { s.stk with log := log, logSeq := n }, seats := seats } := by
  unfold riserEntry State.raiseAll State.onStk
  obtain ⟨log, n, same⟩ := s.stk.enter_eq { time := s.aon.now, seq := s.stk.logSeq, plot := p, die := die, addr := 0, region := 0, isSealed := false, owner := 0, kind := kind, source := source, nsym := nsym, sym1 := sym1, sym0 := sym0 }
  simp only [same]
  exact ⟨_, _, _, rfl⟩
theorem tileCopyDone_maps {p : PlotIx} {s : State} {tile : Nat} (copies : (s.stk.riser p.val).copy = some (tile, 262144, false)) : ∃ (l : List Event) (lines : List (Nat × BitVec 640)), exec (.tileCopyDone p) s =
    .next ((riserEntry { s with nv := { s.nv with map := s.nv.map.setRiser p.val { s.nv.map.riser p.val with tileMap := tile } }, stk := { s.stk.setRiser p.val { s.stk.riser p.val with copy := none } with lines := lines } } p.val
      (2 * dieOf p.val + (tile - 1)) kindTileMapped srcCopy 0 0xFF 0xFF).raiseAll l) := by
  refine ⟨eventsFor (s.stk.tileOwners p.val tile) 0x0203 (0x3400 + p.val) p.val (2 * dieOf p.val + (tile - 1)), ((s.stk.setRiser p.val { s.stk.riser p.val with copy := none }).dropSpare (columnOf p.val)).lines, ?_⟩
  simp only [exec, execTileCopyDone, copies]
  rfl
/-- A plot of the die gives up its copy, and its column's spare tile the lines of its own. -/
def Stack.endCopy (k : Stack) (m : FallowMap) (t p : Nat) : Stack :=
  let k := if (m.riser p).rstate = 3 then k.fillLines (lineId p (262144 * (t - 1))) 262144 (fun _ => false) else k
  (k.setRiser p { k.riser p with copy := none }).dropSpare (columnOf p)
theorem Stack.endCopy_riser (k : Stack) (m : FallowMap) (t p j : Nat) : ((k.endCopy m t p).riser j).copy = if j = p then none else (k.riser j).copy := by
  unfold endCopy
  obtain ⟨l, same⟩ : ∃ l, (if (m.riser p).rstate = 3 then k.fillLines (lineId p (262144 * (t - 1))) 262144 (fun _ => false) else k) = { k with lines := l } := by
    split
    · exact ⟨_, rfl⟩
    · exact ⟨_, rfl⟩
  rw [same]
  obtain ⟨l', same'⟩ := (Stack.setRiser { k with lines := l } p { Stack.riser { k with lines := l } p with copy := none }).dropSpare_parts (columnOf p)
  simp only [same']
  have set := Stack.setRiser_riser { k with lines := l } p { Stack.riser { k with lines := l } p with copy := none } j
  refine (congrArg Riser.copy set).trans ?_
  split <;> rfl
/-- The copies of a die's map end. -/
def Stack.endCopies (k : Stack) (m : FallowMap) (d : Nat) : Stack := ((List.range 256).map fun c => c + 256 * (d / 2)).foldl (fun k p => k.endCopy m (d % 2 + 1) p) { k with dieMapping := none }
theorem Stack.endCopies_copy (k : Stack) (m : FallowMap) (d : Nat) {j : Nat} (above : 256 * (d / 2) ≤ j) (below : j < 256 * (d / 2) + 256) : ((k.endCopies m d).riser j).copy = none := by
  have among : j ∈ (List.range 256).map fun c => c + 256 * (d / 2) := List.mem_map.2 ⟨j - 256 * (d / 2), List.mem_range.2 (by omega), by omega⟩
  have fold (l : List Nat) (k : Stack) (done : j ∈ l ∨ (k.riser j).copy = none) : ((l.foldl (fun k p => k.endCopy m (d % 2 + 1) p) k).riser j).copy = none := by
    induction l generalizing k with
    | nil => exact done.resolve_left (List.not_mem_nil)
    | cons p l ih =>
      refine ih _ ?_
      rw [Stack.endCopy_riser]
      by_cases here : j = p
      · exact .inr (if_pos here)
      · rw [if_neg here]
        exact done.imp_left fun m => (List.mem_cons.1 m).resolve_left here
  exact fold _ _ (.inl among)
theorem Stack.endCopies_mapping (k : Stack) (m : FallowMap) (d : Nat) : (k.endCopies m d).dieMapping = none :=
  foldl_leaves Stack.dieMapping (fun k p => by unfold endCopy; simp only [Stack.dropSpare, Stack.fillLines]; split <;> rfl) _ _
theorem dieMapDone_maps {d : Fin 4} {s : State} (maps : s.stk.dieMapping = some d.val)
    (copied : ∀ j, 256 * (d.val / 2) ≤ j → j < 256 * (d.val / 2) + 256 → (s.stk.riser j).copy = some (d.val % 2 + 1, 262144, true) ∨ (s.nv.map.riser j).rstate = 3) :
    ∃ l : List Event, exec (.dieMapDone d) s =
      .next ((riserEntry { s with nv := { s.nv with map := { s.nv.map with dieMap := d.val + 1 } }, stk := s.stk.endCopies s.nv.map d.val } 0 d.val kindDieMapped srcCopy 0 0xFF 0xFF).raiseAll l) := by
  have done : (((List.range 256).map fun c => c + 256 * (d.val / 2)).all fun p => decide ((s.nv.map.riser p).rstate = 3) || (s.stk.riser p).copy == some (d.val % 2 + 1, 262144, true)) = true := by
    refine List.all_eq_true.2 fun j m => ?_
    obtain ⟨c, low, rfl⟩ := List.mem_map.1 m
    have low := List.mem_range.1 low
    rcases copied (c + 256 * (d.val / 2)) (by omega) (by omega) with copy | down
    · rw [copy, beq_self_eq_true, Bool.or_true]
    · rw [decide_eq_true down, Bool.true_or]
  simp only [exec, execDieMapDone, maps, done, decide_true, Bool.and_self, if_true, Stack.endCopies, Stack.endCopy, State.onStk, State.onMap, State.onNv]
  exact ⟨_, rfl⟩

/-- Settles O54: the patrol and the copy read their next lines, and wipes, copies and maps end in their records. -/
theorem riserUpkeep : Obligations.RiserUpkeep := by
  unfold Obligations.RiserUpkeep
  intro p s
  dsimp only
  refine ⟨fun runs up low whole still idle free untested fresh => ?_, fun r on none => ?_, fun tile k d copies low runs whole free => ⟨fun clean => ?_, fun e fixed => ?_, fun fails => ?_⟩, fun tile copies => ?_, fun d maps copied => ?_⟩
  · obtain ⟨next, patrol, done⟩ := memPatrolRead_reads rfl runs up low whole still idle free untested fresh
    obtain ⟨t, read, nv, fab, ⟨lines, -⟩, clean, bad⟩ := readLine_parts s p.val (s.stk.riser p.val).patrol srcPatrol false rfl
    rw [read] at done
    refine ⟨_, done, ?_, lines, nv, fab, clean, fun e err kind => ?_⟩
    · rw [State.onStk_stk, Stack.setRiser_riser, if_pos rfl, patrol]
    · obtain ⟨l, last, kind, plot, addr, source, seq, time⟩ := bad e err kind
      exact ⟨l, last, kind, plot, addr, source, seq, time⟩
  · obtain ⟨k, done, lines, log, risers, regions⟩ := regionWipeDone_opens (r := r) on none
    refine ⟨_, done, lines, log, risers, rfl, rfl, rfl, rfl, rfl, (regions _ _).trans (if_pos rfl), fun j q other => (regions j q).trans (if_neg other)⟩
  · refine ⟨_, tileCopyLine_clean copies low runs whole free clean, ⟨?_, rfl⟩, rfl, rfl⟩
    unfold State.copied
    rw [State.onStk_stk, Stack.setRiser_riser, if_pos rfl]
  · refine ⟨_, tileCopyLine_fixed copies low runs whole free fixed, ⟨?_, (logLine_nv ..).trans rfl⟩, ?_, fun i other => ?_⟩
    · unfold State.copied
      rw [State.onStk_stk, Stack.setRiser_riser, if_pos rfl]
    all_goals
      obtain ⟨lines, -⟩ := logLine_reads (noteHistory (s.onStk fun x => x.setLine (lineId p.val (262144 * (tile - 1) + k)) (correctLine (s.stk.line (lineId p.val (262144 * (tile - 1) + k))) e)) p.val (e.map fun x => x.1))
        p.val (262144 * (tile - 1) + k) srcCopy { kind := kindCorrected, syms := e.map fun x => x.1 }
      refine (congrArg (fun l : List (Nat × BitVec 640) => (l.lookup _).getD (lineFill _)) lines).trans ((Stack.setLine_line ..).trans ?_)
    · exact if_pos rfl
    · exact if_neg other
  · obtain ⟨lines, -⟩ := logLine_reads (noteHistory s p.val []) p.val (262144 * (tile - 1) + k) srcCopy { kind := kindUncorr }
    obtain ⟨x, -, ⟨-, corrected⟩ | ⟨l, ⟨kind, plot, addr, source, -⟩, entered⟩⟩ := logLine_stk (noteHistory s p.val []) p.val (262144 * (tile - 1) + k) srcCopy { kind := kindUncorr }
    · exact absurd corrected (by decide)
    · refine ⟨_, l, tileCopyLine_fails copies low runs whole free fails, ⟨?_, (logLine_nv ..).trans rfl⟩, lines, ?_, kind, source, plot, addr⟩
      · unfold State.copied
        rw [State.onStk_stk, Stack.setRiser_riser, if_pos rfl]
      · exact (congrArg (fun k : Stack => k.log.getLast?) entered).trans (Stack.enter_last ..)
  · obtain ⟨l, lines, done⟩ := tileCopyDone_maps copies
    obtain ⟨log, n, seats, parts⟩ := riserEntry_parts { s with nv := { s.nv with map := s.nv.map.setRiser p.val { s.nv.map.riser p.val with tileMap := tile } }, stk := { s.stk.setRiser p.val { s.stk.riser p.val with copy := none } with lines := lines } } p.val
      (2 * dieOf p.val + (tile - 1)) kindTileMapped srcCopy 0 0xFF 0xFF l
    obtain ⟨e, last, kind, plot, die⟩ := riserEntry_last { s with nv := { s.nv with map := s.nv.map.setRiser p.val { s.nv.map.riser p.val with tileMap := tile } }, stk := { s.stk.setRiser p.val { s.stk.riser p.val with copy := none } with lines := lines } } p.val
      (2 * dieOf p.val + (tile - 1)) kindTileMapped srcCopy 0 0xFF 0xFF l
    refine ⟨_, e, done, ?_, fun j other => ?_, ?_, last, kind, plot, die⟩
    · rw [parts]
      exact (FallowMap.setRiser_riser ..).trans (if_pos rfl)
    · rw [parts]
      exact (FallowMap.setRiser_riser ..).trans (if_neg other)
    · rw [parts]
      exact congrArg Riser.copy ((Stack.setRiser_riser ..).trans (if_pos rfl))
  · obtain ⟨l, done⟩ := dieMapDone_maps maps copied
    generalize base : ({ s with nv := { s.nv with map := { s.nv.map with dieMap := d.val + 1 } }, stk := s.stk.endCopies s.nv.map d.val } : State) = u at done
    obtain ⟨log, n, seats, parts⟩ := riserEntry_parts u 0 d.val kindDieMapped srcCopy 0 0xFF 0xFF l
    obtain ⟨e, last, kind, -, die⟩ := riserEntry_last u 0 d.val kindDieMapped srcCopy 0 0xFF 0xFF l
    refine ⟨_, e, done, ?_, ?_, fun j above below => ?_, last, kind, die⟩
    · rw [parts, ← base]
    · rw [parts, ← base]
      dsimp only
      exact s.stk.endCopies_mapping s.nv.map d.val
    · rw [parts, ← base]
      have ended := s.stk.endCopies_copy s.nv.map d.val above below
      generalize s.stk.endCopies s.nv.map d.val = k at ended ⊢
      exact ended

end Sys2Proof.Machine
end

section
/-! PROOF. Replies of sessions (R455-R459). -/

namespace Sys2Proof.Machine

/-! ## The reply of a request that is performed (R455, R457, R459) -/

/-- A seat's record x after a reply of its session, which may have ended with it: what a session is not, stays. -/
def SeatRec.repliedAs (r x : SeatRec) : Prop :=
  x = { r with isOpen := x.isOpen, kreq := x.kreq, krep := x.krep, repCtr := x.repCtr, last := x.last, running := x.running, turn := x.turn } ∧ (x.turn = r.turn ∨ x.turn = r.turn.map fun t => { t with req := none })
/-- A session whose counters are used up has ended (R457). -/
def SeatRec.worn (r : SeatRec) : SeatRec := if r.isOpen && (decide (4294967295 ≤ r.reqCtr) || decide (4294967295 ≤ r.repCtr)) then r.endSession else r
theorem SeatRec.worn_replied {r : SeatRec} (none : r.seg = .none) (n : Nat) (l : Option Reply) : r.repliedAs ({ r with repCtr := n, last := l } : SeatRec).worn := by
  unfold SeatRec.worn
  split
  · refine ⟨?_, .inr rfl⟩
    obtain ⟨_⟩ := r
    simp only at none
    subst none
    rfl
  · exact ⟨rfl, .inl rfl⟩
theorem State.onSeat_self (s : State) (k : Nat) (g : SeatRec → SeatRec) : (s.onSeat k g).seat k = g (s.seat k) := (State.onSeat_seat ..).trans (if_pos rfl)
theorem endSession_of_none {s : State} {k : Nat} (none : (s.seat k).seg = none) : endSession s k = s.onSeat k SeatRec.endSession := by
  unfold endSession endSeg
  rw [none]
  exact (State.onSeat_onSeat ..).trans (State.onSeat_congr _ _ rfl)
theorem wearSession_onSeat {s : State} {k : Nat} {g : SeatRec → SeatRec} (none : (g (s.seat k)).seg = none) : wearSession (s.onSeat k g) k = s.onSeat k fun r => (g r).worn := by
  have self := s.onSeat_self k g
  unfold wearSession
  rw [self]
  dsimp only
  split
  · next spent =>
    rw [endSession_of_none (by rw [self]; exact none), State.onSeat_onSeat]
    exact State.onSeat_congr _ _ (if_pos spent).symm
  · next goes => exact State.onSeat_congr _ _ (if_neg goes).symm
/-- A session without a segmented transfer that replies: the reply is out, and its counter moves on or its session ends. -/
theorem sendReply_open {s : State} {rep : Reply} (opened : (s.seat rep.seat).isOpen = true) (none : (s.seat rep.seat).seg = none) :
    sendReply s rep = (s.send (rep.tagged (s.seat rep.seat).krep s.aon.node.toNat (s.seat rep.seat).repCtr)).onSeat rep.seat fun r => ({ r with repCtr := r.repCtr + 1 } : SeatRec).worn := by
  refine (if_pos opened).trans (wearSession_onSeat ?_)
  exact none
/-- The reply to a request under the session that the seat has. -/
def State.replyIn (s : State) (r : Req) (func err aux : Nat) (data : List Byte) : Reply :=
  (replyTo s r func err aux data).tagged (s.seat r.seat.val).krep s.aon.node.toNat (s.seat r.seat.val).repCtr
theorem respondOnly_open {s : State} {r : Req} (opened : (s.seat r.seat.val).isOpen = true) (none : (s.seat r.seat.val).seg = none) (func err aux : Nat) (data : List Byte) :
    respondOnly s r func err aux data = (s.send (s.replyIn r func err aux data)).onSeat r.seat.val fun r => ({ r with repCtr := r.repCtr + 1 } : SeatRec).worn := sendReply_open opened none
theorem respond_open {s : State} {r : Req} (opened : (s.seat r.seat.val).isOpen = true) (none : (s.seat r.seat.val).seg = none) (func err aux : Nat) (data : List Byte) :
    respond s r func err aux data = (s.send (s.replyIn r func err aux data)).onSeat r.seat.val fun x => ({ x with repCtr := x.repCtr + 1, last := some (replyTo s r func err aux data) } : SeatRec).worn := by
  have self (g : SeatRec → SeatRec) := s.onSeat_self r.seat.val g
  have at' : (replyTo s r func err aux data).seat = r.seat.val := rfl
  have keeps : respond s r func err aux data = sendReply (s.onSeat r.seat.val fun x => { x with last := some (replyTo s r func err aux data) }) (replyTo s r func err aux data) :=
    congrArg (fun u => sendReply u (replyTo s r func err aux data)) (if_pos opened)
  have sends (u : State) (k : Nat) (g : SeatRec → SeatRec) (q : Reply) : (u.onSeat k g).send q = (u.send q).onSeat k g := rfl
  rw [keeps, sendReply_open, at', sends, State.onSeat_onSeat, self]
  · rfl
  · rw [at', self]
    exact opened
  · rw [at', self]
    exact none
/-- What a response leaves: the reply out, and the record of its seat. -/
theorem respond_parts {s : State} {r : Req} (opened : (s.seat r.seat.val).isOpen = true) (none : (s.seat r.seat.val).seg = none) (func err aux : Nat) (data : List Byte) :
    ∃ x, respond s r func err aux data = (s.send (s.replyIn r func err aux data)).onSeat r.seat.val (fun _ => x) ∧ (s.seat r.seat.val).repliedAs x :=
  ⟨_, (respond_open opened none ..).trans (State.onSeat_congr _ _ rfl), SeatRec.worn_replied none _ _⟩
/-- The state that a fresh and admitted request meets. -/
theorem admitted_meets {s u : State} {r : Req} {func : Nat} (h : admitted s r func u) (f : fresh s r) : (u.seat r.seat.val).isOpen = true ∧ (u.seat r.seat.val).seg = none ∧ u.mc.out = [] ∧
    u = { s with mc := { s.mc with out := [] }, seats := u.seats } ∧ ∀ j, j ≠ r.seat.val → u.seat j = s.seat j := by
  obtain ⟨-, -, -, -, opened, d, -, rfl⟩ := h
  obtain ⟨-, -, seg⟩ := f
  refine ⟨?_, ?_, rfl, rfl, fun j other => ?_⟩
  · rw [State.onSeat_self]
    exact opened
  · rw [State.onSeat_self]
    exact seg
  · rw [State.onSeat_seat, if_neg other]
    rfl
/-- A response from a state that has the session and the frames out of the one that the request met. -/
theorem respond_answers {u w : State} {r : Req} (out : w.mc.out = []) (krep : (w.seat r.seat.val).krep = (u.seat r.seat.val).krep) (ctr : (w.seat r.seat.val).repCtr = (u.seat r.seat.val).repCtr) (node : w.aon.node = u.aon.node)
    (opened : (w.seat r.seat.val).isOpen = true) (none : (w.seat r.seat.val).seg = none) (func err aux : Nat) (data : List Byte) : answered u (respond w r func err aux data) r func err aux data := by
  obtain ⟨x, done, -⟩ := respond_parts opened none func err aux data
  refine ⟨statusByte (w.seat r.seat.val), ?_⟩
  rw [done]
  have sent : ((w.send (w.replyIn r func err aux data)).onSeat r.seat.val fun _ => x).mc.out = w.mc.out ++ [w.replyIn r func err aux data] := rfl
  rw [sent, out, State.replyIn, krep, ctr, node]
  rfl

end Sys2Proof.Machine
end

section
/-! PROOF. Memory secrets, region keys and the re-key pass (R351-R377). -/

namespace Sys2Proof.Machine

/-! ## Memory secrets (R351, R355) -/

/-- The device but for what a wipe of a region touches: hands, lines and channels. -/
def State.beyondMemory (s : State) : State := { s with fab := {}, lnk := {}, stk := {} }
theorem requeueHeld_beyond (s : State) (p r : Nat) : (requeueHeld s p r).beyondMemory = s.beyondMemory := by
  unfold requeueHeld
  dsimp only
  refine Eq.trans rfl (foldl_leaves State.beyondMemory (fun u e => foldl_leaves State.beyondMemory (fun v x => ?_) _ u) _ s)
  repeat' split
  all_goals rfl
theorem State.onStk_beyond (s : State) (g : Stack → Stack) : (s.onStk g).beyondMemory = s.beyondMemory := rfl
theorem State.fillRegion_beyond (s : State) (p r : Nat) (g : Nat → BitVec 640) : (s.fillRegion p r g).beyondMemory = s.beyondMemory := rfl
theorem wipeRegion_beyond (s : State) (p r : Nat) : (wipeRegion s p r).beyondMemory = s.beyondMemory := by
  unfold wipeRegion
  dsimp only
  split <;> rw [State.fillRegion_beyond, State.onStk_beyond, requeueHeld_beyond]
/-- A seat's memory secret and its root, with the copy in MRAM. -/
def State.keepsSecret (s : State) (k : Nat) (v : BitVec 256) : State :=
  (s.onNv fun n => { n with smsCopy := tput none n.smsCopy k (some v) }).onSeat k fun r => { r with sms := some v, smr := some (smrOf s.nv.duk k s.stk.bootNonce v) }
theorem writeSms_beyond (s : State) (k : Nat) (v : BitVec 256) : (writeSms s k v).beyondMemory = (s.keepsSecret k v).beyondMemory :=
  foldl_leaves State.beyondMemory (fun _ _ => wipeRegion_beyond ..) _ _
theorem serveWrite'_admitted {s u : State} {r : Req} (h : admitted s r 0x02 u) (f : fresh s r) (shut : s.mc.window = false) : serveWrite' s r = .next (performWrite u r) := by
  obtain ⟨-, -, -, same, -⟩ := admitted_meets h f
  have closed : u.mc.window = false := by
    rw [same]
    exact shut
  unfold serveWrite'
  rw [accept_admitted false h f]
  simp only [closed, Bool.false_eq_true, if_false]
/-- A WRITE of a memory secret that is accepted. -/
theorem performWrite_sms {u : State} {q : Req} (index : q.index = 0x2600) (ok : objErrs u q.seat.val 0x2600 q.sub.toNat 1 (Req.payload q) (Req.long q) = []) :
    performWrite u q = respond (writeSms u (q.sub.toNat - 1) (BitVec.ofNat 256 (leNat (Req.payload q).reverse))) q 0x02 0 0 [] := by
  have low : q.index.toNat = 0x2600 := by rw [index]; rfl
  have free : userHeld u q.seat.val 0x2600 q.sub.toNat 1 (Req.payload q) (Req.long q) = false := rfl
  unfold performWrite
  rw [low, free]
  unfold opWrite
  simp only [ok, List.isEmpty_nil, Bool.not_true, Bool.false_eq_true, if_false]
  rfl
theorem smsWrite_keeps {s u : State} {q : Req} (h : admitted s q 0x02 u) (f : fresh s q) (index : q.index = 0x2600) (above : 1 ≤ q.sub.toNat) (below : q.sub.toNat ≤ 8) (shut : s.mc.window = false)
    (ok : objErrs u q.seat.val 0x2600 q.sub.toNat 1 (Req.payload q) (Req.long q) = []) {v : BitVec 256} (value : BitVec.ofNat 256 (leNat (Req.payload q).reverse) = v) :
    ∃ t, exec (.smsWrite q) s = .next t ∧ (t.seat (q.sub.toNat - 1)).sms = some v ∧ (t.seat (q.sub.toNat - 1)).smr = some (smrOf s.nv.duk (q.sub.toNat - 1) s.stk.bootNonce v) ∧
      tget none t.nv.smsCopy (q.sub.toNat - 1) = some v ∧ answered u t q 0x02 0 0 [] := by
  obtain ⟨opened, seg, out, same, -⟩ := admitted_meets h f
  generalize at' : q.sub.toNat - 1 = k
  have runs : exec (.smsWrite q) s = .next (respond (writeSms u k v) q 0x02 0 0 []) := by
    simp only [exec, execSmsWrite, index, inRange, above, below, decide_true, Bool.and_self, if_true]
    rw [serveWrite'_admitted h f shut, performWrite_sms index ok, at', value]
  generalize wrote : writeSms u k v = w at runs
  have beyond : w.beyondMemory = (u.keepsSecret k v).beyondMemory := by rw [← wrote, writeSms_beyond]
  have seats (j : Nat) : w.seat j = (u.keepsSecret k v).seat j := (congrArg (fun x : State => x.seat j) beyond :)
  have mine : (w.seat k).sms = some v ∧ (w.seat k).smr = some (smrOf s.nv.duk k s.stk.bootNonce v) := by
    rw [seats, State.keepsSecret, State.onSeat_self, same]
    exact ⟨rfl, rfl⟩
  have session (j : Nat) : (w.seat j).isOpen = (u.seat j).isOpen ∧ (w.seat j).seg = (u.seat j).seg ∧ (w.seat j).krep = (u.seat j).krep ∧ (w.seat j).repCtr = (u.seat j).repCtr := by
    rw [seats, State.keepsSecret, State.onSeat_seat]
    split
    · next here =>
      rw [here]
      exact ⟨rfl, rfl, rfl, rfl⟩
    · exact ⟨rfl, rfl, rfl, rfl⟩
  have node : w.aon.node = u.aon.node := (congrArg (fun x : State => x.aon.node) beyond :)
  have quiet : w.mc.out = u.mc.out := (congrArg (fun x : State => x.mc.out) beyond :)
  obtain ⟨opened', seg', krep, ctr⟩ := session q.seat.val
  obtain ⟨x, done, shape, -⟩ := respond_parts (s := w) (r := q) (opened'.trans opened) (seg'.trans seg) 0x02 0 0 []
  refine ⟨_, runs, ?_, ?_, ?_, respond_answers (quiet.trans out) krep ctr node (opened'.trans opened) (seg'.trans seg) 0x02 0 0 []⟩
  · rw [done, State.onSeat_seat]
    split
    · next here =>
      rw [shape, ← here]
      exact mine.1
    · exact mine.1
  · rw [done, State.onSeat_seat]
    split
    · next here =>
      rw [shape, ← here]
      exact mine.2
    · exact mine.2
  · rw [respond_nv]
    have nv : w.nv.smsCopy = tput none u.nv.smsCopy k (some v) := (congrArg (fun x : State => x.nv.smsCopy) beyond :)
    rw [nv]
    exact (tget_tput ..).trans (if_pos rfl)

/-! ## Region keys and the re-key pass (R352, R358, R371-R377) -/

theorem Region.setKey_key (g : Region) (slot : Bool) (v : Option (BitVec 256)) (e : Bool) : (g.setKey slot v).key e = if e = slot then v else g.key e := by
  cases slot <;> cases e <;> rfl
/-- A key of the next generation in a slot. -/
theorem Region.load_key (g : Region) (m : BitVec 256) (p r : Nat) (slot e : Bool) : (g.load m p r slot).key e = if e = slot then some (regionKey m p r (g.gen + 1)) else g.key e := by
  cases slot <;> cases e <;> rfl
theorem Region.load_gen (g : Region) (m : BitVec 256) (p r : Nat) (slot : Bool) : (g.load m p r slot).gen = g.gen + 1 := by
  cases slot <;> rfl
section
variable {p : PlotIx} {r : Fin 32} {s : State} {g : Region} (is : s.stk.region p.val r.val = g)
include is
theorem keySlotLoad_loads {m : BitVec 256} (on : s.clocksOn = true) (root : s.ownerSmr p.val r.val = some m) (isSealed : g.isSealed = true) (holds : (g.key g.epoch).isSome = true) (idle : g.key (!g.epoch) = none)
    (still : g.rk ≠ 2) : exec (.keySlotLoad p r) s = .next (s.onStk fun k => k.setRegion p.val r.val (g.load m p.val r.val !g.epoch)) := by
  simp [exec, execKeySlotLoad, is, root, on, isSealed, holds, idle, still]
theorem rkreq_open {rest : List Order} (ordered : takeOrder (.rekey p.val r.val) s.mc.orders = some rest) (opened : g.isSealed = false) :
    exec (.rkreq p r) s = .next { s with mc := { s.mc with orders := rest } } := by
  simp [exec, execRkreq, ordered, State.onMc, is, opened]
theorem rkreq_steady {rest : List Order} (ordered : takeOrder (.rekey p.val r.val) s.mc.orders = some rest) (isSealed : g.isSealed = true) (steady : g.rk = 0) :
    exec (.rkreq p r) s = .next { s with mc := { s.mc with orders := rest }, stk := s.stk.rekeyDue p.val r.val } := by
  simp [exec, execRkreq, ordered, State.onMc, is, isSealed, steady, State.onStk]
theorem rkreq_busy {rest : List Order} (ordered : takeOrder (.rekey p.val r.val) s.mc.orders = some rest) (isSealed : g.isSealed = true) (busy : g.rk ≠ 0) :
    exec (.rkreq p r) s = .next { s with mc := { s.mc with orders := rest }, stk := s.stk.setRegion p.val r.val { g with noted := true } } := by
  simp [exec, execRkreq, ordered, State.onMc, is, isSealed, busy, State.onStk]
end
/-- A re-key of a STEADY region is due. -/
theorem Stack.rekeyDue_steady {k : Stack} {p r : Nat} {g : Region} (is : k.region p r = g) (steady : g.rk = 0) :
    k.rekeyDue p r = (k.setRiser p { k.riser p with dueCount := (k.riser p).dueCount + 1 }).setRegion p r { g with rk := 1, dueOrder := (k.riser p).dueCount } := by
  unfold Stack.rekeyDue
  simp only [is, steady, if_true]
/-- The region once the pass begins (R373). -/
def Region.flip (g : Region) : Region := { g with epoch := !g.epoch, counter := 1, marks := [], progress := 0, rk := 2, heldWrites := [] }
section
variable {p : PlotIx} {r : Fin 32} {s : State} {g : Region} (is : s.stk.region p.val r.val = g)
include is
theorem rekeyFlip_begins (waits : g.rk = 1) (first : ∀ q < 32, q ≠ r.val → (s.stk.region p.val q).rk ≠ 2 ∧ ((s.stk.region p.val q).rk = 1 → g.dueOrder < (s.stk.region p.val q).dueOrder))
    (loaded : (g.key (!g.epoch)).isSome = true) (whole : g.wiping = false) (none : g.heldWrites = []) (runs : s.riserRuns p.val (16384 * r.val) = true) :
    exec (.rekeyFlip p r) s = .next (retryB (s.onStk fun k => k.setRegion p.val r.val g.flip) p.val) := by
  have passes : (((List.range 32).filter (· ≠ r.val)).any fun x => decide ((s.stk.region p.val x).rk = 2)) = false := by
    refine List.any_eq_false.2 fun x among => ?_
    obtain ⟨low, other⟩ := List.mem_filter.1 among
    exact fun passing => (first x (List.mem_range.1 low) (of_decide_eq_true other)).1 (of_decide_eq_true passing)
  have leads : (((List.range 32).filter (· ≠ r.val)).all fun x => (s.stk.region p.val x).rk != 1 || decide (g.dueOrder < (s.stk.region p.val x).dueOrder)) = true := by
    refine List.all_eq_true.2 fun x among => ?_
    obtain ⟨low, other⟩ := List.mem_filter.1 among
    obtain ⟨-, before⟩ := first x (List.mem_range.1 low) (of_decide_eq_true other)
    rw [Bool.or_eq_true, bne_iff_ne, decide_eq_true_eq]
    exact (em _).elim (fun one => .inr (before one)) .inl
  have kept : (g.key !g.epoch).isNone = false := by
    rw [Option.isNone_eq_false_iff]
    exact loaded
  simp only [exec, execRekeyFlip, is, waits, passes, leads, kept, whole, runs, none, bne_self_eq_false, Bool.not_true, Bool.or_self, Bool.false_eq_true, if_false]
  unfold Region.flip
  rw [whole]
  rfl
end
/-- A line that is read with its tag is delivered, or has an error to log. -/
theorem readOut_delivers (g : Region) (p a : Nat) (l : BitVec 640) : (readOut g p a l true).resp = 0 ∨ ∃ e, (readOut g p a l true).err = some e ∧ e.kind ≠ 0 := by
  unfold readOut
  dsimp only
  repeat' split
  all_goals simp [kindIntegrity, kindCrc, kindUncorr, respOkay]
/-- The region past a line of its pass. -/
def Region.past (g : Region) : Region := { g with progress := g.progress + 1 }
def State.pastLine (s : State) (p r : Nat) : State := s.onStk fun k => k.setRegion p r (k.region p r).past
theorem State.pastLine_region {s : State} {p r : Nat} {g : Region} (is : s.stk.region p r = g) (j q : Nat) : (s.pastLine p r).stk.region j q = if 32 * j + q = 32 * p + r then g.past else s.stk.region j q := by
  unfold State.pastLine
  rw [State.onStk_stk, Stack.setRegion_region, is]
/-- A line that the pass has written. -/
def Region.mark (g : Region) (a : Nat) : Region := { g with marks := a :: g.marks }
/-- A pass writes a line again with count 0, and marks it (R375). -/
theorem Stack.takeCount_pass {k : Stack} {p r a : Nat} {g : Region} (is : k.region p r = g) (passes : g.rk = 2) (fresh : g.marks.contains a = false) : k.takeCount p r a = some (g.epoch, 0, k.setRegion p r (g.mark a)) := by
  have first : (decide (g.rk = 2) && !g.marks.contains a) = true := by
    rw [passes, fresh]
    rfl
  unfold Stack.takeCount
  rw [is]
  exact if_pos first
theorem Stack.writeLine_pass {k : Stack} {p r a : Nat} {g : Region} {key : BitVec 256} (is : k.region p r = g) (at' : lineRegion a = r) (passes : g.rk = 2) (fresh : g.marks.contains a = false)
    (isSealed : g.isSealed = true) (holds : g.key g.epoch = some key) (data : BitVec 512) :
    k.writeLine p a data = some ((k.setRegion p r (g.mark a)).setLine (lineId p a) (sealLine p a g.epoch 0 key data)) := by
  have kept : (g.mark a).key g.epoch = some key := holds
  have self : (k.setRegion p r (g.mark a)).region p r = g.mark a := (Stack.setRegion_region ..).trans (if_pos rfl)
  unfold Stack.writeLine
  simp only [at', is, isSealed, Stack.takeCount_pass is passes fresh, self, kept, Bool.not_true, Bool.false_eq_true, if_false]
section
variable {p : PlotIx} {r : Fin 32} {s : State} {g : Region} {a : Nat} (is : s.stk.region p.val r.val = g) (here : 16384 * r.val + g.progress = a) (passes : g.rk = 2) (low : g.progress < 16384) (on : s.clocksOn = true)
  (runs : s.riserRuns p.val a = true) (free : (s.stk.riser p.val).cmdWait.contains .copy = false) (none : (s.stk.riser p.val).wc = [])
include is here passes low on runs free none
theorem rekeyPassLine_skips (skip : g.marks.contains a = true ∨ s.retired p.val (a / 64) = true) : exec (.rekeyPassLine p r 0) s = .next (s.pastLine p.val r.val) := by
  have flushed : flushLine s p.val a 0 = s := by
    simp only [flushLine, none, List.find?_nil]
  have skipped : (g.marks.contains a || s.retired p.val (linePage a)) = true := Bool.or_eq_true_iff.2 skip
  have inside : ¬ 16384 ≤ g.progress := by omega
  simp only [exec, execRekeyPassLine, is, here, passes, on, runs, free, flushed, skipped, inside, decide_false, bne_self_eq_false, Bool.not_true, Bool.or_self, Bool.false_eq_true, if_false, if_true]
  rfl
variable (fresh : g.marks.contains a = false) (used : s.retired p.val (a / 64) = false) {t : State} {o : LineOut} (read : readLine s p.val a srcCopy 0 true = (t, o))
include fresh used read
theorem rekeyPassLine_refused (bad : o.resp ≠ 0) : exec (.rekeyPassLine p r 0) s = .next (t.pastLine p.val r.val) := by
  have flushed : flushLine s p.val a 0 = s := by
    simp only [flushLine, none, List.find?_nil]
  have reads : (g.marks.contains a || s.retired p.val (linePage a)) = false := Bool.or_eq_false_iff.2 ⟨fresh, used⟩
  have inside : ¬ 16384 ≤ g.progress := by omega
  have refused : (o.resp != respOkay) = true := bne_iff_ne.2 bad
  simp only [exec, execRekeyPassLine, is, here, passes, on, runs, free, flushed, reads, inside, read, refused, decide_false, bne_self_eq_false, Bool.not_true, Bool.or_self, Bool.false_eq_true, if_false, if_true]
  rfl
theorem rekeyPassLine_seals (good : o.resp = 0) {k : Stack} (writes : t.stk.writeLine p.val a o.data = some k) : exec (.rekeyPassLine p r 0) s = .next (State.pastLine { t with stk := k } p.val r.val) := by
  have flushed : flushLine s p.val a 0 = s := by
    simp only [flushLine, none, List.find?_nil]
  have reads : (g.marks.contains a || s.retired p.val (linePage a)) = false := Bool.or_eq_false_iff.2 ⟨fresh, used⟩
  have inside : ¬ 16384 ≤ g.progress := by omega
  have okay : (o.resp != respOkay) = false := bne_eq_false_iff_eq.2 good
  simp only [exec, execRekeyPassLine, is, here, passes, on, runs, free, flushed, reads, inside, read, okay, writes, decide_false, bne_self_eq_false, Bool.not_true, Bool.or_self, Bool.false_eq_true, if_false, if_true]
  rfl
end
/-- The region after its pass, and the count of the riser's re-keys (R372, R376). -/
def Region.passed (g : Region) : Region := { g.setKey (!g.epoch) none with rk := 0, progress := 0, marks := [], noted := false }
theorem Region.passed_key (g : Region) (e : Bool) : g.passed.key e = if e = !g.epoch then none else g.key e := g.setKey_key (!g.epoch) none e
theorem Region.passed_epoch (g : Region) : g.passed.epoch = g.epoch := by
  unfold Region.passed Region.setKey
  dsimp only
  split <;> rfl
theorem rekeyPassEnd_erases {p : PlotIx} {r : Fin 32} {s : State} {g : Region} (is : s.stk.region p.val r.val = g) (passes : g.rk = 2) (done : g.progress = 16384) (on : s.clocksOn = true) (runs : s.engineOn p.val = true) {k : Stack}
    (erased : (s.stk.setRiser p.val { s.stk.riser p.val with rekeys := sat32 ((s.stk.riser p.val).rekeys + 1) }).setRegion p.val r.val g.passed = k) :
    exec (.rekeyPassEnd p r) s = .next { s with stk := if g.noted then k.rekeyDue p.val r.val else k } := by
  subst erased
  simp only [exec, execRekeyPassEnd, is, passes, done, on, runs, bne_self_eq_false, Bool.not_true, Bool.or_self, Bool.false_eq_true, if_false]
  rfl
/-- The oldest held write of a region is given up (R377). -/
def State.givesUp (s : State) (p r : Nat) (rest : List WcEntry) : State := s.onStk fun k =>
  (k.setRegion p r { s.stk.region p r with heldWrites := rest }).setRiser p { s.stk.riser p with holdTimeouts := sat32 ((s.stk.riser p).holdTimeouts + 1) }
theorem holdTimeout_returns {p : PlotIx} {r : Fin 32} {s : State} {e : WcEntry} {rest : List WcEntry} {k : Seat} (holds : (s.stk.region p.val r.val).heldWrites = e :: rest) (waits : e.waiters = [.mc k])
    (runs : s.engineOn p.val = true) : ∃ t, exec (.holdTimeout p r) s = .next t ∧ t.stk = (retryB (answerB (s.givesUp p.val r.val rest) (.mc k) respHoldTimeout 0) p.val).stk := by
  simp only [exec]
  unfold execHoldTimeout
  simp only [holds, runs, waits, Bool.not_true, Bool.false_eq_true, if_false]
  split
  · exact ⟨_, rfl, State.raiseOnce_stk ..⟩
  · exact ⟨_, rfl, rfl⟩
theorem State.givesUp_returned {s : State} {p r : Nat} {rest : List WcEntry} {k : Seat} (none : (s.stk.riser p).waiting = []) {x : Stack} (stk : x = (retryB (answerB (s.givesUp p r rest) (.mc k) respHoldTimeout 0) p).stk) :
    x.reply = (respHoldTimeout, 0) ∧ x.region p r = { s.stk.region p r with heldWrites := rest } ∧ x.lines = s.stk.lines ∧ (x.riser p).holdTimeouts = sat32 ((s.stk.riser p).holdTimeouts + 1) := by
  have self : (s.givesUp p r rest).stk.riser p = { s.stk.riser p with holdTimeouts := sat32 ((s.stk.riser p).holdTimeouts + 1) } := (Stack.setRiser_riser ..).trans (if_pos rfl)
  have answers : answerB (s.givesUp p r rest) (.mc k) respHoldTimeout 0 = (s.givesUp p r rest).onStk fun k => { k with reply := (respHoldTimeout, 0) } := rfl
  have idle : ((answerB (s.givesUp p r rest) (.mc k) respHoldTimeout 0).stk.riser p).waiting = [] := by
    rw [answers]
    exact (congrArg Riser.waiting self).trans none
  rw [stk, retryB_of_none idle, answers]
  refine ⟨rfl, (Stack.setRegion_region ..).trans (if_pos rfl), rfl, ?_⟩
  refine (congrArg Riser.holdTimeouts ((Stack.setRiser_riser ..).trans (if_pos rfl))).trans ?_
  exact congrArg Riser.holdTimeouts self

theorem Stack.setLine_region (k : Stack) (i : Nat) (v : BitVec 640) (j q : Nat) : (k.setLine i v).region j q = k.region j q := rfl
theorem Stack.setRegion_others (k : Stack) (p r : Nat) (g : Region) (j q : Nat) (other : 32 * j + q ≠ 32 * p + r) : (k.setRegion p r g).region j q = k.region j q := (Stack.setRegion_region ..).trans (if_neg other)
theorem Stack.setRegion_self (k : Stack) (p r : Nat) (g : Region) : (k.setRegion p r g).region p r = g := (Stack.setRegion_region ..).trans (if_pos rfl)
/-- The regions after the end of a pass. -/
theorem Stack.passed_region {k x : Stack} {p r : Nat} {g : Region} (is : x = k.setRegion p r g.passed) : let y := if g.noted then x.rekeyDue p r else x
    y.lines = k.lines ∧ (∀ j q, 32 * j + q ≠ 32 * p + r → y.region j q = k.region j q) ∧ (y.riser p).rekeys = (k.riser p).rekeys ∧
      ∃ n d, y.region p r = { g.passed with rk := n, dueOrder := d } ∧ n = if g.noted then 1 else 0 := by
  have self : x.region p r = g.passed := by rw [is, Stack.setRegion_self]
  dsimp only
  split
  · rw [Stack.rekeyDue_steady self rfl]
    refine ⟨by rw [is]; rfl, fun j q other => ?_, ?_, 1, _, Stack.setRegion_self .., rfl⟩
    · rw [Stack.setRegion_others _ _ _ _ _ _ other, is]
      exact Stack.setRegion_others _ _ _ _ _ _ other
    · refine (congrArg Riser.rekeys ((Stack.setRiser_riser ..).trans (if_pos rfl))).trans ?_
      rw [is]
      rfl
  · refine ⟨by rw [is]; rfl, fun j q other => ?_, by rw [is]; rfl, 0, g.passed.dueOrder, self, rfl⟩
    rw [is]
    exact Stack.setRegion_others _ _ _ _ _ _ other
/-- Settles O55: a secret's WRITE, and the keys, requests, flips, passes and held writes of a region, each by its command. -/
theorem sealKeysAndRekey : Obligations.SealKeysAndRekey := by
  unfold Obligations.SealKeysAndRekey
  intro p r s
  dsimp only
  refine ⟨fun q u h f index above below shut ok => smsWrite_keeps h f index above below shut ok rfl, fun m on root isSealed holds idle still => ?_, fun rest ordered => ⟨fun opened => rkreq_open rfl ordered opened, fun isSealed steady => ?_, fun isSealed busy => ?_⟩,
    fun waits first loaded whole none calm runs => ?_, fun a here passes low on runs free none => ⟨fun skip => ?_, fun fresh used => ⟨fun bad => ?_, fun key isSealed holds good => ?_⟩⟩, fun passes done on runs => ?_, fun e rest k holds waits none runs => ?_⟩
  · refine ⟨_, keySlotLoad_loads rfl on root isSealed holds idle still, rfl, fun j q other => Stack.setRegion_others _ _ _ _ _ _ other, ?_⟩
    rw [State.onStk_stk, Stack.setRegion_self, Region.load_key, Region.load_key, Region.load_gen, if_pos rfl, if_neg (by cases (s.stk.region p.val r.val).epoch <;> decide)]
    exact ⟨rfl, rfl, rfl⟩
  · refine ⟨_, rkreq_steady rfl ordered isSealed steady, rfl, fun j q other => ?_, ?_, ?_⟩
    all_goals rw [Stack.rekeyDue_steady rfl steady]
    · exact Stack.setRegion_others _ _ _ _ _ _ other
    · exact Stack.setRegion_self ..
    · rfl
  · exact ⟨_, rkreq_busy rfl ordered isSealed busy, rfl, fun j q other => Stack.setRegion_others _ _ _ _ _ _ other, Stack.setRegion_self .., rfl⟩
  · refine ⟨_, rekeyFlip_begins rfl waits first loaded whole none runs, ?_⟩
    rw [retryB_of_none (s := s.onStk fun k => k.setRegion p.val r.val (s.stk.region p.val r.val).flip) calm]
    refine ⟨fun j q other => Stack.setRegion_others _ _ _ _ _ _ other, rfl, fun j => ?_, Stack.setRegion_self ..⟩
    exact Stack.setRiser_same (s.stk.setRegion p.val r.val _) p.val (by rw [← calm]; rfl) j
  · refine ⟨_, rekeyPassLine_skips rfl here.symm passes low on runs free none skip, rfl, fun j q other => ?_, ?_⟩
    · exact (State.pastLine_region rfl ..).trans (if_neg other)
    · exact (State.pastLine_region rfl ..).trans (if_pos rfl)
  · have at' : lineRegion a = r.val := by
      rw [lineRegion_eq, here]
      omega
    obtain ⟨t, read, -, -, ⟨lines, regions, -⟩, -, logs⟩ := readLine_parts s p.val a srcCopy true (congrArg (fun n => readOut (s.stk.region p.val n) p.val a (s.stk.line (lineId p.val a)) true) at')
    obtain ⟨e, err, kind⟩ := (readOut_delivers (s.stk.region p.val r.val) p.val a (s.stk.line (lineId p.val a))).resolve_left bad
    obtain ⟨l, last, -, plot, addr, source, -⟩ := logs e err kind
    have kept (j q : Nat) : t.stk.region j q = s.stk.region j q := congrArg (fun l => tget ({} : Region) l (32 * j + q)) regions
    refine ⟨_, l, rekeyPassLine_refused rfl here.symm passes low on runs free none fresh used read bad, lines, fun j q other => ?_, ?_, last, source, plot, addr⟩
    · exact (State.pastLine_region (kept _ _) ..).trans ((if_neg other).trans (kept _ _))
    · exact (State.pastLine_region (kept _ _) ..).trans (if_pos rfl)
  · have at' : lineRegion a = r.val := by
      rw [lineRegion_eq, here]
      omega
    obtain ⟨t, read, -, -, ⟨lines, regions, -⟩, -⟩ := readLine_parts s p.val a srcCopy true (congrArg (fun n => readOut (s.stk.region p.val n) p.val a (s.stk.line (lineId p.val a)) true) at')
    have kept (j q : Nat) : t.stk.region j q = s.stk.region j q := congrArg (fun l => tget ({} : Region) l (32 * j + q)) regions
    have same (i : Nat) : t.stk.line i = s.stk.line i := congrArg (fun l : List (Nat × BitVec 640) => (l.lookup i).getD (lineFill i)) lines
    have writes := Stack.writeLine_pass (kept _ _) at' passes fresh isSealed holds (readOut (s.stk.region p.val r.val) p.val a (s.stk.line (lineId p.val a)) true).data
    generalize marked : (t.stk.setRegion p.val r.val ((s.stk.region p.val r.val).mark a)).setLine (lineId p.val a) (sealLine p.val a (s.stk.region p.val r.val).epoch 0 key
      (readOut (s.stk.region p.val r.val) p.val a (s.stk.line (lineId p.val a)) true).data) = k at writes
    have line (i : Nat) : k.line i = if i = lineId p.val a then sealLine p.val a (s.stk.region p.val r.val).epoch 0 key (readOut (s.stk.region p.val r.val) p.val a (s.stk.line (lineId p.val a)) true).data else s.stk.line i := by
      rw [← marked, Stack.setLine_line]
      exact if_congr Iff.rfl rfl (same i)
    have region (j q : Nat) : k.region j q = if 32 * j + q = 32 * p.val + r.val then (s.stk.region p.val r.val).mark a else s.stk.region j q := by
      rw [← marked, Stack.setLine_region]
      exact (Stack.setRegion_region t.stk ..).trans (if_congr Iff.rfl rfl (kept j q))
    have own : ({ t with stk := k } : State).stk.region p.val r.val = (s.stk.region p.val r.val).mark a := (region ..).trans (if_pos rfl)
    refine ⟨_, rekeyPassLine_seals rfl here.symm passes low on runs free none fresh used read good writes, (line _).trans (if_pos rfl), fun i other => (line i).trans (if_neg other), fun j q other => ?_, ?_⟩
    · exact (State.pastLine_region own ..).trans ((if_neg other).trans ((region ..).trans (if_neg other)))
    · refine (State.pastLine_region own ..).trans ?_
      rw [if_pos rfl]
      rfl
  · obtain ⟨lines, others, rekeys, n, d, region, rk⟩ := Stack.passed_region (k := s.stk.setRiser p.val { s.stk.riser p.val with rekeys := sat32 ((s.stk.riser p.val).rekeys + 1) }) (p := p.val) (r := r.val) (g := s.stk.region p.val r.val) rfl
    have keys (e : Bool) := (congrArg (fun x => Region.key x e) region).trans ((s.stk.region p.val r.val).passed_key e)
    have epoch := (congrArg Region.epoch region).trans (s.stk.region p.val r.val).passed_epoch
    refine ⟨_, rekeyPassEnd_erases rfl passes done on runs rfl, lines, others, ?_, ?_, (congrArg Region.rk region).trans rk, epoch, ?_⟩
    · exact (keys _).trans (if_pos rfl)
    · refine (keys _).trans (if_neg ?_)
      cases (s.stk.region p.val r.val).epoch <;> decide
    · refine rekeys.trans ((congrArg Riser.rekeys ((Stack.setRiser_riser ..).trans (if_pos rfl))).trans ?_)
      exact sat32_eq_min _
  · obtain ⟨t, done, stk⟩ := holdTimeout_returns holds waits runs
    obtain ⟨reply, region, lines, count⟩ := State.givesUp_returned none stk
    exact ⟨t, done, reply, region, lines, count.trans (sat32_eq_min _)⟩

end Sys2Proof.Machine
end

section
/-! PROOF. Link states and seal frames (R386-R392, R409, R416, R417). -/

namespace Sys2Proof.Machine

/-! ## Ports, their events and their receivers (R409, R416, R417) -/

theorem State.onPort_port (s : State) (n : Nat) (g : Port → Port) (j : Nat) : (s.onPort n g).lnk.port j = if j = n then g (s.lnk.port n) else s.lnk.port j := Links.setPort_port ..
theorem State.onPort_self (s : State) (n : Nat) (g : Port → Port) : (s.onPort n g).lnk.port n = g (s.lnk.port n) := (s.onPort_port n g n).trans (if_pos rfl)
theorem State.onPort_other (s : State) {n j : Nat} (g : Port → Port) (other : j ≠ n) : (s.onPort n g).lnk.port j = s.lnk.port j := (s.onPort_port n g j).trans (if_neg other)
theorem State.onPort_net (s : State) (n : Nat) (g : Port → Port) : (s.onPort n g).net = s.net := rfl
theorem State.onPort_onPort (s : State) (n : Nat) (f g : Port → Port) : (s.onPort n f).onPort n g = s.onPort n fun x => g (f x) := by
  have self := s.onPort_self n f
  have twice (l : Links) (v w : Port) : (l.setPort n v).setPort n w = l.setPort n w := congrArg (fun t => { l with ports := t }) (tput_tput ..)
  show ({ s with lnk := ((s.lnk.setPort n (f (s.lnk.port n))).setPort n (g ((s.onPort n f).lnk.port n))) } : State) = _
  rw [self, twice]
  rfl
theorem portEvent_lnk (s : State) (n code b : Nat) : (portEvent s n code b).lnk = s.lnk := by
  unfold portEvent
  split
  · exact State.raiseOnce_lnk ..
  · rfl
theorem portEvent_net (s : State) (n code b : Nat) : (portEvent s n code b).net = s.net := by
  unfold portEvent
  split
  · exact State.raiseOnce_net ..
  · rfl
theorem quadPll_lnk (s : State) (k : Nat) : ∃ q, quadPll s k = { s with lnk := { s.lnk with quads := q } } := ⟨_, Eq.refl (quadPll s k)⟩
theorem quadPll_port (s : State) (k j : Nat) : (quadPll s k).lnk.port j = s.lnk.port j := rfl
theorem Port.count_counts (x : Port) (k : Nat) : tget 0 (x.count k 1).cnt k = min 4294967295 (tget 0 x.cnt k + 1) := by
  rw [← sat32_eq_min]
  exact (tget_tput ..).trans (if_pos rfl)
theorem rxStop_none {s : State} {n : Nat} (none : (s.lnk.port n).rx = none) (cause : Nat) : rxStop s n cause = s := by
  unfold rxStop
  rw [none]
/-- The queue of a receiver whose open packet is rewound. -/
def Queue.stopped (q : Queue) (r : RxPkt) (cause : Nat) : Queue := (q.rewind r.prod cause).endDiscard r.prod
theorem rxStop_rewinds {s : State} {n : Nat} {r : RxPkt} (receives : (s.lnk.port n).rx = some r) (lives : r.dead = false) (opened : ((s.net.queue r.queue).prod r.prod).openWords ≠ []) (cause : Nat) :
    rxStop s n cause = (s.onPort n fun x => { x with rx := none }).onNet fun m => m.setQueue r.queue ((m.queue r.queue).stopped r cause) := by
  have same : (s.net.queue r.queue).rewindOpen r.prod cause = (s.net.queue r.queue).rewind r.prod cause := if_neg fun e => opened (List.isEmpty_iff.1 e)
  have act : (if r.bytes.isEmpty then (s.net.queue r.queue).rewindOpen r.prod cause else (s.net.queue r.queue).rewind r.prod cause) = (s.net.queue r.queue).rewind r.prod cause := by rw [same, ite_self]
  unfold rxStop
  simp only [receives, lives, Bool.false_eq_true, if_false]
  exact congrArg (fun q : Queue => { (s.onPort n fun x => { x with rx := none }) with net := s.net.setQueue r.queue (q.endDiscard r.prod) }) act
theorem Queue.stopped_parts {q : Queue} {r : RxPkt} (opened : (q.prod r.prod).openWords ≠ []) (cause : Nat) :
    ((q.stopped r cause).prod r.prod).openWords = [] ∧ (q.stopped r cause).flying = q.flying ∧ tget 0 (q.stopped r cause).rw cause = min 4294967295 (tget 0 q.rw cause + 1) := by
  have prod := q.rewind_prod r.prod cause
  refine ⟨?_, ?_, q.rewind_rw r.prod cause⟩
  · refine (congrArg Prod.openWords (Queue.setProd_self ..)).trans ?_
    rw [prod]
  · refine (congrArg (List.filterMap Sent.pkt?) (Queue.rewind_flight opened cause)).trans ?_
    rw [List.filterMap_append]
    exact List.append_nil _
/-- A port that is UP loses its lock while it receives nothing, or with the packet that it receives. -/
theorem lockLost_parts {s : State} {n : Nat} (up : (s.lnk.port n).link = .up) : ∃ l, lockLost s n = l ∧ l.net = (rxStop s n 2).net ∧ l.lnk = ((rxStop s n 2).onPort n fun x => ({ x with link := .lost } : Port).count ctLockLoss 1).lnk := by
  refine ⟨_, rfl, ?_⟩
  unfold lockLost
  rw [up]
  exact ⟨portEvent_net .., portEvent_lnk ..⟩

/-- The receiver once a frame is accepted: under its next key when the frame names that, its counter raised, or its key stepped by a key-change frame (R390-R392). -/
def Port.accepts (l : List Byte) (x y : Port) : Port :=
  let y := { y with frame := none }
  let y := if (byteAt l 1).toNat = x.rxKeyN % 256 then y else y.switchRx
  if byteAt l 0 == 2 then y.switchRx else { y with rxLast := some (beField l 8 8) }
/-- A packet that commits at its end. -/
theorem finishRx_commits {s : State} {n : Nat} {r : RxPkt} {bytes : List Byte} {q : Queue} (lives : r.dead = false) (pushes : pushWords (s.net.queue r.queue) r.prod r.rank ((queueWords bytes).drop (r.bytes.length / 32)) = (q, true))
    (words : (q.prod r.prod).openWords ≠ []) : finishRx s n r bytes = (s.onNet fun m => m.setQueue r.queue (q.commit r.prod bytes.length)).onPort n fun x =>
      { x with rx := none, pktsRx := wrap48 (x.pktsRx + 1), bytesRx := wrap48 (x.bytesRx + bytes.length), rxSeq := (x.rxSeq + 1) % 65536 } := by
  have some' : (q.prod r.prod).openWords.isEmpty = false := Bool.eq_false_iff.2 fun e => words (List.isEmpty_iff.1 e)
  have sends (u : State) (g : Port → Port) (h : Net → Net) : (u.onPort n g).onNet h = (u.onNet h).onPort n g := rfl
  unfold finishRx
  simp only [lives, State.onPort_net, pushes, some', Bool.not_true, Bool.false_eq_true, if_false, sends, State.onPort_onPort]

/-! ## The judgement of seal frames (R386-R392) -/

section
variable {s : State} {n : Nat} {x : Port} {l : List Byte} {key : BitVec 256} (is : s.lnk.port n = x) (awaits : x.frame = some l) (isSealed : x.sealOn = true) (keyed : s.lnk.keyset n = true)
  (names : x.keyFor l = some key) (header : sealHeaderOk l = true) (length : l.length = 32 + frameLen l)
include is awaits isSealed keyed names header length
theorem judgeFrame_bad (bad : gcmGood key (x.rxIv l) (l.take 16) (l.drop 16) = false) :
    judgeFrame s n = rxStop (portEvent ((s.onPort n fun x => { x with frame := none }).onPort n fun x => x.count ctTagFail 1) n 0x0502 0) n 3 := by
  have on : (s.onPort n fun x => { x with frame := none }).lnk.keyset n = true := by
    rw [← keyed]
    unfold Links.keyset
    rw [State.onPort_self]
    rfl
  unfold judgeFrame
  simp only [is, awaits, isSealed, on, names, header, length, bad, Bool.not_true, Bool.not_false, Bool.or_self, Bool.false_eq_true, if_false, if_true, bne_self_eq_false]
theorem judgeFrame_good (good : gcmGood key (x.rxIv l) (l.take 16) (l.drop 16) = true) (beats : (byteAt l 1).toNat = x.rxKeyN % 256 → ∀ c, x.rxLast = some c → c < beField l 8 8) :
    judgeFrame s n = x.rx.elim (s.onPort n (Port.accepts l x)) fun r => if byteAt l 0 == 1 then finishRx (s.onPort n (Port.accepts l x)) n r (x.openFrame l) else s.onPort n (Port.accepts l x) := by
  have on : (s.onPort n fun x => { x with frame := none }).lnk.keyset n = true := by
    rw [← keyed]
    unfold Links.keyset
    rw [State.onPort_self]
    rfl
  unfold judgeFrame
  simp only [is, awaits, isSealed, on, names, header, length, good, Bool.not_true, Bool.or_self, Bool.false_eq_true, if_false, bne_self_eq_false, State.onPort_onPort]
  refine (if_neg fun replay => ?_).trans ?_
  swap
  · unfold Port.accepts
    cases x.rx <;> rfl
  obtain ⟨now, late⟩ := Bool.and_eq_true_iff.1 replay
  split at late
  · next c last => exact absurd (of_decide_eq_true late) (Nat.not_le.2 (beats (of_decide_eq_true now) c last))
  · exact Bool.false_ne_true late
section
variable (good : gcmGood key (x.rxIv l) (l.take 16) (l.drop 16) = true) (beats : (byteAt l 1).toNat = x.rxKeyN % 256 → ∀ c, x.rxLast = some c → c < beField l 8 8)
include good beats
theorem judgeFrame_alone (none : x.rx = none) : judgeFrame s n = s.onPort n (Port.accepts l x) := by
  rw [judgeFrame_good is awaits isSealed keyed names header length good beats, none, Option.elim_none]
theorem judgeFrame_change (change : byteAt l 0 = 2) : judgeFrame s n = s.onPort n (Port.accepts l x) := by
  rw [judgeFrame_good is awaits isSealed keyed names header length good beats, change]
  cases x.rx <;> rfl
theorem judgeFrame_packet {r : RxPkt} (data : byteAt l 0 = 1) (receives : x.rx = some r) : judgeFrame s n = finishRx (s.onPort n (Port.accepts l x)) n r (x.openFrame l) := by
  rw [judgeFrame_good is awaits isSealed keyed names header length good beats, receives, data]
  rfl
end
end
theorem Port.accepts_data {l : List Byte} {x : Port} (now : (byteAt l 1).toNat = x.rxKeyN % 256) (data : byteAt l 0 = 1) (y : Port) : Port.accepts l x y = { y with frame := none, rxLast := some (beField l 8 8) } := by
  unfold Port.accepts
  dsimp only
  rw [if_pos now, data]
  rfl
theorem Port.accepts_change {l : List Byte} {x : Port} (now : (byteAt l 1).toNat = x.rxKeyN % 256) (change : byteAt l 0 = 2) (y : Port) : Port.accepts l x y = ({ y with frame := none } : Port).switchRx := by
  unfold Port.accepts
  dsimp only
  rw [if_pos now, change]
  rfl
theorem Port.accepts_next {l : List Byte} {x : Port} (next : (byteAt l 1).toNat ≠ x.rxKeyN % 256) (data : byteAt l 0 = 1) (y : Port) :
    Port.accepts l x y = { ({ y with frame := none } : Port).switchRx with rxLast := some (beField l 8 8) } := by
  unfold Port.accepts
  dsimp only
  rw [if_neg next, data]
  rfl
theorem sealFrameRx_judges {n : PortIx} {s : State} {l : List Byte} (on : s.clocksOn = true) (awaits : (s.lnk.port n.val).frame = some l) : exec (.sealFrameRx n (frameTag l)) s = .next (judgeFrame s n.val) := by
  simp [exec, execSealFrameRx, on, awaits]
theorem sealFrameRx_other {n : PortIx} {s : State} {tag : List Byte} (other : ∀ l, (s.lnk.port n.val).frame = some l → frameTag l ≠ tag) : exec (.sealFrameRx n tag) s = .next s := by
  have never : (s.lnk.port n.val).frame.any (fun l => frameTag l == tag) = false := by
    cases h : (s.lnk.port n.val).frame with
    | none => rfl
    | some l => exact beq_false_of_ne (other l h)
  simp only [exec, execSealFrameRx, never, Bool.and_false, Bool.false_eq_true, if_false]
/-- The packet that a frame carries is as long as its header says. -/
theorem Port.openFrame_length {x : Port} {l : List Byte} (length : l.length = 32 + frameLen l) : (x.openFrame l).length = frameLen l := by
  unfold Port.openFrame
  rw [gcmCrypt_length, List.length_take, List.length_drop]
  omega
theorem Port.keyFor_now {x : Port} {l : List Byte} (now : (byteAt l 1).toNat = x.rxKeyN % 256) : x.keyFor l = some x.rxKey := if_pos now
theorem Port.keyFor_next {x : Port} {l : List Byte} (next : (byteAt l 1).toNat = (x.rxKeyN + 1) % 256) : (byteAt l 1).toNat ≠ x.rxKeyN % 256 ∧ x.keyFor l = some (nextKey x.rxKey x.rxKeyN) := by
  have other : (byteAt l 1).toNat ≠ x.rxKeyN % 256 := by omega
  exact ⟨other, (if_neg other).trans (if_pos next)⟩

/-! ## Link states (R409, R416, R417) -/

section
variable {n : PortIx} {s : State} (on : s.clocksOn = true)
include on
theorem portWakeDone_reaches (waking : (s.lnk.port n.val).link = .waking) (locked : (s.lnk.quad (n.val / 4)).pllLocked = true) :
    exec (.portWakeDone n) s = .next (quadPll (s.onPort n.val fun x => { x with link := if s.portWants n.val = 2 then .acquiring else .idle }) (n.val / 4)) := by
  simp only [exec, execPortWakeDone, on, waking, locked, beq_self_eq_true, Bool.and_self, if_true]
theorem linkUp_reaches (acquiring : (s.lnk.port n.val).link = .acquiring) : exec (.linkUp n) s = .next (s.onPort n.val fun x => { x with link := .up }) := by
  simp only [exec, execLinkUp, on, acquiring, beq_self_eq_true, Bool.and_self, if_true]
theorem linkReacquire_reaches (lost : (s.lnk.port n.val).link = .lost) (supplied : s.linkSupplyOut = false) : exec (.linkReacquire n) s = .next (s.onPort n.val fun x => { x with link := .acquiring }) := by
  simp only [exec, execLinkReacquire, on, lost, supplied, beq_self_eq_true, Bool.and_self, Bool.not_false, if_true]
theorem lockLoss_loses : exec (.lockLoss n) s = .next (lockLost s n.val) := by
  simp only [exec, execLockLoss, on, if_true]
end
theorem kchg_due {n : PortIx} {s : State} {rest : List Order} (ordered : takeOrder (.keyChange n.val) s.mc.orders = some rest) :
    exec (.kchg n) s = .next ((s.onMc fun m => { m with orders := rest }).onPort n.val fun x => if x.sealOn then { x with kchgDue := true } else x) := by
  simp only [exec, execKchg, ordered]
/-- Settles O56: link states by their commands, and a seal frame judged by its key, its tag and its counter. -/
theorem linkStatesAndSealFrames : Obligations.LinkStatesAndSealFrames := by
  unfold Obligations.LinkStatesAndSealFrames
  intro n s
  dsimp only
  refine ⟨fun on => ⟨fun waking locked => ?_, fun acquiring => ?_, fun up none => ?_, fun rx up receives lives opened => ?_, fun lost supplied => ?_, fun tag other => sealFrameRx_other other,
      fun l awaits isSealed keyed header length now => ⟨fun good beats data none => ?_, fun rx q good beats data receives lives pushes words => ?_, fun good beats change => ?_, fun bad none => ?_, fun rx bad receives lives opened => ?_⟩⟩,
    fun l on awaits isSealed keyed header length next good data none => ?_, fun rest ordered => ?_⟩
  · refine ⟨_, portWakeDone_reaches on waking locked, ?_, fun j other => (quadPll_port ..).trans (State.onPort_other s _ other), (quadPll_port ..).trans (State.onPort_self s ..)⟩
    obtain ⟨q, quads⟩ := quadPll_lnk (s.onPort n.val fun x => { x with link := if s.portWants n.val = 2 then .acquiring else .idle }) (n.val / 4)
    rw [quads]
    rfl
  · exact ⟨_, linkUp_reaches on acquiring, rfl, fun j other => State.onPort_other s _ other, State.onPort_self ..⟩
  · obtain ⟨t, lost, net, lnk⟩ := lockLost_parts up
    rw [rxStop_none none] at net lnk
    have port (j : Nat) := (congrArg (fun l : Links => l.port j) lnk).trans (State.onPort_port ..)
    refine ⟨t, (lockLoss_loses on).trans (congrArg Host.Outcome.next lost), fun j other => (port j).trans (if_neg other), net, ?_⟩
    rw [port, if_pos rfl]
    exact ⟨rfl, Port.count_counts ..⟩
  · obtain ⟨t, lost, net, lnk⟩ := lockLost_parts up
    rw [rxStop_rewinds receives lives opened] at net lnk
    obtain ⟨words, -, count⟩ := Queue.stopped_parts opened 2
    have port := (congrArg (fun l : Links => l.port n.val) lnk).trans (State.onPort_self ..)
    have queue := (congrArg (fun m : Net => m.queue rx.queue) net).trans (Net.setQueue_self ..)
    refine ⟨t, (lockLoss_loses on).trans (congrArg Host.Outcome.next lost), ?_, ?_, (congrArg (fun q : Queue => (q.prod rx.prod).openWords) queue).trans words, (congrArg (fun q : Queue => tget 0 q.rw 2) queue).trans count⟩
    · refine (congrArg Port.rx port).trans ?_
      exact congrArg Port.rx (State.onPort_self ..)
    · exact (congrArg Port.link port).trans rfl
  · exact ⟨_, linkReacquire_reaches on lost supplied, rfl, fun j other => State.onPort_other s _ other, State.onPort_self ..⟩
  · have judged := judgeFrame_alone rfl awaits isSealed keyed (Port.keyFor_now now) header length good (fun _ => beats) none
    refine ⟨_, (sealFrameRx_judges on awaits).trans (congrArg Host.Outcome.next judged), rfl, fun j other => State.onPort_other s _ other, ?_⟩
    exact (State.onPort_self ..).trans (Port.accepts_data now data _)
  · have judged := judgeFrame_packet rfl awaits isSealed keyed (Port.keyFor_now now) header length good (fun _ => beats) data receives
    rw [finishRx_commits lives (by exact pushes) words, Port.openFrame_length length] at judged
    refine ⟨_, (sealFrameRx_judges on awaits).trans (congrArg Host.Outcome.next judged), fun j other => ?_, Net.setQueue_self .., fun j => Net.setQueue_other _ _, ?_⟩
    · exact (State.onPort_other _ _ other).trans (State.onPort_other s _ other)
    · have port : ((s.onPort n.val (Port.accepts l (s.lnk.port n.val))).onNet fun m => m.setQueue rx.queue (q.commit rx.prod (frameLen l))).lnk.port n.val = { s.lnk.port n.val with frame := none, rxLast := some (beField l 8 8) } :=
        (State.onPort_self s ..).trans (Port.accepts_data now data _)
      rw [State.onPort_self, port]
      exact ⟨rfl, rfl, rfl⟩
  · have judged := judgeFrame_change rfl awaits isSealed keyed (Port.keyFor_now now) header length good (fun _ => beats) change
    refine ⟨_, (sealFrameRx_judges on awaits).trans (congrArg Host.Outcome.next judged), fun j other => State.onPort_other s _ other, ?_⟩
    rw [State.onPort_self, Port.accepts_change now change]
    exact ⟨rfl, rfl, rfl, rfl⟩
  · have judged := judgeFrame_bad rfl awaits isSealed keyed (Port.keyFor_now now) header length bad
    rw [State.onPort_onPort] at judged
    have port (j : Nat) := (congrArg (fun l : Links => l.port j) (portEvent_lnk (s.onPort n.val fun x => ({ x with frame := .none } : Port).count ctTagFail 1) n.val 0x0502 0)).trans (State.onPort_port ..)
    have idle := (congrArg Port.rx ((port n.val).trans (if_pos rfl))).trans none
    rw [rxStop_none idle] at judged
    refine ⟨_, (sealFrameRx_judges on awaits).trans (congrArg Host.Outcome.next judged), fun j other => (port j).trans (if_neg other), portEvent_net .., ?_⟩
    rw [(port n.val).trans (if_pos rfl)]
    exact ⟨rfl, Port.count_counts { s.lnk.port n.val with frame := .none } ctTagFail⟩
  · have judged := judgeFrame_bad rfl awaits isSealed keyed (Port.keyFor_now now) header length bad
    rw [State.onPort_onPort] at judged
    have port := (congrArg (fun l : Links => l.port n.val) (portEvent_lnk (s.onPort n.val fun x => ({ x with frame := none } : Port).count ctTagFail 1) n.val 0x0502 0)).trans (State.onPort_self ..)
    have net := portEvent_net (s.onPort n.val fun x => ({ x with frame := none } : Port).count ctTagFail 1) n.val 0x0502 0
    generalize portEvent (s.onPort n.val fun x => ({ x with frame := none } : Port).count ctTagFail 1) n.val 0x0502 0 = u at judged port net
    have opened' : ((u.net.queue rx.queue).prod rx.prod).openWords ≠ [] := by
      rw [net]
      exact opened
    rw [rxStop_rewinds ((congrArg Port.rx port).trans receives) lives opened'] at judged
    have queue : (u.net.setQueue rx.queue ((u.net.queue rx.queue).stopped rx 3)).queue rx.queue = (s.net.queue rx.queue).stopped rx 3 := by
      rw [Net.setQueue_self, net]
      rfl
    obtain ⟨none', flying, count⟩ := Queue.stopped_parts opened 3
    refine ⟨_, (sealFrameRx_judges on awaits).trans (congrArg Host.Outcome.next judged), ?_, ?_, ?_, ?_, ?_, ?_, ?_⟩
    · exact congrArg Port.rx (State.onPort_self u ..)
    · exact (congrArg Port.rxKey (State.onPort_self u ..)).trans ((congrArg Port.rxKey port).trans rfl)
    · exact (congrArg Port.rxKeyN (State.onPort_self u ..)).trans ((congrArg Port.rxKeyN port).trans rfl)
    · exact (congrArg Port.rxLast (State.onPort_self u ..)).trans ((congrArg Port.rxLast port).trans rfl)
    · exact (congrArg (fun q : Queue => (q.prod rx.prod).openWords) queue).trans none'
    · exact (congrArg Queue.flying queue).trans flying
    · exact (congrArg (fun q : Queue => tget 0 q.rw 3) queue).trans count
  · obtain ⟨later, names⟩ := Port.keyFor_next next
    have judged := judgeFrame_alone rfl awaits isSealed keyed names header length good (fun now => absurd now later) none
    refine ⟨_, (sealFrameRx_judges on awaits).trans (congrArg Host.Outcome.next judged), fun j other => State.onPort_other s _ other, ?_⟩
    rw [State.onPort_self, Port.accepts_next later data]
    exact ⟨rfl, rfl, rfl, rfl⟩
  · refine ⟨_, kchg_due ordered, rfl, fun j other => State.onPort_other (s.onMc _) _ other, State.onPort_self ..⟩

end Sys2Proof.Machine
end

section
/-! PROOF. Packets and bulk transfers: rules (R404-R429). -/

namespace Sys2Proof.Machine

/-! ## Packets from the line (R404-R411, R419-R424) -/

theorem judgeFrame_none {s : State} {n : Nat} (none : (s.lnk.port n).frame = none) : judgeFrame s n = s := by
  unfold judgeFrame
  simp only [none]
theorem Port.count_other (x : Port) (k n : Nat) {j : Nat} (other : j ≠ k) : tget 0 (x.count k n).cnt j = tget 0 x.cnt j := (tget_tput ..).trans (if_neg other)
theorem Port.count_none (x : Port) (k j : Nat) : tget 0 (x.count k 0).cnt j = min 4294967295 (tget 0 x.cnt j) ∨ j ≠ k := by
  by_cases here : j = k
  · subst here
    left
    rw [← sat32_eq_min]
    exact (tget_tput ..).trans (if_pos rfl)
  · exact .inr here
/-- A miss of the steering table counts. -/
def State.missed (s : State) (n : Nat) (hit : Option Steer) : State := s.onPort n fun x => if hit.isNone then x.count ctMiss 1 else x
/-- A packet that is discarded for a reason that is counted. -/
def State.discards (s : State) (n k : Nat) (seen : List Byte) : State := discardRx (s.onPort n fun x => x.count k 1) n seen
theorem State.discards_parts (s : State) (n k : Nat) (seen : List Byte) : (s.discards n k seen).net = s.net ∧ (∃ rx, ((s.discards n k seen).lnk.port n).rx = some rx ∧ rx.dead = true) ∧
    ((s.discards n k seen).lnk.port n).cnt = ((s.lnk.port n).count k 1).cnt := by
  unfold State.discards discardRx
  rw [State.onPort_onPort, State.onPort_self]
  exact ⟨rfl, ⟨_, rfl, rfl⟩, rfl⟩
/-- The steering of a packet that passes the port's checks, by the entry that its key hits. -/
def State.steers (s : State) (n : Nat) (hit : Option Steer) (q rank : Nat) (seen : List Byte) : State :=
  if s.sowingDrop n q then s.discards n ctMissDrop seen
  else if hit.isNone && q = 0xFFFF then (s.missed n hit).discards n ctMissDrop seen
  else if hit.any fun e => e.needSeal && !(s.lnk.port n).sealOn then s.discards n ctSealDrop seen
  else (if qdEnable (s.net.queue q).dir then (s.net.queue q).prodOf (epPortRx n) else none).elim (portEvent ((s.missed n hit).discards n ctSteerDrop seen) n 0x0206 q) fun i => beginRx (s.missed n hit) n q i rank seen
theorem next_ite {c : Prop} [Decidable c] (a b : State) : (.next (if c then a else b) : Out) = if c then .next a else .next b := by
  split <;> rfl
theorem steeringLookup_steers {n : PortIx} {s : State} {x : Port} {bytes line seen : List Byte} {hit : Option Steer} {q rank : Nat} (on : s.clocksOn = true) (is : s.lnk.port n.val = x) (up : x.link = .up) (none : x.frame = none)
    (packets : x.streamOn = false) (idle : x.rx = .none) (short : bytes.length ≤ x.leadLen + 64) (hears : x.hears bytes = true) (strip : bytes.drop x.stripLen = line) (opens : (if x.sealOn then x.openFrame line else line) = seen)
    (good : x.sealOn = true → s.lnk.keyset n.val = true ∧ sealHeaderOk line = true ∧ (x.keyFor line).isSome = true ∧ byteAt line 0 = 1)
    (hits : s.lnk.lookup n.val (steerKey x.keyx seen) = hit) (names : hit.elim x.defq.toNat Steer.queue = q) (ranks : hit.elim x.defrank Steer.rank = rank) :
    exec (.steeringLookup n bytes) s = .next (s.steers n.val hit q rank seen) := by
  have dead : (x.sealOn && (!s.lnk.keyset n.val || !sealHeaderOk line || (x.keyFor line).isNone)) = false := by
    cases on' : x.sealOn with
    | false => rfl
    | true =>
      obtain ⟨keyed, header, key, -⟩ := good on'
      have named : (x.keyFor line).isNone = false := Option.isNone_eq_false_iff.2 key
      rw [keyed, header, named]
      rfl
  have data : (x.sealOn && byteAt line 0 == 2) = false := by
    cases on' : x.sealOn with
    | false => rfl
    | true =>
      obtain ⟨-, -, -, data⟩ := good on'
      rw [data]
      rfl
  have fits : ¬ x.leadLen + 64 < bytes.length := by omega
  have same : judgeFrame s n.val = s := judgeFrame_none (by rw [is]; exact none)
  have free : (s.lnk.port n.val).rx.isSome = false := by rw [is, idle]; rfl
  unfold State.steers
  rw [next_ite, next_ite, next_ite, is]
  simp only [exec, execSteeringLookup, on, same, is, up, packets, idle, fits, hears, strip, opens, hits, dead, data, Option.isSome_none, decide_false, bne_self_eq_false, Bool.not_true, Bool.or_self, Bool.false_eq_true, if_false]
  cases hit with
  | none =>
    have names : x.defq.toNat = q := names
    have ranks : x.defrank = rank := ranks
    subst names ranks
    cases (if qdEnable (s.net.queue x.defq.toNat).dir then (s.net.queue x.defq.toNat).prodOf (epPortRx n.val) else .none) <;> rfl
  | some e =>
    have names : e.queue = q := names
    have ranks : e.rank = rank := ranks
    subst names ranks
    cases (if qdEnable (s.net.queue e.queue).dir then (s.net.queue e.queue).prodOf (epPortRx n.val) else .none) <;> rfl
/-- The packet begins in the queue that its key, or DEFQ, names. -/
theorem beginRx_begins {s : State} {n q i rank : Nat} {seen : List Byte} {q2 : Queue} (plain : (s.lnk.port n).tsrx = false) (pushes : pushWords (s.net.queue q) i rank ((queueWords seen).take (seen.length / 32)) = (q2, true)) :
    ∃ stamp, beginRx s n q i rank seen = (((s.onNet fun m => m.setQueue q q2).onPort n fun x => { x with rx := some { queue := q, rank := rank, prod := i, bytes := seen, dead := false, stamp := stamp } })).drawn := by
  refine ⟨stampOf s (s.lnk.port n).stampError, ?_⟩
  unfold beginRx
  simp only [plain, Bool.false_eq_true, if_false, List.nil_append, pushes, Bool.not_true]
theorem State.missed_port (s : State) (n : Nat) (hit : Option Steer) : (s.missed n hit).lnk.port n = if hit.isNone then (s.lnk.port n).count ctMiss 1 else s.lnk.port n := State.onPort_self ..
/-- How a steered packet ends up: discarded and counted, or begun. -/
theorem State.steers_missDrop {s : State} {n rank : Nat} {seen : List Byte} (open' : s.sowingDrop n 0xFFFF = false) : ∃ t, s.steers n none 0xFFFF rank seen = t ∧ t.net = s.net ∧ (∃ rx, (t.lnk.port n).rx = some rx ∧ rx.dead = true) ∧
    tget 0 (t.lnk.port n).cnt ctMiss = min 4294967295 (tget 0 (s.lnk.port n).cnt ctMiss + 1) ∧ tget 0 (t.lnk.port n).cnt ctMissDrop = min 4294967295 (tget 0 (s.lnk.port n).cnt ctMissDrop + 1) := by
  obtain ⟨net, dead, cnt⟩ := (s.missed n none).discards_parts n ctMissDrop seen
  have drops : s.steers n none 0xFFFF rank seen = (s.missed n none).discards n ctMissDrop seen := by
    unfold State.steers
    rw [open', if_neg Bool.false_ne_true]
    exact if_pos rfl
  rw [s.missed_port n none] at cnt
  refine ⟨_, drops, net, dead, ?_, ?_⟩
  · rw [cnt, Port.count_other _ _ _ (by decide)]
    exact Port.count_counts ..
  · rw [cnt, Port.count_counts]
    exact congrArg (fun k => min 4294967295 (k + 1)) (Port.count_other _ _ _ (by decide))
theorem State.steers_sealDrop {s : State} {n rank : Nat} {seen : List Byte} {e : Steer} (needs : e.needSeal = true) (plain : (s.lnk.port n).sealOn = false) (open' : s.sowingDrop n e.queue = false) :
    s.steers n (some e) e.queue rank seen = s.discards n ctSealDrop seen := by
  unfold State.steers
  simp [open', needs, plain]
section
variable {s : State} {n q rank : Nat} {seen : List Byte} {hit : Option Steer} (open' : s.sowingDrop n q = false) (names : hit = none → q ≠ 0xFFFF) (suits : ∀ e, hit = some e → e.needSeal = true → (s.lnk.port n).sealOn = true)
include open' names suits
theorem State.steers_on : s.steers n hit q rank seen =
    (if qdEnable (s.net.queue q).dir then (s.net.queue q).prodOf (epPortRx n) else none).elim (portEvent ((s.missed n hit).discards n ctSteerDrop seen) n 0x0206 q) fun i => beginRx (s.missed n hit) n q i rank seen := by
  unfold State.steers
  cases hit with
  | none =>
    have named := names rfl
    simp [open', named]
  | some e =>
    have suits' : (e.needSeal && !(s.lnk.port n).sealOn) = false := by
      cases need : e.needSeal with
      | false => rfl
      | true => rw [suits e rfl need]; rfl
    simp [open', suits']
end

/-! ## The end of a packet (R408-R411, R434) -/

/-- A port whose line checks are counted. -/
def Port.checked (crc corr lost : Nat) (x : Port) : Port := (((if x.lpbk then { x with loop := x.loop.tail } else x).count ctCrcErr crc).count ctFecCorr corr).count ctFecUncorr lost
theorem Port.count_parts (x : Port) (k n : Nat) : (x.count k n).rx = x.rx ∧ (x.count k n).pktsRx = x.pktsRx ∧ (x.count k n).bytesRx = x.bytesRx := ⟨rfl, rfl, rfl⟩
theorem Port.checked_parts (crc corr lost : Nat) (x : Port) : (x.checked crc corr lost).rx = x.rx ∧ (x.checked crc corr lost).pktsRx = x.pktsRx ∧ (x.checked crc corr lost).bytesRx = x.bytesRx := by
  unfold Port.checked
  simp only [Port.count_parts]
  split <;> exact ⟨rfl, rfl, rfl⟩
/-- The bytes of a packet without its frame check sequence. -/
def Port.bodyOf (x : Port) (all : List Byte) : List Byte := if x.fcs then all.take (all.length - 4) else all
/-- The line checks find the packet's bytes wrong. -/
def Port.crcBad (x : Port) (e : RxEnd) (all : List Byte) : Bool :=
  !(!x.fcs || (decide (4 ≤ all.length) && leBytes 4 (crc32 (x.bodyOf all)).toNat == all.drop (all.length - 4))) || (e.codeViolation && x.pcs = 1) || (e.badLength && x.pcs = 3)
/-- Codewords of the packet that could not be corrected. -/
def Port.lostWords (x : Port) (e : RxEnd) : Nat := if decide (4 ≤ x.pcs) then e.fecUncorrectable else 0
/-- The event of a packet that fails its line checks. -/
def State.checkEvent (s : State) (n lost : Nat) (crc : Bool) : State := if lost != 0 then portEvent s n 0x0305 0 else if crc then portEvent s n 0x0305 1 else s
theorem State.checkEvent_parts (s : State) (n lost : Nat) (crc : Bool) : (s.checkEvent n lost crc).net = s.net ∧ (s.checkEvent n lost crc).lnk = s.lnk := by
  unfold State.checkEvent
  split
  · exact ⟨portEvent_net .., portEvent_lnk ..⟩
  · split
    · exact ⟨portEvent_net .., portEvent_lnk ..⟩
    · exact ⟨rfl, rfl⟩
theorem packetRxEnd_checks {n : PortIx} {s : State} {x : Port} {r : RxPkt} {e : RxEnd} {all : List Byte} (on : s.clocksOn = true) (is : s.lnk.port n.val = x) (up : x.link = .up) (none : x.frame = none) (packets : x.streamOn = false)
    (plain : x.sealOn = false) (heard : x.lpbk = true → ∃ l rest, x.loop = l :: rest ∧ l.drop (x.stripLen + r.bytes.length) = e.rest) (receives : x.rx = some r) (whole : r.bytes ++ e.rest = all) :
    ∃ corr u, u = (s.onPort n.val (Port.checked (if x.crcBad e all then 1 else 0) corr (x.lostWords e))).checkEvent n.val (x.lostWords e) (x.crcBad e all) ∧
      exec (.packetRxEnd n e) s = .next (if x.crcBad e all || x.lostWords e != 0 || e.lockLost then rxStop u n.val 2 else finishRx u n.val r (x.bodyOf all)) := by
  refine ⟨if decide (4 ≤ x.pcs) then e.fecCorrected else 0, _, rfl, ?_⟩
  have same : judgeFrame s n.val = s := judgeFrame_none (by rw [is]; exact none)
  rw [next_ite]
  simp only [exec, execPacketRxEnd, on, same, is, up, packets, plain, receives, Option.isSome_some, Bool.not_true, Bool.not_false, Bool.and_self, if_true, Bool.false_eq_true, if_false, bne_self_eq_false, Bool.or_self, whole]
  refine (if_neg fun other => ?_).trans ?_
  · rw [Bool.false_or, Bool.and_eq_true] at other
    obtain ⟨back, differs⟩ := other
    obtain ⟨l, rest, loop, eq⟩ := heard back
    simp [loop, eq] at differs
  · rfl
section
variable {x : Port} {e : RxEnd} {all : List Byte} {body : List Byte} (cut : x.bodyOf all = body)
include cut
theorem Port.crcGood {rest : List Byte} (ends : rest.length ≤ all.length) (fcs : x.fcs = true → 4 ≤ rest.length ∧ all.drop (all.length - 4) = leBytes 4 (crc32 body).toNat) (code : x.pcs = 1 → e.codeViolation = false)
    (len : x.pcs = 3 → e.badLength = false) : x.crcBad e all = false := by
  have sum : (!x.fcs || (decide (4 ≤ all.length) && leBytes 4 (crc32 body).toNat == all.drop (all.length - 4))) = true := by
    cases carries : x.fcs with
    | false => rfl
    | true =>
      obtain ⟨long, same⟩ := fcs carries
      have long' : 4 ≤ all.length := by omega
      rw [same]
      simp [long']
  have codes : (e.codeViolation && x.pcs = 1) = false := by
    rw [Bool.and_eq_false_iff, decide_eq_false_iff_not]
    exact (em (x.pcs = 1)).elim (fun h => .inl (code h)) .inr
  have lens : (e.badLength && x.pcs = 3) = false := by
    rw [Bool.and_eq_false_iff, decide_eq_false_iff_not]
    exact (em (x.pcs = 3)).elim (fun h => .inl (len h)) .inr
  unfold Port.crcBad
  rw [cut, sum, codes, lens]
  rfl
/-- A packet whose line checks fail in one way or another. -/
theorem Port.checksFail (fails : (x.pcs = 1 ∧ e.codeViolation = true) ∨ (x.pcs = 3 ∧ e.badLength = true) ∨ (4 ≤ x.pcs ∧ e.fecUncorrectable ≠ 0) ∨ e.lockLost = true ∨ (x.fcs = true ∧ all.drop (all.length - 4) ≠ leBytes 4 (crc32 body).toNat)) :
    (x.crcBad e all || x.lostWords e != 0 || e.lockLost) = true := by
  unfold Port.crcBad Port.lostWords
  rw [cut]
  rcases fails with ⟨pcs, code⟩ | ⟨pcs, len⟩ | ⟨fec, lost⟩ | locked | ⟨fcs, differs⟩
  · simp [pcs, code]
  · simp [pcs, len]
  · simp [fec, lost]
  · simp [locked]
  · simp [fcs, differs.symm]
end
theorem Port.lostWords_none {x : Port} {e : RxEnd} (fec : 4 ≤ x.pcs → e.fecUncorrectable = 0) : x.lostWords e = 0 := by
  unfold Port.lostWords
  split
  · next on => exact fec (of_decide_eq_true on)
  · rfl
theorem Queue.push_opens {q : Queue} {i rank : Nat} {w : BitVec 256} (taken : (q.push i w rank).2 = .taken) : ((q.push i w rank).1.prod i).openWords ≠ [] := by
  revert taken
  unfold Queue.push
  dsimp only
  repeat' split
  · exact fun h => nomatch h
  · exact fun h => nomatch h
  · exact fun h => nomatch h
  all_goals
    intro _
    rw [Queue.setProd_self]
    exact List.append_ne_nil_of_right_ne_nil _ (List.cons_ne_nil w [])
theorem pushWords_cons {q : Queue} {i rank : Nat} {w : BitVec 256} {t : List (BitVec 256)} (all : (pushWords q i rank (w :: t)).2 = true) :
    (q.push i w rank).2 = .taken ∧ pushWords q i rank (w :: t) = pushWords (q.push i w rank).1 i rank t := by
  revert all
  rw [pushWords]
  generalize q.push i w rank = r
  obtain ⟨q', outcome⟩ := r
  cases outcome
  · exact fun _ => ⟨rfl, rfl⟩
  all_goals exact fun h => absurd h Bool.false_ne_true
/-- Words that all are taken stand in the open packet. -/
theorem pushWords_opens {q q2 : Queue} {i rank : Nat} {l : List (BitVec 256)} (pushes : pushWords q i rank l = (q2, true)) (some' : l ≠ [] ∨ (q.prod i).openWords ≠ []) : (q2.prod i).openWords ≠ [] := by
  induction l generalizing q with
  | nil =>
    have same : q = q2 := congrArg (·.1) pushes
    rw [← same]
    exact some'.resolve_left (not_not_intro rfl)
  | cons w t ih =>
    obtain ⟨taken, rest⟩ := pushWords_cons (congrArg (·.2) pushes)
    exact ih (rest.symm.trans pushes) (.inr (Queue.push_opens taken))
theorem queueWords_ne_nil {l : List Byte} (long : 0 < l.length) : queueWords l ≠ [] := by
  intro none
  have n := congrArg List.length none
  unfold queueWords at n
  rw [List.length_map, List.length_range, List.length_nil] at n
  omega

/-! ## Stream carriage and transmission (R411-R413, R429) -/

theorem streamRxPacket_commits {n : PortIx} {s : State} {x : Port} {bytes : List Byte} {i : Nat} {q2 : Queue} (on : s.clocksOn = true) (is : s.lnk.port n.val = x) (up : x.link = .up) (stream : x.streamOn = true) (length : bytes.length = 256)
    (plain : x.tsrx = false) (names : x.defq ≠ 0xFFFF) (open' : s.sowingDrop n.val x.defq.toNat = false) (enabled : qdEnable (s.net.queue x.defq.toNat).dir = true) (feeds : (s.net.queue x.defq.toNat).prodOf (epPortRx n.val) = some i)
    (pushes : pushWords (s.net.queue x.defq.toNat) i x.defrank (queueWords bytes) = (q2, true)) :
    ∃ t, exec (.streamRxPacket n bytes) s = .next t ∧ t.net.queue x.defq.toNat = q2.commit i 256 ∧ (∀ j, j ≠ x.defq.toNat → t.net.queue j = s.net.queue j) ∧
      (t.lnk.port n.val).pktsRx = wrap48 (x.pktsRx + 1) ∧ (t.lnk.port n.val).bytesRx = wrap48 (x.bytesRx + 256) := by
  have named : ¬ x.defq.toNat = 0xFFFF := fun h => names (BitVec.eq_of_toNat_eq h)
  obtain ⟨stamp, begun⟩ := beginRx_begins (s := s) (n := n.val) (q := x.defq.toNat) (i := i) (rank := x.defrank) (seen := []) (by rw [is]; exact plain) rfl
  generalize whole : ({ queue := x.defq.toNat, rank := x.defrank, prod := i, bytes := [], dead := false, stamp := stamp } : RxPkt) = r at begun
  generalize state : beginRx s n.val x.defq.toNat i x.defrank [] = u at begun
  have port : u.lnk.port n.val = { x with rx := some r } := by
    rw [begun, ← is]
    exact State.onPort_self (s.onNet _) ..
  have net : u.net = s.net.setQueue x.defq.toNat (s.net.queue x.defq.toNat) := by rw [begun]; rfl
  have queue : u.net.queue r.queue = s.net.queue x.defq.toNat := by
    rw [net, ← whole]
    exact Net.setQueue_self ..
  have runs : exec (.streamRxPacket n bytes) s = .next (finishRx u n.val r bytes) := by
    simp only [exec, execStreamRxPacket, on, is, up, stream, length, open', named, enabled, feeds, state, port, bne_self_eq_false, Bool.not_true, Bool.or_self, Bool.false_eq_true, if_false, if_true, List.take_zero, decide_false]
  have lives : r.dead = false := by rw [← whole]
  have pushes' : pushWords (u.net.queue r.queue) r.prod r.rank ((queueWords bytes).drop (r.bytes.length / 32)) = (q2, true) := by
    rw [queue, ← whole]
    simpa only [List.length_nil, Nat.zero_div, List.drop_zero] using pushes
  have words : (q2.prod r.prod).openWords ≠ [] := by
    rw [← whole]
    exact pushWords_opens pushes (.inl (queueWords_ne_nil (by omega)))
  rw [finishRx_commits lives pushes' words, length] at runs
  have prod : r.prod = i := by rw [← whole]
  have named' : r.queue = x.defq.toNat := by rw [← whole]
  refine ⟨_, runs, ?_, fun j other => ?_, ?_, ?_⟩
  · rw [State.onPort_net, ← named', ← prod]
    exact Net.setQueue_self ..
  · rw [State.onPort_net]
    refine (Net.setQueue_other _ _ (by rw [named']; exact other)).trans ?_
    rw [net]
    exact Net.setQueue_other _ _ other
  · rw [State.onPort_self]
    exact (congrArg (fun y : Port => wrap48 (y.pktsRx + 1)) port).trans rfl
  · rw [State.onPort_self]
    exact (congrArg (fun y : Port => wrap48 (y.bytesRx + 256)) port).trans rfl
/-- A port that starts to send a packet of queue q with these bytes. -/
def Port.starts (x : Port) (i q stamp : Nat) (bytes : List Byte) : Port :=
  let l := if x.sealOn && !x.streamOn then x.sealFrame 1 bytes else bytes
  let x := if x.sealOn then x.frameSent else x
  { x with tx := some { eq := i, queue := q, bytes := bytes, line := if x.streamOn then l else x.lineBytes l, between := x.between l, stamp := stamp }, rr := i }
theorem packetTxStart_packet {n : PortIx} {s : State} {x : Port} {i : Nat} {k : Pkt} {q' : Queue} (on : s.clocksOn = true) (is : s.lnk.port n.val = x) (up : x.link = .up) (idle : x.tx = none)
    (keyed : x.sealOn = true → s.lnk.keyset n.val = true ∧ x.kchgDue = false) (picks : s.pickEgress n.val = some i) (takes : (s.net.queue (egressQueue n.val i)).takePkt = some (k, q')) :
    ∃ stamp, exec (.packetTxStart n) s = .next (((s.onNet fun m => m.setQueue (egressQueue n.val i) q').onPort n.val fun _ => x.starts i (egressQueue n.val i) stamp k.bytes).drawn) := by
  have ready : (x.sealOn && !s.lnk.keyset n.val) = false ∧ (x.sealOn && x.kchgDue) = false := by
    cases on' : x.sealOn with
    | false => exact ⟨rfl, rfl⟩
    | true =>
      obtain ⟨key, calm⟩ := keyed on'
      rw [key, calm]
      exact ⟨rfl, rfl⟩
  obtain ⟨holds, calm⟩ := ready
  refine ⟨stampOf s (2 * x.stampError), ?_⟩
  have act (g : Port → Port) : (s.onNet fun m => m.setQueue (egressQueue n.val i) q').onPort n.val g = (s.onNet fun m => m.setQueue (egressQueue n.val i) q').onPort n.val fun _ => g x := by
    rw [← is]
    rfl
  simp only [exec, execPacketTxStart, on, is, up, idle, holds, calm, picks, takes, Option.isSome_none, bne_self_eq_false, Bool.not_true, Bool.or_self, Bool.false_eq_true, if_false]
  rw [act]
  rfl
theorem Port.starts_parts (x : Port) (i q stamp : Nat) (bytes : List Byte) : ∃ tx, (x.starts i q stamp bytes).tx = some tx ∧ tx.bytes = bytes ∧ tx.eq = i ∧ tx.keyChange = false ∧ (x.starts i q stamp bytes).rr = i ∧
    (x.streamOn = true → x.sealOn = false → tx.line = bytes) ∧ (x.streamOn = false → x.sealOn = false → tx.line = x.lineBytes bytes) ∧
    (x.streamOn = false → x.sealOn = true → tx.line = x.lineBytes (x.sealFrame 1 bytes) ∧ (x.starts i q stamp bytes).txCtr = x.txCtr + 1) := by
  refine ⟨_, rfl, rfl, rfl, rfl, rfl, fun stream plain => ?_, fun packets plain => ?_, fun packets on => ?_⟩
  · simp [plain, stream]
  · simp [plain, packets]
  · unfold Port.starts
    simp only [on, packets, Bool.not_false, Bool.and_self, if_true]
    refine ⟨?_, rfl⟩
    have same : x.frameSent.streamOn = false := packets
    rw [same]
    rfl
/-- A port that starts to send a key-change frame. -/
def Port.changesKey (x : Port) (stamp : Nat) : Port :=
  ({ x with
    tx := some { eq := 0, queue := 0, bytes := [], line := x.lineBytes (x.sealFrame 2 []), between := x.between (x.sealFrame 2 []), stamp := stamp, keyChange := true }
    txKey := nextKey x.txKey x.txKeyN, txKeyN := x.txKeyN + 1, txCtr := 0, kchgDue := false } : Port).count ctKeychgTx 1
theorem packetTxStart_change {n : PortIx} {s : State} {x : Port} (on : s.clocksOn = true) (is : s.lnk.port n.val = x) (up : x.link = .up) (idle : x.tx = none)
    (isSealed : x.sealOn = true) (keyed : s.lnk.keyset n.val = true) (due : x.kchgDue = true) : ∃ stamp, exec (.packetTxStart n) s = .next ((s.onPort n.val fun _ => x.changesKey stamp).drawn) := by
  refine ⟨stampOf s (2 * x.stampError), ?_⟩
  have act (g : Port → Port) : s.onPort n.val g = s.onPort n.val fun _ => g x := by
    rw [← is]
    rfl
  simp only [exec, execPacketTxStart, on, is, up, idle, isSealed, keyed, due, Option.isSome_none, bne_self_eq_false, Bool.not_true, Bool.or_self, Bool.and_false, Bool.and_self, Bool.false_eq_true, if_false, if_true]
  rw [act]
  rfl
/-- A port whose packet has left. -/
def Port.sent (x : Port) (t : TxPkt) : Port :=
  let x := { x with tx := none, lastLine := if x.lpbk then [] else t.line, loop := if x.lpbk && !x.streamOn then x.loop ++ [t.between] else x.loop }
  if t.keyChange then x else { x with pktsTx := wrap48 (x.pktsTx + 1), bytesTx := wrap48 (x.bytesTx + t.bytes.length), txSeq := (x.txSeq + 1) % 65536 }
theorem packetTxEnd_sent {n : PortIx} {s : State} {t : TxPkt} (sends : (s.lnk.port n.val).tx = some t) : exec (.packetTxEnd n) s = .next (quadPll ((txRecord s n.val t).onPort n.val fun x => x.sent t) (n.val / 4)) := by
  simp only [exec, execPacketTxEnd, sends]
  rfl
theorem txRecord_none {s : State} {n : Nat} {t : TxPkt} (none : t.keyChange = true ∨ (s.lnk.port n).tstx.testBit t.eq = false) : txRecord s n t = s := by
  refine if_pos ?_
  rcases none with change | none
  · rw [change]
    rfl
  · rw [none, Bool.not_false, Bool.or_true, Bool.true_or]
theorem txRecord_records {s : State} {n i : Nat} {t : TxPkt} (packet : t.keyChange = false) (asks : (s.lnk.port n).tstx.testBit t.eq = true) (enabled : qdEnable (s.net.queue (s.lnk.port n).defq.toNat).dir = true)
    (feeds : (s.net.queue (s.lnk.port n).defq.toNat).prodOf (epPortRx n) = some i) : txRecord s n t = s.onNet fun m => m.setQueue (s.lnk.port n).defq.toNat ((m.queue (s.lnk.port n).defq.toNat).pushRecord i (s.lnk.port n).defrank
      (portWord t.stamp n 1 t.eq (s.lnk.port n).txSeq ((t.bytes ++ List.replicate 16 0).take 16))) := by
  unfold txRecord
  simp only [packet, asks, enabled, feeds, Bool.not_true, Bool.or_self, Bool.false_eq_true, if_false]
theorem Queue.pushRecord_flight {q : Queue} {i rank : Nat} {w : BitVec 256} (credit : (64 : Int) < (q.prod i).credits) :
    ∃ pkt : Pkt, (q.pushRecord i rank w).flight = q.flight ++ [.commit pkt] ∧ pkt.prod = i ∧ pkt.rank = rank ∧ pkt.words.map (·.data) = [w] := by
  have enough : ¬ (q.prod i).credits ≤ (((64 - (q.prod i).openWords.length % 64) % 64 : Nat) : Int) := by omega
  refine ⟨{ prod := i, rank := rank, words := sideWords rank 0 true [w] }, ?_, rfl, rfl, sideWords_data ..⟩
  unfold Queue.pushRecord
  simp only [enough, if_false]

end Sys2Proof.Machine
end

section
/-! PROOF. Packets and bulk transfers (R404-R440). -/

namespace Sys2Proof.Machine

/-! ## Bulk transfers (R436-R440) -/

theorem Links.setBdma_self (l : Links) (c : Nat) (v : Bdma) : (l.setBdma c v).bdma c = v := (tget_tput ..).trans (if_pos rfl)
/-- The queues once a reply's packet has gone into queue tq, if it takes it. -/
def Net.replied (m : Net) (tq c rank : Nat) (l : List Byte) : Option Net := ((m.queue tq).prodOf (epBdma c)).bind fun i =>
  if !(m.queue tq).runs then none
  else if ((m.queue tq).prod i).credits < (min ((l.length + 31) / 32) (qdMaxlen (m.queue tq).dir + 1) : Nat) then none
  else some (m.setQueue tq (if (pushWords (m.queue tq) i rank (queueWords l)).2 then (pushWords (m.queue tq) i rank (queueWords l)).1.commit i l.length else (pushWords (m.queue tq) i rank (queueWords l)).1.endDiscard i))
theorem bulkReply_eq (s : State) (c rank : Nat) (l : List Byte) : bulkReply s c rank l = (s.net.replied (s.lnk.bdma c).tq.toNat c rank l).map fun m => { s with net := m } := by
  unfold bulkReply Net.replied
  cases feeds : (s.net.queue (s.lnk.bdma c).tq.toNat).prodOf (epBdma c) with
  | none => simp only [feeds, Option.bind_none, Option.map_none]
  | some i =>
    simp only [feeds, Option.bind_some, apply_ite (Option.map _), Option.map_none, Option.map_some]
    rfl
theorem Net.replied_scr {m n : Net} {tq c rank : Nat} {l : List Byte} (replies : m.replied tq c rank l = some n) : n.scr = m.scr := by
  obtain ⟨i, -, ends⟩ := Option.bind_eq_some_iff.1 replies
  split at ends
  · exact absurd ends (by simp)
  · split at ends
    · exact absurd ends (by simp)
    · rw [← Option.some.inj ends]
      rfl
/-- A channel's counts after an answer. -/
def Bdma.answered (x : Bdma) (op : Nat) : Bdma := if op = 5 then { x with naks := sat32 (x.naks + 1) } else { x with requests := sat32 (x.requests + 1) }
theorem bulkAnswer_eq (s : State) (c : Nat) (r : BulkReq) (q' : Queue) (op status addr : Nat) (l : List Byte) : bulkAnswer s c r q' op status addr l =
    ((s.net.setQueue (s.lnk.bdma c).rq.toNat q').replied (s.lnk.bdma c).tq.toNat c r.rank (bulkReplyBytes r.hdr op status addr l)).map fun m => { s with net := m, lnk := s.lnk.setBdma c ((s.lnk.bdma c).answered op) } := by
  have base : bulkAnswer s c r q' op status addr l = (bulkReply (s.onNet fun m => m.setQueue (s.lnk.bdma c).rq.toNat q') c r.rank (bulkReplyBytes r.hdr op status addr l)).map
      fun s => s.onLnk fun l => l.setBdma c ((l.bdma c).answered op) := rfl
  rw [base, bulkReply_eq, Option.map_map]
  rfl
theorem bulkAnswer_replied {s : State} {c : Nat} {r : BulkReq} {q' : Queue} {op status addr : Nat} {l : List Byte} (ready : (bulkAnswer s c r q' op status addr l).isSome = true) :
    ∃ m : Net, m.scr = s.net.scr ∧ (s.net.setQueue (s.lnk.bdma c).rq.toNat q').replied (s.lnk.bdma c).tq.toNat c r.rank (bulkReplyBytes r.hdr op status addr l) = some m := by
  rw [bulkAnswer_eq, Option.isSome_map] at ready
  obtain ⟨m, replies⟩ := Option.isSome_iff_exists.1 ready
  exact ⟨m, (Net.replied_scr replies).trans rfl, replies⟩
/-- An answer that is ready in one state goes out from any state with the same queues and links. -/
theorem bulkAnswer_some {s : State} {c : Nat} {r : BulkReq} {q' : Queue} {op status addr : Nat} {l : List Byte} (ready : (bulkAnswer s c r q' op status addr l).isSome = true) :
    ∃ m : Net, m.scr = s.net.scr ∧ ∀ u : State, u.net = s.net → u.lnk = s.lnk → bulkAnswer u c r q' op status addr l = some { u with net := m, lnk := s.lnk.setBdma c ((s.lnk.bdma c).answered op) } := by
  obtain ⟨m, scr, replies⟩ := bulkAnswer_replied ready
  refine ⟨m, scr, fun u net lnk => ?_⟩
  rw [bulkAnswer_eq, net, lnk, replies, Option.map_some]
theorem ite_singleton_eq_nil {c : Prop} [Decidable c] {n : Nat} (none : (if c then [n] else []) = []) : ¬ c := fun h => by
  rw [if_pos h] at none
  exact List.cons_ne_nil n [] none
theorem answerAll_dma {u : State} {p a : Nat} {c : Fin 64} (idle : (u.lnk.bdma c.val).wait = none) : answerAll u p a respOkay [.dma c] = u.onStk fun k => { k with reply := (respOkay, 0) } := by
  have other : (u.lnk.bdma c.val).wait ≠ some (p, a, none) := by
    rw [idle]
    exact fun h => by injection h
  have sends : answerB u (.dma c) respOkay 0 = u.onStk fun k => { k with reply := (respOkay, 0) } := by
    unfold answerB
    rw [if_neg (by simp)]
  exact (if_neg other).trans sends
/-- A write of a whole line to an open region that nothing refuses. -/
theorem fullWrite_stores {s : State} {p a : Nat} {c : Fin 64} {seat : Option Nat} (may : s.refusals p a (.dma c) seat true = []) (none : (s.stk.riser p).wc = []) (plain : (s.stk.region p (lineRegion a)).isSealed = false)
    (idle : (s.lnk.bdma c.val).wait = .none) {data : BitVec 512} {v : BitVec 640} (is : openLine (lineId p a) data = v) : fullWrite s p a (.dma c) data =
      ({ s with stk := s.stk.setLine (lineId p a) v } : State).onStk fun k => { k with reply := (respOkay, 0) } := by
  have flushed : flushLine s p a 0 = s := by
    simp only [flushLine, none, List.find?_nil]
  obtain ⟨⟨⟨⟨up, whole⟩, -, keyed⟩, untested⟩, used⟩ : (((¬ (s.nv.map.riser p).rstate = 3 ∧ s.riserCut p (s.physDie p a) = false) ∧ True ∧ (s.stk.region p (lineRegion a)).keyless = false) ∧ s.tileTested p a = false) ∧ s.retired p (linePage a) = false := by
    unfold State.refusals at may
    simp only [List.append_eq_nil_iff] at may
    obtain ⟨⟨⟨⟨up, whole⟩, keyed⟩, untested⟩, used⟩ := may
    have cut := ite_singleton_eq_nil whole
    have key := ite_singleton_eq_nil keyed
    simp only [Bool.or_eq_true, not_or, Bool.not_eq_true] at cut key
    obtain ⟨cut, -⟩ := cut
    obtain ⟨-, key⟩ := key
    exact ⟨⟨⟨⟨ite_singleton_eq_nil up, cut⟩, trivial, key⟩, Bool.eq_false_iff.2 (ite_singleton_eq_nil untested)⟩, Bool.eq_false_iff.2 (ite_singleton_eq_nil used)⟩
  have stores : s.stk.writeLine p a data = some (s.stk.setLine (lineId p a) v) := by
    unfold Stack.writeLine
    simp only [plain, Bool.not_false, if_true, is]
  unfold fullWrite
  rw [flushed]
  unfold performEntry
  simp only [up, whole, keyed, untested, used, stores, Bool.false_eq_true, if_false, List.nil_append, List.isEmpty_nil, Bool.not_true, if_true]
  exact answerAll_dma (u := { s with stk := s.stk.setLine (lineId p a) v }) idle
section
variable {c : Fin 64} {s : State} {seat : Nat} {r : BulkReq} {q' : Queue} (front : bulkFront s c.val = some (seat, r, q'))
include front
theorem bulkBadRequest_naks {st : Nat} (fault : r.fault c.val = some st) {t : State} (answers : bulkAnswer s c.val r q' 5 st r.addr [] = some t) : exec (.bulkBadRequest c) s = .next t := by
  simp only [exec, execBulkBadRequest, front, fault, answers]
theorem bulkReadReq_log (op : r.op = 2) (fault : r.fault c.val = none) (space : r.space = 3) {t : State}
    (answers : bulkAnswer s c.val r q' 3 0 r.addr (((s.stk.log.filter fun e => decide (r.addr ≤ e.seq) && s.stk.mayRead seat e).take (r.len / 32)).flatMap LogEntry.bytes) = some t) : exec (.bulkReadReq c) s = .next t := by
  have free : bulkHeld s c r = false := by
    unfold bulkHeld
    rw [space]
    rfl
  simp [exec, execBulkReadReq, front, op, fault, space, free, answers]
theorem bulkWrite_again (op : r.op = 1) (fault : r.fault c.val = none) (free : bulkHeld s c r = false) (done : (s.lnk.bdma c.val).seqs.contains r.seq = true) {m : Net}
    (replies : (s.net.setQueue (s.lnk.bdma c.val).rq.toNat q').replied (s.lnk.bdma c.val).tq.toNat c.val r.rank (bulkReplyBytes r.hdr 4 0 r.addr []) = some m) : exec (.bulkWrite c) s = .next { s with net := m } := by
  have sends : bulkReply (s.onNet fun m => m.setQueue (s.lnk.bdma c.val).rq.toNat q') c.val r.rank (bulkReplyBytes r.hdr 4 0 r.addr []) = some { s with net := m } := by
    rw [bulkReply_eq]
    exact congrArg (Option.map _) replies
  simp only [exec, execBulkWrite, front, op, fault, free, done, sends, Option.isSome_none, bne_self_eq_false, Bool.or_self, Bool.false_eq_true, if_false, if_true]
/-- A line that a WRITE stores at once. -/
theorem bulkWrite_line {a : Nat} (op : r.op = 1) (fault : r.fault c.val = none) (new : (s.lnk.bdma c.val).seqs.contains r.seq = false) (whole : (s.lnk.bdma c.val).part = none) (idle : (s.lnk.bdma c.val).wait = none) (space : r.space = 0)
    (len : r.len = 64) (addr : r.addr = 64 * a) (length : r.payload.length = 64) (may : s.refusals r.plot a (.dma c) (some seat) true = []) (takes : bulkBusy s r.plot a (.dma c) = false) (plain : noCount s r.plot a = false)
    {u t : State} (writes : fullWrite s r.plot a (.dma c) (lineBytes r.payload) = u) (answers : bulkAnswer u c.val r q' 4 0 r.addr [] = some t) :
    exec (.bulkWrite c) s = .next (t.onLnk fun l => l.setBdma c.val { l.bdma c.val with seqs := (r.seq :: (l.bdma c.val).seqs).take 16, part := none }) := by
  have free : bulkHeld s c r = false := by
    unfold bulkHeld
    rw [space, op]
    rfl
  have full : r.payload.isEmpty = false := by
    cases h : r.payload with
    | nil => rw [h] at length; exact absurd length (by decide)
    | cons b l => rfl
  have cut : r.payload.take 64 = r.payload := List.take_of_length_le (by omega)
  have goes : bulkGoOn s c seat r = (u, 64, .ends respOkay) := by
    unfold bulkGoOn
    simp only [whole, idle, len, addr, Nat.zero_div, Nat.add_zero, List.drop_zero]
    rw [show 64 / 64 = 1 from rfl, Nat.mul_div_cancel_left a (by omega)]
    simp [bulkLines, full, may, takes, plain, cut, writes]
  simp only [exec, execBulkWrite, front, op, fault, free, new, space, goes, answers, Option.isSome_none, bne_self_eq_false, Bool.or_self, Bool.false_eq_true, if_false, if_true, Option.map_some]
  rfl
end

theorem State.missed_other (s : State) (n : Nat) (hit : Option Steer) {k : Nat} (other : k ≠ ctMiss) : tget 0 ((s.missed n hit).lnk.port n).cnt k = tget 0 (s.lnk.port n).cnt k := by
  rw [s.missed_port]
  split
  · exact Port.count_other _ _ _ other
  · rfl
/-- A packet's first bytes steer it (R419-R424). -/
theorem steeringLookup_outcomes {n : PortIx} {s : State} {x : Port} {bytes seen : List Byte} {hit : Option Steer} {q rank : Nat} (is : s.lnk.port n.val = x) (hits : s.lnk.lookup n.val (steerKey x.keyx seen) = hit)
    (names : hit.elim x.defq.toNat Steer.queue = q) (runs : exec (.steeringLookup n bytes) s = .next (s.steers n.val hit q rank seen)) :
    (hit = none → x.defq = 0xFFFF → s.sowingDrop n.val 0xFFFF = false → ∃ t, exec (.steeringLookup n bytes) s = .next t ∧ (t.net = s.net ∧ ∃ rx, (t.lnk.port n.val).rx = some rx ∧ rx.dead = true) ∧
        tget 0 (t.lnk.port n.val).cnt 0x18 = min 4294967295 (tget 0 x.cnt 0x18 + 1) ∧ tget 0 (t.lnk.port n.val).cnt 0x19 = min 4294967295 (tget 0 x.cnt 0x19 + 1)) ∧
      (∀ e, hit = some e → e.needSeal = true → x.sealOn = false → s.sowingDrop n.val e.queue = false → ∃ t, exec (.steeringLookup n bytes) s = .next t ∧ (t.net = s.net ∧ ∃ rx, (t.lnk.port n.val).rx = some rx ∧ rx.dead = true) ∧
        tget 0 (t.lnk.port n.val).cnt 0x1A = min 4294967295 (tget 0 x.cnt 0x1A + 1)) ∧
      ((hit = none → x.defq ≠ 0xFFFF) → (∀ e, hit = some e → e.needSeal = true → x.sealOn = true) → s.sowingDrop n.val q = false →
        (qdEnable (s.net.queue q).dir = false ∨ (s.net.queue q).prodOf (epPortRx n.val) = none → ∃ t, exec (.steeringLookup n bytes) s = .next t ∧ (t.net = s.net ∧ ∃ rx, (t.lnk.port n.val).rx = some rx ∧ rx.dead = true) ∧
          tget 0 (t.lnk.port n.val).cnt 0x20 = min 4294967295 (tget 0 x.cnt 0x20 + 1)) ∧
        (∀ i q2, qdEnable (s.net.queue q).dir = true → (s.net.queue q).prodOf (epPortRx n.val) = some i → x.tsrx = false → pushWords (s.net.queue q) i rank ((queueWords seen).take (seen.length / 32)) = (q2, true) →
          ∃ t rx, exec (.steeringLookup n bytes) s = .next t ∧ t.net.queue q = q2 ∧ (∀ j, j ≠ q → t.net.queue j = s.net.queue j) ∧ (t.lnk.port n.val).rx = some rx ∧
            rx.queue = q ∧ rx.rank = rank ∧ rx.prod = i ∧ rx.bytes = seen ∧ rx.dead = false ∧ tget 0 (t.lnk.port n.val).cnt 0x18 = if hit = none then min 4294967295 (tget 0 x.cnt 0x18 + 1) else tget 0 x.cnt 0x18)) := by
  subst is
  have named' (named : hit = none → (s.lnk.port n.val).defq ≠ 0xFFFF) (miss : hit = none) : q ≠ 0xFFFF := by
    rw [← names, miss]
    exact fun h => named miss (BitVec.eq_of_toNat_eq h)
  refine ⟨fun miss none open' => ?_, fun e found needs plain open' => ?_, fun named suits open' => ⟨fun away => ?_, fun i q2 enabled feeds plain pushes => ?_⟩⟩
  · have at' : q = 0xFFFF := by
      rw [← names, miss, Option.elim_none, none]
      rfl
    subst at' miss
    obtain ⟨t, same, net, dead, cnt, drop⟩ := State.steers_missDrop (rank := rank) (seen := seen) open'
    exact ⟨t, runs.trans (congrArg Host.Outcome.next same), ⟨net, dead⟩, cnt, drop⟩
  · have at' : q = e.queue := by
      rw [← names, found]
      rfl
    subst at' found
    obtain ⟨net, dead, cnt⟩ := s.discards_parts n.val ctSealDrop seen
    refine ⟨_, runs.trans (congrArg Host.Outcome.next (State.steers_sealDrop needs plain open')), ⟨net, dead⟩, ?_⟩
    rw [cnt]
    exact Port.count_counts ..
  · have none : (if qdEnable (s.net.queue q).dir then (s.net.queue q).prodOf (epPortRx n.val) else none) = none := by
      rcases away with off | none
      · rw [off]
        rfl
      · rw [none, ite_self]
    have ends := State.steers_on (rank := rank) (seen := seen) open' (named' named) suits
    rw [none, Option.elim_none] at ends
    obtain ⟨net, dead, cnt⟩ := (s.missed n.val hit).discards_parts n.val ctSteerDrop seen
    refine ⟨_, runs.trans (congrArg Host.Outcome.next ends), ⟨(portEvent_net ..).trans net, ?_⟩, ?_⟩
    · rw [portEvent_lnk]
      exact dead
    · rw [portEvent_lnk, cnt]
      refine (Port.count_counts _ ctSteerDrop).trans ?_
      exact congrArg (fun k => min 4294967295 (k + 1)) (s.missed_other n.val hit (by decide))
  · have way : (if qdEnable (s.net.queue q).dir then (s.net.queue q).prodOf (epPortRx n.val) else none) = some i := by
      rw [enabled, if_pos rfl, feeds]
    have ends := State.steers_on (rank := rank) (seen := seen) open' (named' named) suits
    rw [way, Option.elim_some] at ends
    have tsrx : ((s.missed n.val hit).lnk.port n.val).tsrx = false := by
      rw [s.missed_port]
      split
      · exact plain
      · exact plain
    obtain ⟨stamp, begun⟩ := beginRx_begins (s := s.missed n.val hit) tsrx pushes
    refine ⟨_, _, runs.trans (congrArg Host.Outcome.next (ends.trans begun)), Net.setQueue_self .., fun j => Net.setQueue_other _ _, congrArg Port.rx (State.onPort_self ..), rfl, rfl, rfl, rfl, rfl, ?_⟩
    refine (congrArg (fun y : Port => tget 0 y.cnt ctMiss) (State.onPort_self ..)).trans ?_
    refine (congrArg (fun y : Port => tget 0 y.cnt ctMiss) (s.missed_port n.val hit)).trans ?_
    cases hit with
    | none => exact Port.count_counts ..
    | some e => rfl
/-- The end of a packet under its line checks (R408-R410, R434). -/
theorem packetRxEnd_outcomes {n : PortIx} {s : State} {x : Port} {r : RxPkt} {e : RxEnd} {all body : List Byte} (on : s.clocksOn = true) (is : s.lnk.port n.val = x) (up : x.link = .up) (none : x.frame = none) (packets : x.streamOn = false)
    (plain : x.sealOn = false) (heard : x.lpbk = true → ∃ l rest, x.loop = l :: rest ∧ l.drop (x.stripLen + r.bytes.length) = e.rest) (receives : x.rx = some r) (lives : r.dead = false) (whole : r.bytes ++ e.rest = all) (cut : x.bodyOf all = body) :
    (∀ q2, (x.fcs = true → 4 ≤ e.rest.length ∧ all.drop (all.length - 4) = leBytes 4 (crc32 body).toNat) → (x.pcs = 1 → e.codeViolation = false) → (x.pcs = 3 → e.badLength = false) → (4 ≤ x.pcs → e.fecUncorrectable = 0) → e.lockLost = false →
        pushWords (s.net.queue r.queue) r.prod r.rank ((queueWords body).drop (r.bytes.length / 32)) = (q2, true) → (q2.prod r.prod).openWords ≠ [] →
        ∃ t, exec (.packetRxEnd n e) s = .next t ∧ t.net.queue r.queue = q2.commit r.prod body.length ∧ (∀ j, j ≠ r.queue → t.net.queue j = s.net.queue j) ∧
          (t.lnk.port n.val).rx = .none ∧ (t.lnk.port n.val).pktsRx = (x.pktsRx + 1) % 281474976710656 ∧ (t.lnk.port n.val).bytesRx = (x.bytesRx + body.length) % 281474976710656) ∧
      ((x.pcs = 1 ∧ e.codeViolation = true) ∨ (x.pcs = 3 ∧ e.badLength = true) ∨ (4 ≤ x.pcs ∧ e.fecUncorrectable ≠ 0) ∨ e.lockLost = true ∨ (x.fcs = true ∧ all.drop (all.length - 4) ≠ leBytes 4 (crc32 body).toNat) →
        ((s.net.queue r.queue).prod r.prod).openWords ≠ [] →
        ∃ t, exec (.packetRxEnd n e) s = .next t ∧ (t.lnk.port n.val).rx = .none ∧ (t.net.queue r.queue).flying = (s.net.queue r.queue).flying ∧ ((t.net.queue r.queue).prod r.prod).openWords = [] ∧
          tget 0 (t.net.queue r.queue).rw 2 = min 4294967295 (tget 0 (s.net.queue r.queue).rw 2 + 1) ∧ (t.lnk.port n.val).pktsRx = x.pktsRx) := by
  obtain ⟨corr, u, eq, runs⟩ := packetRxEnd_checks on is up none packets plain heard receives whole
  obtain ⟨net, lnk⟩ := (s.onPort n.val (Port.checked (if x.crcBad e all then 1 else 0) corr (x.lostWords e))).checkEvent_parts n.val (x.lostWords e) (x.crcBad e all)
  obtain ⟨rx, pkts, bytes⟩ := Port.checked_parts (if x.crcBad e all then 1 else 0) corr (x.lostWords e) x
  have port : u.lnk.port n.val = x.checked (if x.crcBad e all then 1 else 0) corr (x.lostWords e) := by
    rw [eq, lnk, State.onPort_self, is]
  have queues : u.net = s.net := by
    rw [eq, net]
    rfl
  refine ⟨fun q2 fcs code len fec locked pushes words => ?_, fun fails opened => ?_⟩
  · have good : (x.crcBad e all || x.lostWords e != 0 || e.lockLost) = false := by
      rw [Port.crcGood cut (by rw [← whole, List.length_append]; omega) fcs code len, Port.lostWords_none fec, locked]
      rfl
    rw [good, cut] at runs
    simp only [Bool.false_eq_true, if_false] at runs
    rw [finishRx_commits lives (by rw [queues]; exact pushes) words] at runs
    refine ⟨_, runs, Net.setQueue_self .., fun j other => ?_, ?_, ?_, ?_⟩
    · refine (Net.setQueue_other _ _ other).trans ?_
      exact congrArg (fun m : Net => m.queue j) queues
    · exact congrArg Port.rx (State.onPort_self ..)
    · refine (congrArg Port.pktsRx (State.onPort_self ..)).trans ?_
      exact (congrArg (fun y : Port => wrap48 (y.pktsRx + 1)) port).trans (congrArg (fun k => wrap48 (k + 1)) pkts)
    · refine (congrArg Port.bytesRx (State.onPort_self ..)).trans ?_
      exact (congrArg (fun y : Port => wrap48 (y.bytesRx + body.length)) port).trans (congrArg (fun k => wrap48 (k + body.length)) bytes)
  · rw [Port.checksFail cut fails] at runs
    simp only [if_true] at runs
    rw [rxStop_rewinds ((congrArg Port.rx port).trans (rx.trans receives)) lives (by rw [queues]; exact opened)] at runs
    obtain ⟨none', flying, count⟩ := Queue.stopped_parts opened 2
    have queue : (u.net.setQueue r.queue ((u.net.queue r.queue).stopped r 2)).queue r.queue = (s.net.queue r.queue).stopped r 2 := by
      rw [Net.setQueue_self, queues]
    refine ⟨_, runs, ?_, ?_, ?_, ?_, ?_⟩
    · exact congrArg Port.rx (State.onPort_self u ..)
    · exact (congrArg Queue.flying queue).trans flying
    · exact (congrArg (fun q : Queue => (q.prod r.prod).openWords) queue).trans none'
    · exact (congrArg (fun q : Queue => tget 0 q.rw 2) queue).trans count
    · refine (congrArg Port.pktsRx (State.onPort_self u ..)).trans ?_
      exact (congrArg Port.pktsRx port).trans pkts
theorem packetTxEnd_records {n : PortIx} {s : State} {tx : TxPkt} {i : Nat} (sends : (s.lnk.port n.val).tx = some tx) (packet : tx.keyChange = false) (asks : (s.lnk.port n.val).tstx.testBit tx.eq = true)
    (enabled : qdEnable (s.net.queue (s.lnk.port n.val).defq.toNat).dir = true) (feeds : (s.net.queue (s.lnk.port n.val).defq.toNat).prodOf (epPortRx n.val) = some i)
    (credit : (64 : Int) < ((s.net.queue (s.lnk.port n.val).defq.toNat).prod i).credits) : ∃ t pkt, exec (.packetTxEnd n) s = .next t ∧ (t.lnk.port n.val).tx = none ∧
      (t.net.queue (s.lnk.port n.val).defq.toNat).flight = (s.net.queue (s.lnk.port n.val).defq.toNat).flight ++ [.commit pkt] ∧ pkt.prod = i ∧ pkt.rank = (s.lnk.port n.val).defrank ∧
      pkt.words.map (·.data) = [portWord tx.stamp n.val 1 tx.eq (s.lnk.port n.val).txSeq ((tx.bytes ++ List.replicate 16 0).take 16)] := by
  have runs := packetTxEnd_sent sends
  rw [txRecord_records packet asks enabled feeds] at runs
  generalize portWord tx.stamp n.val 1 tx.eq (s.lnk.port n.val).txSeq ((tx.bytes ++ List.replicate 16 0).take 16) = w at runs ⊢
  obtain ⟨pkt, flight, prod, rank, words⟩ := Queue.pushRecord_flight (rank := (s.lnk.port n.val).defrank) (w := w) credit
  refine ⟨_, pkt, runs, ?_, ?_, prod, rank, words⟩
  · rw [quadPll_port, State.onPort_self]
    unfold Port.sent
    rw [packet]
    rfl
  · exact (congrArg Queue.flight (Net.setQueue_self s.net (s.lnk.port n.val).defq.toNat _)).trans flight
theorem noCount_open {s : State} {p a : Nat} (plain : (s.stk.region p (lineRegion a)).isSealed = false) : noCount s p a = false := by
  unfold noCount
  simp only [plain, Bool.false_and]
theorem bulkWrite_stores {c : Fin 64} {s : State} {seat : Nat} {r : BulkReq} {q' : Queue} {a : Nat} (front : bulkFront s c.val = some (seat, r, q')) (op : r.op = 1) (fault : r.fault c.val = none) (new : (s.lnk.bdma c.val).seqs.contains r.seq = false)
    (whole : (s.lnk.bdma c.val).part = none) (idle : (s.lnk.bdma c.val).wait = none) (space : r.space = 0) (len : r.len = 64) (addr : r.addr = 64 * a) (length : r.payload.length = 64) (may : s.refusals r.plot a (.dma c) (some seat) true = [])
    (takes : bulkBusy s r.plot a (.dma c) = false) (plain : (s.stk.region r.plot (a / 16384)).isSealed = false) (none : (s.stk.riser r.plot).wc = []) {v : BitVec 640} (is : openLine (lineId r.plot a) (lineBytes r.payload) = v)
    (ready : (bulkAnswer s c.val r q' 4 0 r.addr []).isSome = true) : ∃ t, exec (.bulkWrite c) s = .next t ∧ t.stk.line (lineId r.plot a) = v ∧ (∀ i, i ≠ lineId r.plot a → t.stk.line i = s.stk.line i) ∧
      (t.lnk.bdma c.val).requests = min 4294967295 ((s.lnk.bdma c.val).requests + 1) ∧ (t.lnk.bdma c.val).seqs = (r.seq :: (s.lnk.bdma c.val).seqs).take 16 := by
  rw [← lineRegion_eq] at plain
  obtain ⟨m, -, answers⟩ := bulkAnswer_some ready
  have runs := bulkWrite_line front op fault new whole idle space len addr length may takes (noCount_open plain) (fullWrite_stores may none plain idle is) (answers _ rfl rfl)
  refine ⟨_, runs, (Stack.setLine_line ..).trans (if_pos rfl), fun i other => (Stack.setLine_line ..).trans (if_neg other), ?_⟩
  have answered : (s.lnk.setBdma c.val ((s.lnk.bdma c.val).answered 4)).bdma c.val = { s.lnk.bdma c.val with requests := sat32 ((s.lnk.bdma c.val).requests + 1) } := Links.setBdma_self ..
  have last (u : State) (g : Bdma → Bdma) : (u.onLnk fun l => l.setBdma c.val (g (l.bdma c.val))).lnk.bdma c.val = g (u.lnk.bdma c.val) := Links.setBdma_self ..
  rw [last _ fun x => { x with seqs := (r.seq :: x.seqs).take 16, part := .none }]
  refine ⟨(congrArg Bdma.requests answered).trans (sat32_eq_min _), (congrArg (fun x : Bdma => (r.seq :: x.seqs).take 16) answered).trans rfl⟩
/-- Settles O57: packets by the commands of their ports, bulk requests by those of their channels. -/
theorem packetsAndBulk : Obligations.PacketsAndBulk := by
  unfold Obligations.PacketsAndBulk
  intro n s on
  dsimp only
  refine ⟨fun up none => ⟨fun bytes packets idle short hears good => ?_, fun rx e packets plain heard receives lives => packetRxEnd_outcomes on rfl up none packets plain heard receives lives rfl rfl,
      fun bytes i q2 stream length plain names open' enabled feeds pushes => streamRxPacket_commits on rfl up stream length plain names open' enabled feeds pushes, fun i k q' idle keyed picks takes => ?_, fun idle isSealed keyed due => ?_⟩,
    fun tx sends plain => ?_, fun tx i sends packet asks enabled feeds credit => packetTxEnd_records sends packet asks enabled feeds credit,
    fun c seat r q' front => ⟨fun a op fault new whole idle space len addr length ready may takes none plain => ?_, fun op fault free done ready => ?_, fun op fault space ready => ?_, fun st fault ready => ?_⟩⟩
  · refine steeringLookup_outcomes rfl rfl ?_ (steeringLookup_steers on rfl up none packets idle short hears rfl rfl good rfl ?_ ?_)
    all_goals cases s.lnk.lookup n.val (steerKey (s.lnk.port n.val).keyx (if (s.lnk.port n.val).sealOn then (s.lnk.port n.val).openFrame (bytes.drop (s.lnk.port n.val).stripLen) else bytes.drop (s.lnk.port n.val).stripLen)) <;> rfl
  · obtain ⟨stamp, runs⟩ := packetTxStart_packet on rfl up idle keyed picks takes
    obtain ⟨tx, is, bytes, eq, packet, rr, lines⟩ := (s.lnk.port n.val).starts_parts i (egressQueue n.val i) stamp k.bytes
    have port (g : Port) : (((s.onNet fun m => m.setQueue (egressQueue n.val i) q').onPort n.val fun _ => g).drawn).lnk.port n.val = g := State.onPort_self (s.onNet _) n.val _
    refine ⟨_, tx, runs, Net.setQueue_self .., fun j => Net.setQueue_other _ _, ?_⟩
    rw [port]
    exact ⟨is, bytes, eq, packet, rr, lines⟩
  · obtain ⟨stamp, runs⟩ := packetTxStart_change on rfl up idle isSealed keyed due
    have port (g : Port) : ((s.onPort n.val fun _ => g).drawn).lnk.port n.val = g := State.onPort_self s n.val _
    refine ⟨_, _, runs, rfl, (congrArg Port.tx (port _)).trans rfl, rfl, rfl, ?_⟩
    rw [port]
    exact ⟨rfl, rfl, rfl, rfl⟩
  · have runs := packetTxEnd_sent sends
    rw [txRecord_none plain] at runs
    obtain ⟨q, quads⟩ := quadPll_lnk (s.onPort n.val fun x => x.sent tx) (n.val / 4)
    refine ⟨_, runs, ?_, (quadPll_port ..).trans ((State.onPort_self ..).trans ?_)⟩
    · rw [quads]
      rfl
    · unfold Port.sent
      cases tx.keyChange <;> rfl
  · exact bulkWrite_stores front op fault new whole idle space len addr length may takes plain none rfl ready
  · obtain ⟨m, scr, replies⟩ := bulkAnswer_replied ready
    exact ⟨_, bulkWrite_again front op fault free done replies, rfl, scr, rfl⟩
  · obtain ⟨m, scr, answers⟩ := bulkAnswer_some ready
    refine ⟨_, bulkReadReq_log front op fault space (answers s rfl rfl), rfl, scr, ?_⟩
    refine (congrArg (fun x : Bdma => x.requests = _ ∧ x.naks = _) (Links.setBdma_self ..)).mpr ?_
    exact ⟨sat32_eq_min _, rfl⟩
  · obtain ⟨m, scr, answers⟩ := bulkAnswer_some ready
    refine ⟨_, bulkBadRequest_naks front fault (answers s rfl rfl), rfl, scr, ?_⟩
    refine (congrArg (fun x : Bdma => x.naks = _ ∧ x.requests = _) (Links.setBdma_self ..)).mpr ?_
    exact ⟨sat32_eq_min _, rfl⟩

end Sys2Proof.Machine
end

section
/-! PROOF. Replies, reads and writes over the bus: sessions (R455-R461). -/

namespace Sys2Proof.Machine

/-! ## Operations that are answered at once (R455, R459, R461) -/

/-- What a reply of seat k's session is made with. -/
def State.session (s : State) (k : Nat) : Bool × Option Seg × BitVec 256 × Nat × List Reply × BitVec 5 := ((s.seat k).isOpen, (s.seat k).seg, (s.seat k).krep, (s.seat k).repCtr, s.mc.out, s.aon.node)
/-- Nothing but seat k's record and the records of the MC differs. -/
def State.onlySeat (s t : State) (k : Nat) : Prop := t = { s with mc := t.mc, seats := t.seats } ∧ ∀ j, j ≠ k → t.seat j = s.seat j
theorem State.onlySeat_refl (s : State) (k : Nat) : s.onlySeat s k := ⟨rfl, fun _ _ => rfl⟩
theorem State.onlySeat_onSeat (s : State) (k : Nat) (g : SeatRec → SeatRec) : s.onlySeat (s.onSeat k g) k := ⟨rfl, fun _ other => (State.onSeat_seat ..).trans (if_neg other)⟩
theorem State.onSeat_session (s : State) {k : Nat} {g : SeatRec → SeatRec} (keeps : ∀ x, (g x).isOpen = x.isOpen ∧ (g x).seg = x.seg ∧ (g x).krep = x.krep ∧ (g x).repCtr = x.repCtr) {j : Nat} :
    (s.onSeat k g).session j = s.session j := by
  have seat := s.onSeat_seat k j g
  unfold State.session
  rw [seat]
  split
  · next here =>
    obtain ⟨opened, seg, krep, ctr⟩ := keeps (s.seat k)
    rw [opened, seg, krep, ctr, here]
    rfl
  · rfl
section
variable {r x : SeatRec} (same : r.repliedAs x)
include same
theorem SeatRec.repliedAs.staged : x.staged = r.staged := by
  rw [same.1]
theorem SeatRec.repliedAs.report : x.report = r.report := by
  rw [same.1]
theorem SeatRec.repliedAs.cursor : x.cursor = r.cursor := by
  rw [same.1]
theorem SeatRec.repliedAs.deferred : x.deferred = r.deferred := by
  rw [same.1]
theorem SeatRec.repliedAs.pend : x.pend = r.pend := by
  rw [same.1]
theorem SeatRec.repliedAs.turn_isSome : x.turn.isSome = r.turn.isSome := by
  obtain ⟨-, turn | turn⟩ := same
  · rw [turn]
  · rw [turn, Option.isSome_map]
theorem SeatRec.repliedAs.turn_some {q : Turn} (is : r.turn = some q) : ∃ y, x.turn = some y ∧ y.items = q.items ∧ y.at? = q.at? := by
  obtain ⟨-, turn | turn⟩ := same
  · exact ⟨q, turn.trans is, rfl, rfl⟩
  · rw [is, Option.map_some] at turn
    exact ⟨_, turn, rfl, rfl⟩
end
section
variable {s u : State} {r : Req} {func : Nat} (h : admitted s r func u) (f : fresh s r)
include h f
theorem admitted_session : ∃ key ctr node, u.session r.seat.val = (true, none, key, ctr, [], node) := by
  obtain ⟨opened, seg, out, -⟩ := admitted_meets h f
  refine ⟨(u.seat r.seat.val).krep, (u.seat r.seat.val).repCtr, u.aon.node, ?_⟩
  unfold State.session
  rw [opened, seg, out]
theorem admitted_only : s.onlySeat u r.seat.val := by
  obtain ⟨-, -, -, same, others⟩ := admitted_meets h f
  refine ⟨?_, others⟩
  rw [same]
/-- A response from a state with the session that the request met. -/
theorem respond_session {w : State} (keeps : w.session r.seat.val = u.session r.seat.val) (err aux : Nat) (data : List Byte) : answered u (respond w r func err aux data) r func err aux data ∧
    ∃ x, respond w r func err aux data = (w.send (w.replyIn r func err aux data)).onSeat r.seat.val (fun _ => x) ∧ (w.seat r.seat.val).repliedAs x := by
  obtain ⟨opened, seg, out, -⟩ := admitted_meets h f
  have opened' : (w.seat r.seat.val).isOpen = true := (congrArg (fun v => v.1) keeps).trans opened
  have seg' : (w.seat r.seat.val).seg = none := (congrArg (fun v => v.2.1) keeps).trans seg
  refine ⟨respond_answers ((congrArg (fun v => v.2.2.2.2.1) keeps).trans out) (congrArg (fun v => v.2.2.1) keeps) (congrArg (fun v => v.2.2.2.1) keeps) (congrArg (fun v => v.2.2.2.2.2) keeps) opened' seg' func err aux data, ?_⟩
  exact respond_parts opened' seg' func err aux data
/-- A response after a change of the seat's record alone. -/
theorem respond_only {w : State} (keeps : w.session r.seat.val = u.session r.seat.val) (own : u.onlySeat w r.seat.val) (err aux : Nat) (data : List Byte) {t : State} (is : respond w r func err aux data = t) :
    s.onlySeat t r.seat.val ∧ answered u t r func err aux data ∧ (w.seat r.seat.val).repliedAs (t.seat r.seat.val) := by
  obtain ⟨answers, x, done, replied⟩ := respond_session h f keeps err aux data
  obtain ⟨same, others⟩ := own
  obtain ⟨same', others'⟩ := admitted_only h f
  rw [is] at answers done
  refine ⟨⟨?_, fun j other => ?_⟩, answers, ?_⟩
  · rw [done]
    rw [same, same']
    rfl
  · rw [done, State.onSeat_seat, if_neg other]
    exact (others j other).trans (others' j other)
  · rw [done, State.onSeat_self]
    exact replied
/-- An operation that completes at once and changes its seat's record alone. -/
theorem finish_only {o : OpOut} (now : o.later = false) (keeps : o.st.session r.seat.val = u.session r.seat.val) (own : u.onlySeat o.st r.seat.val) {t : State} (is : finish u r func o = t) :
    s.onlySeat t r.seat.val ∧ answered u t r func o.err o.data.length o.data ∧ (o.st.seat r.seat.val).repliedAs (t.seat r.seat.val) := by
  unfold finish at is
  rw [now, if_neg Bool.false_ne_true] at is
  exact respond_only h f keeps own _ _ _ is
theorem serve_only {op : State → Nat → List Byte → Bool → OpOut} {o : OpOut} (does : op u r.seat.val (Req.payload r) (Req.long r) = o) (now : o.later = false) (keeps : o.st.session r.seat.val = u.session r.seat.val) (own : u.onlySeat o.st r.seat.val) :
    ∃ t, serve s r func op = .next t ∧ s.onlySeat t r.seat.val ∧ answered u t r func o.err o.data.length o.data ∧ (o.st.seat r.seat.val).repliedAs (t.seat r.seat.val) := by
  refine ⟨_, (serve_admitted op h f).trans ?_, finish_only h f now keeps own rfl⟩
  rw [does]
/-- An operation that is refused. -/
theorem serve_fails {op : State → Nat → List Byte → Bool → OpOut} {errs : List Nat} (does : op u r.seat.val (Req.payload r) (Req.long r) = .fail u errs) :
    ∃ t, serve s r func op = .next t ∧ s.onlySeat t r.seat.val ∧ answered u t r func (firstErr errs) 0 [] ∧ (u.seat r.seat.val).repliedAs (t.seat r.seat.val) :=
  serve_only h f does rfl rfl (State.onlySeat_refl u _)
/-- An operation that reads, or sets what a session is not in its seat's record. -/
theorem serve_seat {op : State → Nat → List Byte → Bool → OpOut} {g : SeatRec → SeatRec} {err : Nat} {data : List Byte} (does : op u r.seat.val (Req.payload r) (Req.long r) = { st := u.onSeat r.seat.val g, err := err, data := data })
    (keeps : ∀ x, (g x).isOpen = x.isOpen ∧ (g x).seg = x.seg ∧ (g x).krep = x.krep ∧ (g x).repCtr = x.repCtr) :
    ∃ t, serve s r func op = .next t ∧ s.onlySeat t r.seat.val ∧ answered u t r func err data.length data ∧ (g (u.seat r.seat.val)).repliedAs (t.seat r.seat.val) := by
  obtain ⟨t, done, only, answers, replied⟩ := serve_only h f does rfl (u.onSeat_session keeps) (State.onlySeat_onSeat u _ g)
  rw [State.onSeat_self] at replied
  exact ⟨t, done, only, answers, replied⟩
theorem serve_reads {op : State → Nat → List Byte → Bool → OpOut} {data : List Byte} (does : op u r.seat.val (Req.payload r) (Req.long r) = { st := u, data := data }) :
    ∃ t, serve s r func op = .next t ∧ s.onlySeat t r.seat.val ∧ answered u t r func 0 data.length data ∧ (u.seat r.seat.val).repliedAs (t.seat r.seat.val) :=
  serve_only h f does rfl rfl (State.onlySeat_refl u _)
end

end Sys2Proof.Machine
end

section
/-! PROOF. Reads and writes over the bus (R461-R500). -/

namespace Sys2Proof.Machine

/-! ## What keeps a session (R457) -/

theorem State.raise_session (s : State) (e : Event) (k : Nat) : (s.raise e).session k = s.session k := by
  unfold State.session
  rw [State.raise_seat]
  split
  · next mine =>
    rw [Bool.and_eq_true, decide_eq_true_eq] at mine
    rw [mine.1]
    rfl
  · rfl
theorem State.raiseOnce_session (s : State) (e : Event) (n k : Nat) : (s.raiseOnce e n).session k = s.session k := by
  unfold State.raiseOnce
  dsimp only
  split
  · rfl
  · refine (State.onSeat_session _ ?_).trans (s.raise_session e k)
    exact fun _ => ⟨rfl, rfl, rfl, rfl⟩
theorem scratchEvent_session (s : State) (w code : Nat) (once : Bool) (k : Nat) : (scratchEvent s w code once).session k = s.session k := by
  unfold scratchEvent
  dsimp only
  repeat' split
  · rfl
  · exact State.raiseOnce_session ..
  · rfl
  · exact State.raise_session ..
theorem scratchAccess_session (s : State) (portB : Bool) (w : Nat) (write full : Bool) (rot len : Nat) (data : List Byte) (coll : Coll) (k : Nat) : (scratchAccess s portB w write full rot len data coll).1.session k = s.session k := by
  have uncorr : (scratchUncorr s w).session k = s.session k := scratchEvent_session ..
  have corrected : (scratchCorrected s w).session k = s.session k := scratchEvent_session ..
  unfold scratchAccess
  dsimp only
  split
  · split
    · exact uncorr
    · rfl
  · split
    · rfl
    · split
      · exact uncorr
      · dsimp only
        split
        · exact corrected
        · rfl
theorem scratchFetch_session (s : State) (w : Nat) (full : Bool) (rot len k : Nat) : (scratchFetch s w full rot len).1.session k = s.session k := by
  have same := scratchAccess_session s false w false full rot len [] (s.portAColl w) k
  unfold scratchFetch
  dsimp only
  split <;> exact same
theorem writeKitty_session (s : State) (p reg : Nat) (data : Word) (be : BitVec 4) (k : Nat) : (writeKitty s p reg data be).session k = s.session k := by
  unfold writeKitty
  dsimp only
  repeat' split
  all_goals rfl
theorem userRead_session (s : State) (i n k : Nat) : (userRead s i n).1.session k = s.session k := by
  unfold userRead
  dsimp only
  repeat' split
  · rfl
  · rfl
  · exact scratchFetch_session ..
theorem userWrite_session (s : State) (i n k : Nat) (l : List Byte) : (userWrite s i n l).1.session k = s.session k := by
  unfold userWrite
  dsimp only
  repeat' split
  · exact writeKitty_session ..
  · rfl
  all_goals exact scratchAccess_session ..
theorem State.beyondMemory_session {s t : State} (same : s.beyondMemory = t.beyondMemory) (k : Nat) : s.session k = t.session k := (congrArg (fun u : State => u.session k) same :)
theorem writeSms_session (s : State) (j : Nat) (v : BitVec 256) (k : Nat) : (writeSms s j v).session k = s.session k := by
  rw [State.beyondMemory_session (writeSms_beyond s j v) k]
  refine (State.onSeat_session _ ?_).trans rfl
  exact fun _ => ⟨rfl, rfl, rfl, rfl⟩
theorem State.ite_as {α : Type} (view : State → α) {c : Prop} [Decidable c] {s t : State} {v : α} (yes : view s = v) (no : view t = v) : view (if c then s else t) = v := by
  split
  · exact yes
  · exact no
theorem applyWrite_session (s : State) (seat i sub : Nat) (data : List Byte) (k : Nat) : (applyWrite s seat i sub data).session k = s.session k := by
  have counts (j : Nat) {g : SeatRec → SeatRec} (keeps : ∀ x, (g x).isOpen = x.isOpen ∧ (g x).seg = x.seg ∧ (g x).krep = x.krep ∧ (g x).repCtr = x.repCtr) : (s.onSeat j g).session k = s.session k := s.onSeat_session keeps
  unfold applyWrite
  dsimp only
  have either {c : Prop} [Decidable c] {a b : State} (yes : a.session k = s.session k) (no : b.session k = s.session k) : (if c then a else b).session k = s.session k := State.ite_as (fun t => t.session k) yes no
  refine either rfl (either (counts _ ?_) (either rfl (either (counts _ ?_) (either (writeSms_session ..) (either rfl (either rfl (either rfl (either rfl (either rfl (either rfl rfl))))))))))
  · exact fun _ => ⟨rfl, rfl, rfl, rfl⟩
  · exact fun _ => ⟨rfl, rfl, rfl, rfl⟩
theorem applyWrite_aon (s : State) (seat i sub : Nat) (data : List Byte) : (applyWrite s seat i sub data).aon = s.aon := by
  have secret (k : Nat) (v : BitVec 256) : (writeSms s k v).aon = s.aon := (congrArg (fun u : State => u.aon) (writeSms_beyond s k v) :)
  unfold applyWrite
  dsimp only
  have either {c : Prop} [Decidable c] {a b : State} (yes : a.aon = s.aon) (no : b.aon = s.aon) : (if c then a else b).aon = s.aon := State.ite_as State.aon yes no
  exact either rfl (either rfl (either rfl (either rfl (either (secret ..) (either rfl (either rfl (either rfl (either rfl (either rfl (either rfl rfl))))))))))

/-! ## Requests over the bus, function by function (R446-R449, R461-R465, R475, R481-R483, R500) -/

theorem opWrite_refused {u : State} {k i sub : Nat} {d : List Byte} {long : Bool} (bad : objErrs u k i sub 1 d long ≠ []) : opWrite u k i sub d long = .fail u (objErrs u k i sub 1 d long) := by
  unfold opWrite
  rw [if_pos (by rw [List.isEmpty_eq_false_iff.2 bad]; rfl)]
theorem opRead_refused {u : State} {k i sub : Nat} {d : List Byte} {long : Bool} (bad : objErrs u k i sub 0 d long ≠ []) : opRead u k i sub d long = .fail u (objErrs u k i sub 0 d long) := by
  unfold opRead
  rw [if_pos (by rw [List.isEmpty_eq_false_iff.2 bad]; rfl)]
theorem opRead_user {u v : State} {k i sub resp : Nat} {d l : List Byte} {long : Bool} (ok : objErrs u k i sub 0 d long = []) (user : placeOf i = .user) (entry : sub ≠ 0) (reads : userRead u i sub = (v, resp, l)) :
    opRead u k i sub d long = if resp = respOkay then { st := v, data := l } else { st := v, err := errOfResp resp } := by
  have other : ¬ (decide (i = 0x2500) && decide (sub = 3)) = true := by
    rw [Bool.and_eq_true, decide_eq_true_eq]
    rintro ⟨log, -⟩
    rw [log] at user
    exact absurd user (by decide)
  unfold opRead
  rw [if_neg (by rw [ok]; exact Bool.false_ne_true), if_neg other, user]
  simp only [entry, if_false, reads]
theorem userHeld_refused {u : State} {k i sub op : Nat} {d : List Byte} {long : Bool} (bad : objErrs u k i sub op d long ≠ []) : userHeld u k i sub op d long = false := by
  unfold userHeld
  simp only [List.isEmpty_eq_false_iff.2 bad, Bool.and_false, Bool.false_and]
/-- A place that is no user object is none of the user objects' indices. -/
theorem userHeld_other {u : State} {k i sub op : Nat} {d : List Byte} {long : Bool} (other : placeOf i ≠ .user) : userHeld u k i sub op d long = false := by
  have among : ¬ (0x8000 ≤ i ∧ i < 0xC000) := by
    rintro ⟨low, high⟩
    refine other ?_
    unfold placeOf inRange
    simp only [Bool.and_eq_true, decide_eq_true_eq, Bool.or_eq_true]
    repeat rw [if_neg (by omega)]
    exact if_pos (by omega)
  have outside : (decide (0x8000 ≤ i) && decide (i < 0xC000)) = false := by
    rw [Bool.and_eq_false_iff, decide_eq_false_iff_not, decide_eq_false_iff_not]
    omega
  unfold userHeld
  simp only [outside, Bool.false_and]
/-- A command that refuses a request: the first error, and the seat's staging set and turn as they were. -/
def State.refuses (s u : State) (r : Req) (c : Instr) (func : Nat) (errs : List Nat) : Prop := ∃ t, exec c s = .next t ∧ s.onlySeat t r.seat.val ∧ answered u t r func (firstErr errs) 0 [] ∧
  (t.seat r.seat.val).staged = (u.seat r.seat.val).staged ∧ (t.seat r.seat.val).turn.isSome = (u.seat r.seat.val).turn.isSome
section
variable {s u : State} {r : Req} (f : fresh s r)
include f
theorem serve_refuses {func : Nat} (h : admitted s r func u) {c : Instr} {op : State → Nat → List Byte → Bool → OpOut} {errs : List Nat} (serves : exec c s = serve s r func op) (does : op u r.seat.val (Req.payload r) (Req.long r) = .fail u errs) :
    s.refuses u r c func errs := by
  obtain ⟨t, done, only, answers, replied⟩ := serve_fails h f does
  exact ⟨t, serves.trans done, only, answers, replied.staged, replied.turn_isSome⟩
/-- A request that waits for the fill of a block. -/
theorem holdFill_parts {n : Nat} (h : admitted s r n u) (few : n ≤ 2) : s.onlySeat (holdFill u n r) r.seat.val ∧ (holdFill u n r).mc = { s.mc with out := [], heldFill := s.mc.heldFill ++ [(n, r)] } ∧ ((holdFill u n r).seat r.seat.val).running = some r.seq := by
  obtain ⟨-, -, -, same, others⟩ := admitted_meets h f
  have waits : holdFill u n r = (u.onMc fun m => { m with heldFill := m.heldFill ++ [(n, r)] }).onSeat r.seat.val fun x => { x with running := some r.seq } := if_pos few
  rw [waits]
  refine ⟨⟨?_, fun j other => ?_⟩, ?_, congrArg SeatRec.running (State.onSeat_self ..)⟩
  · rw [same]
    rfl
  · exact ((State.onSeat_seat ..).trans (if_neg other)).trans (others j other)
  · rw [same]
    rfl
section
variable (h : admitted s r 1 u)
include h
theorem read_performs : exec (.read r) s = .next (performRead u r) := by
  simp only [exec, execRead]
  rw [accept_admitted false h f]
theorem read_free (free : userHeld u r.seat.val r.index.toNat r.sub.toNat 0 (Req.payload r) (Req.long r) = false) :
    exec (.read r) s = .next (finish u r 1 (opRead u r.seat.val r.index.toNat r.sub.toNat (Req.payload r) (Req.long r))) := by
  rw [read_performs f h, performRead, free]
  rfl
theorem read_refuses (bad : objErrs u r.seat.val r.index.toNat r.sub.toNat 0 (Req.payload r) (Req.long r) ≠ []) :
    s.refuses u r (.read r) 1 (objErrs u r.seat.val r.index.toNat r.sub.toNat 0 (Req.payload r) (Req.long r)) := by
  have runs := read_free f h (userHeld_refused bad)
  rw [opRead_refused bad] at runs
  obtain ⟨only, answers, replied⟩ := finish_only h f (o := .fail u _) rfl rfl (State.onlySeat_refl u _) rfl
  exact ⟨_, runs, only, answers, replied.staged, replied.turn_isSome⟩
theorem read_reads (ok : objErrs u r.seat.val r.index.toNat r.sub.toNat 0 (Req.payload r) (Req.long r) = []) (other : placeOf r.index.toNat ≠ .user) (not : ¬ (r.index.toNat = 0x2500 ∧ r.sub.toNat = 3)) :
    ∃ t, exec (.read r) s = .next t ∧ s.onlySeat t r.seat.val ∧ answered u t r 1 0 (objValue u r.seat.val r.index.toNat r.sub.toNat).length (objValue u r.seat.val r.index.toNat r.sub.toNat) := by
  have value : opRead u r.seat.val r.index.toNat r.sub.toNat (Req.payload r) (Req.long r) = { st := u, data := objValue u r.seat.val r.index.toNat r.sub.toNat } := by
    have entry : ¬ (decide (r.index.toNat = 0x2500) && decide (r.sub.toNat = 3)) = true := by
      rw [Bool.and_eq_true, decide_eq_true_eq, decide_eq_true_eq]
      exact not
    unfold opRead
    rw [if_neg (by rw [ok]; exact Bool.false_ne_true), if_neg entry]
    split
    · next at' => exact absurd at' other
    · rfl
  have runs := read_free f h (userHeld_other other)
  rw [value] at runs
  obtain ⟨only, answers, -⟩ := finish_only h f (o := { st := u, data := _ }) rfl rfl (State.onlySeat_refl u _) rfl
  exact ⟨_, runs, only, answers⟩
theorem read_user {v : State} {resp : Nat} {l : List Byte} (ok : objErrs u r.seat.val r.index.toNat r.sub.toNat 0 (Req.payload r) (Req.long r) = []) (user : placeOf r.index.toNat = .user) (entry : r.sub.toNat ≠ 0)
    (free : userHeld u r.seat.val r.index.toNat r.sub.toNat 0 (Req.payload r) (Req.long r) = false) (reads : userRead u r.index.toNat r.sub.toNat = (v, resp, l)) :
    ∃ t, exec (.read r) s = .next t ∧ t.nv = v.nv ∧ t.fab = v.fab ∧ t.net = v.net ∧ (resp = 0 → answered u t r 1 0 l.length l) ∧ (resp ≠ 0 → answered u t r 1 (errOfResp resp) 0 []) := by
  have session : v.session r.seat.val = u.session r.seat.val := by
    rw [← userRead_session u r.index.toNat r.sub.toNat, reads]
  have runs := read_free f h free
  have outcome : finish u r 1 (opRead u r.seat.val r.index.toNat r.sub.toNat (Req.payload r) (Req.long r)) = respond v r 1 (if resp = 0 then 0 else errOfResp resp) (if resp = 0 then l else []).length (if resp = 0 then l else []) := by
    rw [opRead_user ok user entry reads]
    by_cases good : resp = 0
    · simp only [good, respOkay, if_true]
      rfl
    · simp only [good, respOkay, if_false]
      rfl
  rw [outcome] at runs
  obtain ⟨answers, x, done, -⟩ := respond_session h f session (if resp = 0 then 0 else errOfResp resp) (if resp = 0 then l else []).length (if resp = 0 then l else [])
  refine ⟨_, runs, ?_, ?_, ?_, fun good => ?_, fun bad => ?_⟩
  · rw [done]; rfl
  · rw [done]; rfl
  · rw [done]; rfl
  · simpa only [good, if_true] using answers
  · simpa only [bad, if_false, List.length_nil] using answers
theorem read_waits (held : userHeld u r.seat.val r.index.toNat r.sub.toNat 0 (Req.payload r) (Req.long r) = true) : exec (.read r) s = .next (holdFill u 1 r) := by
  rw [read_performs f h, performRead, held]
  rfl
omit f h in
theorem nextEntry_serves (index : r.index.toNat = 0x2500) (sub : r.sub.toNat = 3) : exec (.nextEntry r) s = serve s r 1 fun s k d l => opRead s k 0x2500 0x03 d l := by
  have at' : r.index = 0x2500 ∧ r.sub = 0x03 := ⟨BitVec.eq_of_toNat_eq index, BitVec.eq_of_toNat_eq sub⟩
  simp only [exec, execNextEntry, at', decide_true, Bool.and_self, if_true]
theorem nextEntry_none (index : r.index.toNat = 0x2500) (sub : r.sub.toNat = 3) (ok : objErrs u r.seat.val r.index.toNat r.sub.toNat 0 (Req.payload r) (Req.long r) = []) (none : nextLog u r.seat.val = none) :
    ∃ t, exec (.nextEntry r) s = .next t ∧ s.onlySeat t r.seat.val ∧ answered u t r 1 errState 0 [] := by
  have fails : opRead u r.seat.val 0x2500 0x03 (Req.payload r) (Req.long r) = .fail u [errState] := by
    rw [index, sub] at ok
    unfold opRead
    rw [if_neg (by rw [ok]; exact Bool.false_ne_true), if_pos (by decide), none]
  obtain ⟨t, done, only, answers, -⟩ := serve_refuses f h (nextEntry_serves index sub) fails
  exact ⟨t, done, only, answers⟩
theorem nextEntry_some {e : LogEntry} (index : r.index.toNat = 0x2500) (sub : r.sub.toNat = 3) (ok : objErrs u r.seat.val r.index.toNat r.sub.toNat 0 (Req.payload r) (Req.long r) = []) (some' : nextLog u r.seat.val = some e) :
    ∃ t, exec (.nextEntry r) s = .next t ∧ s.onlySeat t r.seat.val ∧ answered u t r 1 0 32 e.bytes ∧ (t.seat r.seat.val).cursor = (e.seq + 1) % 4294967296 := by
  have entry : opRead u r.seat.val 0x2500 0x03 (Req.payload r) (Req.long r) = { st := u.onSeat r.seat.val fun x => { x with cursor := wrap32 (e.seq + 1) }, err := 0, data := e.bytes } := by
    rw [index, sub] at ok
    unfold opRead
    rw [if_neg (by rw [ok]; exact Bool.false_ne_true), if_pos (by decide), some']
    rfl
  have length : e.bytes.length = 32 := leBytes_length ..
  obtain ⟨t, done, only, answers, replied⟩ := serve_seat h f (op := fun s k d l => opRead s k 0x2500 0x03 d l) entry fun _ => ⟨rfl, rfl, rfl, rfl⟩
  rw [length] at answers
  exact ⟨t, (nextEntry_serves index sub).trans done, only, answers, replied.cursor⟩
theorem read_held (held : userHeld u r.seat.val r.index.toNat r.sub.toNat 0 (Req.payload r) (Req.long r) = true) : ∃ t, exec (.read r) s = .next t ∧ s.onlySeat t r.seat.val ∧
    t.mc = { s.mc with out := [], heldFill := s.mc.heldFill ++ [(1, r)] } ∧ (t.seat r.seat.val).running = some r.seq :=
  ⟨_, read_waits f h held, holdFill_parts f h (by omega)⟩
end
section
variable (h : admitted s r 2 u)
include h
theorem write_performs (shut : s.mc.window = false) : exec (.write r) s = .next (performWrite u r) := serveWrite'_admitted h f shut
theorem write_free (shut : s.mc.window = false) (free : userHeld u r.seat.val r.index.toNat r.sub.toNat 1 (Req.payload r) (Req.long r) = false) :
    exec (.write r) s = .next (finish u r 2 (opWrite u r.seat.val r.index.toNat r.sub.toNat (Req.payload r) (Req.long r))) := by
  rw [write_performs f h shut, performWrite, free]
  rfl
theorem write_refuses (shut : s.mc.window = false) (bad : objErrs u r.seat.val r.index.toNat r.sub.toNat 1 (Req.payload r) (Req.long r) ≠ []) :
    s.refuses u r (.write r) 2 (objErrs u r.seat.val r.index.toNat r.sub.toNat 1 (Req.payload r) (Req.long r)) := by
  have runs := write_free f h shut (userHeld_refused bad)
  rw [opWrite_refused bad] at runs
  obtain ⟨only, answers, replied⟩ := finish_only h f (o := .fail u _) rfl rfl (State.onlySeat_refl u _) rfl
  exact ⟨_, runs, only, answers, replied.staged, replied.turn_isSome⟩
theorem write_object (shut : s.mc.window = false) (ok : objErrs u r.seat.val r.index.toNat r.sub.toNat 1 (Req.payload r) (Req.long r) = []) (other : placeOf r.index.toNat ≠ .user) {w : State}
    (wrote : applyWrite u r.seat.val r.index.toNat r.sub.toNat (Req.payload r) = w) :
    ∃ t, exec (.write r) s = .next t ∧ answered u t r 2 0 0 [] ∧ t.aon = s.aon ∧ t.nv = w.nv ∧ t.fab = w.fab ∧ t.net = w.net ∧ t.eng = w.eng ∧ t.stk = w.stk ∧ t.lnk = w.lnk := by
  have session : w.session r.seat.val = u.session r.seat.val := by rw [← wrote, applyWrite_session]
  have aon : w.aon = s.aon := by
    obtain ⟨same, -⟩ := admitted_only h f
    rw [← wrote, applyWrite_aon, same]
  have effect : opWrite u r.seat.val r.index.toNat r.sub.toNat (Req.payload r) (Req.long r) = { st := w } := by
    unfold opWrite
    rw [if_neg (by rw [ok]; exact Bool.false_ne_true)]
    split
    · next at' => exact absurd at' other
    · rw [wrote]
  have runs := write_free f h shut (userHeld_other other)
  rw [effect] at runs
  obtain ⟨answers, x, done, -⟩ := respond_session h f session 0 0 []
  have runs : exec (.write r) s = .next (respond w r 2 0 0 []) := runs
  refine ⟨_, runs, answers, ?_⟩
  rw [done]
  exact ⟨aon, rfl, rfl, rfl, rfl, rfl, rfl⟩
theorem write_user {v : State} {resp : Nat} (shut : s.mc.window = false) (ok : objErrs u r.seat.val r.index.toNat r.sub.toNat 1 (Req.payload r) (Req.long r) = []) (user : placeOf r.index.toNat = .user)
    (free : userHeld u r.seat.val r.index.toNat r.sub.toNat 1 (Req.payload r) (Req.long r) = false) (writes : userWrite u r.index.toNat r.sub.toNat (Req.payload r) = (v, resp)) :
    ∃ t, exec (.write r) s = .next t ∧ answered u t r 2 (errOfResp resp) 0 [] ∧ t.fab = v.fab ∧ t.net = v.net := by
  have session : v.session r.seat.val = u.session r.seat.val := by
    rw [← userWrite_session u r.index.toNat r.sub.toNat _ (Req.payload r), writes]
  have effect : opWrite u r.seat.val r.index.toNat r.sub.toNat (Req.payload r) (Req.long r) = { st := v, err := errOfResp resp } := by
    unfold opWrite
    rw [if_neg (by rw [ok]; exact Bool.false_ne_true), user]
    simp only [writes]
  have runs := write_free f h shut free
  rw [effect] at runs
  obtain ⟨answers, x, done, -⟩ := respond_session h f session (errOfResp resp) 0 []
  have runs : exec (.write r) s = .next (respond v r 2 (errOfResp resp) 0 []) := runs
  refine ⟨_, runs, answers, ?_⟩
  rw [done]
  exact ⟨rfl, rfl⟩
theorem write_held (shut : s.mc.window = false) (held : userHeld u r.seat.val r.index.toNat r.sub.toNat 1 (Req.payload r) (Req.long r) = true) : ∃ t, exec (.write r) s = .next t ∧ s.onlySeat t r.seat.val ∧
    t.mc = { s.mc with out := [], heldFill := s.mc.heldFill ++ [(2, r)] } ∧ (t.seat r.seat.val).running = some r.seq := by
  refine ⟨holdFill u 2 r, ?_, holdFill_parts f h (by omega)⟩
  rw [write_performs f h shut, performWrite, held]
  rfl
/-- In the window a WRITE waits. -/
theorem write_window (opened : s.mc.window = true) : ∃ t, exec (.write r) s = .next t ∧ s.onlySeat t r.seat.val ∧
    t.mc = { s.mc with out := [], heldWrites := s.mc.heldWrites ++ [r] } ∧ (t.seat r.seat.val).running = some r.seq := by
  obtain ⟨-, -, -, same, others⟩ := admitted_meets h f
  have window : u.mc.window = true := by
    rw [same]
    exact opened
  refine ⟨(u.onMc fun m => { m with heldWrites := m.heldWrites ++ [r] }).onSeat r.seat.val fun x => { x with running := some r.seq }, ?_, ⟨?_, fun j other => ?_⟩, ?_, congrArg SeatRec.running (State.onSeat_self ..)⟩
  · simp only [exec, execWrite, serveWrite', accept_admitted false h f, window, if_true]
  · rw [same]
    rfl
  · exact ((State.onSeat_seat ..).trans (if_neg other)).trans (others j other)
  · rw [same]
    rfl
end
end

end Sys2Proof.Machine
end

section
/-! PROOF. Staging sets, turns, acknowledgements and requests without a session (R458-R483). -/

namespace Sys2Proof.Machine

/-! ## Staging sets and turns (R463, R464, R478, R481-R483) -/

section
variable {s u : State} {r : Req} {func : Nat} (f : fresh s r) (h : admitted s r func u)
include f h
/-- A command that stages items, under the errors that its request has met. -/
theorem stage_refuses {c : Instr} {op : State → Nat → List Byte → Bool → OpOut} {errs : List Nat} {its : List Item} (serves : exec c s = serve s r func op)
    (does : op u r.seat.val (Req.payload r) (Req.long r) = stageItems u r.seat.val errs its) (bad : errs ++ (if putItems (u.seat r.seat.val).staged its = none then [errStageFull] else []) ≠ []) :
    s.refuses u r c func (errs ++ if putItems (u.seat r.seat.val).staged its = none then [errStageFull] else []) := by
  refine serve_refuses f h serves (does.trans ?_)
  unfold stageItems
  cases put : putItems (u.seat r.seat.val).staged its with
  | none => rfl
  | some l =>
    have bad' : errs ≠ [] := by
      rw [put, if_neg (by simp), List.append_nil] at bad
      exact bad
    simp only [List.isEmpty_eq_false_iff.2 bad', Bool.false_eq_true, if_false, reduceCtorEq, List.append_nil]
theorem stage_stages {c : Instr} {op : State → Nat → List Byte → Bool → OpOut} {its l : List Item} (serves : exec c s = serve s r func op)
    (does : op u r.seat.val (Req.payload r) (Req.long r) = stageItems u r.seat.val [] its) (put : putItems (u.seat r.seat.val).staged its = some l) :
    ∃ t, exec c s = .next t ∧ s.onlySeat t r.seat.val ∧ (t.seat r.seat.val).staged = l ∧ answered u t r func 0 4 (leBytes 2 l.length ++ leBytes 2 (stagedBytes l)) := by
  have stages : op u r.seat.val (Req.payload r) (Req.long r) = { st := u.onSeat r.seat.val fun r => { r with staged := l }, err := 0, data := stagedData l } := by
    rw [does]
    unfold stageItems
    rw [put]
    rfl
  obtain ⟨t, done, only, answers, replied⟩ := serve_seat h f stages fun _ => ⟨rfl, rfl, rfl, rfl⟩
  refine ⟨t, serves.trans done, only, replied.staged, ?_⟩
  have length : (stagedData l).length = 4 := by
    unfold stagedData
    rw [List.length_append, leBytes_length, leBytes_length]
  rw [length] at answers
  exact answers
end
theorem stage_serves (s : State) (r : Req) : exec (.stage r) s = serve s r 3 fun s k d l => opStage s k r.index.toNat r.sub.toNat d l := rfl
theorem winWrite_serves (s : State) (r : Req) : exec (.winWrite r) s = serve s r 0x0C fun s k d l => opWinWrite s k r.index.toNat d l := rfl
section
variable {s u : State} {r : Req} (f : fresh s r)
include f
theorem check_reports (h : admitted s r 4 u) (empty : Req.payload r = []) (short : Req.long r = false) {rep : Report} (is : reportOf s.aon.now 0 (u.seat r.seat.val).staged (checkItems (u.checkBase r.seat.val) r.seat.val (u.seat r.seat.val).staged) = rep) :
    (rep.result ≠ 2 → ∃ t, exec (.check r) s = .next t ∧ s.onlySeat t r.seat.val ∧ answered u t r 4 0 0 [] ∧ (t.seat r.seat.val).report = rep ∧ (t.seat r.seat.val).staged = (u.seat r.seat.val).staged) ∧
      (rep.result = 2 → ∃ t, exec (.check r) s = .next t ∧ s.onlySeat t r.seat.val ∧ answered u t r 4 errCheckFailed (failData rep).length (failData rep) ∧ (t.seat r.seat.val).report = rep ∧ (t.seat r.seat.val).staged = (u.seat r.seat.val).staged) := by
  have now : u.aon.now = s.aon.now := by
    obtain ⟨same, -⟩ := admitted_only h f
    rw [same]
  have checks : opCheck u r.seat.val (Req.payload r) (Req.long r) = { st := u.onSeat r.seat.val fun r => { r with report := rep }, err := if rep.result = 2 then errCheckFailed else 0, data := if rep.result = 2 then failData rep else [] } := by
    unfold opCheck checkSet
    rw [empty, short, if_neg (by decide), now, is]
    by_cases bad : rep.result = 2
    · simp only [bad, if_true]
    · simp only [bad, if_false]
      rfl
  obtain ⟨t, done, only, answers, replied⟩ := serve_seat h f (op := fun s k d l => opCheck s k d l) checks fun _ => ⟨rfl, rfl, rfl, rfl⟩
  have runs : exec (.check r) s = .next t := done
  refine ⟨fun good => ⟨t, runs, only, ?_, replied.report, replied.staged⟩, fun bad => ⟨t, runs, only, ?_, replied.report, replied.staged⟩⟩
  · simpa only [good, if_false, List.length_nil] using answers
  · simpa only [bad, if_true] using answers
theorem ping_answers (h : admitted s r 0x0F u) (empty : Req.payload r = []) (short : Req.long r = false) : ∃ t, exec (.ping r) s = .next t ∧ s.onlySeat t r.seat.val ∧ answered u t r 0x0F 0 0 [] := by
  have pings : opPing u (Req.payload r) (Req.long r) = { st := u, data := [] } := by
    unfold opPing
    rw [empty, short]
    rfl
  obtain ⟨t, done, only, answers, -⟩ := serve_reads h f (op := fun s _ d l => opPing s d l) pings
  exact ⟨t, done, only, answers⟩
theorem reservedFunc_answers {func : Byte} (h : admitted s r func.toNat u) (reserved : requestFunc func.toNat = false) : ∃ t, exec (.reservedFunc r func) s = .next t ∧ s.onlySeat t r.seat.val ∧ answered u t r func.toNat errNoObject 0 [] := by
  have serves : exec (.reservedFunc r func) s = serve s r func.toNat fun s _ _ _ => .fail s [errNoObject] := by
    simp only [exec, execReservedFunc, reserved, Bool.false_eq_true, if_false]
  obtain ⟨t, done, only, answers, -⟩ := serve_refuses f h serves rfl
  exact ⟨t, done, only, answers⟩
theorem winRead_refuses (h : admitted s r 0x0B u) {errs : List Nat} {l : List Byte} (is : winReadErrs u r.seat.val r.index.toNat (Req.payload r) (Req.long r) = (errs, l)) (bad : errs ≠ []) : s.refuses u r (.winRead r) 0x0B errs := by
  refine serve_refuses f h (op := fun s k d l => opWinRead s k r.index.toNat d l) rfl ?_
  unfold opWinRead
  rw [is]
  simp only [List.isEmpty_eq_false_iff.2 bad, Bool.false_eq_true, if_false]
theorem winRead_reads (h : admitted s r 0x0B u) {l : List Byte} (is : winReadErrs u r.seat.val r.index.toNat (Req.payload r) (Req.long r) = ([], l)) :
    ∃ t, exec (.winRead r) s = .next t ∧ s.onlySeat t r.seat.val ∧ answered u t r 0x0B 0 l.length l := by
  have reads : opWinRead u r.seat.val r.index.toNat (Req.payload r) (Req.long r) = { st := u, data := l } := by
    unfold opWinRead
    rw [is]
    rfl
  obtain ⟨t, done, only, answers, -⟩ := serve_reads h f (op := fun s k d l => opWinRead s k r.index.toNat d l) reads
  exact ⟨t, done, only, answers⟩
end

theorem startPlls_parts (s : State) (k : Nat) (items : List Item) : ∃ f e, startPlls s k items = { s with fab := f, eng := e } := ⟨_, _, Eq.refl (startPlls s k items)⟩
/-- A turn's time is one that its request may name (R482). -/
def State.timely (s : State) (d : List Byte) : Prop :=
  d.length = 10 ∧ leField d 0 4 < 1000000000 ∧ s.aon.now + 1000000 ≤ ofTime80 d ∧ ofTime80 d ≤ s.aon.now + 86400000000000 ∧ s.aon.mode ≠ some .sowing
/-- A report of a seat's staging set stands. -/
def State.reported (u : State) (k : Nat) (rep : Report) : State := u.onSeat k fun r => { r with report := rep }
/-- A turn has been accepted: its report stands, and it takes the staging set. -/
def State.turned (u : State) (k : Nat) (rep : Report) (items : List Item) (at? : Option Nat) (source : Nat) : State := u.onSeat k fun r => { r with report := rep, staged := [], turn := some { items := items, at? := at?, source := source } }
theorem State.turned_session (u : State) (k : Nat) (rep : Report) (items : List Item) (at? : Option Nat) (source j : Nat) : (u.turned k rep items at? source).session j = u.session j := by
  refine u.onSeat_session ?_
  exact fun _ => ⟨rfl, rfl, rfl, rfl⟩
theorem State.reported_session (u : State) (k : Nat) (rep : Report) (j : Nat) : (u.reported k rep).session j = u.session j := by
  refine u.onSeat_session ?_
  exact fun _ => ⟨rfl, rfl, rfl, rfl⟩
theorem State.turned_only (u : State) (k : Nat) (rep : Report) (items : List Item) (at? : Option Nat) (source : Nat) : u.onlySeat (u.turned k rep items at? source) k := State.onlySeat_onSeat ..
theorem State.reported_only (u : State) (k : Nat) (rep : Report) : u.onlySeat (u.reported k rep) k := State.onlySeat_onSeat ..
theorem State.reported_turned (u : State) (k : Nat) (rep : Report) (items : List Item) (at? : Option Nat) (source : Nat) :
    ((u.reported k rep).onSeat k fun r => { r with staged := [], deferred := r.deferred, turn := some { items := items, at? := at?, source := source } }) = u.turned k rep items at? source := State.onSeat_onSeat ..
section
variable {u : State} {k : Nat} {d : List Byte} {rep : Report} (staged : (u.seat k).staged ≠ []) (idle : (u.seat k).turn = none) (calm : (u.seat k).deferred = [])
  (is : reportOf u.aon.now 1 (u.seat k).staged (checkItems (u.checkBase k) k (u.seat k).staged) = rep)
include staged idle calm is
/-- A TURN that its request's form lets through is checked. -/
theorem opTurn_checks (ok : d = [] ∨ u.timely d) : opTurn u k d false { items := [], at? := none, source := 1 } = if rep.result = 2 then { st := u.reported k rep, err := errCheckFailed, data := failData rep }
    else if !d.isEmpty then { st := u.turned k rep (u.seat k).staged (some (ofTime80 d)) 2, data := d }
    else { st := startPlls (u.turned k rep (u.seat k).staged none 1) k (if (u.turned k rep (u.seat k).staged none 1).step7 then (u.seat k).staged.filter fun i => !defers (u.turned k rep (u.seat k).staged none 1) i else (u.seat k).staged), later := true } := by
  have takes : u.takesDeferred k = false := by
    unfold State.takesDeferred
    rw [calm]
    exact Bool.and_false _
  have full : (u.seat k).staged.isEmpty = false := List.isEmpty_eq_false_iff.2 staged
  have errs : errsOf [
      (false || (!d.isEmpty && d.length != 10), errTypeLength),
      (!d.isEmpty && (decide (999999999 < leField d 0 4) || decide (u.aon.now + 86400000000000 < ofTime80 d)), errRange),
      (((u.seat k).staged.isEmpty && !false) || (!d.isEmpty && u.aon.mode == some .sowing), errState),
      ((u.seat k).turn.isSome || (!(u.seat k).deferred.isEmpty && !false && !u.step7), errBusy),
      (!d.isEmpty && decide (ofTime80 d < u.aon.now + 1000000), errTurnLate)] = [] := by
    rw [full, idle, calm]
    rcases ok with none | ⟨length, nanos, late, early, mode⟩
    · rw [none]
      rfl
    · have nanos' : ¬ 999999999 < leField d 0 4 := by omega
      have late' : ¬ ofTime80 d < u.aon.now + 1000000 := by omega
      have early' : ¬ u.aon.now + 86400000000000 < ofTime80 d := by omega
      have mode' : (u.aon.mode == some .sowing) = false := beq_false_of_ne mode
      simp [errsOf, length, nanos', late', early', mode']
  unfold opTurn checkSet
  simp only [takes]
  simp only [errs, List.isEmpty_nil, Bool.not_true, Bool.false_eq_true, if_false, is]
  rw [← State.reported_turned, ← State.reported_turned]
  unfold State.reported
  cases d with
  | nil =>
    simp only [List.isEmpty_nil, Bool.not_true, Bool.false_eq_true, if_false]
  | cons b l =>
    simp only [List.isEmpty_cons, Bool.not_false, if_true]
end
section
variable {s u : State} {r : Req} (f : fresh s r) (h : admitted s r 5 u) (staged : (u.seat r.seat.val).staged ≠ []) (idle : (u.seat r.seat.val).turn = none) (calm : (u.seat r.seat.val).deferred = []) (short : Req.long r = false)
  {rep : Report} (is : reportOf s.aon.now 1 (u.seat r.seat.val).staged (checkItems (u.checkBase r.seat.val) r.seat.val (u.seat r.seat.val).staged) = rep)
include f h staged idle calm short is
/-- What the request's operation is. -/
theorem turn_checks (ok : Req.payload r = [] ∨ s.timely (Req.payload r)) : exec (.turn r) s = .next (finish u r 5 (if rep.result = 2 then { st := u.reported r.seat.val rep, err := errCheckFailed, data := failData rep }
    else if !(Req.payload r).isEmpty then { st := u.turned r.seat.val rep (u.seat r.seat.val).staged (some (ofTime80 (Req.payload r))) 2, data := Req.payload r }
    else { st := startPlls (u.turned r.seat.val rep (u.seat r.seat.val).staged none 1) r.seat.val (if (u.turned r.seat.val rep (u.seat r.seat.val).staged none 1).step7 then (u.seat r.seat.val).staged.filter fun i => !defers (u.turned r.seat.val rep (u.seat r.seat.val).staged none 1) i else (u.seat r.seat.val).staged), later := true })) := by
  obtain ⟨same, -⟩ := admitted_only h f
  have aon : u.aon = s.aon := by rw [same]
  have timely : Req.payload r = [] ∨ u.timely (Req.payload r) := by
    unfold State.timely
    rw [aon]
    exact ok
  have is' : reportOf u.aon.now 1 (u.seat r.seat.val).staged (checkItems (u.checkBase r.seat.val) r.seat.val (u.seat r.seat.val).staged) = rep := by
    rw [aon]
    exact is
  have serves : exec (.turn r) s = serve s r 5 fun s k d l => opTurn s k d l { items := [], at? := none, source := 1 } := rfl
  rw [serves, serve_admitted _ h f, short, opTurn_checks staged idle calm is' timely]
theorem turn_refused (ok : Req.payload r = [] ∨ s.timely (Req.payload r)) (bad : rep.result = 2) : ∃ t, exec (.turn r) s = .next t ∧ s.onlySeat t r.seat.val ∧ answered u t r 5 errCheckFailed (failData rep).length (failData rep) ∧
    (t.seat r.seat.val).staged = (u.seat r.seat.val).staged ∧ (t.seat r.seat.val).turn = none := by
  have runs := turn_checks f h staged idle calm short is ok
  rw [if_pos bad] at runs
  obtain ⟨only, answers, replied⟩ := finish_only h f (o := { st := u.reported r.seat.val rep, err := errCheckFailed, data := failData rep }) rfl (u.reported_session ..) (u.reported_only ..) rfl
  have seat : (u.reported r.seat.val rep).seat r.seat.val = { u.seat r.seat.val with report := rep } := State.onSeat_self ..
  rw [seat] at replied
  refine ⟨_, runs, only, answers, replied.staged, Option.not_isSome_iff_eq_none.1 ?_⟩
  rw [replied.turn_isSome, idle]
  exact Bool.false_ne_true
theorem turn_timed (ok : s.timely (Req.payload r)) (good : rep.result ≠ 2) : ∃ t q, exec (.turn r) s = .next t ∧ s.onlySeat t r.seat.val ∧ answered u t r 5 0 10 (Req.payload r) ∧ (t.seat r.seat.val).turn = some q ∧
    q.items = (u.seat r.seat.val).staged ∧ q.at? = some (ofTime80 (Req.payload r)) ∧ (t.seat r.seat.val).staged = [] := by
  obtain ⟨length, -⟩ := id ok
  have some' : (!(Req.payload r).isEmpty) = true := by
    cases d : Req.payload r with
    | nil => rw [d] at length; exact absurd length (by decide)
    | cons b l => rfl
  have runs := turn_checks f h staged idle calm short is (.inr ok)
  rw [if_neg good, if_pos some'] at runs
  obtain ⟨only, answers, replied⟩ := finish_only h f (o := { st := u.turned r.seat.val rep (u.seat r.seat.val).staged (some (ofTime80 (Req.payload r))) 2, data := Req.payload r }) rfl (u.turned_session ..) (u.turned_only ..) rfl
  obtain ⟨y, turn, items, at'⟩ := replied.turn_some (congrArg SeatRec.turn (State.onSeat_self ..))
  rw [length] at answers
  exact ⟨_, y, runs, only, answers, turn, items, at', replied.staged.trans (congrArg SeatRec.staged (State.onSeat_self ..))⟩
theorem turn_immediate (empty : Req.payload r = []) (good : rep.result ≠ 2) : ∃ t q, exec (.turn r) s = .next t ∧ t.mc.out = [] ∧ (t.seat r.seat.val).staged = [] ∧ (t.seat r.seat.val).running = some r.seq ∧
    (t.seat r.seat.val).turn = some q ∧ q.items = (u.seat r.seat.val).staged ∧ q.at? = none ∧ q.req.isSome = true ∧ t.nv = s.nv ∧ t.net = s.net ∧ t.stk = s.stk := by
  obtain ⟨-, -, out, same, -⟩ := admitted_meets h f
  have runs := turn_checks f h staged idle calm short is (.inl empty)
  rw [if_neg good, empty, if_neg (by decide)] at runs
  generalize (if (u.turned r.seat.val rep (u.seat r.seat.val).staged none 1).step7 then (u.seat r.seat.val).staged.filter fun i => !defers (u.turned r.seat.val rep (u.seat r.seat.val).staged none 1) i else (u.seat r.seat.val).staged) = items at runs
  obtain ⟨fab, eng, starts⟩ := startPlls_parts (u.turned r.seat.val rep (u.seat r.seat.val).staged none 1) r.seat.val items
  rw [starts] at runs
  generalize state : ({ u.turned r.seat.val rep (u.seat r.seat.val).staged none 1 with fab := fab, eng := eng } : State) = w at runs
  have seat : w.seat r.seat.val = { u.seat r.seat.val with report := rep, staged := [], turn := some { items := (u.seat r.seat.val).staged, at? := none, source := 1 } } := by
    rw [← state]
    show (u.turned r.seat.val rep (u.seat r.seat.val).staged none 1).seat r.seat.val = _
    exact State.onSeat_self ..
  have waits : finish u r 5 { st := w, later := true } = w.onSeat r.seat.val fun x => { x with running := some r.seq, turn := x.turn.map fun t => { t with req := some (replyTo u r 5 0 0 []), via := none } } := if_pos rfl
  rw [waits] at runs
  refine ⟨_, { items := (u.seat r.seat.val).staged, at? := none, source := 1, req := some (replyTo u r 5 0 0 []) }, runs, ?_, ?_, congrArg SeatRec.running (State.onSeat_self ..), ?_, rfl, rfl, rfl, ?_⟩
  · rw [← state]
    exact out
  · rw [State.onSeat_self, seat]
  · rw [State.onSeat_self, seat]
    rfl
  · rw [← state, same]
    exact ⟨rfl, rfl, rfl⟩
end

/-! ## Discards, acknowledgements and requests without a session (R458, R475, R483) -/

section
variable {s u : State} {r : Req} (f : fresh s r)
theorem discard_serves (s : State) (r : Req) : exec (.discard r) s = serve s r 6 fun s k d l => { opDiscard s k d l with st := cancelled s (opDiscard s k d l).st k } := rfl
include f
theorem discard_staged (h : admitted s r 6 u) (short : Req.long r = false) (empty : Req.payload r = []) : ∃ t, exec (.discard r) s = .next t ∧ s.onlySeat t r.seat.val ∧ answered u t r 6 0 0 [] ∧ (t.seat r.seat.val).staged = [] := by
  have drops : opDiscard u r.seat.val (Req.payload r) (Req.long r) = { st := u.onSeat r.seat.val fun r => { r with staged := [] } } := by
    rw [empty, short]
    rfl
  have calm : cancelled u (u.onSeat r.seat.val fun r => { r with staged := [] }) r.seat.val = u.onSeat r.seat.val fun r => { r with staged := [] } := by
    unfold cancelled
    rw [State.onSeat_self]
    cases (u.seat r.seat.val).turn <;> rfl
  obtain ⟨t, done, only, answers, replied⟩ := serve_seat h f (op := fun s k d l => { opDiscard s k d l with st := cancelled s (opDiscard s k d l).st k }) (g := fun r => { r with staged := [] }) (err := 0) (data := [])
    (by rw [drops, calm]; rfl) fun _ => ⟨rfl, rfl, rfl, rfl⟩
  exact ⟨t, done, only, answers, replied.staged⟩
theorem discard_turn (h : admitted s r 6 u) (short : Req.long r = false) (one : Req.payload r = [1]) (early : u.turnReached r.seat.val = false) (timed : ∀ q, (u.seat r.seat.val).turn = some q → q.at? ≠ none) :
    ∃ t, exec (.discard r) s = .next t ∧ s.onlySeat t r.seat.val ∧ answered u t r 6 0 0 [] ∧ (t.seat r.seat.val).turn = none ∧ (t.seat r.seat.val).deferred = [] ∧ (t.seat r.seat.val).staged = (u.seat r.seat.val).staged := by
  have drops : opDiscard u r.seat.val (Req.payload r) (Req.long r) = { st := u.onSeat r.seat.val fun r => { r with turn := none, deferred := [] } } := by
    unfold opDiscard
    rw [one, short, early]
    rfl
  have calm : cancelled u (u.onSeat r.seat.val fun r => { r with turn := none, deferred := [] }) r.seat.val = u.onSeat r.seat.val fun r => { r with turn := none, deferred := [] } := by
    unfold cancelled
    rw [State.onSeat_self]
    cases turn : (u.seat r.seat.val).turn with
    | none => rfl
    | some q =>
      have at' : q.at?.isNone = false := Option.isNone_eq_false_iff.2 (Option.isSome_iff_ne_none.2 (timed q turn))
      simp only [at', Bool.false_and, Bool.false_eq_true, if_false]
  obtain ⟨t, done, only, answers, replied⟩ := serve_seat h f (op := fun s k d l => { opDiscard s k d l with st := cancelled s (opDiscard s k d l).st k }) (g := fun r => { r with turn := none, deferred := [] }) (err := 0) (data := [])
    (by rw [drops, calm]; rfl) fun _ => ⟨rfl, rfl, rfl, rfl⟩
  exact ⟨t, done, only, answers, Option.not_isSome_iff_eq_none.1 (by rw [replied.turn_isSome]; exact Bool.false_ne_true), replied.deferred, replied.staged⟩
end

/-- What acknowledging attention class c by the count a leaves of a record. -/
def SeatRec.acknowledgeClass (a : Nat) (r : SeatRec) (c : Nat) : SeatRec :=
  if r.pend.getLsbD c && decide ((tget {} r.events c).seq ≤ a) then { r with pend := r.pend &&& ~~~(BitVec.ofNat 8 (2 ^ c)), counts := tput 0 r.counts c 0 } else r
theorem SeatRec.acknowledgeClass_keeps (a : Nat) (r : SeatRec) (c : Nat) : ∃ p n, r.acknowledgeClass a c = { r with pend := p, counts := n } := by
  unfold SeatRec.acknowledgeClass
  split
  · exact ⟨_, _, rfl⟩
  · exact ⟨r.pend, r.counts, rfl⟩
/-- A class keeps its bit unless it is the one acknowledged, and its last event is not later. -/
theorem SeatRec.acknowledgeClass_pend (a : Nat) (r : SeatRec) (c : Nat) {j : Nat} (few : j < 8) :
    (r.acknowledgeClass a c).pend.getLsbD j = (r.pend.getLsbD j && (decide (j ≠ c) || decide (a < (tget {} r.events j).seq))) := by
  have masked : (r.pend &&& ~~~(BitVec.ofNat 8 (2 ^ c))).getLsbD j = (r.pend.getLsbD j && decide (j ≠ c)) := by
    rw [BitVec.getLsbD_and, BitVec.getLsbD_not, BitVec.getLsbD_ofNat, decide_eq_true few, Bool.true_and, Bool.true_and, Nat.testBit_two_pow, ← decide_not]
    exact congrArg _ (decide_eq_decide.2 (not_congr eq_comm))
  unfold SeatRec.acknowledgeClass
  by_cases drops : (r.pend.getLsbD c && decide ((tget {} r.events c).seq ≤ a)) = true
  · rw [if_pos drops]
    obtain ⟨-, old⟩ := Bool.and_eq_true_iff.1 drops
    by_cases same : j = c
    · subst same
      simp only [masked, decide_eq_false (Nat.not_lt.2 (of_decide_eq_true old)), Bool.or_false]
    · simp only [masked, decide_eq_true same, Bool.true_or]
  · rw [if_neg drops]
    by_cases same : j = c
    · subst same
      rw [Bool.and_eq_true_iff, not_and, decide_eq_true_eq, not_le] at drops
      cases bit : r.pend.getLsbD j with
      | false => rfl
      | true => rw [decide_eq_true (drops bit), Bool.or_true, Bool.and_true]
    · rw [decide_eq_true same, Bool.true_or, Bool.and_true]
theorem SeatRec.acknowledgeClasses (a : Nat) (l : List Nat) (r : SeatRec) : ∃ p n, l.foldl (SeatRec.acknowledgeClass a) r = { r with pend := p, counts := n } ∧
    ∀ j, j < 8 → p.getLsbD j = (r.pend.getLsbD j && (decide (j ∉ l) || decide (a < (tget {} r.events j).seq))) := by
  induction l generalizing r with
  | nil => exact ⟨r.pend, r.counts, rfl, fun j _ => by simp⟩
  | cons c l ih =>
    obtain ⟨p, n, keeps⟩ := r.acknowledgeClass_keeps a c
    obtain ⟨p', n', rest, bits⟩ := ih (r.acknowledgeClass a c)
    refine ⟨p', n', ?_, fun j few => ?_⟩
    · rw [List.foldl_cons, rest, keeps]
    · have events : (r.acknowledgeClass a c).events = r.events := by rw [keeps]
      rw [bits j few, r.acknowledgeClass_pend a c few, events]
      simp only [List.mem_cons, not_or, Bool.decide_and, Bool.and_assoc, Bool.and_or_distrib_right, ne_eq]
      cases decide (a < (tget {} r.events j).seq) <;> simp
section
variable {s u : State} {r : Req} (f : fresh s r)
include f
theorem attnAck_refused (h : admitted s r 0x10 u) (length : (Req.payload r).length = 4) (short : Req.long r = false) (early : (u.seat r.seat.val).attnSeq < leNat (Req.payload r)) :
    ∃ t, exec (.attnAck r) s = .next t ∧ s.onlySeat t r.seat.val ∧ answered u t r 0x10 errRange 0 [] := by
  have fails : opAttnAck u r.seat.val (Req.payload r) (Req.long r) = .fail u [errRange] := by
    simp [opAttnAck, errsOf, length, short, early]
  obtain ⟨t, done, only, answers, -⟩ := serve_fails h f (op := opAttnAck) fails
  exact ⟨t, done, only, answers⟩
theorem attnAck_acknowledges (h : admitted s r 0x10 u) (length : (Req.payload r).length = 4) (short : Req.long r = false) (known : leNat (Req.payload r) ≤ (u.seat r.seat.val).attnSeq) :
    ∃ t, exec (.attnAck r) s = .next t ∧ s.onlySeat t r.seat.val ∧ answered u t r 0x10 0 0 [] ∧
      ∀ c, 1 ≤ c → c ≤ 7 → (t.seat r.seat.val).pend.getLsbD c = ((u.seat r.seat.val).pend.getLsbD c && decide (leNat (Req.payload r) < (tget {} (u.seat r.seat.val).events c).seq)) := by
  have acts : opAttnAck u r.seat.val (Req.payload r) (Req.long r) = { st := u.onSeat r.seat.val fun x => x.acknowledge (leNat (Req.payload r)), err := 0, data := [] } := by
    simp [opAttnAck, errsOf, length, short, Nat.not_lt.2 known, errOk]
  obtain ⟨t, done, only, answers, replied⟩ := serve_seat h f (op := opAttnAck) acts fun x => by
    obtain ⟨p, n, keeps, -⟩ := SeatRec.acknowledgeClasses (leNat (Req.payload r)) [1, 2, 3, 4, 5, 6, 7] x
    rw [show x.acknowledge (leNat (Req.payload r)) = { x with pend := p, counts := n } from keeps]
    exact ⟨rfl, rfl, rfl, rfl⟩
  refine ⟨t, done, only, answers, fun c low high => ?_⟩
  obtain ⟨p, n, keeps, bits⟩ := SeatRec.acknowledgeClasses (leNat (Req.payload r)) [1, 2, 3, 4, 5, 6, 7] (u.seat r.seat.val)
  have listed : c ∈ [1, 2, 3, 4, 5, 6, 7] := by simp only [List.mem_cons, List.not_mem_nil, or_false]; omega
  have is := congrArg (fun x : SeatRec => x.pend.getLsbD c) keeps
  rw [replied.pend]
  refine is.trans ((bits c (by omega)).trans ?_)
  rw [decide_eq_false (not_not.2 listed), Bool.false_or]
omit f
/-- R456, R458: a seat without a session gets AUTH, under no key. -/
theorem ping_closed (shut : (s.seat r.seat.val).isOpen = false) (up : s.busUp = true) (node : r.node = s.aon.node) (full : r.short = false) (well : s.aon.failedTest = 0) :
    ∃ t status, exec (.ping r) s = .next t ∧ t = { s with mc := t.mc } ∧ t.mc.out = [{ seat := r.seat.val, prio := r.prio, seq := r.seq, func := 0x0F, status := status, error := 0x0C }] := by
  have accepts : accept s r 0x0F false = .done (respondOnly s.clearOut r 0x0F errAuth 0 []) := by
    have up' : s.clearOut.busUp = true := up
    have node' : (r.node != s.clearOut.aon.node) = false := by
      rw [node]
      exact bne_self_eq_false _
    have well' : s.clearOut.aon.failedTest = 0 := well
    have shut' : (s.clearOut.seat r.seat.val).isOpen = false := shut
    have ping : readsIdentity r 0x0F = false := rfl
    simp only [accept, up', node', full, well', shut', ping, Bool.not_true, Bool.or_self, Bool.false_eq_true, if_false, bne_self_eq_false, Bool.false_and, Bool.not_false, if_true]
  have sends : respondOnly s.clearOut r 0x0F errAuth 0 [] = s.clearOut.send (replyTo s.clearOut r 0x0F errAuth 0 []) := if_neg fun opened => Bool.false_ne_true (shut.symm.trans opened)
  refine ⟨s.clearOut.send (replyTo s.clearOut r 0x0F errAuth 0 []), statusByte (s.clearOut.seat r.seat.val), ?_, rfl, rfl⟩
  have serves : exec (.ping r) s = serve s r 0x0F fun s _ d l => opPing s d l := rfl
  rw [serves]
  unfold serve
  rw [accepts, sends]
end

/-- Settles O58: each clause is one of the lemmas above, on what one function does to the state that admits it. -/
theorem busTransactions : Obligations.BusTransactions := by
  unfold Obligations.BusTransactions
  intro r s f
  dsimp only
  refine ⟨fun u h => ⟨fun bad => read_refuses f h bad, fun ok other not => read_reads f h ok other not, fun v resp l ok user entry free reads => read_user f h ok user entry free reads, fun held => read_held f h held,
      fun index sub ok => ⟨fun none => nextEntry_none f h index sub ok none, fun e some' => nextEntry_some f h index sub ok some'⟩⟩,
    fun u h => ⟨fun shut => ⟨fun bad => write_refuses f h shut bad, fun ok other => write_object f h shut ok other rfl, fun v resp ok user free writes => write_user f h shut ok user free writes, fun held => write_held f h shut held⟩,
      fun opened => write_window f h opened⟩,
    fun u h => ⟨fun bad => stage_refuses f h (stage_serves s r) rfl bad, fun l ok put => stage_stages f h (stage_serves s r) (congrArg (fun errs => stageItems u _ errs _) ok) put⟩,
    fun u h empty short => check_reports f h empty short rfl,
    fun u h staged idle calm short => ⟨fun empty good => turn_immediate f h staged idle calm short rfl empty good, fun ok good => turn_timed f h staged idle calm short rfl ok good, fun ok bad => turn_refused f h staged idle calm short rfl ok bad⟩,
    fun u h short => ⟨fun empty => discard_staged f h short empty, fun one early timed => discard_turn f h short one early timed⟩,
    fun u h => ⟨fun bad => winRead_refuses f h rfl bad, fun l is => winRead_reads f h is⟩,
    fun u h => ⟨fun errs its is bad => stage_refuses f h (winWrite_serves s r) (congrArg (fun e : List Nat × List Item => stageItems u _ e.1 e.2) is) bad,
      fun its l is put => stage_stages f h (winWrite_serves s r) (congrArg (fun e : List Nat × List Item => stageItems u _ e.1 e.2) is) put⟩,
    fun u h empty short => ping_answers f h empty short,
    fun u h length short => ⟨fun early => attnAck_refused f h length short early, fun known => attnAck_acknowledges f h length short known⟩,
    fun func u h reserved => reservedFunc_answers f h reserved, fun why => rfl, fun shut up node full well => ping_closed shut up node full well⟩

end Sys2Proof.Machine
end

section
/-! PROOF. The turn window, orders to the clock and the counters (R432, R484, R618, R623). -/

namespace Sys2Proof.Machine

/-! ## The window of the coming tick, orders to the clock and to the counters (R432, R484, R618, R623) -/

/-- A set of immediate turns starts no PLL. -/
theorem startPlls_immediate {l : List (Nat × Turn)} (immediate : ∀ e ∈ l, e.2.at? = none) (s : State) : l.foldl (fun s x => if x.2.at?.isSome && s.clocksOn then startPlls s x.1 x.2.items else s) s = s := by
  induction l with
  | nil => rfl
  | cons x l ih =>
    have none := immediate x List.mem_cons_self
    rw [List.foldl_cons, none]
    exact ih fun e listed => immediate e (List.mem_cons_of_mem x listed)
theorem startPlls_window (l : List (Nat × Turn)) (s : State) : ∃ f e, l.foldl (fun s x => if x.2.at?.isSome && s.clocksOn then startPlls s x.1 x.2.items else s) s = { s with fab := f, eng := e } := by
  induction l generalizing s with
  | nil => exact ⟨s.fab, s.eng, rfl⟩
  | cons x l ih =>
    obtain ⟨f, e, rest⟩ := ih (if x.2.at?.isSome && s.clocksOn then startPlls s x.1 x.2.items else s)
    refine ⟨f, e, (List.foldl_cons ..).trans (rest.trans ?_)⟩
    split
    · obtain ⟨f', e', starts⟩ := startPlls_parts s x.1 x.2.items
      rw [starts]
    · rfl
theorem turnWindowStart_opens {s : State} (up : s.mcUp = true) (shut : s.mc.window = false) (some' : s.windowTurns ≠ [] ∨ s.pendingTurns ≠ []) :
    ∃ t, exec .turnWindowStart s = .next t ∧ t = { s with mc := { s.mc with window := true }, fab := t.fab, eng := t.eng } ∧ ((∀ e ∈ s.windowTurns, e.2.at? = none) → t.fab = s.fab ∧ t.eng = s.eng) := by
  have some'' : (s.windowTurns.isEmpty && s.pendingTurns.isEmpty) = false := by
    rw [Bool.and_eq_false_iff, List.isEmpty_eq_false_iff, List.isEmpty_eq_false_iff]
    exact some'
  have opens : exec .turnWindowStart s = .next ((s.windowTurns.foldl (fun s x => if x.2.at?.isSome && s.clocksOn then startPlls s x.1 x.2.items else s) s).onMc fun m => { m with window := true }) := by
    show execTurnWindowStart s = _
    simp only [execTurnWindowStart, up, some'', shut, Bool.not_true, Bool.or_self, Bool.false_eq_true, if_false]
  refine ⟨_, opens, ?_, fun immediate => ?_⟩
  · obtain ⟨f, e, parts⟩ := startPlls_window s.windowTurns s
    rw [parts]
    rfl
  · rw [startPlls_immediate immediate]
    exact ⟨rfl, rfl⟩
theorem step_sets {s : State} {v : Nat} {rest : List Order} (order : s.mc.orders = .step v :: rest) : exec .step s = .next { s with mc := { s.mc with orders := rest }, aon := { s.aon with now := min maxTime v } } := by
  show execStep s = _
  simp only [execStep, order, List.findSome?_cons, takeOrder, if_true]
  rfl
theorem offset_sets {s : State} {v : Int} {rest : List Order} (order : s.mc.orders = .offset v :: rest) : exec .offset s = .next { s with mc := { s.mc with orders := rest }, aon := { s.aon with now := clampTime (s.aon.now + v) } } := by
  show execOffset s = _
  simp only [execOffset, order, List.findSome?_cons, takeOrder, if_true]
  rfl
theorem clampTime_cases (v : Int) : (v < 0 → clampTime v = 0) ∧ (0 ≤ v → v ≤ maxTime → (clampTime v : Int) = v) ∧ (maxTime < v → clampTime v = maxTime) := by
  have large : (0 : Int) ≤ maxTime := Int.natCast_nonneg _
  generalize bound : maxTime = m at large
  unfold clampTime
  rw [bound]
  refine ⟨fun low => if_pos low, fun low high => ?_, fun high => ?_⟩
  · rw [if_neg (Int.not_lt.2 low)]
    omega
  · rw [if_neg (by omega)]
    omega
theorem snap_triggers {s : State} {k : Seat} {rest : List Order} (order : takeOrder (.snap k.val) s.mc.orders = some rest) (calm : s.mc.preSnap = []) :
    exec (.snap k) s = .next { s with mc := { s.mc with orders := rest, snapDue := s.mc.snapDue ++ [{ instant := s.aon.now, seat := k.val }] } } := by
  show execSnap k s = _
  have last : s.mc.preSnap.getLast? = none := List.getLast?_eq_none_iff.2 calm
  simp only [execSnap, order, last]
  rfl

/-- An update of the entries of a sorted table that meet a condition which its default does not meet. -/
theorem tget_foldl_tput {α : Type} [DecidableEq α] {d : α} {c : α → Prop} [DecidablePred c] (g : α → α) (none : ¬ c d) (p : Nat) {l : List (Nat × α)} (sorted : l.Pairwise fun a b => a.1 < b.1) (m : List (Nat × α)) :
    tget d (l.foldl (fun m x => if c x.2 then tput d m x.1 (g x.2) else m) m) p = if c (tget d l p) then g (tget d l p) else tget d m p := by
  induction l generalizing m with
  | nil => exact (if_neg none).symm
  | cons x l ih =>
    obtain ⟨first, sorted'⟩ := List.pairwise_cons.1 sorted
    rw [List.foldl_cons, ih sorted', tget]
    by_cases here : x.1 = p
    · have absent : tget d l p = d := tget_of_not_mem d fun key => by
        obtain ⟨e, listed, is⟩ := List.mem_map.1 key
        have := first e listed
        omega
      rw [if_pos here, absent, if_neg none]
      split
      · rw [tget_tput, if_pos here.symm]
      · rfl
    · have same : tget d (if c x.2 then tput d m x.1 (g x.2) else m) p = tget d m p := by
        split
        · rw [tget_tput, if_neg fun is => here is.symm]
        · rfl
      rw [if_neg here, same]
/-- The counters k that seat has in an engine's table are set by g; the table's order makes the entries distinct. -/
theorem onPmcs_engine (s : State) (seat k : Nat) (g : Engine → Engine) (sorted : s.eng.engines.Pairwise fun a b => a.1 < b.1) (p : Nat) :
    (onPmcs s seat k g).eng.engine p = if (s.eng.engine p).pmcSeat k = some seat then g (s.eng.engine p) else s.eng.engine p := by
  have none : ¬ ({} : Engine).pmcSeat k = some seat := by
    intro own
    have free : ({} : Engine).pmcSeat k = Option.none := (show ownerOf 0 = Option.none by decide)
    rw [free] at own
    exact nomatch own
  show tget ({} : Engine) (s.eng.engines.foldl (fun l x => if x.2.pmcSeat k = some seat then tput {} l x.1 (g x.2) else l) s.eng.engines) p = _
  exact tget_foldl_tput (c := fun x : Engine => x.pmcSeat k = some seat) g none p sorted s.eng.engines
theorem pmcClear_clears {s : State} {k : Seat} {n : Fin 8} {rest : List Order} (order : takeOrder (.pmcClear k.val n.val) s.mc.orders = some rest) :
    ∃ t, exec (.pmcClear k n) s = .next t ∧ t = { s with mc := { s.mc with orders := rest }, eng := { s.eng with engines := t.eng.engines } } ∧
      (s.eng.engines.Pairwise (fun a b => a.1 < b.1) → ∀ p, tget 0 (t.eng.engine p).pmc n.val = if (s.eng.engine p).pmcSeat n.val = some k.val then 0 else tget 0 (s.eng.engine p).pmc n.val) := by
  have runs : exec (.pmcClear k n) s = .next (onPmcs (s.onMc fun m => { m with orders := rest }) k.val n.val fun x => { x with pmc := tput 0 x.pmc n.val 0 }) := by
    show execPmcClear k n s = _
    simp only [execPmcClear, order]
  refine ⟨_, runs, rfl, fun sorted p => ?_⟩
  rw [onPmcs_engine (s.onMc fun m => { m with orders := rest }) _ _ _ sorted]
  show tget 0 (if (s.eng.engine p).pmcSeat n.val = some k.val then { s.eng.engine p with pmc := tput 0 (s.eng.engine p).pmc n.val 0 } else s.eng.engine p).pmc n.val = _
  split
  · exact (tget_tput 0 (s.eng.engine p).pmc n.val n.val 0).trans (if_pos rfl)
  · rfl
theorem pmcOvfclr_clears {s : State} {k : Seat} {n : Fin 8} {rest : List Order} (order : takeOrder (.pmcOvfClr k.val n.val) s.mc.orders = some rest) :
    ∃ t, exec (.pmcOvfclr k n false) s = .next t ∧ t = { s with mc := { s.mc with orders := rest }, eng := { s.eng with engines := t.eng.engines } } ∧
      (s.eng.engines.Pairwise (fun a b => a.1 < b.1) → ∀ p, ((t.eng.engine p).ovf.contains n.val = true ↔ (s.eng.engine p).pmcSeat n.val ≠ some k.val ∧ (s.eng.engine p).ovf.contains n.val = true)) := by
  have runs : exec (.pmcOvfclr k n false) s = .next (onPmcs (s.onMc fun m => { m with orders := rest }) k.val n.val fun x => { x with ovf := x.ovf.filter (· ≠ n.val) }) := by
    show execPmcOvfclr k n false s = _
    simp only [execPmcOvfclr, order, Bool.false_eq_true, if_false]
  refine ⟨_, runs, rfl, fun sorted p => ?_⟩
  rw [onPmcs_engine (s.onMc fun m => { m with orders := rest }) _ _ _ sorted]
  show (if (s.eng.engine p).pmcSeat n.val = some k.val then { s.eng.engine p with ovf := (s.eng.engine p).ovf.filter (· ≠ n.val) } else s.eng.engine p).ovf.contains n.val = true ↔ _
  split
  · next own => simp [own]
  · next other => exact ⟨fun set => ⟨other, set⟩, fun both => both.2⟩

end Sys2Proof.Machine
end

section
/-! PROOF. Dictionary queues and user attentions (R484, R511). -/

namespace Sys2Proof.Machine

/-! ## Dictionary queues (R484, R511) -/

theorem leField_one (l : List Byte) (i : Nat) : leField l i 1 = (byteAt l i).toNat := by
  unfold leField byteAt
  rw [List.take_one, List.head?_drop, List.getD_eq_getElem?_getD]
  cases l[i]? <;> rfl
theorem mcRequest_takes {k : Seat} {j : Fin 16} {s : State} {pkt : Pkt} {q' : Queue} (clocks : s.clocksOn = true) (runs : (s.net.queue (mcQueue k.val j.val)).runs = true)
    (ours : qdConsumer (s.net.queue (mcQueue k.val j.val)).dir = epMc) (takes : (s.net.queue (mcQueue k.val j.val)).takePkt = some (pkt, q')) (short : pkt.bytes.length < 8) :
    exec (.mcDictionaryRequest k j) s = .next { s with net := s.net.setQueue (mcQueue k.val j.val) q' } := by
  show execMcDictionaryRequest k j s = _
  simp only [execMcDictionaryRequest, clocks, runs, ours, takes, bne_self_eq_false, Bool.not_true, Bool.or_self, Bool.false_eq_true, if_false, short, decide_true, Bool.true_or, if_true]
  rfl
/-- A packet of one word enters an empty open packet and is committed. -/
theorem pushReply_commits {s : State} {seat rq rank i : Nat} {r : Reply} (to' : s.replyProd seat rq = some i) (credit : 1 ≤ ((s.net.queue rq).prod i).credits) (empty : ((s.net.queue rq).prod i).openWords = [])
    (open' : ((s.net.queue rq).prod i).discarding = false) (small : r.data = []) :
    ∃ q o, pushReply s seat rq rank r = some (s.onNet fun m => m.setQueue rq q) ∧ q.flight = (s.net.queue rq).flight ++ [.commit o] ∧ o.rank = rank ∧ o.words.length = 1 := by
  have length : ([r.status, r.error] ++ leBytes 2 r.aux.toNat ++ r.data).length = 4 := by
    rw [small, List.append_nil, List.length_append, leBytes_length]
    rfl
  generalize words : [r.status, r.error] ++ leBytes 2 r.aux.toNat ++ r.data = l at length
  obtain ⟨w, one⟩ : ∃ w, queueWords l = [w] := by
    unfold queueWords
    rw [length]
    exact ⟨_, rfl⟩
  have pushed := Queue.push_taken open' (by rw [empty]; exact Nat.zero_le _) (by omega) w rank
  have set := Queue.setProd_self (s.net.queue rq) i (((s.net.queue rq).prod i).taken w rank)
  have all : pushWords (s.net.queue rq) i rank (queueWords l) = ((s.net.queue rq).setProd i (((s.net.queue rq).prod i).taken w rank), true) := by
    rw [one, pushWords, pushed]
    rfl
  have opened : (((s.net.queue rq).setProd i (((s.net.queue rq).prod i).taken w rank)).prod i).openWords = [w] := by
    rw [set, Prod.taken, empty]
    rfl
  have ranked : (((s.net.queue rq).setProd i (((s.net.queue rq).prod i).taken w rank)).prod i).openRank = rank := by
    rw [set, Prod.taken, empty]
    rfl
  obtain ⟨o, flight, -, data, rank', -⟩ := Queue.commit_parts (i := i) (by rw [opened]; exact List.cons_ne_nil _ _) l.length
  refine ⟨_, o, ?_, flight, rank'.trans ranked, ?_⟩
  · have enough : ¬ ((s.net.queue rq).prod i).credits < (min ((l.length + 31) / 32) (qdMaxlen (s.net.queue rq).dir + 1) : Nat) := by
      rw [length]
      omega
    unfold pushReply
    simp only [words, to', enough, all, if_false, if_true]
  · rw [← List.length_map (·.data), data, opened]
    rfl
theorem mcRequest_pings {k : Seat} {j : Fin 16} {s : State} {pkt : Pkt} {q' : Queue} {i : Nat} (clocks : s.clocksOn = true) (runs : (s.net.queue (mcQueue k.val j.val)).runs = true)
    (ours : qdConsumer (s.net.queue (mcQueue k.val j.val)).dir = epMc) (takes : (s.net.queue (mcQueue k.val j.val)).takePkt = some (pkt, q')) (long : 8 ≤ pkt.bytes.length)
    (to' : State.replyProd { s with net := s.net.setQueue (mcQueue k.val j.val) q' } k.val (leField pkt.bytes 2 2) = some i) (fresh : (s.seat k.val).mcLast = none) (idle : (s.seat k.val).mcRunning = none)
    (ping : byteAt pkt.bytes 0 = 0x0F) (empty : byteAt pkt.bytes 7 = 0) (credit : 1 ≤ (((s.net.setQueue (mcQueue k.val j.val) q').queue (leField pkt.bytes 2 2)).prod i).credits)
    (none : (((s.net.setQueue (mcQueue k.val j.val) q').queue (leField pkt.bytes 2 2)).prod i).openWords = []) (open' : (((s.net.setQueue (mcQueue k.val j.val) q').queue (leField pkt.bytes 2 2)).prod i).discarding = false) :
    ∃ t rep, exec (.mcDictionaryRequest k j) s = .next t ∧ t = { s with net := t.net, seats := t.seats } ∧ (t.seat k.val).mcLast = some rep ∧ rep.error = 0 ∧ rep.seq = byteAt pkt.bytes 1 ∧
      ∃ o, (t.net.queue (leField pkt.bytes 2 2)).flight = ((s.net.setQueue (mcQueue k.val j.val) q').queue (leField pkt.bytes 2 2)).flight ++ [.commit o] ∧ o.rank = pkt.rank ∧ o.words.length = 1 := by
  have func : leField pkt.bytes 0 1 = 0x0F := by
    rw [leField_one, ping]
    rfl
  have len : leField pkt.bytes 7 1 = 0 := by
    rw [leField_one, empty]
    rfl
  have short : ¬ pkt.bytes.length < 8 := Nat.not_lt.2 long
  generalize state : ({ s with net := s.net.setQueue (mcQueue k.val j.val) q' } : State) = s' at to'
  have seat : s'.seat k.val = s.seat k.val := by rw [← state]; rfl
  generalize is : ({ seat := k.val, seq := byteAt pkt.bytes 1, func := BitVec.ofNat 8 0x0F, status := statusByte (s'.seat k.val), error := BitVec.ofNat 8 errOk, aux := BitVec.ofNat 16 0 } : Reply) = rep
  obtain ⟨q, o, pushes, flight, rank, one⟩ := pushReply_commits (s := s'.onSeat k.val fun x => { x with mcLast := some rep }) (r := rep) (rank := pkt.rank) to' (by rw [← state]; exact credit) (by rw [← state]; exact none) (by rw [← state]; exact open') (by rw [← is])
  have runs' : exec (.mcDictionaryRequest k j) s = .next ((s'.onSeat k.val fun x => { x with mcLast := some rep }).onNet fun m => m.setQueue (leField pkt.bytes 2 2) q) := by
    show execMcDictionaryRequest k j s = _
    have state' : (s.onNet fun m => m.setQueue (mcQueue k.val j.val) q') = s' := state
    have pings : mcOp s' k.val 15 (leField pkt.bytes 4 2) (leField pkt.bytes 6 1) [] false = { st := s' } := rfl
    simp only [execMcDictionaryRequest, clocks, runs, ours, takes, bne_self_eq_false, Bool.not_true, Bool.or_self, Bool.false_eq_true, if_false, short, decide_false, state', to', Option.isNone_some, fresh, idle, func, len, List.take_zero]
    subst is
    have other : (Option.none == some (byteAt pkt.bytes 1)) = false := rfl
    have all : decide (pkt.bytes.length - 8 < 0) = false := decide_eq_false (Nat.not_lt_zero _)
    simp only [other, all, pings, List.length_nil, pushes, Option.isSome_none, Nat.reduceEqDiff, decide_false, Bool.false_and, Bool.or_self, Bool.false_eq_true, if_false, if_true]
  refine ⟨_, rep, runs', ?_, ?_, by rw [← is]; rfl, by rw [← is], o, ?_, rank, one⟩
  · rw [← state]
    rfl
  · exact congrArg SeatRec.mcLast (State.onSeat_self s' k.val fun x => { x with mcLast := some rep })
  · rw [← state] at flight
    exact (congrArg Queue.flight (Net.setQueue_self ..)).trans flight
theorem attention_taken {k : Seat} {s : State} {pkt : Pkt} {q' : Queue} (clocks : s.clocksOn = true) (runs : (s.net.queue (41104 + k.val)).runs = true) (ours : qdConsumer (s.net.queue (41104 + k.val)).dir = epMc)
    (takes : (s.net.queue (41104 + k.val)).takePkt = some (pkt, q')) :
    exec (.userAttention k) s = .next (if pkt.bytes.length = 9 ∧ 1 ≤ leField pkt.bytes 0 1 ∧ leField pkt.bytes 0 1 ≤ 7 then ((s.onNet fun m => m.setQueue (41104 + k.val) q').raise { seat := k.val, code := 256 * leField pkt.bytes 0 1 + 0xFF, index := s.freeIndex, a := leField pkt.bytes 1 4, b := leField pkt.bytes 5 4 }).drawn else { s with net := s.net.setQueue (41104 + k.val) { q' with dropped := min 4294967295 (q'.dropped + 1) } }) := by
  show execUserAttention k s = _
  simp only [execUserAttention, clocks, runs, ours, takes, bne_self_eq_false, Bool.not_true, Bool.or_self, Bool.false_eq_true, if_false]
  by_cases full : pkt.bytes.length = 9 ∧ 1 ≤ leField pkt.bytes 0 1 ∧ leField pkt.bytes 0 1 ≤ 7
  · simp only [full, inRange, decide_true, Bool.and_self, and_self, if_true]
  · rw [if_neg full, if_neg]
    · rw [sat32_eq_min]
      rfl
    · simpa only [inRange, Bool.and_eq_true, decide_eq_true_eq] using full
theorem attention_sets {k : Seat} {s : State} {c : Nat} (few : c ≤ 7) (cred : hasCred s.nv k.val (s.seat k.val) = true) (i a b : Nat) :
    ((s.raise { seat := k.val, code := 256 * c + 0xFF, index := i, a := a, b := b }).seat k.val).pend.getLsbD c = true := by
  have class' : (256 * c + 0xFF) / 256 = c := by omega
  have set : ((s.seat k.val).pend ||| BitVec.ofNat 8 (2 ^ c)).getLsbD c = true := by
    rw [BitVec.getLsbD_or, BitVec.getLsbD_ofNat, Nat.testBit_two_pow_self, decide_eq_true (by omega), Bool.true_and, Bool.or_true]
  rw [State.raise_seat, if_pos (by simpa using cred)]
  simp only [SeatRec.note, class', set]

end Sys2Proof.Machine
end

section
/-! PROOF. Snapshots (R623-R626). -/

namespace Sys2Proof.Machine

/-! ## The magic of a snapshot image (R625) -/

theorem bits_testBit {n : Nat} (x : BitVec n) (hi lo i : Nat) : (bits x hi lo).testBit i = (decide (i < hi + 1 - lo) && x.getLsbD (lo + i)) := by
  unfold bits
  rw [Nat.testBit_mod_two_pow, Nat.testBit_shiftRight]
  rfl
theorem bits_masked {n : Nat} (x m : BitVec n) {hi lo : Nat} (all : ∀ i, i < hi + 1 - lo → m.getLsbD (lo + i) = true) : bits (x &&& ~~~m) hi lo = 0 := by
  refine Nat.eq_of_testBit_eq fun i => ?_
  rw [bits_testBit, Nat.zero_testBit, BitVec.getLsbD_and, BitVec.getLsbD_not]
  by_cases few : i < hi + 1 - lo
  · rw [all i few, Bool.not_true, Bool.and_false, Bool.and_false, Bool.and_false]
  · rw [decide_eq_false few, Bool.false_and]
theorem bits_unmasked {n : Nat} (x m : BitVec n) {hi lo : Nat} (none : ∀ i, i < hi + 1 - lo → m.getLsbD (lo + i) = false) : bits (x &&& ~~~m) hi lo = bits x hi lo := by
  refine Nat.eq_of_testBit_eq fun i => ?_
  rw [bits_testBit, bits_testBit, BitVec.getLsbD_and, BitVec.getLsbD_not]
  by_cases few : i < hi + 1 - lo
  · rw [none i few, Bool.not_false, Bool.and_true]
    cases bit : x.getLsbD (lo + i) with
    | false => rw [Bool.false_and]
    | true => rw [Bool.true_and, decide_eq_true (BitVec.lt_of_getLsbD bit)]
  · rw [decide_eq_false few, Bool.false_and, Bool.false_and]
/-- The two zeros that a snapshot puts at the start of its image. -/
def noMagic : List (Nat × Byte) := [(0, 0), (1, 0)]
def Scratch.unmarked (c : Scratch) (w : Nat) : Prop := c.readLane w 0 = 0 ∧ c.readLane w 1 = 0
theorem Scratch.setLanes_leaves (w : Nat) (l : List (Nat × Byte)) (c : Scratch) : let d := l.foldl (fun c e => c.setByte (16 * w + e.1) e.2) c
    d.err = c.err ∧ d.filling = c.filling ∧ d.secFilling = c.secFilling := by
  induction l generalizing c with
  | nil => exact ⟨rfl, rfl, rfl⟩
  | cons e l ih => exact ih (c.setByte (16 * w + e.1) e.2)
/-- A store clears the flips of the halves that it touches. -/
theorem Scratch.store_parts (c : Scratch) (w : Nat) {l : List (Nat × Byte)} {m : BitVec 144}
    (mask : ((if (l.any fun e => decide (e.1 / 8 = 0)) = true then halfMask 0 else 0) ||| (if (l.any fun e => decide (e.1 / 8 = 1)) = true then halfMask 1 else 0)) = m) :
    (c.store w l).filling = c.filling ∧ (c.store w l).secFilling = c.secFilling ∧ ∀ x, (c.store w l).errAt x = if x = w then c.errAt w &&& ~~~m else c.errAt x := by
  subst mask
  unfold Scratch.store
  dsimp only
  generalize old : (([0, 1].filter fun k => (l.any fun e => decide (e.1 / 8 = k)) && decide (3 ≤ popNat 72 (c.halfErr w k).toNat)).flatMap fun k => (List.range 8).map fun i => (8 * k + i, c.halfByte w k i)) ++ l = all
  obtain ⟨err, fill, sec⟩ := Scratch.setLanes_leaves w all c
  refine ⟨fill, sec, fun x => ?_⟩
  rw [Scratch.setErr_errAt]
  split
  · rfl
  · unfold Scratch.errAt
    rw [err]
theorem noMagic_mask : ((if (noMagic.any fun e => decide (e.1 / 8 = 0)) = true then halfMask 0 else 0) ||| (if (noMagic.any fun e => decide (e.1 / 8 = 1)) = true then halfMask 1 else 0)) = halfMask 0 := by
  rw [if_pos (by decide), if_neg (by decide)]
  exact BitVec.or_zero
theorem Scratch.store_magic_err (c : Scratch) (w x : Nat) : (c.store w noMagic).errAt x = if x = w then c.errAt w &&& ~~~(halfMask 0) else c.errAt x := by
  obtain ⟨-, -, err⟩ := c.store_parts w noMagic_mask
  exact err x
theorem Scratch.store_magic_halves (c : Scratch) (w : Nat) : (c.store w noMagic).halfErr w 0 = 0 ∧ (c.store w noMagic).halfErr w 1 = c.halfErr w 1 := by
  have err := (c.store_magic_err w w).trans (if_pos rfl)
  have data : ∀ i, i < 63 + 1 - 0 → (halfMask 0).getLsbD (0 + i) = true := by decide
  have check : ∀ i, i < 135 + 1 - 128 → (halfMask 0).getLsbD (128 + i) = true := by decide
  have data' : ∀ i, i < 127 + 1 - 64 → (halfMask 0).getLsbD (64 + i) = false := by decide
  have check' : ∀ i, i < 143 + 1 - 136 → (halfMask 0).getLsbD (136 + i) = false := by decide
  constructor
  · unfold Scratch.halfErr
    rw [err]
    show BitVec.ofNat 72 (bits _ 63 0 + 2 ^ 64 * bits _ 135 128) = 0
    rw [bits_masked _ _ data, bits_masked _ _ check]
    rfl
  · unfold Scratch.halfErr
    rw [err]
    show BitVec.ofNat 72 (bits _ 127 64 + 2 ^ 64 * bits _ 143 136) = BitVec.ofNat 72 (bits _ 127 64 + 2 ^ 64 * bits _ 143 136)
    rw [bits_unmasked _ _ data', bits_unmasked _ _ check']
theorem Scratch.halfErr_congr {c d : Scratch} {w : Nat} (err : d.errAt w = c.errAt w) (k : Nat) : d.halfErr w k = c.halfErr w k := by
  unfold Scratch.halfErr
  rw [err]
theorem Scratch.wordBad_congr {c d : Scratch} {w : Nat} (err : d.errAt w = c.errAt w) : d.wordBad w = c.wordBad w := by
  unfold Scratch.wordBad
  rw [Scratch.halfErr_congr err, Scratch.halfErr_congr err]
theorem Scratch.readLane_congr {c d : Scratch} {w i : Nat} (err : d.errAt w = c.errAt w) (low : i < 16) (lanes : ∀ j, j < 16 → d.lane w j = c.lane w j) : d.readLane w i = c.readLane w i := by
  have same : ((List.range 8).map fun j => d.lane w (8 * (i / 8) + j)) = (List.range 8).map fun j => c.lane w (8 * (i / 8) + j) := List.map_congr_left fun j m => lanes _ (by
    have := List.mem_range.1 m
    omega)
  unfold Scratch.readLane Scratch.halfByte
  rw [Scratch.halfErr_congr err, same, lanes (8 * (i / 8) + i % 8) (by omega)]
/-- Words that can be read stay so, and keep the zeros that another image has. -/
def Scratch.keepsMagic (c d : Scratch) : Prop := d.filling = c.filling ∧ d.secFilling = c.secFilling ∧ ∀ w, c.wordBad w = false → d.wordBad w = false ∧ (c.unmarked w → d.unmarked w)
theorem Scratch.keepsMagic.refl (c : Scratch) : c.keepsMagic c := ⟨rfl, rfl, fun _ sound => ⟨sound, fun marked => marked⟩⟩
theorem Scratch.keepsMagic.trans {c d e : Scratch} (one : c.keepsMagic d) (two : d.keepsMagic e) : c.keepsMagic e := by
  obtain ⟨fill, sec, words⟩ := one
  obtain ⟨fill', sec', words'⟩ := two
  refine ⟨fill'.trans fill, sec'.trans sec, fun w sound => ?_⟩
  obtain ⟨sound', marked⟩ := words w sound
  obtain ⟨sound'', marked'⟩ := words' w sound'
  exact ⟨sound'', fun m => marked' (marked m)⟩
theorem Scratch.keepsMagic.held {c d : Scratch} (keeps : c.keepsMagic d) (w : Nat) : d.held w = c.held w := by
  obtain ⟨fill, sec, -⟩ := keeps
  unfold Scratch.held
  rw [fill, sec]
theorem Scratch.readLane_sound {d : Scratch} {w i : Nat} {v : Byte} (zero : d.halfErr w 0 = 0) (low : i < 8) (lane : d.byte (16 * w + i) = v) : d.readLane w i = v := by
  unfold Scratch.readLane Scratch.halfByte
  rw [Nat.div_eq_of_lt low, Nat.mod_eq_of_lt low, zero]
  refine (if_pos (by decide)).trans ?_
  rw [Nat.mul_zero, Nat.zero_add]
  exact lane
theorem Scratch.store_magic (c : Scratch) (w : Nat) : c.keepsMagic (c.store w noMagic) ∧ (c.wordBad w = false → (c.store w noMagic).unmarked w) := by
  obtain ⟨zero, one⟩ := c.store_magic_halves w
  obtain ⟨outside, inside, -⟩ := c.store_byte w (l := noMagic) (by decide) (by decide)
  have marks : (c.store w noMagic).unmarked w := by
    exact ⟨Scratch.readLane_sound zero (by decide) (inside (0, 0) (by decide)), Scratch.readLane_sound zero (by decide) (inside (1, 0) (by decide))⟩
  obtain ⟨fill, sec, -⟩ := c.store_parts w noMagic_mask
  refine ⟨⟨fill, sec, fun x sound => ?_⟩, fun _ => marks⟩
  by_cases here : x = w
  · subst here
    refine ⟨?_, fun _ => marks⟩
    unfold Scratch.wordBad at sound ⊢
    rw [zero, one, (Bool.or_eq_false_iff.1 sound).2]
    decide
  · have err := (c.store_magic_err w x).trans (if_neg here)
    have lanes : ∀ j, j < 16 → (c.store w noMagic).lane x j = c.lane x j := fun j low => outside _ (by omega)
    refine ⟨(Scratch.wordBad_congr err).trans sound, fun marked => ?_⟩
    unfold Scratch.unmarked at marked ⊢
    rw [Scratch.readLane_congr err (by decide) lanes, Scratch.readLane_congr err (by decide) lanes]
    exact marked

/-! ## The shadows of a snapshot (R623, R625) -/

/-- What a snapshot leaves: nothing but shadows, the magic of their images and the attentions it raises. -/
structure State.snapsOnly (s t : State) : Prop where
  parts : t = { s with mc := { s.mc with snaps := t.mc.snaps }, net := { s.net with scr := t.net.scr }, seats := t.seats }
  seats : ∀ j, (t.seat j).staged = (s.seat j).staged ∧ (t.seat j).turn = (s.seat j).turn ∧ (t.seat j).seg = (s.seat j).seg
  magic : s.net.scr.keepsMagic t.net.scr
theorem State.snapsOnly.refl (s : State) : s.snapsOnly s := ⟨rfl, fun _ => ⟨rfl, rfl, rfl⟩, Scratch.keepsMagic.refl _⟩
theorem State.snapsOnly.trans {s t u : State} (one : s.snapsOnly t) (two : t.snapsOnly u) : s.snapsOnly u := by
  obtain ⟨parts, seats, magic⟩ := one
  obtain ⟨parts', seats', magic'⟩ := two
  refine ⟨?_, fun j => ?_, magic.trans magic'⟩
  · rw [parts', parts]
  · obtain ⟨staged, turn, seg⟩ := seats j
    obtain ⟨staged', turn', seg'⟩ := seats' j
    exact ⟨staged'.trans staged, turn'.trans turn, seg'.trans seg⟩
theorem State.snapsOnly.records {s t : State} (only : s.snapsOnly t) (k : Nat) : snapRecords t k = snapRecords s k := by
  obtain ⟨parts, -, -⟩ := only
  rw [parts]
  rfl
theorem State.raise_snapsOnly (s : State) (e : Event) : s.snapsOnly (s.raise e) := by
  refine ⟨rfl, fun j => ?_, Scratch.keepsMagic.refl _⟩
  rw [State.raise_seat]
  split
  · next here =>
    have here := (Bool.and_eq_true_iff.1 here).1
    rw [of_decide_eq_true here]
    exact ⟨rfl, rfl, rfl⟩
  · exact ⟨rfl, rfl, rfl⟩
theorem State.onScr_snapsOnly (s : State) {g : Scratch → Scratch} (keeps : s.net.scr.keepsMagic (g s.net.scr)) : s.snapsOnly (s.onNet fun n => n.onScr g) := ⟨rfl, fun _ => ⟨rfl, rfl, rfl⟩, keeps⟩
theorem State.onScr_scr (s : State) (g : Scratch → Scratch) : (s.onNet fun n => n.onScr g).net.scr = g s.net.scr ∧ (s.onNet fun n => n.onScr g).mc = s.mc := ⟨rfl, rfl⟩
theorem scratchUncorr_snapsOnly (s : State) (w : Nat) : s.snapsOnly (scratchUncorr s w) := by
  have counts : s.snapsOnly (s.onNet fun n => n.onScr fun c => { c with uncorr := sat32 (c.uncorr + 1) }) := s.onScr_snapsOnly ⟨rfl, rfl, fun _ sound => ⟨sound, fun marked => marked⟩⟩
  unfold scratchUncorr scratchEvent
  dsimp only
  split
  · exact counts
  · exact counts.trans (State.raise_snapsOnly _ _)
theorem scratchUncorr_mc (s : State) (w : Nat) : (scratchUncorr s w).mc = s.mc := by
  unfold scratchUncorr scratchEvent
  dsimp only
  split <;> rfl
theorem magic_access (s : State) (w : Nat) : scratchAccess s false w true false 0 2 [0, 0] .alone = if s.net.scr.wordBad w = true then (scratchUncorr s w, { resp := respUncorr }) else (s.onNet fun n => n.onScr fun c => c.store w noMagic, { resp := respOkay }) := by
  have lanes : (((lanesOf false 0 2).zip [(0 : Byte), 0]).filter fun _ => true) = noMagic := by decide
  simp only [scratchAccess, if_true, Bool.not_false, Bool.true_and, Bool.false_and, lanes]
theorem clearMagic_writes (s : State) (w : Nat) : (scratchWriteWords 1 s w [0, 0]).1 = if s.net.scr.wordBad w = true then scratchUncorr s w else s.onNet fun n => n.onScr fun c => c.store w noMagic := by
  have two : min 8 [(0 : Byte), 0].length = 2 := rfl
  have short : [(0 : Byte), 0].length ≤ 8 := by decide
  unfold scratchWriteWords
  rw [if_neg (by decide), if_neg (by decide), two, magic_access]
  dsimp only
  rw [if_pos short]
  by_cases bad : s.net.scr.wordBad w = true
  · rw [if_pos bad, if_pos bad]
    split <;> rfl
  · rw [if_neg bad, if_neg bad]
    split <;> rfl
theorem clearMagic_clears (s : State) (w : Nat) : s.snapsOnly (clearMagic s w) ∧ (clearMagic s w).mc = s.mc ∧
    (s.clocksOn = true → s.net.scr.held w = false → s.net.scr.wordBad w = false → (clearMagic s w).net.scr.unmarked w) := by
  obtain ⟨keeps, clears⟩ := s.net.scr.store_magic w
  unfold clearMagic
  rw [clearMagic_writes]
  by_cases runs : (s.clocksOn && !s.net.scr.held w) = true
  · rw [if_pos runs]
    by_cases bad : s.net.scr.wordBad w = true
    · rw [if_pos bad]
      exact ⟨scratchUncorr_snapsOnly s w, scratchUncorr_mc s w, fun _ _ sound => absurd bad (Bool.eq_false_iff.1 sound)⟩
    · rw [if_neg bad]
      obtain ⟨scr, mc⟩ := s.onScr_scr fun c => c.store w noMagic
      refine ⟨s.onScr_snapsOnly keeps, mc, fun _ _ sound => ?_⟩
      rw [scr]
      exact clears sound
  · rw [if_neg runs]
    refine ⟨State.snapsOnly.refl s, rfl, fun clocks held _ => absurd ?_ runs⟩
    rw [clocks, held]
    rfl
/-- The word of the scratchpad that an image begins at. -/
def Snap.word (x : Snap) : Nat := 1024 * bits x.buf 15 0
/-- What a trigger with mask leaves of the shadow of seat k. -/
structure ShadowTaken (s t : State) (i : Nat) (mask : Byte) (k : Nat) : Prop where
  deaf : (s.mc.snap k).accept &&& mask = 0 → t.mc.snap k = s.mc.snap k
  busy : (s.mc.snap k).accept &&& mask ≠ 0 → (s.mc.snap k).writing = true → t.mc.snap k = { s.mc.snap k with skipped := satTo 255 ((s.mc.snap k).skipped + 1) }
  takes : (s.mc.snap k).accept &&& mask ≠ 0 → (s.mc.snap k).writing = false → (s.mc.snap k).buf ≠ 0 → (s.seat k).seg = none →
    (t.mc.snap k).writing = true ∧ (t.mc.snap k).instant = i ∧ (t.mc.snap k).shadow = (snapRecords s k).flatten ∧ (t.mc.snap k).trigger = mask ∧
      (s.clocksOn = true → s.net.scr.held (s.mc.snap k).word = false → s.net.scr.wordBad (s.mc.snap k).word = false → t.net.scr.unmarked (s.mc.snap k).word)
theorem State.setSnap_snapsOnly (s : State) (k : Nat) (v : Snap) : s.snapsOnly (s.onMc fun m => m.setSnap k v) := ⟨rfl, fun _ => ⟨rfl, rfl, rfl⟩, Scratch.keepsMagic.refl _⟩
theorem takeShadow_takes (s : State) (i : Nat) (mask : Byte) (k : Nat) : s.snapsOnly (takeShadow s i mask none k) ∧ (∀ j, j ≠ k → (takeShadow s i mask none k).mc.snap j = s.mc.snap j) ∧ ShadowTaken s (takeShadow s i mask none k) i mask k := by
  by_cases deaf : (s.mc.snap k).accept &&& mask = 0
  · have same : takeShadow s i mask none k = s := if_pos deaf
    rw [same]
    exact ⟨State.snapsOnly.refl s, fun _ _ => rfl, fun _ => rfl, fun heard => absurd deaf heard, fun heard => absurd deaf heard⟩
  · by_cases busy : ((s.mc.snap k).writing || (match (s.seat k).seg with | some g => !g.isWrite && g.index = 0x2700 | none => false)) = true
    · have skips : takeShadow s i mask none k = s.onMc fun m => m.setSnap k { s.mc.snap k with skipped := satTo 255 ((s.mc.snap k).skipped + 1) } := by
        unfold takeShadow
        exact (if_neg deaf).trans (if_pos busy)
      rw [skips]
      refine ⟨s.setSnap_snapsOnly .., fun j other => s.mc.setSnap_snap_other k _ j other, fun deaf' => absurd deaf' deaf, fun _ _ => s.mc.setSnap_snap_self k _, fun _ idle _ none => absurd busy ?_⟩
      rw [idle, none]
      exact Bool.false_ne_true
    · have idle : (s.mc.snap k).writing = false := by
        rw [Bool.or_eq_true, not_or, Bool.not_eq_true] at busy
        exact busy.1
      by_cases off : (s.mc.snap k).buf = 0
      · have same : takeShadow s i mask none k = s := by
          unfold takeShadow
          exact (if_neg deaf).trans ((if_neg busy).trans (if_pos off))
        rw [same]
        exact ⟨State.snapsOnly.refl s, fun _ _ => rfl, fun _ => rfl, fun _ writing => absurd (idle.symm.trans writing) Bool.false_ne_true, fun _ _ on => absurd off on⟩
      · obtain ⟨v, is⟩ : ∃ v, v = ({ s.mc.snap k with shadow := (snapRecords s k).flatten, shadowRecords := (snapRecords s k).length, instant := i, trigger := mask, writing := true } : Snap) := ⟨_, rfl⟩
        have takes : takeShadow s i mask none k = clearMagic (s.onMc fun m => m.setSnap k v) (s.mc.snap k).word := by
          rw [is]
          unfold takeShadow
          dsimp only
          rw [if_neg deaf]
          exact (if_neg busy).trans (if_neg off)
        obtain ⟨only, mc, clears⟩ := clearMagic_clears (s.onMc fun m => m.setSnap k v) (s.mc.snap k).word
        have own : (takeShadow s i mask none k).mc.snap k = v := by rw [takes, mc]; exact s.mc.setSnap_snap_self k v
        refine ⟨?_, fun j other => ?_, fun deaf' => absurd deaf' deaf, fun _ writing => absurd (idle.symm.trans writing) Bool.false_ne_true, fun _ _ _ _ => ?_⟩
        · rw [takes]
          exact (s.setSnap_snapsOnly k v).trans only
        · rw [takes, mc]
          exact s.mc.setSnap_snap_other k v j other
        · rw [own, takes]
          refine ⟨?_, ?_, ?_, ?_, fun clocks held sound => clears clocks held sound⟩ <;> rw [is]
theorem ShadowTaken.after {s u t : State} {i : Nat} {mask : Byte} {j : Nat} (only : s.snapsOnly u) (same : u.mc.snap j = s.mc.snap j) (taken : ShadowTaken u t i mask j) : ShadowTaken s t i mask j := by
  obtain ⟨deaf, busy, takes⟩ := taken
  obtain ⟨parts, seats, magic⟩ := id only
  obtain ⟨-, -, seg⟩ := seats j
  have clocks : u.clocksOn = s.clocksOn := by rw [parts]; rfl
  rw [same] at deaf busy takes
  rw [only.records, seg, clocks] at takes
  refine ⟨deaf, busy, fun heard idle on none => ?_⟩
  obtain ⟨writing, instant, shadow, trigger, clears⟩ := takes heard idle on none
  refine ⟨writing, instant, shadow, trigger, fun running free sound => clears running ((magic.held _).trans free) ?_⟩
  obtain ⟨-, -, words⟩ := magic
  exact (words _ sound).1
theorem ShadowTaken.before {s u t : State} {i : Nat} {mask : Byte} {j : Nat} (first : s.snapsOnly u) (only : u.snapsOnly t) (same : t.mc.snap j = u.mc.snap j) (taken : ShadowTaken s u i mask j) : ShadowTaken s t i mask j := by
  obtain ⟨deaf, busy, takes⟩ := taken
  obtain ⟨-, -, -, -, words⟩ := first
  obtain ⟨-, -, -, -, words'⟩ := only
  rw [← same] at deaf busy takes
  refine ⟨deaf, busy, fun heard idle on none => ?_⟩
  obtain ⟨writing, instant, shadow, trigger, clears⟩ := takes heard idle on none
  refine ⟨writing, instant, shadow, trigger, fun running free sound => ?_⟩
  obtain ⟨sound', -⟩ := words _ sound
  obtain ⟨-, keeps⟩ := words' _ sound'
  exact keeps (clears running free sound)
theorem takeShadows_only (i : Nat) (mask : Byte) (l : List Nat) (s : State) : s.snapsOnly (l.foldl (fun s k => takeShadow s i mask none k) s) ∧ ∀ j, j ∉ l → (l.foldl (fun s k => takeShadow s i mask none k) s).mc.snap j = s.mc.snap j := by
  induction l generalizing s with
  | nil => exact ⟨State.snapsOnly.refl s, fun _ _ => rfl⟩
  | cons k l ih =>
    obtain ⟨only, others, -⟩ := takeShadow_takes s i mask k
    obtain ⟨rest, unlisted⟩ := ih (takeShadow s i mask none k)
    refine ⟨only.trans rest, fun j absent => ?_⟩
    obtain ⟨first, later⟩ := not_or.1 fun listed => absent (List.mem_cons.2 listed)
    exact (unlisted j later).trans (others j first)
/-- Seats' shadows are taken one after another: what one seat's leaves stands after the others'. -/
theorem takeShadows_take (i : Nat) (mask : Byte) {l : List Nat} (distinct : l.Nodup) (s : State) {j : Nat} (listed : j ∈ l) : ShadowTaken s (l.foldl (fun s k => takeShadow s i mask none k) s) i mask j := by
  induction l generalizing s with
  | nil => cases listed
  | cons k l ih =>
    obtain ⟨apart, distinct'⟩ := List.nodup_cons.1 distinct
    obtain ⟨only, others, taken⟩ := takeShadow_takes s i mask k
    obtain ⟨rest, unlisted⟩ := takeShadows_only i mask l (takeShadow s i mask none k)
    rcases List.mem_cons.1 listed with rfl | later
    · exact taken.before only rest (unlisted j apart)
    · have other : j ≠ k := fun is => apart (is ▸ later)
      exact (ih distinct' _ later).after only (others j other)
theorem snapshot_takes {s : State} {k : Seat} (held : s.stackHeld = true) (due : s.mc.snapDue = [{ instant := s.aon.now, seat := k.val }]) (calm : s.mc.preSnap = []) :
    exec .snapshot s = .next ((allSeats.foldl (fun u j => takeShadow u s.aon.now (BitVec.ofNat 8 (2 ^ k.val)) none j) s).onMc fun m => { m with snapDue := m.snapDue.filter fun x => x.instant ≠ s.aon.now, preSnap := m.preSnap.filter fun x => x.1 ≠ s.aon.now }) := by
  have mask : (0 : Byte) ||| BitVec.ofNat 8 (2 ^ k.val) = BitVec.ofNat 8 (2 ^ k.val) := BitVec.zero_or
  show execSnapshot s = _
  simp only [execSnapshot, due, calm, held, List.filter_cons, le_refl, decide_true, if_true, List.filter_nil, List.foldl_nil, List.foldl_cons, mask, List.lookup_nil, Bool.not_true, Bool.false_eq_true, if_false]
  rfl
theorem mask_and (a : Byte) {k : Nat} (low : k < 8) : a &&& BitVec.ofNat 8 (2 ^ k) = 0 ↔ a.getLsbD k = false := by
  constructor
  · intro zero
    have bit := congrArg (fun x : Byte => x.getLsbD k) zero
    rw [BitVec.getLsbD_and, BitVec.getLsbD_ofNat, Nat.testBit_two_pow_self, decide_eq_true low, Bool.and_true, Bool.and_true] at bit
    exact bit.trans BitVec.getLsbD_zero
  · intro bit
    refine BitVec.eq_of_getLsbD_eq fun i few => ?_
    rw [BitVec.getLsbD_and, BitVec.getLsbD_ofNat, Nat.testBit_two_pow]
    refine Eq.trans ?_ BitVec.getLsbD_zero.symm
    by_cases here : k = i
    · rw [← here, bit, Bool.false_and]
    · rw [decide_eq_false here, Bool.and_false, Bool.and_false]
theorem satTo_eq_min (m n : Nat) : satTo m n = min m n := by
  unfold satTo
  split <;> omega
theorem snapshot_shadows {s : State} {k : Seat} (held : s.stackHeld = true) (due : s.mc.snapDue = [{ instant := s.aon.now, seat := k.val }]) (calm : s.mc.preSnap = []) :
    ∃ t, exec .snapshot s = .next t ∧ t = { s with mc := { s.mc with snaps := t.mc.snaps, snapDue := [] }, net := { s.net with scr := t.net.scr }, seats := t.seats } ∧ (∀ j, (t.seat j).staged = (s.seat j).staged ∧ (t.seat j).turn = (s.seat j).turn) ∧
      ∀ j, j < 8 → ((s.mc.snap j).accept.getLsbD k.val = false → t.mc.snap j = s.mc.snap j) ∧
        ((s.mc.snap j).accept.getLsbD k.val = true → (s.mc.snap j).writing = true → t.mc.snap j = { s.mc.snap j with skipped := min 255 ((s.mc.snap j).skipped + 1) }) ∧
        ((s.mc.snap j).accept.getLsbD k.val = true → (s.mc.snap j).writing = false → (s.mc.snap j).buf ≠ 0 → (s.seat j).seg = none → (t.mc.snap j).writing = true ∧ (t.mc.snap j).instant = s.aon.now ∧ (t.mc.snap j).shadow = (snapRecords s j).flatten ∧
          (t.mc.snap j).trigger = BitVec.ofNat 8 (2 ^ k.val) ∧ (s.clocksOn = true → s.net.scr.held (s.mc.snap j).word = false → s.net.scr.wordBad (s.mc.snap j).word = false → t.net.scr.unmarked (s.mc.snap j).word)) := by
  have low := k.isLt
  obtain ⟨only, -⟩ := takeShadows_only s.aon.now (BitVec.ofNat 8 (2 ^ k.val)) allSeats s
  have taken {j : Nat} (few : j < 8) := takeShadows_take s.aon.now (BitVec.ofNat 8 (2 ^ k.val)) (l := allSeats) (by decide) s (j := j) (List.mem_range.2 few)
  generalize shadows : allSeats.foldl (fun u j => takeShadow u s.aon.now (BitVec.ofNat 8 (2 ^ k.val)) none j) s = u at only taken
  obtain ⟨parts, seats, -⟩ := id only
  have runs := snapshot_takes held due calm
  rw [shadows] at runs
  refine ⟨_, runs, ?_, fun j => ?_, fun j few => ?_⟩
  · obtain ⟨snaps, scr, seats, same⟩ : ∃ sn sc se, u = { s with mc := { s.mc with snaps := sn }, net := { s.net with scr := sc }, seats := se } := ⟨_, _, _, parts⟩
    have drops : (s.mc.snapDue.filter fun x => x.instant ≠ s.aon.now) = [] := by simp [due]
    have keeps : (s.mc.preSnap.filter fun x => x.1 ≠ s.aon.now) = s.mc.preSnap := by
      rw [calm]
      rfl
    rw [same]
    show ({ s with mc := { s.mc with snaps := snaps, snapDue := s.mc.snapDue.filter fun x => x.instant ≠ s.aon.now, preSnap := s.mc.preSnap.filter fun x => x.1 ≠ s.aon.now }, net := { s.net with scr := scr }, seats := seats } : State) = _
    rw [drops, keeps]
    rfl
  · obtain ⟨staged, turn, -⟩ := seats j
    exact ⟨staged, turn⟩
  · obtain ⟨deaf, busy, takes⟩ := taken few
    have hears (on : (s.mc.snap j).accept.getLsbD k.val = true) : (s.mc.snap j).accept &&& BitVec.ofNat 8 (2 ^ k.val) ≠ 0 := fun zero => Bool.false_ne_true (((mask_and _ low).1 zero).symm.trans on)
    refine ⟨fun off => deaf ((mask_and _ low).2 off), fun on writing => ?_, fun on idle buf none => takes (hears on) idle buf none⟩
    rw [← satTo_eq_min]
    exact busy (hears on) writing

/-! ## The image of a snapshot (R626) -/

/-- What writing words into the scratchpad leaves: nothing but bytes there and attentions. -/
structure State.scratchOnly (s t : State) : Prop where
  parts : t = { s with net := { s.net with scr := t.net.scr }, seats := t.seats }
theorem State.scratchOnly.trans {s t u : State} (one : s.scratchOnly t) (two : t.scratchOnly u) : s.scratchOnly u := by
  obtain ⟨parts⟩ := one
  obtain ⟨parts'⟩ := two
  refine ⟨?_⟩
  rw [parts', parts]
theorem scratchWrite_scratchOnly (s : State) (w : Nat) (full : Bool) (rot len : Nat) (data : List Byte) : s.scratchOnly (scratchAccess s false w true full rot len data .alone).1 := by
  have uncorr : s.scratchOnly (scratchUncorr s w) := by
    unfold scratchUncorr scratchEvent
    dsimp only
    split <;> exact ⟨rfl⟩
  unfold scratchAccess
  dsimp only
  rw [if_pos rfl]
  split
  · exact uncorr
  · exact ⟨rfl⟩
theorem scratchWriteWords_scratchOnly (n : Nat) (s : State) (w : Nat) (l : List Byte) : s.scratchOnly (scratchWriteWords n s w l).1 := by
  induction n generalizing s w l with
  | zero => exact ⟨rfl⟩
  | succ n ih =>
    unfold scratchWriteWords
    split
    · exact ⟨rfl⟩
    · split
      · exact (scratchWrite_scratchOnly ..).trans (ih ..)
      · dsimp only
        have first := scratchWrite_scratchOnly s w false 0 (min 8 l.length) l
        generalize scratchAccess s false w true false 0 (min 8 l.length) l .alone = o at first ⊢
        have second := first.trans (scratchWrite_scratchOnly o.1 w false 8 (l.length - 8) (l.drop 8))
        generalize scratchAccess o.1 false w true false 8 (l.length - 8) (l.drop 8) .alone = o' at second ⊢
        split
        · exact first
        · split
          · exact first
          · exact second
theorem snapshotImage_written {s : State} {k : Seat} (clocks : s.clocksOn = true) (writing : (s.mc.snap k.val).writing = true) (on : (s.mc.snap k.val).buf ≠ 0)
    (free : s.net.scr.rangeHeld (16384 * bits (s.mc.snap k.val).buf 15 0) (16384 * bits (s.mc.snap k.val).buf 31 16) = false) :
    ∃ t, exec (.snapshotImageWritten k) s = .next t ∧ (t.mc.snap k.val).writing = false ∧ (t.mc.snap k.val).seqNo = ((s.mc.snap k.val).seqNo + 1) % 4294967296 ∧ (t.mc.snap k.val).lastInstant = (s.mc.snap k.val).instant ∧
      ((t.mc.snap k.val).lastStatus = 1 ∨ (t.mc.snap k.val).lastStatus = 2) ∧ t.fab = s.fab ∧ t.eng = s.eng ∧ t.stk = s.stk ∧ ∀ j, j ≠ k.val → t.mc.snap j = s.mc.snap j := by
  obtain ⟨u, v, status, only, runs, is, either⟩ : ∃ (u : State) (v : Snap) (status : Nat), s.scratchOnly u ∧ exec (.snapshotImageWritten k) s = .next (u.onMc fun m => m.setSnap k.val v) ∧
      v = { s.mc.snap k.val with seqNo := wrap32 ((s.mc.snap k.val).seqNo + 1), lastInstant := (s.mc.snap k.val).instant, lastStatus := status, writing := false, shadow := [], shadowRecords := 0 } ∧ (status = 1 ∨ status = 2) := by
    have waits : (!s.clocksOn || !(s.mc.snap k.val).writing || ((s.mc.snap k.val).buf != 0 && s.net.scr.rangeHeld (16384 * bits (s.mc.snap k.val).buf 15 0) (16384 * bits (s.mc.snap k.val).buf 31 16))) = false := by
      rw [clocks, writing, free, Bool.and_false]
      rfl
    have runs : execSnapshotImageWritten k s = _ := (if_neg (by rw [waits]; exact Bool.false_ne_true)).trans (if_neg on)
    exact ⟨_, _, _, scratchWriteWords_scratchOnly _ _ _ _, runs, rfl, ite_eq_or_eq _ _ _⟩
  obtain ⟨parts⟩ := only
  have mc : u.mc = s.mc := by rw [parts]
  have own : (u.onMc fun m => m.setSnap k.val v).mc.snap k.val = v := u.mc.setSnap_snap_self k.val v
  refine ⟨_, runs, ?_, ?_, ?_, ?_, ?_, ?_, ?_, fun j other => ?_⟩
  · rw [own, is]
  · rw [own, is]
    rfl
  · rw [own, is]
  · rw [own, is]
    exact either
  · exact (congrArg State.fab parts :)
  · exact (congrArg State.eng parts :)
  · exact (congrArg State.stk parts :)
  · exact (u.mc.setSnap_snap_other k.val v j other).trans (congrArg (fun m : Mc => m.snap j) mc)

end Sys2Proof.Machine
end

section
/-! PROOF. What the items of a turn leave of the calendar (R482, R484). -/

namespace Sys2Proof.Machine

/-! ## What the items of a turn leave of the device's calendar (R482, R484) -/

/-- The mode and time, the window and the WRITEs that wait for it, and each seat's stream, report and turn. -/
def State.calendar (s : State) : Option Mode × Nat × Nat × Bool × List Req × (Nat → Option Stream × Report × Option Turn) :=
  (s.aon.mode, s.aon.step, s.aon.now, s.mc.window, s.mc.heldWrites, fun j => ((s.seat j).stream, (s.seat j).report, (s.seat j).turn))
@[simp] theorem State.onFab_calendar (s : State) (g : Fabric → Fabric) : (s.onFab g).calendar = s.calendar := rfl
@[simp] theorem State.onNet_calendar (s : State) (g : Net → Net) : (s.onNet g).calendar = s.calendar := rfl
@[simp] theorem State.onEng_calendar (s : State) (g : Engines → Engines) : (s.onEng g).calendar = s.calendar := rfl
@[simp] theorem State.onStk_calendar (s : State) (g : Stack → Stack) : (s.onStk g).calendar = s.calendar := rfl
@[simp] theorem State.onLnk_calendar (s : State) (g : Links → Links) : (s.onLnk g).calendar = s.calendar := rfl
@[simp] theorem State.onHk_calendar (s : State) (g : Hk → Hk) : (s.onHk g).calendar = s.calendar := rfl
@[simp] theorem State.onMap_calendar (s : State) (g : FallowMap → FallowMap) : (s.onMap g).calendar = s.calendar := rfl
@[simp] theorem State.drawn_calendar (s : State) : s.drawn.calendar = s.calendar := rfl
@[simp] theorem State.setStk_calendar (s : State) (k : Stack) : ({ s with stk := k } : State).calendar = s.calendar := rfl
/-- Records of the MC other than the window and what waits for it. -/
@[simp] theorem State.onMc_calendar (s : State) {g : Mc → Mc} (keeps : ∀ m, (g m).window = m.window ∧ (g m).heldWrites = m.heldWrites) : (s.onMc g).calendar = s.calendar := by
  obtain ⟨window, held⟩ := keeps s.mc
  unfold State.calendar
  exact congrArg₂ (fun w h => (s.aon.mode, s.aon.step, s.aon.now, w, h, fun j => ((s.seat j).stream, (s.seat j).report, (s.seat j).turn))) window held
theorem State.onSnaps_calendar (s : State) {g : Mc → Nat → Mc} (keeps : ∀ m k, (g m k).window = m.window ∧ (g m k).heldWrites = m.heldWrites) (l : List Nat) : (s.onMc fun m => l.foldl g m).calendar = s.calendar := by
  refine State.onMc_calendar _ fun m => ?_
  have leaves (m : Mc) (k : Nat) : ((g m k).window, (g m k).heldWrites) = (m.window, m.heldWrites) := by
    obtain ⟨window, held⟩ := keeps m k
    rw [window, held]
  have same := foldl_leaves (fun m : Mc => (m.window, m.heldWrites)) leaves l m
  exact ⟨congrArg (·.1) same, congrArg (·.2) same⟩
@[simp] theorem State.onSeat_calendar (s : State) (k : Nat) {g : SeatRec → SeatRec} (keeps : ∀ x, (g x).stream = x.stream ∧ (g x).report = x.report ∧ (g x).turn = x.turn) : (s.onSeat k g).calendar = s.calendar := by
  have same : (fun j => (((s.onSeat k g).seat j).stream, ((s.onSeat k g).seat j).report, ((s.onSeat k g).seat j).turn)) = fun j => ((s.seat j).stream, (s.seat j).report, (s.seat j).turn) := by
    funext j
    rw [State.onSeat_seat]
    split
    · next here =>
      obtain ⟨stream, report, turn⟩ := keeps (s.seat k)
      rw [stream, report, turn, here]
    · rfl
  exact congrArg (fun f => (s.aon.mode, s.aon.step, s.aon.now, s.mc.window, s.mc.heldWrites, f)) same
@[simp] theorem State.raise_calendar (s : State) (e : Event) : (s.raise e).calendar = s.calendar := by
  have same : (fun j => (((s.raise e).seat j).stream, ((s.raise e).seat j).report, ((s.raise e).seat j).turn)) = fun j => ((s.seat j).stream, (s.seat j).report, (s.seat j).turn) := by
    funext j
    rw [State.raise_seat]
    split
    · next here =>
      rw [of_decide_eq_true (Bool.and_eq_true_iff.1 here).1]
      rfl
    · rfl
  exact congrArg (fun f => (s.aon.mode, s.aon.step, s.aon.now, s.mc.window, s.mc.heldWrites, f)) same
@[simp] theorem State.raiseOnce_calendar (s : State) (e : Event) (key : Nat) : (s.raiseOnce e key).calendar = s.calendar := by
  unfold State.raiseOnce
  dsimp only
  split
  · rfl
  · refine (State.onSeat_calendar _ _ ?_).trans (s.raise_calendar e)
    exact fun _ => ⟨rfl, rfl, rfl⟩
@[simp] theorem writeBackResp_calendar (s : State) (p line resp : Nat) : (writeBackResp s p line resp).calendar = s.calendar := by
  unfold writeBackResp
  dsimp only
  repeat' split
  all_goals simp only [State.onEng_calendar, State.raise_calendar]
@[simp] theorem State.edgeOn_calendar (s : State) (t : State) (p : Nat) : (s.edgeOn t p).calendar = t.calendar := by
  unfold State.edgeOn
  dsimp only
  split <;> simp only [State.onFab_calendar]
@[simp] theorem State.clockEdge_calendar (s : State) (c : Nat × Nat) : (s.clockEdge c).calendar = s.calendar := by
  rw [(s.clockEdge_keeps c).1]
  rfl
@[simp] theorem State.passEdges_calendar (s : State) (p n : Nat) : (s.passEdges p n).calendar = s.calendar := by
  rw [(s.passEdges_keeps p n).1]
  rfl
@[simp] theorem State.toEdge_calendar (s : State) (p e : Nat) : (s.toEdge p e).calendar = s.calendar := by
  rw [(s.toEdge_keeps p e).1]
  rfl
@[simp] theorem State.passSome_calendar (s : State) (p : Nat) : (s.passSome p).calendar = s.calendar := by
  unfold passSome
  simp only [apply_ite State.calendar, drawn_calendar, passEdges_calendar, ite_self]
@[simp] theorem State.showStops_calendar (s : State) (sel : Nat × Queue → Nat → Bool) : (s.showStops sel).calendar = s.calendar := rfl
@[simp] theorem countRetired_calendar (s : State) (p resp : Nat) (n : Nat := 1) : (countRetired s p resp n).calendar = s.calendar := by
  unfold countRetired
  simp only [State.onStk_calendar, apply_ite State.calendar, ite_self]
@[simp] theorem logLine_calendar (s : State) (p a source : Nat) (e : LineErr) (spare : Bool := false) : (logLine s p a source e spare).calendar = s.calendar := by
  unfold logLine
  simp only [State.onStk_calendar, State.raiseOnce_calendar, State.raise_calendar, apply_ite State.calendar, ite_self]
@[simp] theorem noteHistory_calendar (s : State) (p : Nat) (syms : List Nat) : (noteHistory s p syms).calendar = s.calendar := rfl
@[simp] theorem upsetLine_calendar (s : State) (key : Nat) (upset : BitVec 640) : (upsetLine s key upset).calendar = s.calendar := by
  unfold upsetLine
  simp only [State.onStk_calendar, apply_ite State.calendar, ite_self]
@[simp] theorem readLine_calendar (s : State) (p a source : Nat) (upset : BitVec 640) (needTag : Bool) : (readLine s p a source upset needTag).1.calendar = s.calendar := by
  unfold readLine
  dsimp only
  split <;> simp only [logLine_calendar, noteHistory_calendar, upsetLine_calendar]
@[simp] theorem answerB_calendar (s : State) (src : MemSrc) (resp : Nat) (data : BitVec 512) : (answerB s src resp data).calendar = s.calendar := by
  unfold answerB
  simp only [State.onStk_calendar, State.onMc_calendar, apply_ite State.calendar, ite_self, implies_true, and_self]
@[simp] theorem answerWrite_calendar (s : State) (p line resp : Nat) (src : MemSrc) : (answerWrite s p line resp src).calendar = s.calendar := by
  cases src <;> simp only [answerWrite, apply_ite State.calendar, State.onFab_calendar, State.onLnk_calendar, writeBackResp_calendar, answerB_calendar, ite_self]
@[simp] theorem answerAll_calendar (s : State) (p line resp : Nat) (l : List MemSrc) : (answerAll s p line resp l).calendar = s.calendar :=
  foldl_leaves State.calendar (fun u x => answerWrite_calendar u p line resp x) l s
@[simp] theorem performEntry_calendar (s : State) (p : Nat) (e : WcEntry) (upset : BitVec 640) : (performEntry s p e upset).calendar = s.calendar := by
  unfold performEntry
  dsimp only
  simp only [apply_ite State.calendar, answerAll_calendar, countRetired_calendar, State.onStk_calendar, readLine_calendar]
  repeat' split
  all_goals simp only [answerAll_calendar, State.onStk_calendar, readLine_calendar, State.setStk_calendar]
@[simp] theorem flushLine_calendar (s : State) (p a : Nat) (upset : BitVec 640) : (flushLine s p a upset).calendar = s.calendar := by
  unfold flushLine
  dsimp only
  split <;> simp only [performEntry_calendar, State.onStk_calendar]
@[simp] theorem flushWhere_calendar (s : State) (p : Nat) (g : Nat → Bool) : (flushWhere s p g).calendar = s.calendar :=
  foldl_leaves State.calendar (fun u a => flushLine_calendar u p a 0) _ s
@[simp] theorem requeueHeld_calendar (s : State) (p r : Nat) : (requeueHeld s p r).calendar = s.calendar := by
  unfold requeueHeld
  dsimp only
  rw [State.onStk_calendar]
  refine foldl_leaves State.calendar (fun u e => foldl_leaves State.calendar (fun v x => ?_) _ u) _ s
  repeat' split
  all_goals rfl
@[simp] theorem State.fillRegion_calendar (s : State) (p r : Nat) (g : Nat → BitVec 640) : (s.fillRegion p r g).calendar = s.calendar := rfl
@[simp] theorem wipeRegion_calendar (s : State) (p r : Nat) : (wipeRegion s p r).calendar = s.calendar := by
  unfold wipeRegion
  dsimp only
  split <;> simp only [State.fillRegion_calendar, State.onStk_calendar, requeueHeld_calendar]
@[simp] theorem dropCached_calendar (s : State) (p r : Nat) : (dropCached s p r).calendar = s.calendar := rfl
@[simp] theorem State.onPort_calendar (s : State) (n : Nat) (g : Port → Port) : (s.onPort n g).calendar = s.calendar := rfl
@[simp] theorem quadPll_calendar (s : State) (k : Nat) : (quadPll s k).calendar = s.calendar := rfl
@[simp] theorem rxStop_calendar (s : State) (n cause : Nat) : (rxStop s n cause).calendar = s.calendar := by
  unfold rxStop
  dsimp only
  repeat' split
  all_goals simp only [State.onPort_calendar, State.onNet_calendar]
@[simp] theorem applyPower_calendar (s : State) (n : Nat) (retrain : Bool) : (applyPower s n retrain).calendar = s.calendar := by
  unfold applyPower
  dsimp only
  simp only [quadPll_calendar, apply_ite State.calendar, State.onPort_calendar, rxStop_calendar, ite_self]
@[simp] theorem txRecord_calendar (s : State) (n : Nat) (t : TxPkt) : (txRecord s n t).calendar = s.calendar := by
  unfold txRecord
  dsimp only
  repeat' split
  all_goals simp only [State.onNet_calendar]
@[simp] theorem portReset_calendar (s : State) (n : Nat) : (portReset s n).calendar = s.calendar := by
  unfold portReset
  dsimp only
  split <;> simp only [txRecord_calendar, rxStop_calendar, State.onLnk_calendar, quadPll_calendar]
@[simp] theorem scratchEvent_calendar (s : State) (w code : Nat) (once : Bool) : (scratchEvent s w code once).calendar = s.calendar := by
  unfold scratchEvent
  dsimp only
  repeat' split
  all_goals simp only [State.raiseOnce_calendar, State.raise_calendar]
@[simp] theorem scratchCorrected_calendar (s : State) (w : Nat) : (scratchCorrected s w).calendar = s.calendar := by
  unfold scratchCorrected
  simp only [scratchEvent_calendar, State.onNet_calendar]
@[simp] theorem scratchUncorr_calendar (s : State) (w : Nat) : (scratchUncorr s w).calendar = s.calendar := by
  unfold scratchUncorr
  simp only [scratchEvent_calendar, State.onNet_calendar]
@[simp] theorem scratchAccess_calendar (s : State) (portB : Bool) (w : Nat) (write full : Bool) (rot len : Nat) (data : List Byte) (coll : Coll) :
    (scratchAccess s portB w write full rot len data coll).1.calendar = s.calendar := by
  unfold scratchAccess
  dsimp only
  repeat' split
  all_goals simp only [scratchUncorr_calendar, scratchCorrected_calendar, State.onNet_calendar, State.drawn_calendar]
@[simp] theorem writeKitty_calendar (s : State) (p reg : Nat) (data : Word) (be : BitVec 4) : (writeKitty s p reg data be).calendar = s.calendar := by
  unfold writeKitty
  dsimp only
  repeat' split
  all_goals simp only [State.onFab_calendar, State.onEng_calendar]
@[simp] theorem wipeThread_calendar (s : State) (p h : Nat) (owned : Bool) : (wipeThread s p h owned).calendar = s.calendar := rfl
@[simp] theorem fillEngBlock_calendar (s : State) (p : Nat) (ldb : Bool) (k : Nat) : (fillEngBlock s p ldb k).calendar = s.calendar := rfl
@[simp] theorem userWrite_calendar (s : State) (i k : Nat) (l : List Byte) : (userWrite s i k l).1.calendar = s.calendar := by
  unfold userWrite
  dsimp only
  repeat' split
  all_goals simp only [writeKitty_calendar, scratchAccess_calendar]
@[simp] theorem State.order_calendar (s : State) (o : Order) : (s.order o).calendar = s.calendar := rfl
@[simp] theorem changeKitty_calendar (s : State) (p b : Nat) (w : Byte) : (changeKitty s p b w).calendar = s.calendar := by
  unfold changeKitty
  split
  · rfl
  · refine (State.onSnaps_calendar _ (fun m j => ?_) _).trans rfl
    dsimp only
    split <;> exact ⟨rfl, rfl⟩
@[simp] theorem changeScratch_calendar (s : State) (k : Nat) (w : Byte) : (changeScratch s k w).calendar = s.calendar := by
  unfold changeScratch
  split
  · rfl
  · refine (State.onSnaps_calendar _ (fun m j => ?_) _).trans rfl
    dsimp only
    split <;> exact ⟨rfl, rfl⟩
@[simp] theorem changeHand_calendar (s : State) (p h : Nat) (w : Byte) : (changeHand s p h w).calendar = s.calendar := by
  unfold changeHand
  simp only [State.onNet_calendar, State.onFab_calendar, wipeThread_calendar, apply_ite State.calendar, ite_self]
@[simp] theorem changeBm_calendar (s : State) (p k : Nat) (w : BitVec 32) : (changeBm s p k w).calendar = s.calendar := by
  unfold changeBm
  simp only [State.onFab_calendar, apply_ite State.calendar, ite_self]
@[simp] theorem changeImb_calendar (s : State) (p k : Nat) (w : Byte) : (changeImb s p k w).calendar = s.calendar := by
  unfold changeImb
  simp only [fillEngBlock_calendar, State.onEng_calendar, apply_ite State.calendar, ite_self]
@[simp] theorem changeLdb_calendar (s : State) (p k : Nat) (w : Byte) : (changeLdb s p k w).calendar = s.calendar := by
  unfold changeLdb
  simp only [fillEngBlock_calendar, State.onEng_calendar, apply_ite State.calendar, ite_self]
@[simp] theorem changePmc_calendar (s : State) (p k : Nat) (w : Byte) : (changePmc s p k w).calendar = s.calendar := by
  unfold changePmc
  simp only [State.onEng_calendar, apply_ite State.calendar, ite_self]
@[simp] theorem changeBank_calendar (s : State) (b : Nat) (w : Byte) : (changeBank s b w).calendar = s.calendar := by
  unfold changeBank
  simp only [State.onFab_calendar, apply_ite State.calendar, ite_self]
@[simp] theorem changePort_calendar (s : State) (n : Nat) (w : Byte) : (changePort s n w).calendar = s.calendar := by
  simp only [changePort, apply_ite State.calendar, State.onPort_calendar, portReset_calendar, ite_self]
@[simp] theorem changeBdma_calendar (s : State) (n : Nat) (w : Byte) : (changeBdma s n w).calendar = s.calendar := by
  unfold changeBdma
  simp only [State.onLnk_calendar, apply_ite State.calendar, ite_self]
@[simp] theorem restartRotation_calendar (s : State) (q : Nat) (pair : Bool) : (restartRotation s q pair).calendar = s.calendar := rfl
@[simp] theorem unbindQueue_calendar (s : State) (q : Nat) : (unbindQueue s q).calendar = s.calendar := rfl
@[simp] theorem changeQueue_calendar (s : State) (q : Nat) (d : BitVec 256) : (changeQueue s q d).calendar = s.calendar := by
  simp only [changeQueue, apply_ite State.calendar, State.onNet_calendar, unbindQueue_calendar, ite_self]
@[simp] theorem applySteer_calendar (s : State) (seat v : Nat) : (applySteer s seat v).calendar = s.calendar := by
  unfold applySteer
  simp only [State.onLnk_calendar, apply_ite State.calendar, ite_self]
@[simp] theorem changeFpll_calendar (s : State) (k : Nat) (v : Fpll) : (changeFpll s k v).calendar = s.calendar := rfl
@[simp] theorem applyMode_calendar (s : State) (sub v : Nat) : (applyMode s sub v).calendar = s.calendar := by
  unfold applyMode
  repeat' split
  all_goals simp only [State.order_calendar]
@[simp] theorem applyTime_calendar (s : State) (sub : Nat) (i : Item) : (applyTime s sub i).calendar = s.calendar := by
  unfold applyTime
  repeat' split
  all_goals rfl
@[simp] theorem applyFpll_calendar (s : State) (sub : Nat) (i : Item) : (applyFpll s sub i).calendar = s.calendar := by
  unfold applyFpll
  simp only [changeFpll_calendar, apply_ite State.calendar, ite_self]
@[simp] theorem applyEpll_calendar (s : State) (sub v : Nat) : (applyEpll s sub v).calendar = s.calendar := rfl
@[simp] theorem applySelfTest_calendar (s : State) (sub v : Nat) : (applySelfTest s sub v).calendar = s.calendar := by
  unfold applySelfTest
  dsimp only
  repeat' split
  all_goals rfl
@[simp] theorem startDieMap_calendar (s : State) (d : Nat) : (startDieMap s d).calendar = s.calendar := by
  unfold startDieMap
  exact State.onStk_calendar ..
@[simp] theorem applyFallowMap_calendar (s : State) (sub v : Nat) : (applyFallowMap s sub v).calendar = s.calendar := by
  unfold applyFallowMap
  repeat' split
  all_goals simp only [startDieMap_calendar, State.onStk_calendar]
@[simp] theorem applySnapshot_calendar (s : State) (seat sub v : Nat) : (applySnapshot s seat sub v).calendar = s.calendar := by
  unfold applySnapshot
  dsimp only
  simp only [State.onMc_calendar, State.order_calendar, Mc.setSnap_window, Mc.setSnap_heldWrites, implies_true, and_self, apply_ite State.calendar, ite_self]
@[simp] theorem applyPlot_calendar (b s : State) (seat p sub : Nat) (i : Item) : (applyPlot b s seat p sub i).calendar = s.calendar := by
  unfold applyPlot
  dsimp only
  repeat' split
  all_goals simp only [State.onFab_calendar, changeHand_calendar, State.order_calendar, changeKitty_calendar, changeBm_calendar]
@[simp] theorem applyEngine_calendar (s : State) (p sub : Nat) (i : Item) : (applyEngine s p sub i).calendar = s.calendar := by
  unfold applyEngine
  simp only [State.onEng_calendar, State.order_calendar, changeImb_calendar, changeLdb_calendar, changePmc_calendar, apply_ite State.calendar, ite_self]
@[simp] theorem applySealWord_calendar (b s : State) (seat p r v : Nat) : (applySealWord b s seat p r v).calendar = s.calendar := by
  unfold applySealWord
  dsimp only
  simp only [apply_ite State.calendar, State.order_calendar, wipeRegion_calendar, dropCached_calendar, State.onStk_calendar, flushWhere_calendar, ite_self]
@[simp] theorem applyRiser_calendar (b s : State) (seat p sub v : Nat) : (applyRiser b s seat p sub v).calendar = s.calendar := by
  simp only [applyRiser, apply_ite State.calendar, applySealWord_calendar, State.onStk_calendar, ite_self]
@[simp] theorem applyPort_calendar (s : State) (n sub : Nat) (i : Item) : (applyPort s n sub i).calendar = s.calendar := by
  unfold applyPort
  split <;> simp only [apply_ite State.calendar, applyPower_calendar, State.onPort_calendar, changePort_calendar, State.order_calendar, rxStop_calendar, ite_self]
@[simp] theorem applyQuad_calendar (s : State) (k sub v : Nat) : (applyQuad s k sub v).calendar = s.calendar := by
  unfold applyQuad
  split <;> simp only [foldl_leaves State.calendar, applyPower_calendar, State.onLnk_calendar, implies_true]
@[simp] theorem applyBdma_calendar (s : State) (n sub : Nat) (i : Item) : (applyBdma s n sub i).calendar = s.calendar := by
  unfold applyBdma
  dsimp only
  split <;> simp only [State.onLnk_calendar, changeBdma_calendar]
@[simp] theorem applyBank_calendar (s : State) (b sub : Nat) (i : Item) : (applyBank s b sub i).calendar = s.calendar := by
  unfold applyBank
  simp only [changeBank_calendar, State.onFab_calendar, apply_ite State.calendar, ite_self]
@[simp] theorem applyWindow_calendar (s : State) (seat : Nat) (i : Item) : (applyWindow s seat i).calendar = s.calendar := by
  unfold applyWindow
  dsimp only
  simp only [apply_ite State.calendar, applySteer_calendar, State.onNet_calendar, changeQueue_calendar, State.onMap_calendar, flushWhere_calendar, State.onFab_calendar, State.onLnk_calendar, ite_self]

end Sys2Proof.Machine
end

section
/-! PROOF. What a turn leaves (R455, R482, R484). -/

namespace Sys2Proof.Machine

/-! ## What a turn leaves of the calendar (R482, R484) -/

/-- The calendar is kept, but that the turn of a seat whose credential is replaced is dropped. -/
structure State.keepsDates (s t : State) : Prop where
  mode : t.aon.mode = s.aon.mode
  step : t.aon.step = s.aon.step
  now : t.aon.now = s.aon.now
  window : t.mc.window = s.mc.window
  held : t.mc.heldWrites = s.mc.heldWrites
  seats : ∀ j, (t.seat j).stream = (s.seat j).stream ∧ (t.seat j).report = (s.seat j).report ∧ ((t.seat j).turn = (s.seat j).turn ∨ (t.seat j).turn = none)
theorem State.keepsDates.of_calendar {s t : State} (same : t.calendar = s.calendar) : s.keepsDates t := by
  refine ⟨congrArg (·.1) same, congrArg (·.2.1) same, congrArg (·.2.2.1) same, congrArg (·.2.2.2.1) same, congrArg (·.2.2.2.2.1) same, fun j => ?_⟩
  have seat := congrArg (·.2.2.2.2.2 j) same
  exact ⟨congrArg (·.1) seat, congrArg (·.2.1) seat, .inl (congrArg (·.2.2) seat)⟩
theorem State.keepsDates.refl (s : State) : s.keepsDates s := .of_calendar rfl
theorem State.keepsDates.trans {s t u : State} (one : s.keepsDates t) (two : t.keepsDates u) : s.keepsDates u := by
  obtain ⟨mode, step, now, window, held, seats⟩ := one
  obtain ⟨mode', step', now', window', held', seats'⟩ := two
  refine ⟨mode'.trans mode, step'.trans step, now'.trans now, window'.trans window, held'.trans held, fun j => ?_⟩
  obtain ⟨stream, report, turn⟩ := seats j
  obtain ⟨stream', report', turn'⟩ := seats' j
  refine ⟨stream'.trans stream, report'.trans report, ?_⟩
  rcases turn' with same | none
  · rcases turn with same' | none
    · exact .inl (same.trans same')
    · exact .inr (same.trans none)
  · exact .inr none
theorem State.keepsDates.foldl {α : Type} {g : State → α → State} (one : ∀ (s : State) (a : α), s.keepsDates (g s a)) (l : List α) (s : State) : s.keepsDates (l.foldl g s) := foldl_related .refl .trans one l s
theorem changeCred_dates (s : State) (k : Nat) {g : SeatRec → SeatRec} (keeps : ∀ x, (g x).stream = x.stream ∧ (g x).report = x.report) : s.keepsDates (changeCred s k g) := by
  refine ⟨rfl, rfl, rfl, rfl, rfl, fun j => ?_⟩
  unfold changeCred
  rw [State.onSeat_seat]
  split
  · next here =>
    subst here
    obtain ⟨stream, report⟩ := keeps (s.seat j)
    dsimp only
    split
    · exact ⟨rfl, rfl, .inl rfl⟩
    · exact ⟨stream, report, .inr rfl⟩
  · exact ⟨rfl, rfl, .inl rfl⟩
theorem applySeat_dates (s : State) (k sub : Nat) (i : Item) : s.keepsDates (applySeat s k sub i) := by
  unfold applySeat
  dsimp only
  split
  · exact changeCred_dates s k fun _ => ⟨rfl, rfl⟩
  · exact changeCred_dates s k fun _ => ⟨rfl, rfl⟩
  · exact .of_calendar (State.onSeat_calendar s k fun _ => ⟨rfl, rfl, rfl⟩)
  · exact .of_calendar (State.onSeat_calendar s k fun _ => ⟨rfl, rfl, rfl⟩)
  · exact .of_calendar (State.onSeat_calendar s k fun _ => ⟨rfl, rfl, rfl⟩)
  · exact .of_calendar (State.onSeat_calendar s k fun _ => ⟨rfl, rfl, rfl⟩)
  · exact .of_calendar (State.onSeat_calendar s k fun _ => ⟨rfl, rfl, rfl⟩)
  · exact .refl s
theorem State.keepsDates.ite {s t u : State} {c : Prop} [Decidable c] (yes : s.keepsDates t) (no : s.keepsDates u) : s.keepsDates (if c then t else u) := by
  split
  · exact yes
  · exact no
theorem applyItem_dates (b : State) (seat : Nat) (s : State) (i : Item) : s.keepsDates (applyItem b seat s i) := by
  unfold applyItem
  dsimp only
  refine .ite (.of_calendar (applyWindow_calendar ..)) (.ite (.of_calendar (applyMode_calendar ..)) (.ite (.of_calendar (applyTime_calendar ..)) (.ite (.of_calendar (applyFpll_calendar ..)) (.ite (.of_calendar (applyEpll_calendar ..))
    (.ite (.ite (.of_calendar (State.onHk_calendar ..)) (.ite (.of_calendar (State.onHk_calendar ..)) (.refl s))) (.ite (.of_calendar (applySelfTest_calendar ..)) (.ite (.of_calendar (applyFallowMap_calendar ..))
    (.ite (.of_calendar (applySnapshot_calendar ..)) (.ite (.of_calendar (changeScratch_calendar ..)) (.ite (.of_calendar (applyPlot_calendar ..)) (.ite (.of_calendar (applyEngine_calendar ..)) (.ite (.of_calendar (applyRiser_calendar ..))
    (.ite (.of_calendar (applyPort_calendar ..)) (.ite (.of_calendar (applyQuad_calendar ..)) (.ite (.of_calendar (applyBdma_calendar ..)) (.ite (.of_calendar (applyBank_calendar ..)) (.ite (applySeat_dates ..)
    (.ite (.of_calendar (userWrite_calendar ..)) (.refl s)))))))))))))))))))
theorem applyItems_dates (b : State) (seat : Nat) (items : List Item) : b.keepsDates (applyItems b seat items) := by
  unfold applyItems
  dsimp only
  refine .trans ?_ (.of_calendar (State.onFab_calendar ..))
  refine .trans ?_ (.foldl (fun s r => .of_calendar (restartRotation_calendar ..)) _ _)
  refine .trans ?_ (.foldl (applyItem_dates b seat) _ _)
  refine .trans ?_ (.foldl (applyItem_dates b seat) _ _)
  refine .trans ?_ (.foldl (applyItem_dates b seat) _ _)
  exact .foldl (fun s p => .of_calendar (State.passSome_calendar ..)) _ _
theorem applyTurn_dates (s : State) (k : Nat) (items : List Item) : s.keepsDates (applyTurn s k items) := by
  unfold applyTurn
  exact .ite (applyItems_dates ..) ((applyItems_dates ..).trans (.of_calendar (State.onSeat_calendar _ _ fun _ => ⟨rfl, rfl, rfl⟩)))

/-! ## What answering a turn leaves (R484, R455) -/

/-- Replies, attentions and the ends of sessions that wear out: nothing of the memories and engines, and each seat's report and the date of its turn as they were. -/
structure State.answersOnly (s t : State) : Prop where
  parts : t = { s with aon := { s.aon with free := t.aon.free }, mc := { s.mc with out := t.mc.out }, seats := t.seats, fab := t.fab, net := t.net }
  seats : ∀ j, (t.seat j).report = (s.seat j).report ∧ ∀ y, (t.seat j).turn = some y → ∃ x, (s.seat j).turn = some x ∧ y.at? = x.at?
theorem State.answersOnly.refl (s : State) : s.answersOnly s := ⟨rfl, fun _ => ⟨rfl, fun y is => ⟨y, is, rfl⟩⟩⟩
theorem State.answersOnly.trans {s t u : State} (one : s.answersOnly t) (two : t.answersOnly u) : s.answersOnly u := by
  obtain ⟨parts, seats⟩ := one
  obtain ⟨parts', seats'⟩ := two
  refine ⟨?_, fun j => ?_⟩
  · rw [parts', parts]
  · obtain ⟨report, turn⟩ := seats j
    obtain ⟨report', turn'⟩ := seats' j
    refine ⟨report'.trans report, fun y is => ?_⟩
    obtain ⟨x, is', at'⟩ := turn' y is
    obtain ⟨x', is'', at''⟩ := turn x is'
    exact ⟨x', is'', at'.trans at''⟩
theorem State.onFab_answers (s : State) (g : Fabric → Fabric) : s.answersOnly (s.onFab g) := ⟨rfl, (State.answersOnly.refl s).seats⟩
theorem State.onNet_answers (s : State) (g : Net → Net) : s.answersOnly (s.onNet g) := ⟨rfl, (State.answersOnly.refl s).seats⟩
theorem State.drawn_answers (s : State) : s.answersOnly s.drawn := ⟨rfl, (State.answersOnly.refl s).seats⟩
theorem State.send_answers (s : State) (r : Reply) : s.answersOnly (s.send r) := ⟨rfl, (State.answersOnly.refl s).seats⟩
theorem State.raise_answers (s : State) (e : Event) : s.answersOnly (s.raise e) := by
  refine ⟨rfl, fun j => ?_⟩
  rw [State.raise_seat]
  split
  · next here =>
    rw [of_decide_eq_true (Bool.and_eq_true_iff.1 here).1]
    exact ⟨rfl, fun y is => ⟨y, is, rfl⟩⟩
  · exact ⟨rfl, fun y is => ⟨y, is, rfl⟩⟩
theorem State.onSeat_answers (s : State) (k : Nat) {g : SeatRec → SeatRec} (report : ∀ x, (g x).report = x.report) (turn : ∀ x y, (g x).turn = some y → ∃ z, x.turn = some z ∧ y.at? = z.at?) : s.answersOnly (s.onSeat k g) := by
  refine ⟨rfl, fun j => ?_⟩
  rw [State.onSeat_seat]
  split
  · next here =>
    rw [here]
    exact ⟨report _, turn _⟩
  · exact ⟨rfl, fun y is => ⟨y, is, rfl⟩⟩
/-- A change of a seat's record that concerns neither its report nor its turn. -/
theorem State.onSeat_answers' (s : State) (k : Nat) {g : SeatRec → SeatRec} (keeps : ∀ x, (g x).report = x.report ∧ (g x).turn = x.turn) : s.answersOnly (s.onSeat k g) := by
  refine s.onSeat_answers k (fun x => (keeps x).1) fun x y is => ⟨y, ?_, rfl⟩
  rw [← (keeps x).2]
  exact is
theorem endStream_answers (s : State) (k : Nat) : s.answersOnly (endStream s k) := by
  unfold endStream
  dsimp only
  refine State.answersOnly.trans ?_ (State.onSeat_answers' _ k fun _ => ⟨rfl, rfl⟩)
  repeat' split
  · exact State.onFab_answers ..
  · exact .refl s
  · exact .refl s
  · exact .refl s
theorem endSession_answers (s : State) (k : Nat) : s.answersOnly (endSession s k) := by
  have ends (r : SeatRec) (y : Turn) (is : r.endSession.turn = some y) : ∃ z, r.turn = some z ∧ y.at? = z.at? := by
    obtain ⟨z, had, same⟩ := Option.map_eq_some_iff.1 is
    exact ⟨z, had, by rw [← same]⟩
  have seg : s.answersOnly (endSeg s k) := by
    unfold endSeg
    dsimp only
    refine State.answersOnly.trans ?_ (State.onSeat_answers' _ k fun _ => ⟨rfl, rfl⟩)
    repeat' split
    · exact endStream_answers s k
    · exact .refl s
    · exact endStream_answers s k
    · exact .refl s
  exact seg.trans (State.onSeat_answers _ k (fun _ => rfl) ends)
theorem sendReply_answers (s : State) (r : Reply) : s.answersOnly (sendReply s r) := by
  unfold sendReply wearSession
  dsimp only
  split
  · split
    · refine .trans (.trans (s.send_answers _) (State.onSeat_answers' _ r.seat ?_)) (endSession_answers ..)
      exact fun _ => ⟨rfl, rfl⟩
    · refine .trans (s.send_answers _) (State.onSeat_answers' _ r.seat ?_)
      exact fun _ => ⟨rfl, rfl⟩
  · exact s.send_answers r
theorem pushReply_answers (s : State) (k q rank : Nat) (r : Reply) : s.answersOnly ((pushReply s k q rank r).getD s) := by
  unfold pushReply
  dsimp only
  repeat' split
  · exact .refl s
  · exact .refl s
  · rw [Option.getD_some]
    exact s.onNet_answers _
  · rw [Option.getD_some]
    exact s.onNet_answers _
theorem answerTurn_answers (s : State) (k : Nat) (t : Turn) (err : Nat) (data : List Byte) : s.answersOnly (answerTurn s k t err data) := by
  unfold answerTurn
  dsimp only
  split
  · refine .trans ?_ (sendReply_answers ..)
    exact State.onSeat_answers' s k fun _ => ⟨rfl, rfl⟩
  · refine .trans ?_ (pushReply_answers ..)
    exact State.onSeat_answers' s k fun _ => ⟨rfl, rfl⟩
  · exact .refl s
theorem turnPassed_answers (s : State) (k : Nat) (t : Turn) : s.answersOnly (turnPassed s k t) := by
  unfold turnPassed
  split
  · exact (s.raise_answers _).trans (State.drawn_answers _)
  · exact answerTurn_answers ..
theorem turnFailed_answers (s : State) (k : Nat) (t : Turn) (rep : Report) : (s.onSeat k fun r => { r with turn := none, report := rep }).answersOnly (turnFailed s k t rep) := by
  unfold turnFailed
  dsimp only
  split
  · exact State.raise_answers _ _
  · exact answerTurn_answers ..

/-! ## What a turn does once it is applied (R484) -/

theorem settleStreams_none {s : State} (none : ∀ j, (s.seat j).stream = none) : settleStreams s = s := by
  have sweep : sweepSections s = s := by
    unfold sweepSections
    refine List.foldlRecOn (motive := fun t => t = s) _ _ rfl fun t is k _ => ?_
    subst is
    rw [none k]
  unfold settleStreams
  rw [sweep]
  refine List.foldlRecOn (motive := fun t => t = s) _ _ rfl fun t is k _ => ?_
  subst is
  rw [none k]
theorem State.portsOnly.calendar {s t : State} (only : s.portsOnly t) : t.calendar = s.calendar := by
  unfold portsOnly at only
  rw [only]
  rfl
/-- What follows a turn's items: nothing of the calendar, of OTP and MRAM, the memories and the engines. -/
theorem afterTurn_leaves (s : State) (k : Nat) : (afterTurn s k).calendar = s.calendar ∧ (afterTurn s k).nv = s.nv ∧ (afterTurn s k).stk = s.stk ∧ (afterTurn s k).eng = s.eng := by
  have ports (l : List Nat) (u : State) : u.portsOnly (l.foldl (fun s n => applyPower s n false) u) := foldl_related (r := State.portsOnly) (fun _ => rfl) State.portsOnly_trans (fun s n => applyPower_portsOnly s n false) l u
  have leaves {u v : State} (only : u.portsOnly v) : v.calendar = u.calendar ∧ v.nv = u.nv ∧ v.stk = u.stk ∧ v.eng = u.eng := by
    refine ⟨only.calendar, ?_⟩
    unfold State.portsOnly at only
    rw [only]
    exact ⟨rfl, rfl, rfl⟩
  have first := State.onSeat_calendar s k (g := fun r => { r with firstTurn := true }) fun _ => ⟨rfl, rfl, rfl⟩
  unfold afterTurn
  dsimp only
  split
  · split
    · generalize ((List.range 512).filter fun n => (s.onSeat k fun r => { r with firstTurn := true }).lnk.portOwner n = some k) = l
      obtain ⟨calendar, nv, stk, eng⟩ := leaves (ports l (s.onSeat k fun r => { r with firstTurn := true }))
      exact ⟨calendar.trans first, nv, stk, eng⟩
    · exact ⟨first, rfl, rfl, rfl⟩
  · split
    · exact leaves (ports ((List.range 512).filter s.bulkPort) s)
    · exact ⟨rfl, rfl, rfl, rfl⟩
/-- What a turn that passes leaves, of the state in which its items have been applied. -/
theorem performTurn_passes {s : State} {k : Nat} {q : Turn} {rep : Report} {v : State} (turn : (s.seat k).turn = some q) (is : reportOf s.aon.now q.source q.items (checkItems (s.recheckBase k) k q.items) = rep) (good : rep.result ≠ 2)
    (clears : (s.onSeat k fun x => { x with turn := none, report := rep }) = v) (none : ∀ j, (s.seat j).stream = none) :
    (afterTurn (applyTurn v k q.items) k).answersOnly (performTurn s k q) := by
  have same : (if (s.seat k).turn.isNone && q.via.isNone then { q with req := Option.none } else q) = q := by
    rw [turn]
    rfl
  have free : ∀ j, ((afterTurn (applyTurn v k q.items) k).seat j).stream = Option.none := by
    intro j
    obtain ⟨calendar, -⟩ := afterTurn_leaves (applyTurn v k q.items) k
    obtain ⟨stream, -⟩ := (State.keepsDates.of_calendar calendar).seats j
    obtain ⟨stream', -⟩ := (applyTurn_dates v k q.items).seats j
    rw [stream, stream', ← clears, State.onSeat_seat]
    split
    · exact none k
    · exact none j
  unfold performTurn
  dsimp only
  rw [same, is, if_neg good, clears, settleStreams_none free]
  exact turnPassed_answers ..
theorem performTurn_fails {s : State} {k : Nat} {q : Turn} {rep : Report} (turn : (s.seat k).turn = some q) (is : reportOf s.aon.now q.source q.items (checkItems (s.recheckBase k) k q.items) = rep) (bad : rep.result = 2) :
    (s.onSeat k fun x => { x with turn := none, report := rep }).answersOnly (performTurn s k q) := by
  have same : (if (s.seat k).turn.isNone && q.via.isNone then { q with req := Option.none } else q) = q := by
    rw [turn]
    rfl
  unfold performTurn
  dsimp only
  rw [same, is, if_pos bad]
  exact turnFailed_answers ..
theorem mem_dueTurns {s : State} {e : Nat × Turn} : e ∈ s.dueTurns ↔ e.1 ∈ allSeats ∧ (s.seat e.1).turn = some e.2 ∧ ∀ a, e.2.at? = some a → a ≤ s.aon.now := by
  obtain ⟨j, x⟩ := e
  unfold State.dueTurns
  rw [List.mem_filterMap]
  constructor
  · rintro ⟨k, listed, is⟩
    cases turn : (s.seat k).turn with
    | none => rw [turn] at is; exact nomatch is
    | some y =>
      rw [turn] at is
      cases date : y.at? with
      | none =>
        simp only [date, Option.some.injEq] at is
        obtain rfl := congrArg (·.1) is
        obtain rfl := congrArg (·.2) is
        exact ⟨listed, turn, fun a some' => nomatch date.symm.trans some'⟩
      | some a =>
        simp only [date] at is
        split at is
        · next early =>
          rw [Option.some.injEq] at is
          obtain rfl := congrArg (·.1) is
          obtain rfl := congrArg (·.2) is
          refine ⟨listed, turn, fun b same => ?_⟩
          rw [Option.some.inj (date.symm.trans same)] at early
          exact early
        · exact nomatch is
  · rintro ⟨listed, turn, early⟩
    refine ⟨j, listed, ?_⟩
    dsimp only at turn early
    rw [turn]
    cases date : x.at? with
    | none => simp only [date]
    | some a => simp only [date, early a date, if_true]
/-- A single turn is due: after it no turn is. -/
theorem dueTurns_spent {s t : State} {k : Nat} {q : Turn} (due : s.dueTurns = [(k, q)]) (now : t.aon.now = s.aon.now) (spent : (t.seat k).turn = none) (dates : ∀ j, j ≠ k → ∀ y, (t.seat j).turn = some y → ∃ x, (s.seat j).turn = some x ∧ y.at? = x.at?) :
    t.dueTurns = [] := by
  refine List.eq_nil_iff_forall_not_mem.2 fun e listed => ?_
  obtain ⟨seat, turn, early⟩ := mem_dueTurns.1 listed
  by_cases here : e.1 = k
  · rw [here, spent] at turn
    exact nomatch turn
  · obtain ⟨x, had, at'⟩ := dates e.1 here e.2 turn
    have member : (e.1, x) ∈ s.dueTurns := mem_dueTurns.2 ⟨seat, had, fun a is => (early a (at'.trans is)).trans (le_of_eq now)⟩
    rw [due, List.mem_singleton] at member
    exact here (congrArg (·.1) member)

end Sys2Proof.Machine
end

section
/-! PROOF. The tick of a turn (R484). -/

namespace Sys2Proof.Machine

/-! ## The tick of a turn (R484) -/

theorem releaseWrites_none {s : State} (none : s.mc.heldWrites = []) : releaseWrites s = s.onMc fun m => { m with heldWrites := [] } := by
  unfold releaseWrites
  rw [none]
  rfl
theorem turnApply_one {s t : State} {k : Nat} {q : Turn} (up : s.mcUp = true) (well : s.aon.failedTest = 0) (due : s.dueTurns = [(k, q)]) (free : s.mc.orders = []) (plain : takesSnap [(k, q)] = false)
    (performs : performTurn s.clearOut k q = t) (spent : t.dueTurns = []) (none : t.mc.heldWrites = []) : exec .turnApply s = .next ((t.onMc fun m => { m with window := false }).onMc fun m => { m with heldWrites := [] }) := by
  have calm : s.clearOut.modeOrdered = false := by
    have orders : s.clearOut.mc.orders = [] := free
    unfold State.modeOrdered
    rw [orders]
    rfl
  have released : releaseWrites (t.onMc fun m => { m with window := false }) = (t.onMc fun m => { m with window := false }).onMc fun m => { m with heldWrites := [] } := releaseWrites_none none
  show execTurnApply s = _
  simp only [execTurnApply, up, due, well, plain, calm, performs, spent, released, List.isEmpty_cons, List.isEmpty_nil, bne_self_eq_false, Bool.not_true, Bool.or_self, Bool.false_and, Bool.and_false, Bool.false_eq_true, if_false, List.foldl_cons, List.foldl_nil]
section
variable {s : State} {k : Nat} {q : Turn} {rep : Report} {v : State} (up : s.mcUp = true) (well : s.aon.failedTest = 0) (due : s.dueTurns = [(k, q)]) (held : s.mc.heldWrites = []) (free : s.mc.orders = []) (plain : takesSnap [(k, q)] = false)
  (clears : (s.clearOut.onSeat k fun x => { x with turn := none, report := rep }) = v)
include up well due held free plain clears
/-- The tick of one due turn, whatever its items and its answer are. -/
theorem turnApply_done {w : State} (kept : v.keepsDates w) (answers : w.answersOnly (performTurn s.clearOut k q)) :
    ∃ t, exec .turnApply s = .next t ∧ (t.seat k).turn = none ∧ (t.seat k).report = rep ∧ t.mc.window = false ∧ t.nv = w.nv ∧ t.stk = w.stk ∧ t.eng = w.eng := by
  generalize performs : performTurn s.clearOut k q = t at answers
  obtain ⟨parts, seats⟩ := answers
  obtain ⟨-, -, now, -, held', seats'⟩ := kept
  have own : v.seat k = { s.seat k with turn := none, report := rep } := by
    rw [← clears]
    exact State.onSeat_self ..
  have other {j : Nat} (apart : j ≠ k) : v.seat j = s.seat j := by
    rw [← clears, State.onSeat_seat, if_neg apart]
    rfl
  have now' : t.aon.now = s.aon.now := (congrArg (fun u : State => u.aon.now) parts).trans (now.trans (by rw [← clears]; rfl))
  have held'' : t.mc.heldWrites = [] := (congrArg (fun u : State => u.mc.heldWrites) parts).trans (held'.trans (by rw [← clears]; exact held))
  have dates (j : Nat) (y : Turn) (some' : (t.seat j).turn = some y) : ∃ x, (v.seat j).turn = some x ∧ y.at? = x.at? := by
    obtain ⟨-, turn⟩ := seats j
    obtain ⟨x, had, same⟩ := turn y some'
    obtain ⟨-, -, kept | none⟩ := seats' j
    · exact ⟨x, kept.symm.trans had, same⟩
    · exact nomatch none.symm.trans had
  have spent : (t.seat k).turn = none := by
    cases turn : (t.seat k).turn with
    | none => rfl
    | some y =>
      obtain ⟨x, had, -⟩ := dates k y turn
      rw [own] at had
      exact nomatch had
  have report : (t.seat k).report = rep := by
    obtain ⟨same, -⟩ := seats k
    obtain ⟨-, same', -⟩ := seats' k
    rw [same, same', own]
  have idle : t.dueTurns = [] := dueTurns_spent due now' spent fun j apart y is => by
    rw [← other apart]
    exact dates j y is
  exact ⟨_, turnApply_one up well due free plain performs idle held'', spent, report, rfl, (congrArg State.nv parts :), (congrArg State.stk parts :), (congrArg State.eng parts :)⟩
variable (is : reportOf s.aon.now q.source q.items (checkItems (s.clearOut.recheckBase k) k q.items) = rep)
include is
theorem turnApply_fails (bad : rep.result = 2) : ∃ t, exec .turnApply s = .next t ∧ (t.seat k).turn = none ∧ (t.seat k).report = rep ∧ t.mc.window = false ∧ t.nv = s.nv ∧ t.stk = s.stk ∧ t.eng = s.eng := by
  obtain ⟨-, turn, -⟩ := mem_dueTurns.1 (due ▸ List.mem_singleton.2 rfl : (k, q) ∈ s.dueTurns)
  have answers := performTurn_fails (s := s.clearOut) turn is bad
  rw [clears] at answers
  obtain ⟨t, runs, spent, report, window, nv, stk, eng⟩ := turnApply_done up well due held free plain clears (.refl v) answers
  refine ⟨t, runs, spent, report, window, nv.trans ?_, stk.trans ?_, eng.trans ?_⟩ <;> rw [← clears] <;> rfl
theorem turnApply_passes (good : rep.result ≠ 2) (none : ∀ j, (s.seat j).stream = none) : ∃ t, exec .turnApply s = .next t ∧ (t.seat k).turn = Option.none ∧ (t.seat k).report = rep ∧ t.mc.window = false ∧
    t.nv = (applyTurn v k q.items).nv ∧ t.stk = (applyTurn v k q.items).stk ∧ t.eng = (applyTurn v k q.items).eng := by
  obtain ⟨-, turn, -⟩ := mem_dueTurns.1 (due ▸ List.mem_singleton.2 rfl : (k, q) ∈ s.dueTurns)
  have answers := performTurn_passes (s := s.clearOut) turn is good clears none
  obtain ⟨calendar, nv', stk', eng'⟩ := afterTurn_leaves (applyTurn v k q.items) k
  obtain ⟨t, runs, spent, report, window, nv, stk, eng⟩ := turnApply_done up well due held free plain clears ((applyTurn_dates v k q.items).trans (.of_calendar calendar)) answers
  exact ⟨t, runs, spent, report, window, nv.trans nv', stk.trans stk', eng.trans eng'⟩
end

/-- Settles O60: each clause is one of the lemmas above, on the window, the tick, the dictionary queues, the clock, the snapshots and the counters. -/
theorem turnsAndSnapshots : Obligations.TurnsAndSnapshots := by
  unfold Obligations.TurnsAndSnapshots
  intro s
  refine ⟨fun up shut some' => turnWindowStart_opens up shut some', fun k q up well due held free plain => ?_, fun k j pkt q' clocks runs ours takes => ?_, fun k pkt q' clocks runs ours takes => ?_, fun v rest order => step_sets order, fun v rest order => ?_,
    fun k rest order calm => snap_triggers order calm, fun k held due calm => ?_, fun k => fun clocks writing on free => snapshotImage_written clocks writing on free, fun k n rest order => pmcClear_clears order, fun k n rest order => pmcOvfclr_clears order⟩
  · exact ⟨fun bad => turnApply_fails up well due held free plain rfl rfl bad, fun good none => turnApply_passes up well due held free plain rfl rfl good none⟩
  · exact ⟨fun short => mcRequest_takes clocks runs ours takes short, fun i long to' fresh idle ping empty credit none open' => mcRequest_pings clocks runs ours takes long to' fresh idle ping empty credit none open'⟩
  · have taken := attention_taken clocks runs ours takes
    refine ⟨fun nine low high cred => ?_, fun other => ?_⟩
    · rw [if_pos ⟨nine, low, high⟩] at taken
      exact ⟨_, taken, rfl, attention_sets (s := s.onNet fun m => m.setQueue (41104 + k.val) q') high cred _ _ _⟩
    · rw [if_neg fun all => by omega] at taken
      exact taken
  · obtain ⟨low, mid, high⟩ := clampTime_cases (s.aon.now + v)
    exact ⟨_, offset_sets order, rfl, low, mid, high⟩
  · obtain ⟨t, runs, parts, seats, shadows⟩ := snapshot_shadows held due calm
    exact ⟨t, runs, parts, fun j _ => seats j, shadows⟩

end Sys2Proof.Machine
end

section
/-! PROOF. The binding tick and the end of start-up (R574-R578). -/

namespace Sys2Proof.Machine

/-! ## The mode, the step of start-up and the window (R574-R578) -/

/-- What the binding tick sets, and what neither a turn nor a WRITE changes. -/
def State.phase (s : State) : Option Mode × Nat × Bool := (s.aon.mode, s.aon.step, s.mc.window)
theorem State.keepsDates.phase {s t : State} (keeps : s.keepsDates t) : t.phase = s.phase := by
  obtain ⟨mode, step, -, window, -, -⟩ := keeps
  unfold State.phase
  rw [mode, step, window]
theorem State.answersOnly.phase {s t : State} (answers : s.answersOnly t) : t.phase = s.phase := by
  obtain ⟨parts, -⟩ := answers
  rw [parts]
  rfl
theorem settleStreams_phase (s : State) : (settleStreams s).phase = s.phase := by
  have swept : (sweepSections s).phase = s.phase := by
    rw [sweepSections_seatsOnly s]
    rfl
  refine Eq.trans (foldl_leaves State.phase (fun u k => ?_) allSeats (sweepSections s)) swept
  split
  · split
    · exact (endStream_answers u k).phase
    · rfl
  · rfl
theorem performTurn_phase (s : State) (k : Nat) (q : Turn) : (performTurn s k q).phase = s.phase := by
  unfold performTurn
  dsimp only
  generalize (if ((s.seat k).turn.isNone && q.via.isNone) = true then { q with req := none } else q) = x
  generalize reportOf s.aon.now x.source x.items (checkItems (s.recheckBase k) k x.items) = rep
  split
  · exact (turnFailed_answers ..).phase
  · obtain ⟨calendar, -⟩ := afterTurn_leaves (applyTurn (s.onSeat k fun r => { r with turn := none, report := rep }) k x.items) k
    exact (turnPassed_answers ..).phase.trans ((settleStreams_phase _).trans ((State.keepsDates.of_calendar calendar).phase.trans (applyTurn_dates ..).phase))
theorem bindSeat_phase (s : State) (k : Nat) : (bindSeat s k).phase = s.phase := by
  unfold bindSeat
  dsimp only
  split
  · rfl
  · exact performTurn_phase ..
theorem respond_phase (s : State) (r : Req) (func err aux : Nat) (data : List Byte) : (respond s r func err aux data).phase = s.phase := by
  unfold respond
  dsimp only
  split <;> exact (sendReply_answers ..).phase
theorem finish_phase (s : State) (r : Req) (func : Nat) (o : OpOut) : (finish s r func o).phase = o.st.phase := by
  unfold finish
  split
  · rfl
  · exact respond_phase ..
theorem applyWrite_phase (s : State) (seat i sub : Nat) (data : List Byte) : (applyWrite s seat i sub data).phase = s.phase := by
  have secret (k : Nat) (v : BitVec 256) : (writeSms s k v).phase = s.phase := (congrArg (fun u : State => u.phase) (writeSms_beyond s k v) :)
  unfold applyWrite
  dsimp only
  have either {c : Prop} [Decidable c] {a b : State} (yes : a.phase = s.phase) (no : b.phase = s.phase) : (if c then a else b).phase = s.phase := State.ite_as State.phase yes no
  exact either rfl (either rfl (either rfl (either rfl (either (secret ..) (either rfl (either rfl (either rfl (either rfl (either rfl (either rfl rfl))))))))))
theorem opWrite_phase (s : State) (seat i sub : Nat) (data : List Byte) (long : Bool) : (opWrite s seat i sub data long).st.phase = s.phase := by
  unfold opWrite
  dsimp only
  split
  · rfl
  · split
    · exact (State.keepsDates.of_calendar (userWrite_calendar ..)).phase
    · exact applyWrite_phase ..
theorem performWrite_phase (s : State) (r : Req) : (performWrite s r).phase = s.phase := by
  unfold performWrite
  split
  · rfl
  · exact (finish_phase ..).trans (opWrite_phase ..)
theorem releaseWrites_phase (s : State) : (releaseWrites s).phase = s.phase := by
  refine Eq.trans (foldl_leaves State.phase (fun u r => ?_) s.mc.heldWrites (s.onMc fun m => { m with heldWrites := [] })) rfl
  dsimp only
  split
  · exact performWrite_phase ..
  · rfl
theorem bindingTick_binds {s : State} (mode : s.aon.mode = some .sowing) (step : s.aon.step = 9) : ∃ t, exec .bindingTick s = .next t ∧ t.aon.mode = some .field ∧ t.aon.step = 0 ∧ t.mc.window = false := by
  generalize is : (s.clearOut.dueTurns.foldl (fun s x => performTurn s x.1 x.2) s.clearOut).onAon (fun a => { a with mode := some .field, step := 0 }) = u
  have runs : exec .bindingTick s = .next (releaseWrites ((allSeats.foldl bindSeat u).onMc fun m => { m with window := false })) := by
    have binds : (decide (s.aon.mode = some .sowing) && decide (s.aon.step = 9)) = true := by
      rw [decide_eq_true mode, decide_eq_true step]
      rfl
    show execBindingTick s = _
    unfold execBindingTick
    rw [if_pos binds]
    dsimp only
    rw [is]
  have bound : (allSeats.foldl bindSeat u).phase = u.phase := foldl_leaves State.phase bindSeat_phase allSeats u
  generalize allSeats.foldl bindSeat u = x at bound runs
  have released := releaseWrites_phase (x.onMc fun m => { m with window := false })
  generalize releaseWrites (x.onMc fun m => { m with window := false }) = t at released runs
  have mode' : u.aon.mode = some .field := by
    rw [← is]
    rfl
  have step' : u.aon.step = 0 := by
    rw [← is]
    rfl
  have xm : x.aon.mode = u.aon.mode := congrArg (·.1) bound
  have xs : x.aon.step = u.aon.step := congrArg (·.2.1) bound
  have tm : t.aon.mode = x.aon.mode := congrArg (·.1) released
  have ts : t.aon.step = x.aon.step := congrArg (·.2.1) released
  have tw : t.mc.window = false := congrArg (·.2.2) released
  exact ⟨t, runs, tm.trans (xm.trans mode'), ts.trans (xs.trans step'), tw⟩

/-! ## The end of Sowing and the training slots (R574, R575) -/

/-- A PLL start concerns the PLLs alone. -/
theorem startPlls_plls (s : State) (k : Nat) (items : List Item) : ∃ f e, startPlls s k items = { s with fab := { s.fab with fplls := f }, eng := { s.eng with eplls := e } } := by
  obtain ⟨g, l, m, plls, is⟩ : ∃ (g : Fabric → Nat → Fabric) (l m : List Nat), (∀ f k, ∃ p, g f k = { f with fplls := p }) ∧ startPlls s k items = (s.onFab fun f => l.foldl g f).onEng fun e => m.foldl (fun e p => if (e.epll (epllOf p)).running then e
      else e.setEpll (epllOf p) { e.epll (epllOf p) with running := true, locked := false }) e := by
    refine ⟨_, _, _, fun f k => ?_, rfl⟩
    unfold Fabric.startFpll
    split
    · split
      · exact ⟨f.fplls, rfl⟩
      · exact ⟨_, rfl⟩
    · exact ⟨f.fplls, rfl⟩
  obtain ⟨f, fab⟩ : ∃ p, l.foldl g s.fab = { s.fab with fplls := p } := by
    refine foldl_related (r := fun f f' : Fabric => ∃ p, f' = { f with fplls := p }) (fun f => ⟨f.fplls, rfl⟩) ?_ plls l s.fab
    rintro f f' f'' ⟨p, rfl⟩ ⟨p', rfl⟩
    exact ⟨p', rfl⟩
  obtain ⟨e, eng⟩ : ∃ p, m.foldl (fun e p => if (e.epll (epllOf p)).running then e else e.setEpll (epllOf p) { e.epll (epllOf p) with running := true, locked := false }) s.eng = { s.eng with eplls := p } := by
    refine foldl_related (r := fun e e' : Engines => ∃ p, e' = { e with eplls := p }) (fun e => ⟨e.eplls, rfl⟩) ?_ (fun e p => ?_) m s.eng
    · rintro e e' e'' ⟨p, rfl⟩ ⟨p', rfl⟩
      exact ⟨p', rfl⟩
    · split
      · exact ⟨e.eplls, rfl⟩
      · exact ⟨_, rfl⟩
  refine ⟨f, e, is.trans ?_⟩
  show ({ s with fab := l.foldl g s.fab, eng := m.foldl _ s.eng } : State) = _
  rw [fab, eng]
theorem startPlls_turns (l : List (Nat × Turn)) (s : State) : ∃ f e, l.foldl (fun s x => startPlls s x.1 x.2.items) s = { s with fab := { s.fab with fplls := f }, eng := { s.eng with eplls := e } } := by
  induction l generalizing s with
  | nil => exact ⟨s.fab.fplls, s.eng.eplls, rfl⟩
  | cons x l ih =>
    obtain ⟨f, e, starts⟩ := startPlls_plls s x.1 x.2.items
    rw [List.foldl_cons, starts]
    obtain ⟨f', e', rest⟩ := ih { s with fab := { s.fab with fplls := f }, eng := { s.eng with eplls := e } }
    exact ⟨f', e', rest⟩
theorem startSlot_none {s : State} {g : Nat} (none : s.nextGroup g = none) : ∃ f e, startSlot s g = { s with aon := { s.aon with step := 9, trainGroup := 0 }, fab := { s.fab with fplls := f }, eng := { s.eng with eplls := e } } := by
  unfold startSlot
  rw [none]
  dsimp only
  generalize (s.onAon fun a => { a with step := 9, trainGroup := 0 }).pendingTurns = l
  obtain ⟨f, e, is⟩ := startPlls_turns l (s.onAon fun a => { a with step := 9, trainGroup := 0 })
  exact ⟨f, e, is.trans rfl⟩
theorem startSlot_some {s : State} {g x : Nat} (some' : s.nextGroup g = some x) : (s.onAon fun a => { a with trainGroup := x }).portsOnly (startSlot s g) := by
  unfold startSlot
  rw [some']
  exact foldl_related (r := State.portsOnly) (fun _ => rfl) State.portsOnly_trans (fun u n => State.portsOnly_trans (t := u.onPort n fun y => { y with released := true }) rfl (applyPower_portsOnly ..)) _ _
/-- A seat whose images are finished is loaded. -/
def State.loading (s : State) (k : Nat) : State := if s.finished k then s.onSeat k fun r => { r with loaded := true } else s
theorem State.loading_finished (s : State) (k j : Nat) : (s.loading k).finished j = s.finished j := by
  unfold State.loading
  split
  · unfold State.finished
    rw [State.onSeat_seat]
    split
    · next here => rw [here]
    · rfl
  · rfl
theorem State.loading_aon (s : State) (k : Nat) : (s.loading k).aon = s.aon := by
  unfold State.loading
  split <;> rfl
theorem loading_loads (s : State) {k : Nat} (done : s.finished k = true) (low : k < 8) : ((allSeats.foldl State.loading s).seat k).loaded = true := by
  have same : (allSeats.foldl State.loading s).finished k = s.finished k := foldl_leaves (fun u : State => u.finished k) (fun u j => u.loading_finished j k) allSeats s
  refine foldl_establishes (P := fun k u => u.finished k = true → (u.seat k).loaded = true) (g := State.loading) (fun u j => ?_) (fun u j i loaded => ?_) (List.mem_range.2 low : k ∈ allSeats) s (same.trans done)
  · rw [State.loading_finished]
    intro finished
    unfold State.loading
    rw [if_pos finished, State.onSeat_self]
  · rw [State.loading_finished]
    intro finished
    unfold State.loading
    split
    · rw [State.onSeat_seat]
      split
      · rfl
      · exact loaded finished
    · exact loaded finished
theorem startSlot_seats (s : State) (g : Nat) : (startSlot s g).seats = s.seats ∧ (startSlot s g).aon.mode = s.aon.mode ∧ ((startSlot s g).aon.step = 9 ∨ (startSlot s g).aon.step = s.aon.step) := by
  cases group : s.nextGroup g with
  | none =>
    obtain ⟨f, e, is⟩ := startSlot_none group
    rw [is]
    exact ⟨rfl, rfl, .inl rfl⟩
  | some x =>
    have is := startSlot_some group
    unfold State.portsOnly at is
    rw [is]
    exact ⟨rfl, rfl, .inr rfl⟩
theorem sowingEnd_ends {s : State} (ready : s.sowingOver = true) : ∃ t, exec .sowingEnd s = .next t ∧ (t.aon.step = 8 ∨ t.aon.step = 9) ∧ t.aon.mode = some .sowing ∧ ∀ k, k < 8 → s.finished k = true → (t.seat k).loaded = true := by
  have runs : exec .sowingEnd s = .next (startSlot ((allSeats.foldl State.loading s).onAon fun a => { a with step := 8 }) 0) := by
    show execSowingEnd s = _
    unfold execSowingEnd
    rw [ready]
    rfl
  have mode : s.aon.mode = some .sowing := by
    unfold State.sowingOver State.step7 at ready
    simp only [Bool.and_eq_true, beq_iff_eq] at ready
    obtain ⟨⟨⟨⟨mode, -⟩, -⟩, -⟩, -⟩ := ready
    exact mode
  have aon : (allSeats.foldl State.loading s).aon = s.aon := foldl_leaves State.aon State.loading_aon allSeats s
  have loaded {k : Nat} (low : k < 8) (done : s.finished k = true) := loading_loads s done low
  generalize allSeats.foldl State.loading s = u at runs aon loaded
  obtain ⟨seats, mode', step⟩ := startSlot_seats (u.onAon fun a => { a with step := 8 }) 0
  refine ⟨_, runs, step.symm, mode'.trans ?_, fun k low done => ?_⟩
  · exact (congrArg Aon.mode aon).trans mode
  · refine Eq.trans ?_ (loaded low done)
    exact congrArg (fun l => (tget {} l k).loaded) seats
theorem trainingSlot_ends {s : State} (mode : s.aon.mode = some .sowing) (step : s.aon.step = 8) : exec .trainingSlotEnd s = .next (startSlot s (s.aon.trainGroup + 1)) := by
  have runs : (decide (s.aon.mode = some .sowing) && decide (s.aon.step = 8)) = true := by
    rw [decide_eq_true mode, decide_eq_true step]
    rfl
  exact if_pos runs
theorem trainingSlot_last {s : State} (mode : s.aon.mode = some .sowing) (step : s.aon.step = 8) (last : s.nextGroup (s.aon.trainGroup + 1) = none) :
    ∃ t, exec .trainingSlotEnd s = .next t ∧ t = { s with aon := { s.aon with step := 9, trainGroup := 0 }, fab := { s.fab with fplls := t.fab.fplls }, eng := { s.eng with eplls := t.eng.eplls } } := by
  obtain ⟨f, e, is⟩ := startSlot_none last
  refine ⟨_, trainingSlot_ends mode step, ?_⟩
  rw [is]
theorem trainingSlot_next {s : State} {g : Nat} (mode : s.aon.mode = some .sowing) (step : s.aon.step = 8) (next : s.nextGroup (s.aon.trainGroup + 1) = some g) : ∃ t, exec .trainingSlotEnd s = .next t ∧ t.aon.trainGroup = g ∧ t.aon.step = 8 := by
  have is := startSlot_some next
  unfold State.portsOnly at is
  refine ⟨_, trainingSlot_ends mode step, ?_, ?_⟩
  · rw [is]
    rfl
  · rw [is]
    exact step
/-- Settles O13: each clause is one of the lemmas above. -/
theorem startUpReachesField : Obligations.StartUpReachesField := by
  unfold Obligations.StartUpReachesField
  intro s
  refine ⟨fun ready => sowingEnd_ends ready, fun step final => if_pos (by rw [step, final]; rfl), fun mode step last => trainingSlot_last mode step last, fun g mode step next => trainingSlot_next mode step next, fun mode step => bindingTick_binds mode step⟩

end Sys2Proof.Machine
end
